-- ==== Sys2Proof/Word.lean ====
section
/-! DEFINITION. The word types of the device (00 R1, R2): bytes, 32-bit words and 64-bit double words. -/

namespace Sys2Proof

/-- One byte of memory (R1). -/
abbrev Byte := BitVec 8
/-- A 32-bit register or instruction word (R23, R42). -/
abbrev W32 := BitVec 32
/-- A 64-bit register, address field or matrix word (R23, R141). -/
abbrev W64 := BitVec 64

end Sys2Proof
end

