-- ==== Sys2Proof/Machine/Float.lean ====
section
/-! DEFINITION. Number formats, the one rounding step, sticky flags, conversions (03 R62-R75, R80, R82). Values are
exact: a sign, a natural mantissa and an integer power of two. -/

namespace Sys2Proof.Machine

/-- The floating-point formats of R63 with an exponent and a mantissa. -/
inductive Fmt where
  | f64 | f32 | bf16 | f16 | e4m3 | e5m2 | e3m2 | e2m3 | e2m1
  deriving DecidableEq, Repr

/-- Exponent bits E (R63). -/
def Fmt.expBits : Fmt → Nat
  | .f64 => 11 | .f32 => 8 | .bf16 => 8 | .f16 => 5 | .e4m3 => 4 | .e5m2 => 5 | .e3m2 => 3 | .e2m3 => 2 | .e2m1 => 2
/-- Mantissa bits M (R63). -/
def Fmt.manBits : Fmt → Nat
  | .f64 => 52 | .f32 => 23 | .bf16 => 7 | .f16 => 10 | .e4m3 => 3 | .e5m2 => 2 | .e3m2 => 2 | .e2m3 => 3 | .e2m1 => 1
/-- Bias (R63). -/
def Fmt.bias : Fmt → Nat
  | .f64 => 1023 | .f32 => 127 | .bf16 => 127 | .f16 => 15 | .e4m3 => 7 | .e5m2 => 15 | .e3m2 => 3 | .e2m3 => 1
  | .e2m1 => 1
/-- The format has infinities: the exponent of all ones is not finite (R63). -/
def Fmt.hasInf : Fmt → Bool
  | .f64 | .f32 | .bf16 | .f16 | .e5m2 => true
  | _ => false
/-- The format has a NaN (R63). -/
def Fmt.hasNan : Fmt → Bool
  | .e3m2 | .e2m3 | .e2m1 => false
  | _ => true
/-- Width of a value in bits. -/
def Fmt.width (f : Fmt) : Nat := 1 + f.expBits + f.manBits
/-- The canonical NaN (R64); formats without a NaN give +0 where one would be needed (R75). -/
def Fmt.canonNan : Fmt → Nat
  | .f64 => 0x7FF8000000000000 | .f32 => 0x7FC00000 | .bf16 => 0x7FC0 | .f16 => 0x7E00 | .e4m3 => 0x7F | .e5m2 => 0x7E
  | _ => 0
/-- The largest finite magnitude as bits without sign (R63). -/
def Fmt.maxBits (f : Fmt) : Nat :=
  match f with
  | .e4m3 => 0x7E
  | _ => if f.hasInf then (2 ^ f.expBits - 1) * 2 ^ f.manBits - 1 else 2 ^ (f.expBits + f.manBits) - 1

/-- A value read from a format: a NaN, an infinity, or an exact number (R62). -/
inductive FVal where
  | nan
  | inf (neg : Bool)
  | fin (neg : Bool) (man : Nat) (exp : Int)
  deriving DecidableEq, Repr

/-- Sticky flags at their fst positions: NV 0, DZ 1, OF 2, UF 3, NX 4, SAT 5 (R27). -/
abbrev Flags := BitVec 6
def Flags.none : Flags := 0#6
def Flags.nv : Flags := 0x01#6
def Flags.dz : Flags := 0x02#6
def Flags.of : Flags := 0x04#6
def Flags.uf : Flags := 0x08#6
def Flags.nx : Flags := 0x10#6
def Flags.sat : Flags := 0x20#6

/-- Rounding modes (R69). -/
inductive RMode where
  | rn | rz | ru | rd
  deriving DecidableEq, Repr

/-- The mode of the two rmd bits (R27). -/
def RMode.ofRmd (n : Nat) : RMode :=
  match n % 4 with
  | 0 => .rn | 1 => .rz | 2 => .ru | _ => .rd

/-- The value that `bits` hold in format `f` (R62, R63). -/
def Fmt.decode (f : Fmt) (bits : Nat) : FVal :=
  let m := bits % 2 ^ f.manBits
  let e := (bits / 2 ^ f.manBits) % 2 ^ f.expBits
  let s := (bits / 2 ^ (f.manBits + f.expBits)) % 2 == 1
  if f.hasInf && e == 2 ^ f.expBits - 1 then (if m == 0 then .inf s else .nan)
  else if f == .e4m3 && e == 15 && m == 7 then .nan
  else if e == 0 then .fin s m (1 - (f.bias : Int) - f.manBits)
  else .fin s (2 ^ f.manBits + m) ((e : Int) - f.bias - f.manBits)

/-- The sign bit of format `f`, as a number. -/
def Fmt.signBit (f : Fmt) (neg : Bool) : Nat := if neg then 2 ^ (f.manBits + f.expBits) else 0

/-- The bits of an infinity; the largest finite value where the format has none (R70). -/
def Fmt.infBits (f : Fmt) (neg : Bool) : Nat :=
  f.signBit neg + (if f.hasInf then (2 ^ f.expBits - 1) * 2 ^ f.manBits else f.maxBits)

/-- The result of an overflow (R70). -/
def Fmt.overflowBits (f : Fmt) (mode : RMode) (neg : Bool) : Nat :=
  let toMax := match mode with
    | .rn => false | .rz => true | .ru => neg | .rd => !neg
  if toMax then f.signBit neg + f.maxBits else f.infBits neg

/-- Whether a magnitude with remainder `rem` out of `2 * half` above the even or odd `low` rounds up (R69). -/
def roundsUp (mode : RMode) (neg : Bool) (low rem half : Nat) : Bool :=
  if rem == 0 then false
  else match mode with
    | .rn => decide (half < rem) || (rem == half && low % 2 == 1)
    | .rz => false
    | .ru => !neg
    | .rd => neg

/-- `man * 2 ^ exp` brought to a multiple of `2 ^ q`, rounded once: the multiple, and whether it is inexact (R69). A shift past
the mantissa is cut short: the rest is below a quarter of the last place all the same. -/
def roundTo (mode : RMode) (neg : Bool) (man : Nat) (exp q : Int) : Nat × Bool :=
  if q ≤ exp then (man * 2 ^ (exp - q).toNat, false)
  else
    let sh := min (q - exp).toNat (Nat.log2 man + 2)
    let low := man / 2 ^ sh
    let rem := man % 2 ^ sh
    let up := roundsUp mode neg low rem (2 ^ (sh - 1))
    (if up then low + 1 else low, rem != 0)

/-- Round(x, f, mode) of a number that is not zero, with its flags (R69, R70, R71). -/
def Fmt.roundNonzero (f : Fmt) (mode : RMode) (neg : Bool) (man : Nat) (exp : Int) : Nat × Flags :=
  let top : Int := (Nat.log2 man : Int) + exp
  let emin : Int := 1 - (f.bias : Int)
  let emax : Int := (2 ^ f.expBits : Nat) - (f.bias : Int)
  if emax < top then (f.overflowBits mode neg, Flags.of ||| Flags.nx)
  else
    let q : Int := max top emin - f.manBits
    let (n, inexact) := roundTo mode neg man exp q
    let tiny := decide (top < emin)
    let fl := (if inexact then Flags.nx else Flags.none) ||| (if inexact && tiny then Flags.uf else Flags.none)
    let bits :=
      if n == 0 then 0
      else if Nat.log2 n < f.manBits then n
      else
        let l := Nat.log2 n
        let e : Int := (l : Int) + q + f.bias
        e.toNat * 2 ^ f.manBits + (n / 2 ^ (l - f.manBits)) % 2 ^ f.manBits
    if f.maxBits < bits then (f.overflowBits mode neg, Flags.of ||| Flags.nx)
    else (f.signBit neg + bits, fl)

/-- Round of any value to format `f`; a NaN gives the canonical NaN, no flag (R10, R64). -/
def Fmt.round (f : Fmt) (mode : RMode) (x : FVal) : Nat × Flags :=
  match x with
  | .nan => (f.canonNan, Flags.none)
  | .inf s => (f.infBits s, Flags.none)
  | .fin s m e => if m == 0 then (f.signBit s, Flags.none) else f.roundNonzero mode s m e

/-- The exact value, its sign changed. -/
def FVal.neg : FVal → FVal
  | .nan => .nan
  | .inf s => .inf (!s)
  | .fin s m e => .fin (!s) m e

def FVal.isNan : FVal → Bool
  | .nan => true
  | _ => false

def FVal.isZero : FVal → Bool
  | .fin _ m _ => m == 0
  | _ => false

def FVal.sign : FVal → Bool
  | .nan => false
  | .inf s => s
  | .fin s _ _ => s

/-- An exact product; 0 × ∞ is a NaN with NV (R72, R79). -/
def FVal.mul (a b : FVal) : FVal × Flags :=
  match a, b with
  | .nan, _ => (.nan, Flags.none)
  | _, .nan => (.nan, Flags.none)
  | .inf s, .inf t => (.inf (s != t), Flags.none)
  | .inf s, .fin t m _ => if m == 0 then (.nan, Flags.nv) else (.inf (s != t), Flags.none)
  | .fin t m _, .inf s => if m == 0 then (.nan, Flags.nv) else (.inf (s != t), Flags.none)
  | .fin s m e, .fin t n d => (.fin (s != t) (m * n) (e + d), Flags.none)

/-- The signed integer `x` times `2 ^ e` as a value; zero takes the sign `z`. -/
def FVal.ofInt (x : Int) (e : Int) (z : Bool) : FVal :=
  if x == 0 then .fin z 0 0 else .fin (decide (x < 0)) x.natAbs e

/-- A mantissa with its sign. -/
def signedMan (s : Bool) (m : Nat) : Int := if s then -(m : Int) else m

/-- The mantissa of `m * 2 ^ e` counted in units of `2 ^ q`, for `q ≤ e`. -/
def alignTo (m : Int) (e q : Int) : Int := m * (2 ^ (e - q).toNat : Nat)

/-- An exact sum; ∞ − ∞ is a NaN with NV; an exact zero of opposite signs is +0, and −0 under rounding down (R65, R72). -/
def FVal.add (mode : RMode) (a b : FVal) : FVal × Flags :=
  match a, b with
  | .nan, _ => (.nan, Flags.none)
  | _, .nan => (.nan, Flags.none)
  | .inf s, .inf t => if s == t then (.inf s, Flags.none) else (.nan, Flags.nv)
  | .inf s, .fin _ _ _ => (.inf s, Flags.none)
  | .fin _ _ _, .inf s => (.inf s, Flags.none)
  | .fin s m e, .fin t n d =>
    if m == 0 && n == 0 then (.fin (if s == t then s else mode == .rd) 0 0, Flags.none)
    else if m == 0 then (.fin t n d, Flags.none)
    else if n == 0 then (.fin s m e, Flags.none)
    else
      let q := min e d
      (FVal.ofInt (alignTo (signedMan s m) e q + alignTo (signedMan t n) d q) q (mode == .rd), Flags.none)

/-- Order of two numbers or infinities, −0 equal to +0; nothing where either is a NaN (R91). -/
def FVal.cmp (a b : FVal) : Option Ordering :=
  match a, b with
  | .nan, _ => none
  | _, .nan => none
  | .inf s, .inf t => some (if s == t then .eq else if s then .lt else .gt)
  | .inf s, .fin _ _ _ => some (if s then .lt else .gt)
  | .fin _ _ _, .inf s => some (if s then .gt else .lt)
  | .fin s m e, .fin t n d =>
    let q := min e d
    some (compare (alignTo (signedMan s m) e q) (alignTo (signedMan t n) d q))

/-- `a` is below `b` when −0 is below +0 (R98, R81). -/
def FVal.below (a b : FVal) : Bool :=
  match FVal.cmp a b with
  | some .lt => true
  | some .eq => a.isZero && b.isZero && a.sign && !b.sign
  | _ => false

/-- FMIN (`small`) or FMAX with sub 0 on bits: a NaN loses to a number (R98). -/
def Fmt.minMaxNumber (f : Fmt) (small : Bool) (a b : Nat) : Nat :=
  let x := f.decode a
  let y := f.decode b
  if x.isNan then (if y.isNan then f.canonNan else b)
  else if y.isNan then a
  else if small then (if FVal.below y x then b else a)
  else (if FVal.below x y then b else a)

/-- FMIN or FMAX with sub 1: any NaN gives the canonical NaN (R98). -/
def Fmt.minMaxNan (f : Fmt) (small : Bool) (a b : Nat) : Nat :=
  if (f.decode a).isNan || (f.decode b).isNan then f.canonNan else f.minMaxNumber small a b

/-- Combines a computation of an exact value with its one rounding. -/
def Fmt.finish (f : Fmt) (mode : RMode) (x : FVal × Flags) : Nat × Flags :=
  let r := f.round mode x.1
  (r.1, x.2 ||| r.2)

/-- Round(a + b) (R98). -/
def Fmt.addBits (f : Fmt) (mode : RMode) (a b : Nat) : Nat × Flags :=
  f.finish mode (FVal.add mode (f.decode a) (f.decode b))
/-- Round(a − b) (R98). -/
def Fmt.subBits (f : Fmt) (mode : RMode) (a b : Nat) : Nat × Flags :=
  f.finish mode (FVal.add mode (f.decode a) (f.decode b).neg)
/-- Round(a × b) (R98). -/
def Fmt.mulBits (f : Fmt) (mode : RMode) (a b : Nat) : Nat × Flags :=
  f.finish mode (FVal.mul (f.decode a) (f.decode b))

/-- The exact value a × b + c; any NaN operand comes first and sets no flag (R98). -/
def FVal.mulAdd (mode : RMode) (a b c : FVal) : FVal × Flags :=
  if a.isNan || b.isNan || c.isNan then (.nan, Flags.none)
  else
    let p := FVal.mul a b
    let s := FVal.add mode p.1 c
    (s.1, p.2 ||| s.2)

/-- Round(a × b + c), rounded once (R98). -/
def Fmt.fmaBits (f : Fmt) (mode : RMode) (a b c : Nat) : Nat × Flags :=
  f.finish mode (FVal.mulAdd mode (f.decode a) (f.decode b) (f.decode c))

/-- A quotient of positive numbers with enough bits for one correct rounding, an inexact rest held in a last odd bit. -/
def divJam (a b : Nat) (k : Nat) : Nat :=
  let n := a * 2 ^ k
  2 * (n / b) + (if n % b == 0 then 0 else 1)

/-- FDIV (R112). -/
def Fmt.divBits (f : Fmt) (mode : RMode) (a b : Nat) : Nat × Flags :=
  match f.decode a, f.decode b with
  | .nan, _ => (f.canonNan, Flags.none)
  | _, .nan => (f.canonNan, Flags.none)
  | .inf _, .inf _ => (f.canonNan, Flags.nv)
  | .inf s, .fin t _ _ => (f.infBits (s != t), Flags.none)
  | .fin s _ _, .inf t => (f.signBit (s != t), Flags.none)
  | .fin s m e, .fin t n d =>
    if n == 0 then (if m == 0 then (f.canonNan, Flags.nv) else (f.infBits (s != t), Flags.dz))
    else if m == 0 then (f.signBit (s != t), Flags.none)
    else
      let k := f.manBits + 4 + Nat.log2 n
      f.roundNonzero mode (s != t) (divJam m n k) (e - d - k - 1)

/-- Bit-by-bit integer square root: the greatest r below 2 ^ fuel beyond `r` with r² ≤ n. -/
def sqrtFrom (n : Nat) (fuel r : Nat) : Nat :=
  match fuel with
  | 0 => r
  | k + 1 =>
    let t := r + 2 ^ k
    sqrtFrom n k (if t * t ≤ n then t else r)

/-- Integer square root. -/
def isqrt (n : Nat) : Nat := sqrtFrom n (Nat.log2 n / 2 + 1) 0

/-- FSQRT (R112). -/
def Fmt.sqrtBits (f : Fmt) (mode : RMode) (a : Nat) : Nat × Flags :=
  match f.decode a with
  | .nan => (f.canonNan, Flags.none)
  | .inf s => if s then (f.canonNan, Flags.nv) else (f.infBits false, Flags.none)
  | .fin s m e =>
    if m == 0 then (f.signBit s, Flags.none)
    else if s then (f.canonNan, Flags.nv)
    else
      let k := 2 * (f.manBits + 4) + (if e % 2 == 0 then 0 else 1)
      let n := m * 2 ^ k
      let r := isqrt n
      f.roundNonzero mode false (2 * r + (if r * r == n then 0 else 1)) ((e - k) / 2 - 1)

/-- FRSQRT: 1/√(m·2^e) = ⌊√(2^(2k)/m')⌋ in units of 2^−k, an inexact rest in a last odd bit (R112). -/
def Fmt.rsqrtBits (f : Fmt) (mode : RMode) (a : Nat) : Nat × Flags :=
  match f.decode a with
  | .nan => (f.canonNan, Flags.none)
  | .inf s => if s then (f.canonNan, Flags.nv) else (0, Flags.none)
  | .fin s m e =>
    if m == 0 then (f.infBits s, Flags.dz)
    else if s then (f.canonNan, Flags.nv)
    else
      let odd : Nat := if e % 2 == 0 then 0 else 1
      let m' := m * 2 ^ odd
      let e' : Int := e - odd
      let k := f.manBits + 4 + Nat.log2 m'
      let n := 2 ^ (2 * k)
      let r := isqrt (n / m')
      f.roundNonzero mode false (2 * r + (if r * r * m' == n then 0 else 1)) (-(k : Int) - 1 - e' / 2)

/-- An exact value rounded to an integer, and whether it is inexact (R69, R75). -/
def roundToInteger (mode : RMode) (neg : Bool) (man : Nat) (exp : Int) : Int × Bool :=
  let r := roundTo mode neg man exp 0
  (signedMan neg r.1, r.2)

/-- FRND: the integer under the mode, in the same format (R98). -/
def Fmt.rndBits (f : Fmt) (mode : RMode) (reportNx : Bool) (a : Nat) : Nat × Flags :=
  match f.decode a with
  | .nan => (f.canonNan, Flags.none)
  | .inf s => (f.infBits s, Flags.none)
  | .fin s m e =>
    if m == 0 then (f.signBit s, Flags.none)
    else
      let r := roundTo mode s m e 0
      ((if r.1 == 0 then f.signBit s else (f.roundNonzero .rz s r.1 0).1),
        if reportNx && r.2 then Flags.nx else Flags.none)

/-- FLDEXP: Round(a × 2^B) (R98). -/
def Fmt.ldexpBits (f : Fmt) (mode : RMode) (a : Nat) (b : Int) : Nat × Flags :=
  match f.decode a with
  | .fin s m e => f.round mode (.fin s m (e + b))
  | x => f.round mode x

/-- FCLASS: one-hot class (R98). -/
def Fmt.classBits (f : Fmt) (a : Nat) : Nat :=
  match f.decode a with
  | .nan => 2 ^ 8
  | .inf s => if s then 2 ^ 0 else 2 ^ 7
  | .fin s m _ =>
    if m == 0 then (if s then 2 ^ 3 else 2 ^ 4)
    else if m < 2 ^ f.manBits then (if s then 2 ^ 2 else 2 ^ 5)
    else (if s then 2 ^ 1 else 2 ^ 6)

/-- FSAT: +0 for a NaN, else min(max(a, +0), 1.0) (R99). -/
def Fmt.satBits (f : Fmt) (a : Nat) : Nat :=
  let one := f.bias * 2 ^ f.manBits
  match FVal.cmp (f.decode a) (.fin false 1 0), FVal.cmp (f.decode a) (.fin false 0 0) with
  | none, _ => 0
  | _, some .lt => 0
  | _, some .eq => 0
  | some .gt, _ => one
  | some _, _ => a

/-- Float to a narrower float (R75). -/
def Fmt.convert (f : Fmt) (mode : RMode) (x : FVal) : Nat × Flags :=
  match x with
  | .nan => if f.hasNan then (f.canonNan, Flags.none) else (0, Flags.nv)
  | .inf s => (f.infBits s, if f.hasInf then Flags.none else Flags.nv)
  | .fin _ _ _ => f.round mode x

/-- Value of an E8M0 code (R66). -/
def e8m0Value (code : Nat) : FVal := if code % 256 == 255 then .nan else .fin false 1 ((code % 256 : Nat) - 127)

/-- The power of two that a magnitude rounds to, as its exponent: ties at 1.5 × 2^e go to the even code (R75). -/
def e8m0Exponent (mode : RMode) (man : Nat) (exp : Int) : Int × Bool :=
  let l := Nat.log2 man
  let e : Int := (l : Int) + exp
  if man == 2 ^ l then (e, false)
  else
    let up := match mode with
      | .rn => decide (3 * 2 ^ l < 2 * man) || (2 * man == 3 * 2 ^ l && (e + 127) % 2 == 1)
      | .ru => true
      | _ => false
    (if up then e + 1 else e, true)

/-- Float to E8M0: the sign is ignored (R75). -/
def toE8m0 (mode : RMode) (x : FVal) : Nat × Flags :=
  match x with
  | .nan => (0xFF, Flags.none)
  | .inf _ => (0xFE, Flags.of ||| Flags.nx)
  | .fin _ m e =>
    if m == 0 then (0, Flags.none)
    else if (Nat.log2 m : Int) + e < -127 then (0, Flags.uf ||| Flags.nx)
    else
      let r := e8m0Exponent mode m e
      if 127 < r.1 then (0xFE, Flags.of ||| Flags.nx)
      else ((r.1 + 127).toNat, if r.2 then Flags.nx else Flags.none)

/-- `x` clamped to the integers of width `w`, signed or not (R10). -/
def clampInt (signed : Bool) (w : Nat) (x : Int) : Int :=
  let lo : Int := if signed then -(2 ^ (w - 1) : Nat) else 0
  let hi : Int := if signed then (2 ^ (w - 1) : Nat) - 1 else (2 ^ w : Nat) - 1
  if x < lo then lo else if hi < x then hi else x

/-- An integer modulo 2^w, as bits. -/
def intToBits (w : Nat) (x : Int) : Nat := (x % (2 ^ w : Nat)).toNat

/-- Bits of width `w` read as an integer. -/
def bitsToInt (signed : Bool) (w : Nat) (n : Nat) : Int :=
  let m := n % 2 ^ w
  if signed && decide (2 ^ (w - 1) ≤ m) then (m : Int) - (2 ^ w : Nat) else m

/-- Float to integer (R75). An infinite value is out of every range. -/
def floatToInt (signed : Bool) (w : Nat) (mode : RMode) (x : FVal) : Int × Flags :=
  match x with
  | .nan => (0, Flags.nv)
  | .inf s => (clampInt signed w (if s then -(2 ^ 70 : Nat) else (2 ^ 70 : Nat)), Flags.nv)
  | .fin s m e =>
    let r := if 70 < (Nat.log2 m : Int) + e then (signedMan s (2 ^ 70), false) else roundToInteger mode s m e
    let y := clampInt signed w r.1
    if y != r.1 then (y, Flags.nv) else (y, if r.2 then Flags.nx else Flags.none)

/-- Sat(x, type) with SAT when it clamps (R10, R72). -/
def satInt (signed : Bool) (w : Nat) (x : Int) : Int × Flags :=
  let y := clampInt signed w x
  (y, if y != x then Flags.sat else Flags.none)

/-- Exact value of an integer. -/
def FVal.ofInteger (x : Int) : FVal := FVal.ofInt x 0 false

/-! ### Multi-term sums (R76-R79) -/

/-- Exact sum of the finite terms, in units of the least exponent. -/
def finiteSum (ts : List FVal) : Int × Int :=
  ts.foldl (fun acc t =>
    match t with
    | .fin s m e =>
      if m == 0 then acc
      else if acc.1 == 0 then (signedMan s m, e)
      else
        let q := min acc.2 e
        (alignTo acc.1 acc.2 q + alignTo (signedMan s m) e q, q)
    | _ => acc) (0, 0)

/-- The exact value of one chunk of terms and the NV it raises; `nv` is set when a product was 0 × ∞ (R79). -/
def chunkValue (ts : List (FVal × Flags)) : FVal × Flags :=
  let vs := ts.map Prod.fst
  let nvTerm := ts.foldl (fun f t => f ||| t.2) Flags.none
  let pos := vs.any (fun v => v == .inf false)
  let neg := vs.any (fun v => v == .inf true)
  let clash := if pos && neg then Flags.nv else Flags.none
  if vs.any FVal.isNan then (.nan, nvTerm ||| clash)
  else if pos && neg then (.nan, nvTerm ||| clash)
  else if pos then (.inf false, nvTerm)
  else if neg then (.inf true, nvTerm)
  else
    let s := finiteSum vs
    let allNegZero := !vs.isEmpty && vs.all (fun v => v.isZero && v.sign)
    (FVal.ofInt s.1 s.2 allNegZero, nvTerm)

/-- One round of the loop of R76: the chunk rounded, then added and rounded, both to nearest-even. -/
def sumStep (f : Fmt) (acc : FVal × Flags) (ts : List (FVal × Flags)) : FVal × Flags :=
  let c := chunkValue ts
  let s := f.round .rn c.1
  let a := FVal.add .rn acc.1 (f.decode s.1)
  let r := f.round .rn a.1
  (f.decode r.1, acc.2 ||| c.2 ||| s.2 ||| a.2 ||| r.2)

/-- The multi-term sum of R76 over chunks in ascending order, from `c` in the accumulator's format. -/
def sumChunks (f : Fmt) (c : Nat) (chunks : List (List (FVal × Flags))) : Nat × Flags :=
  let r := chunks.foldl (sumStep f) (f.decode c, Flags.none)
  ((f.round .rn r.1).1, r.2)

/-- The integer multi-term sum of R78: saturating once per chunk, in chunk order. -/
def intSumChunks (c : Int) (chunks : List Int) : Int × Flags :=
  chunks.foldl (fun acc ch =>
    let r := satInt true 32 (acc.1 + ch)
    (r.1, acc.2 ||| r.2)) (c, Flags.none)

/-- Cuts a list into runs of 32 (R76), `fuel` being at least the number of runs. -/
def chunks32 {α : Type} (fuel : Nat) (l : List α) : List (List α) :=
  match fuel with
  | 0 => []
  | k + 1 => if l.isEmpty then [] else l.take 32 :: chunks32 k (l.drop 32)

end Sys2Proof.Machine
end

