-- ==== Sys2Proof/Config.lean ====
section
/-! DEFINITION. Values and choices the manual leaves open: opaque constants without a body, so that no proof can
lean on one of them. Each is named in the assumption log. -/

namespace Sys2Proof.Config

/-- FTRANS: for function `fn` and the input bits, whether the result is the enclosing f32 value farther from zero
(R113: faithfully rounded, a fixed function of the input bits). Log 7. -/
opaque ftransAway : Nat → BitVec 32 → Bool
/-- Which of the agents that can move next moves at step number `tick`, when the agenda names none. Log 2. -/
opaque choice : Nat → Nat
/-- Nanoseconds that pass at step number `tick`. Log 3. -/
opaque elapsed : Nat → Nat
/-- The adaptive path taken among equally loaded ones (R283). Log 14. -/
opaque pathTie : Nat → Nat
/-- The scale-up port by which packets for a package leave on an adaptive path (R279: switches route by both). Log 17. -/
opaque route : Nat → Nat → Nat
/-- The headroom of a virtual channel, in flits (R278: one round trip plus 8). Log 17. -/
opaque headroom : Nat → Nat
/-- The CRC-32 of a flit with its trailer, from its bytes, sequence number, channel, stop and go bits: the polynomial is not given (R277). Log 17. -/
opaque linkCrc : BitVec 512 → BitVec 12 → Nat → BitVec 5 → BitVec 5 → BitVec 32
/-- The byte that a collective reads at an address of a poisoned source sector at step number `tick` (R298 gives no outcome). Log 117. -/
opaque poisonByte : Nat → Nat → BitVec 8
/-- Whether the ECDSA signature, and whether the HSS signature, over a message verifies against the root key of an index (R419, R420: the root
keys stand in ROM, their values are not given). Log 15. -/
opaque ecdsaVerifies : Nat → List Byte → List Byte → Bool
opaque hssVerifies : Nat → List Byte → List Byte → Bool
/-- SHA-384 of the ROM, and of valid partition descriptors with pmsplit: contents or encoding not given (R422). Log 15. -/
opaque romDigest : Nat
opaque descriptorDigest : List (Nat × List Nat) → Nat → Nat
/-- The DER bytes of the root certificate, of the device identity certificate, and of the alias certificate of an alias key, given as the number of
the start, an image digest and an SVN (R421: X.509 v3 with their ECDSA signatures; the keys and the encoding are not given). Log 15. -/
opaque rootCert : List (BitVec 8)
opaque deviceCert : List (BitVec 8)
opaque aliasCert : Nat → List (BitVec 8) → Nat → List (BitVec 8)
/-- A key's HSS public key, its ECDSA signature over a message, and its HSS signature of a leaf over a message; keys 0 root, 1 identity, 2 + start
alias (R419, R421). Log 15. -/
opaque hssPublic : Nat → Nat
opaque ecdsaSign : Nat → Nat → Nat
opaque hssSign : Nat → Nat → Nat → Nat
/-- The message hash of a signed response, from its number, nonce and measurements: SPDM's transcript (R422). Log 15. -/
opaque messageHash : Nat → Nat → List Nat → Nat
/-- Thrumevo's vendor ID (R422), and the identification code of the test port (R461): not given. Log 15. -/
opaque vendorId : Nat
opaque idcode : Nat
/-- Spare rows of a DRAM bank of a pseudo-channel of a stack (R450). Log 19. -/
opaque spareRows : Nat → Nat → Nat → Nat
/-- The result of a value the manual leaves open at step number `tick`. Log 16. -/
opaque freeWord : Nat → BitVec 64

/-- The stack whose controller translates a page that NLAUNCH, NOPEN or SEARCH names, by page, before reduction to 0 to 11 (R393, R397; log 130). -/
opaque pageStack : Nat → Nat

end Sys2Proof.Config
end

