-- ==== Sys2Proof/Machine/Map.lean ====
section
/-! DEFINITION. Sparse tables: lists of (key, value) pairs in one canonical form, keys strictly rising and no
entry equal to what an unlisted key reads as. Memory is such a table of bytes (Host.Cell). -/

namespace Sys2Proof.Machine

/-- A sparse table from natural-number keys. -/
abbrev Table (α : Type) := List (Nat × α)

/-- The entry of a key, if listed. -/
def Table.find {α : Type} (m : Table α) (k : Nat) : Option α :=
  match m with
  | [] => none
  | (j, v) :: rest => if j = k then some v else if k < j then none else Table.find rest k

/-- What key `k` reads as, `d` where it is not listed. -/
def Table.get {α : Type} (d : α) (m : Table α) (k : Nat) : α := (Table.find m k).getD d

/-- Lists `v` at `k`, keeping the keys rising. -/
def Table.put {α : Type} (m : Table α) (k : Nat) (v : α) : Table α :=
  match m with
  | [] => [(k, v)]
  | (j, w) :: rest =>
    if j = k then (k, v) :: rest
    else if k < j then (k, v) :: (j, w) :: rest
    else (j, w) :: Table.put rest k v

/-- Takes the entry of `k` out. -/
def Table.erase {α : Type} (m : Table α) (k : Nat) : Table α :=
  match m with
  | [] => []
  | (j, w) :: rest =>
    if j = k then rest
    else if k < j then (j, w) :: rest
    else (j, w) :: Table.erase rest k

/-- Writes `v` at `k` in a table whose unlisted keys read as `d`. -/
def Table.set {α : Type} [DecidableEq α] (d : α) (m : Table α) (k : Nat) (v : α) : Table α :=
  if v = d then Table.erase m k else Table.put m k v

/-- Every key of the list exceeds `lo`, and the keys rise strictly. -/
def Table.risingFrom {α : Type} (lo : Nat) (m : Table α) : Bool :=
  match m with
  | [] => true
  | (j, _) :: rest => decide (lo ≤ j) && Table.risingFrom (j + 1) rest

/-- The canonical form: keys strictly rising, no entry equal to the default `d`. -/
def Table.wf {α : Type} [DecidableEq α] (d : α) (m : Table α) : Bool :=
  Table.risingFrom 0 m && m.all (fun c => decide (c.2 ≠ d))

/-- Replaces the entry of `k`, if there is one, by its image under `f`. -/
def Table.modify {α : Type} (m : Table α) (k : Nat) (f : α → α) : Table α :=
  match Table.find m k with
  | some v => Table.put m k (f v)
  | none => m

/-- Memory: bytes by address. A byte never written reads as zero: the spec's own value for shared memory,
scratchpads, tiles and windows (R203, R159), and DESIGN CHOICE for DRAM and host memory at power-on (log 1). -/
abbrev Memory := List Host.Cell

/-- What a byte that nothing has written reads as (log 1). -/
def Memory.unwritten : Byte := 0#8

/-- The canonical form of a memory. -/
def Memory.wf (m : Memory) : Bool := Table.wf Memory.unwritten m

/-- Reads one byte. -/
def Memory.byte (m : Memory) (a : Nat) : Byte := Table.get Memory.unwritten m a

/-- Writes one byte. -/
def Memory.setByte (m : Memory) (a : Nat) (b : Byte) : Memory := Table.set Memory.unwritten m a b

/-- The `n` bytes from address `a` as a little-endian number (R1). -/
def Memory.readNat (m : Memory) (a : Nat) (n : Nat) : Nat :=
  match n with
  | 0 => 0
  | k + 1 => (Memory.byte m a).toNat + 256 * Memory.readNat m (a + 1) k

/-- Writes the low `n` bytes of `x` at address `a`, least significant first (R1). -/
def Memory.writeNat (m : Memory) (a : Nat) (n : Nat) (x : Nat) : Memory :=
  match n with
  | 0 => m
  | k + 1 => Memory.writeNat (Memory.setByte m a (BitVec.ofNat 8 x)) (a + 1) k (x / 256)

/-- The bytes from `a` on, as a list. -/
def Memory.readList (m : Memory) (a : Nat) (n : Nat) : List Byte :=
  match n with
  | 0 => []
  | k + 1 => Memory.byte m a :: Memory.readList m (a + 1) k

/-- Writes a list of bytes from `a` on. -/
def Memory.writeList (m : Memory) (a : Nat) (bs : List Byte) : Memory :=
  match bs with
  | [] => m
  | b :: rest => Memory.writeList (Memory.setByte m a b) (a + 1) rest

/-- The number a little-endian list of bytes stands for (R1). -/
def bytesToNat (bs : List Byte) : Nat :=
  match bs with
  | [] => 0
  | b :: rest => b.toNat + 256 * bytesToNat rest

/-- The `n` low bytes of a number, least significant first (R1). -/
def natToBytes (n : Nat) (x : Nat) : List Byte :=
  match n with
  | 0 => []
  | k + 1 => BitVec.ofNat 8 x :: natToBytes k (x / 256)

end Sys2Proof.Machine
end

