-- ==== Sys2Proof/Machine/Heap.lean ====
section
/-! DEFINITION. Top-k heaps: entries of 16 bytes in key order, offers and merges (03 R82; 06 R167, R168). -/

namespace Sys2Proof.Machine

/-- A heap entry: FP32 distance, tag and identifier (R167). -/
structure Entry where
  dist : BitVec 32
  tag : BitVec 32
  id : BitVec 64
  deriving DecidableEq, Repr

/-- The 128 bits of an entry (R167). -/
def Entry.bits (e : Entry) : Nat := e.dist.toNat + 2 ^ 32 * e.tag.toNat + 2 ^ 64 * e.id.toNat
/-- The entry that 128 bits hold. -/
def Entry.ofBits (x : Nat) : Entry :=
  { dist := BitVec.ofNat 32 x, tag := BitVec.ofNat 32 (x / 2 ^ 32), id := BitVec.ofNat 64 (x / 2 ^ 64) }

def Entry.isNan (e : Entry) : Bool := (Fmt.decode .f32 e.dist.toNat).isNan

/-- The order of two keys: distance, with the zeros equal, then identifier (R82). -/
def Entry.cmp (a b : Entry) : Ordering :=
  match FVal.cmp (Fmt.decode .f32 a.dist.toNat) (Fmt.decode .f32 b.dist.toNat) with
  | some .eq => compare a.id.toNat b.id.toNat
  | some o => o
  | none => .eq

/-- Puts an entry into a list in ascending key order; an equal key already held stays (R82). -/
def insertEntry (l : List Entry) (e : Entry) : List Entry :=
  match l with
  | [] => [e]
  | a :: rest =>
    match Entry.cmp e a with
    | .lt => e :: a :: rest
    | .eq => a :: rest
    | .gt => a :: insertEntry rest e

/-- Offers an entry to the `k` smallest keys held (R82, R168). A NaN distance never enters. -/
def offerEntry (k : Nat) (l : List Entry) (e : Entry) : List Entry := if e.isNan then l else (insertEntry l e).take k

/-- The entries that bytes hold, 16 bytes each. -/
def entriesOf (fuel : Nat) (bs : List Byte) : List Entry :=
  match fuel with
  | 0 => []
  | n + 1 => if bs.length < 16 then [] else Entry.ofBits (bytesToNat (bs.take 16)) :: entriesOf n (bs.drop 16)

end Sys2Proof.Machine
end

