-- ==== Sys2Proof/Syntax.lean ====
section
/-! DEFINITION. The syntax of the machine: the forms of the three instruction sets and ONE constructor for each of the
319 rows of the opcode table. Register operands of Epael keep their 7-bit codes (R46): a code below 96 names v0 to v95,
the others s0 to s31, and an indexed field holds an offset (R49). -/

namespace Sys2Proof.Machine

/-! ### What arrives from outside (10, 15) -/

/-- A flit as a port receives or sends it, with its trailer: sequence number, channel, stop and go bits by channel, CRC-32 over flit and trailer, and
the 64 bytes (R277, R278). -/
structure Flit where
  seq : BitVec 12
  vc : Nat
  stop : BitVec 5
  go : BitVec 5
  data : BitVec 512
  crc : BitVec 32
  deriving DecidableEq, Repr

/-- A packet: its header and the bytes after it (R279). -/
structure Packet where
  hdr : BitVec 128
  body : List Byte
  deriving DecidableEq, Repr

/-- A partition descriptor (R404): ranges as (base or first, length or count). -/
structure Partition where
  valid : Bool := false
  clusters : BitVec 32 := 0#32
  stackSet : BitVec 12 := 0#12
  memory : List (Nat × Nat) := []
  save : Nat × Nat := (0, 0)
  scratch0 : Nat × Nat := (0, 0)
  scratch1 : Nat × Nat := (0, 0)
  slots : Nat × Nat := (0, 0)
  contexts : Nat × Nat := (0, 0)
  windows : Nat × Nat := (0, 0)
  entries0 : Nat × Nat := (0, 0)
  entries1 : Nat × Nat := (0, 0)
  ways : BitVec 16 := 0#16
  deriving DecidableEq, Repr

end Sys2Proof.Machine

namespace Sys2Proof

/-! ### Forms of Epael words (02 R42 to R46) -/

/-- The extension word (R45). -/
structure Ext where
  c : BitVec 7 := 0#7
  ec : Bool := false
  ty : BitVec 4 := 0#4
  rnd : BitVec 4 := 0#4
  gn : Bool := false
  guard : BitVec 3 := 0#3
  xs : BitVec 2 := 0#2
  xo : BitVec 2 := 0#2
  sub : BitVec 8 := 0#8
  deriving DecidableEq, Repr

/-- The R form without its opcode (R42). -/
structure RForm where
  d : BitVec 7 := 0#7
  a : BitVec 7 := 0#7
  b : BitVec 7 := 0#7
  ea : Bool := false
  eb : Bool := false
  ext : Option Ext := none
  deriving DecidableEq, Repr

/-- The I form without its opcode (R43). -/
structure IForm where
  d : BitVec 7 := 0#7
  imm : BitVec 16 := 0#16
  ext : Option Ext := none
  deriving DecidableEq, Repr

/-- The B form without its opcode (R44). -/
structure BForm where
  guard : BitVec 3 := 0#3
  gn : Bool := false
  off : BitVec 20 := 0#20
  deriving DecidableEq, Repr

/-! ### Forms of matrix words (05 R141 to R157) -/

/-- The fields of MMA (R153); `sc` scaled, `z` with C = 0. -/
structure MmaForm where
  t : BitVec 2
  fa : BitVec 4
  fb : BitVec 4
  qa : BitVec 5
  qb : BitVec 5
  qs : BitVec 5
  sc : Bool
  z : Bool
  k : BitVec 13
  deriving DecidableEq, Repr

/-- The fields of MSTT (R157). -/
structure MsttForm where
  t : BitVec 2
  fmt : BitVec 4
  qa : BitVec 5
  rnd : BitVec 3
  bo : Bool
  qbo : BitVec 5
  deriving DecidableEq, Repr

/-! ### Forms of burrow words (06 R169) -/

/-- Form R. -/
structure BrForm where
  d : BitVec 4 := 0#4
  a : BitVec 4 := 0#4
  b : BitVec 4 := 0#4
  c : BitVec 4 := 0#4
  sub : BitVec 8 := 0#8
  deriving DecidableEq, Repr

/-- Form I. -/
structure BiForm where
  d : BitVec 4 := 0#4
  a : BitVec 4 := 0#4
  sub : BitVec 4 := 0#4
  imm : BitVec 14 := 0#14
  deriving DecidableEq, Repr

/-- Form S. -/
structure BsForm where
  d : BitVec 4
  hw : BitVec 2
  keep : Bool
  imm : BitVec 16
  deriving DecidableEq, Repr

/-- Form M. -/
structure BmForm where
  d : BitVec 4
  a : BitVec 4
  size : BitVec 2
  imm : BitVec 16
  deriving DecidableEq, Repr

/-- Form J. -/
structure BjForm where
  a : BitVec 4
  b : BitVec 4
  cond : BitVec 3
  off : BitVec 15
  deriving DecidableEq, Repr

/-- Form H. -/
structure BhForm where
  h : BitVec 2
  h2 : BitVec 2 := 0#2
  a : BitVec 4 := 0#4
  b : BitVec 4 := 0#4
  c : BitVec 4 := 0#4
  sub : BitVec 8 := 0#8
  deriving DecidableEq, Repr

/-- A clause header (R33). -/
structure Header where
  count : BitVec 4
  cls : BitVec 4
  ws : Bool
  wl : Bool
  tag : BitVec 6
  tv : Bool
  nb : BitVec 4
  bv : Bool
  yield : BitVec 2
  deriving DecidableEq, Repr

/-- Who writes a register (R5, R416): the host, a command core, the management endpoint, the package power controller, or any other
master by its kind and index (R417). -/
inductive Master where
  | host
  | commandCore (n : Nat)
  | management
  | power
  | other (kind index : Nat)
  deriving DecidableEq, Repr

/-- A register without an event of its own: an offset of BAR0 (R333, R403, R408, R458), pmsplit (R385), l2wm and l2cq of a die and
partition (R216), mslen and an entry of the matrix slot table (R138), actreg of a stack (R454), corecap of a core (R349), chwid of a stack
(R453), pwrst (R455), an entry of the context table or of a remap table (R406, R411), the low or high half of an inbound window (R281), the
master of the time domain that management names (R301), whether the host completes AtomicOps (R388), a word of an entry of the scale-out map
(R303). -/
inductive Reg where
  | bar0 (off : Nat)
  | pmsplit
  | l2wm (die p : Nat)
  | l2cq (die p : Nat)
  | mslen (die : Nat)
  | slot (die n : Nat)
  | actreg (stack : Nat)
  | corecap (core : Nat)
  | chwid (stack : Nat)
  | pwrst
  | contextEntry (ctx word : Nat)
  | remapEntry (ctx vcore : Nat)
  | inbound (n half : Nat)
  | timeMaster
  | atomicOps
  | farEntry (n word : Nat)
  deriving DecidableEq, Repr

/-- Where an error stands (R445, R450): a DRAM sector and an L2 line by physical address, a main-file entry of a thread (or of the group's s
file), a fast buffer, shared memory of a block, a scratch window, a row and sector of an accumulator tile, a burrow SRAM sector of a
context's window, an instruction cache, control store, near or translation cache line, a channel lane, a fabric lane, a track. -/
inductive Site where
  | row (pa : Nat)
  | line (pa : Nat)
  | register (b g : Nat) (t : Option Nat) (r : Nat)
  | fast (core : Nat)
  | shared (b off : Nat)
  | scratch (ctx die off : Nat)
  | tile (b t row sector : Nat)
  | sram (key off : Nat)
  | cache (core : Nat)
  | channel (stack ch : Nat)
  | lane (port : Nat)
  | track (core : Nat)
  | slots (core : Nat)
  deriving DecidableEq, Repr

/-- What a host access of BAR2 asks: a read, a write, or an AtomicOp (R403). -/
inductive BarOp where
  | read | write | fetchAdd | swap | cas
  deriving DecidableEq, Repr

/-- The instructions: one constructor per row of the opcode table. First the words and the events that the machine raises by itself, then the
events that only arrive from outside, then the rows without operands; compiled code can build no more than 245 constructors with fields. An
event without operands that belongs to a port, a partition or a queue acts for the agent that executes it. -/
inductive Instr where
  /-- CLAUSE_HEADER (R37). -/
  | clauseHeader (h : Header)
  /-- BRA (R319). -/
  | bra (f : BForm)
  /-- BRU (R319). -/
  | bru (f : BForm)
  /-- BRX (R320). -/
  | brx (f : RForm)
  /-- CALL (R319). -/
  | call (f : BForm)
  /-- RET (R320). -/
  | ret (f : RForm)
  /-- EXIT (R319). -/
  | exit (f : BForm)
  /-- JENTER (R316). -/
  | jenter (f : RForm)
  /-- JQUIT (R316). -/
  | jquit (f : RForm)
  /-- JWAIT (R316). -/
  | jwait (f : RForm)
  /-- JFREE (R317). -/
  | jfree (f : RForm)
  /-- JPUSH (R317). -/
  | jpush (f : RForm)
  /-- JPOP (R317). -/
  | jpop (f : RForm)
  /-- JREAD (R318). -/
  | jread (f : RForm)
  /-- IADD (R88). -/
  | iadd (f : RForm)
  /-- ISUB (R88). -/
  | isub (f : RForm)
  /-- IMUL (R88). -/
  | imul (f : RForm)
  /-- IMULH (R88). -/
  | imulh (f : RForm)
  /-- IMAD (R88). -/
  | imad (f : RForm)
  /-- IMINMAX (R88). -/
  | iminmax (f : RForm)
  /-- IABSD (R88). -/
  | iabsd (f : RForm)
  /-- ISUM (R88). -/
  | isum (f : RForm)
  /-- IADDSH (R88). -/
  | iaddsh (f : RForm)
  /-- TLOG (R90). -/
  | tlog (f : RForm)
  /-- SHIFT (R90). -/
  | shift (f : RForm)
  /-- BFX (R90). -/
  | bfx (f : RForm)
  /-- BFI (R90). -/
  | bfi (f : RForm)
  /-- POPC (R90). -/
  | popc (f : RForm)
  /-- CLZ (R90). -/
  | clz (f : RForm)
  /-- BREV (R90). -/
  | brev (f : RForm)
  /-- ICMP (R91). -/
  | icmp (f : RForm)
  /-- SEL (R92). -/
  | sel (f : RForm)
  /-- PLOP (R93). -/
  | plop (f : RForm)
  /-- MOV (R92). -/
  | mov (f : RForm)
  /-- PMOV (R94). -/
  | pmov (f : RForm)
  /-- IADDI (R95). -/
  | iaddi (f : IForm)
  /-- IMULI (R95). -/
  | imuli (f : IForm)
  /-- ANDI (R95). -/
  | andi (f : IForm)
  /-- ORI (R95). -/
  | ori (f : IForm)
  /-- XORI (R95). -/
  | xori (f : IForm)
  /-- SHLI (R95). -/
  | shli (f : IForm)
  /-- SHRI (R95). -/
  | shri (f : IForm)
  /-- SRAI (R95). -/
  | srai (f : IForm)
  /-- MOVI (R95). -/
  | movi (f : IForm)
  /-- MOVHI (R95). -/
  | movhi (f : IForm)
  /-- LDL (R55). -/
  | ldl (f : IForm)
  /-- IMINI (R95). -/
  | imini (f : IForm)
  /-- IMAXI (R95). -/
  | imaxi (f : IForm)
  /-- FADD (R98). -/
  | fadd (f : RForm)
  /-- FSUB (R98). -/
  | fsub (f : RForm)
  /-- FMUL (R98). -/
  | fmul (f : RForm)
  /-- FFMA (R98). -/
  | ffma (f : RForm)
  /-- FMIN (R98). -/
  | fmin (f : RForm)
  /-- FMAX (R98). -/
  | fmax (f : RForm)
  /-- FCMP (R91). -/
  | fcmp (f : RForm)
  /-- FCLASS (R98). -/
  | fclass (f : RForm)
  /-- FRND (R98). -/
  | frnd (f : RForm)
  /-- FLDEXP (R98). -/
  | fldexp (f : RForm)
  /-- FABS (R99). -/
  | fabs (f : RForm)
  /-- FNEG (R99). -/
  | fneg (f : RForm)
  /-- FCSGN (R99). -/
  | fcsgn (f : RForm)
  /-- FSAT (R99). -/
  | fsat (f : RForm)
  /-- CVT (R101). -/
  | cvt (f : RForm)
  /-- PACK (R102). -/
  | pack (f : RForm)
  /-- UNPACK (R103). -/
  | unpack (f : RForm)
  /-- BSCALE (R104). -/
  | bscale (f : RForm)
  /-- BSHUF (R105). -/
  | bshuf (f : RForm)
  /-- FADDI (R96). -/
  | faddi (f : IForm)
  /-- FMULI (R96). -/
  | fmuli (f : IForm)
  /-- FFMAI (R96). -/
  | ffmai (f : IForm)
  /-- FMINI (R96). -/
  | fmini (f : IForm)
  /-- FMAXI (R96). -/
  | fmaxi (f : IForm)
  /-- DOT (R106). -/
  | dot (f : RForm)
  /-- CFMA (R107). -/
  | cfma (f : RForm)
  /-- BFLY (R108). -/
  | bfly (f : RForm)
  /-- TWID (R109). -/
  | twid (f : RForm)
  /-- IDIV (R111). -/
  | idiv (f : RForm)
  /-- IREM (R111). -/
  | irem (f : RForm)
  /-- FDIV (R112). -/
  | fdiv (f : RForm)
  /-- FSQRT (R112). -/
  | fsqrt (f : RForm)
  /-- FRSQRT (R112). -/
  | frsqrt (f : RForm)
  /-- FTRANS (R113). -/
  | ftrans (f : RForm)
  /-- PREV (R324). -/
  | prev (f : RForm)
  /-- SCAN (R325). -/
  | scan (f : RForm)
  /-- SSCAN (R325). -/
  | sscan (f : RForm)
  /-- XREAD (R326). -/
  | xread (f : RForm)
  /-- BCAST (R327). -/
  | bcast (f : RForm)
  /-- VOTE (R328). -/
  | vote (f : RForm)
  /-- QXCH (R329). -/
  | qxch (f : RForm)
  /-- QRED (R329). -/
  | qred (f : RForm)
  /-- MATCH (R330). -/
  | xmatch (f : RForm)
  /-- LD (R221). -/
  | ld (f : RForm)
  /-- ST (R221). -/
  | st (f : RForm)
  /-- LDS (R221). -/
  | lds (f : RForm)
  /-- STS (R221). -/
  | sts (f : RForm)
  /-- LDX (R221). -/
  | ldx (f : RForm)
  /-- STX (R221). -/
  | stx (f : RForm)
  /-- ATOM (R223). -/
  | atom (f : RForm)
  /-- ATOMS (R223). -/
  | atoms (f : RForm)
  /-- ATOMX (R223). -/
  | atomx (f : RForm)
  /-- SPLD (R225). -/
  | spld (f : RForm)
  /-- SPST (R225). -/
  | spst (f : RForm)
  /-- PREF (R226). -/
  | pref (f : RForm)
  /-- LDNC (R221). -/
  | ldnc (f : RForm)
  /-- BLD (R227). -/
  | bld (f : RForm)
  /-- BST (R227). -/
  | bst (f : RForm)
  /-- BSET (R227). -/
  | bset (f : RForm)
  /-- BGET (R227). -/
  | bget (f : RForm)
  /-- WSET (R229). -/
  | wset (f : RForm)
  /-- COPY (R248). -/
  | copy (f : RForm)
  /-- KICK (R251). -/
  | kick (f : RForm)
  /-- TWANY (R252). -/
  | twany (f : RForm)
  /-- TWALL (R252). -/
  | twall (f : RForm)
  /-- TFIRST (R252). -/
  | tfirst (f : RForm)
  /-- TCLR (R252). -/
  | tclr (f : RForm)
  /-- BOINIT (R253). -/
  | boinit (f : RForm)
  /-- BOARRIVE (R253). -/
  | boarrive (f : RForm)
  /-- BOEXPECT (R253). -/
  | boexpect (f : RForm)
  /-- BOWAIT (R253). -/
  | bowait (f : RForm)
  /-- BOTEST (R253). -/
  | botest (f : RForm)
  /-- FENCE (R269). -/
  | fence (f : RForm)
  /-- BAR (R271). -/
  | bar (f : RForm)
  /-- BARARV (R271). -/
  | bararv (f : RForm)
  /-- WAITW (R300). -/
  | waitw (f : RForm)
  /-- TIME (R302). -/
  | time (f : RForm)
  /-- RST (R288). -/
  | rst (f : RForm)
  /-- RLD (R289). -/
  | rld (f : RForm)
  /-- RATOM (R290). -/
  | ratom (f : RForm)
  /-- RFADD (R291). -/
  | rfadd (f : RForm)
  /-- RFENCE (R292). -/
  | rfence (f : RForm)
  /-- COLL (R298). -/
  | coll (f : RForm)
  /-- LAUNCH (R348). -/
  | launch (f : RForm)
  /-- POSTC (R347). -/
  | postc (f : RForm)
  /-- SEARCH (R373). -/
  | search (f : RForm)
  /-- NLAUNCH (R365). -/
  | nlaunch (f : RForm)
  /-- NOPEN (R369). -/
  | nopen (f : RForm)
  /-- NCMD (R370). -/
  | ncmd (f : RForm)
  /-- NCLOSE (R371). -/
  | nclose (f : RForm)
  /-- MCALL (R58). -/
  | mcall (f : RForm)
  /-- XSET (R56). -/
  | xset (f : IForm)
  /-- XADD (R56). -/
  | xadd (f : RForm)
  /-- XGET (R56). -/
  | xget (f : RForm)
  /-- TRAP (R440). -/
  | trap (f : RForm)
  /-- ERET (R433). -/
  | eret (f : RForm)
  /-- CSRR (R441). -/
  | csrr (f : RForm)
  /-- CSRW (R442). -/
  | csrw (f : RForm)
  /-- BKPT (R440). -/
  | bkpt (f : RForm)
  /-- SLEEP (R443). -/
  | sleep (f : RForm)
  /-- YIELD (R444). -/
  | yield (f : RForm)
  /-- MBR (R144). -/
  | mbr (cond : BitVec 3) (qa : BitVec 5) (off : BitVec 24)
  /-- MLI (R145). -/
  | mli (qd : BitVec 5) (mode : BitVec 2) (imm : BitVec 32)
  /-- MALU (R146). -/
  | malu (qd qa qb : BitVec 5) (op : BitVec 4) (bimm : Bool) (imm : BitVec 32)
  /-- MLDQ; `n` is the count less 1 (R147). -/
  | mldq (qd qa : BitVec 5) (n : BitVec 3) (off : BitVec 32)
  /-- MSTQ; `n` is the count less 1 (R147). -/
  | mstq (qd qa : BitVec 5) (n : BitVec 3) (off : BitVec 32)
  /-- MPRED (R148). -/
  | mpred (sel : BitVec 2) (qa : BitVec 5) (useq : Bool) (count : BitVec 8)
  /-- MBAR (R149). -/
  | mbar (op : BitVec 2) (nb : BitVec 4) (mask : BitVec 16)
  /-- MRDS (R151). -/
  | mrds (qd : BitVec 5) (sel : BitVec 3) (clr : Bool)
  /-- MZERO (R152). -/
  | mzero (t : BitVec 2) (fill : Bool) (qa : BitVec 5)
  /-- MMA (R153). -/
  | mma (f : MmaForm)
  /-- MMAS; `n` is N less 1 (R154). -/
  | mmas (f : MmaForm) (n qm : BitVec 5)
  /-- MLDT (R156). -/
  | mldt (t : BitVec 2) (fmt : BitVec 4) (qa : BitVec 5)
  /-- MSTT (R157). -/
  | mstt (f : MsttForm)
  /-- MMA_BAND_COMMIT: the sequencer of block `b` commits its next band (R129). -/
  | mmaBandCommit (b : Nat)
  /-- BNOP (R178). -/
  | bnop (f : BrForm)
  /-- BR (R178). -/
  | br (f : BjForm)
  /-- BCALL (R178). -/
  | bcall (f : BjForm)
  /-- BJR (R178). -/
  | bjr (f : BrForm)
  /-- BEND (R178). -/
  | bend (f : BrForm)
  /-- BTRAP (R178). -/
  | btrap (f : BiForm)
  /-- GALU (R179). -/
  | galu (f : BrForm)
  /-- GALUI (R179). -/
  | galui (f : BiForm)
  /-- GSET (R180). -/
  | gset (f : BsForm)
  /-- GCMP (R181). -/
  | gcmp (f : BrForm)
  /-- WLD (R182). -/
  | wld (f : BmForm)
  /-- WST (R182). -/
  | wst (f : BmForm)
  /-- ALD (R183). -/
  | ald (f : BrForm)
  /-- AST (R183). -/
  | ast (f : BrForm)
  /-- HRD (R184). -/
  | hrd (f : BhForm)
  /-- HWR (R184). -/
  | hwr (f : BhForm)
  /-- HMOV (R184). -/
  | hmov (f : BhForm)
  /-- HWIN (R184). -/
  | hwin (f : BhForm)
  /-- HGET (R184). -/
  | hget (f : BhForm)
  /-- HPUT (R184). -/
  | hput (f : BhForm)
  /-- KSET (R185). -/
  | kset (f : BrForm)
  /-- GLINT (R186). -/
  | glint (f : BhForm)
  /-- TOP (R187). -/
  | top (f : BhForm)
  /-- TTLD (R188). -/
  | ttld (f : BrForm)
  /-- TTP (R189). -/
  | ttp (f : BhForm)
  /-- DIST (R190). -/
  | dist (f : BrForm)
  /-- DISTG (R191). -/
  | distg (f : BrForm)
  /-- HEAP (R192). -/
  | heap (f : BrForm)
  /-- HOFFER (R193). -/
  | hoffer (f : BrForm)
  /-- HOUT (R194). -/
  | hout (f : BrForm)
  /-- POST (R195). -/
  | post (f : BrForm)
  /-- WHOP (R196). -/
  | whop (f : BrForm)
  /-- WSPAWN (R196). -/
  | wspawn (f : BrForm)
  /-- VISIT (R197). -/
  | visit (f : BrForm)
  /-- CWAIT (R198). -/
  | cwait (f : BrForm)
  /-- CREPLY (R198). -/
  | creply (f : BrForm)
  /-- RDS (R199). -/
  | rds (f : BrForm)
  /-- NEAR_LAUNCH_PACKET: launch packet `id` reaches its stack controller (R364). -/
  | nearLaunchPacket (id : Nat)
  /-- NEAR_BLOCK_START: the first block waiting for engine `be` of a stack starts on context `c` (R362). -/
  | nearBlockStart (stack be c : Nat)
  /-- STREAMED_CONTEXT_START: the open waiting for engine `be` of a stack obtains context `c` (R369). -/
  | streamedContextStart (stack be c : Nat)
  /-- COLUMN_COMMAND: command `id` reaches its engine (R367). -/
  | columnCommand (id : Nat)
  /-- NCMD_ANSWER: the answer to command `id` returns (R370). -/
  | ncmdAnswer (id : Nat)
  /-- WALKER_DISPATCH: the head walker of engine `be` of a stack runs on context `c` (R378). -/
  | walkerDispatch (stack be c : Nat)
  /-- WALKER_MESSAGE: granted message `id` is accepted by its target (R377). -/
  | walkerMessage (id : Nat)
  /-- WALKER_REGISTRATION: the home answers hop or spawn `id` (R378). -/
  | walkerRegistration (id : Nat)
  /-- WALKER_END_NOTICE: end `id` of a walker reaches the home (R378). -/
  | walkerEndNotice (id : Nat)
  /-- QUERY_MERGE: the home of query `q` of a search merges it (R379). -/
  | queryMerge (search q : Nat)
  /-- WSET_COPY_COMPLETE: the copy of a group's WSET finishes (R229). -/
  | wsetCopyComplete (b g : Nat)
  /-- LOAD_DATA_ARRIVAL of request `id` (R221). -/
  | loadDataArrival (id : Nat)
  /-- LONG_LATENCY_FILL of result `id` (R110). -/
  | longLatencyFill (id : Nat)
  /-- STORE_ACKNOWLEDGE of request `id` (R37). -/
  | storeAcknowledge (id : Nat)
  /-- PAGE_WALK_COMPLETE of a page of a context (R393). -/
  | pageWalkComplete (ctx page : Nat)
  /-- FAULT_EVENT: a command core handles fault `id` (R396). -/
  | faultEvent (id : Nat)
  /-- FAULT_RECORD_DEFERRED: the held record of fault `id` is written (R396). -/
  | faultRecordDeferred (id : Nat)
  /-- ROTATION_QUANTUM_EXPIRY (R307). -/
  | rotationQuantumExpiry (b g : Nat)
  /-- TRACK_CLAIM (R352). -/
  | trackClaim (b g : Nat)
  /-- TRACK_PASS_LIMIT (R352). -/
  | trackPassLimit (b g : Nat)
  /-- CE_SLOT_ACCEPT for a waiting pass of a group (R234). -/
  | ceSlotAccept (b g : Nat)
  /-- COPY_SOURCE_START: the engine moves up to `n` chunks of copy `id` (R235). -/
  | copySourceStart (id n : Nat)
  /-- COPY_COMPLETE of copy `id` (R240). -/
  | copyComplete (id : Nat)
  /-- BO_COUNT_UPDATE: count `id` is applied (R244). -/
  | boCountUpdate (id : Nat)
  /-- REMOTE_TIMEOUT_EXPIRY of the operation under a tag (R285). -/
  | remoteTimeoutExpiry (tag : Nat)
  /-- COLL_COMPLETION of COLL `id` (R298). -/
  | collCompletion (id : Nat)
  /-- WAITW_TIMEOUT in a group (R300). -/
  | waitwTimeout (b g : Nat)
  /-- SLEEP_EXPIRY in a group (R443). -/
  | sleepExpiry (b g : Nat)
  /-- SCALE_OUT_RESEND_TIMEOUT of a peer (R303). -/
  | scaleOutResendTimeout (peer : Nat)
  /-- NOP_PACKET: flags and words of a NOP (R335). -/
  | nopPacket (flags : BitVec 12) (words : List W32)
  /-- GRID (R340). -/
  | grid (flags : BitVec 12) (words : List W32)
  /-- CGRID (R340). -/
  | cgrid (flags : BitVec 12) (words : List W32)
  /-- IB (R336). -/
  | ib (flags : BitVec 12) (words : List W32)
  /-- WAITBIT (R335). -/
  | waitbit (flags : BitVec 12) (words : List W32)
  /-- WAITMEM (R335). -/
  | waitmem (flags : BitVec 12) (words : List W32)
  /-- WRITE (R335). -/
  | write (flags : BitVec 12) (words : List W32)
  /-- TSTAMP (R335). -/
  | tstamp (flags : BitVec 12) (words : List W32)
  /-- BLOCK_END of block `b` (R343). -/
  | blockEnd (b : Nat)
  /-- CONTINUATION_RECORD_ARRIVAL of posted record `id` (R345). -/
  | continuationRecordArrival (id : Nat)
  /-- BIN_FLUSH_TIMEOUT of bin `id` (R345). -/
  | binFlushTimeout (id : Nat)
  /-- SWITCH_OUT_DRAIN_COMPLETE of block `b` (R436). -/
  | switchOutDrainComplete (b : Nat)
  /-- WATCHDOG_EXPIRY of a context (R357). -/
  | watchdogExpiry (ctx : Nat)
  /-- REPAIR_CORECAP_CHANGE of a core (R451). -/
  | repairCorecapChange (core : Nat)
  /-- FLIT_RECEIVE on port `n`: a flit, or, where `idle`, stop and go bits that no flit carries (R277, R278). -/
  | flitReceive (n : Nat) (f : Machine.Flit) (idle : Bool) (ask : Option (BitVec 12))
  /-- LANE_FAILURE on port `n` (R277). -/
  | laneFailure (n : Nat)
  /-- SCALE_OUT_DATAGRAM from a peer (R303). -/
  | scaleOutDatagram (peer : Nat) (seq ack : BitVec 32) (ps : List Machine.Packet)
  /-- QTAIL_WRITE: the host writes qtail of a slot (R333). -/
  | qtailWrite (slot : Nat) (v : W64)
  /-- BIND_START: command core `cc` writes a record to a die's bind table (R350). -/
  | bindStart (cc die : Nat) (r : BitVec 128)
  /-- BIND_RESUME (R438). -/
  | bindResume (cc die : Nat) (r : BitVec 128)
  /-- BIND_SWITCH_OUT (R436). -/
  | bindSwitchOut (cc die : Nat) (r : BitVec 128)
  /-- MASTER_RELEASE of a frozen master (R418). -/
  | masterRelease (kind index : Nat)
  /-- TLB_INVALIDATE: a write to tlbgo of a partition (R394). -/
  | tlbInvalidate (p : Nat)
  /-- FAULT_RETRY: a value with verd 0 written to fres (R398). -/
  | faultRetry (p : Nat) (v : W64)
  /-- FAULT_DELIVER: a value with verd 1 written to fres (R398). -/
  | faultDeliver (p : Nat) (v : W64)
  /-- PARTITION_DESCRIPTOR_WRITE (R404). -/
  | partitionDescriptorWrite (p : Nat) (d : Machine.Partition)
  /-- HOST_BAR2_ACCESS: the host reads, or writes `x` to, `n` bytes at an offset (R403). -/
  | hostBar2Access (op : BarOp) (off n x : Nat)
  /-- REGISTER_WRITE (R5). -/
  | registerWrite (m : Master) (r : Reg) (v : W64)
  /-- ERROR_DETECT (R445). -/
  | errorDetect (site : Site) (corrected : Bool)
  /-- SELF_TEST_COMPLETE of test `id` (R449). -/
  | selfTestComplete (id : Nat) (pass : Bool)
  /-- HBM_LANE_FAILURE (R453). -/
  | hbmLaneFailure (stack ch : Nat)
  /-- CHANNEL_FULL_WIDTH_RESTORE (R453). -/
  | channelFullWidthRestore (stack ch : Nat)
  /-- STACK_THERMAL_HIGH (R456). -/
  | stackThermalHigh (stack : Nat)
  /-- POWER_EVALUATION: average input power in watts, whether it is projected over its limit, whether it has been below 3,000 W for 1 ms, busy stacks,
  hottest sensor in 0.1 °C with the heat of the hottest matrix-engine spot in W/cm² (R22, R455). -/
  | powerEvaluation (watts : Nat) (exceeded low : Bool) (busy : BitVec 12) (hot : Nat × Nat)
  /-- THERMAL_CLOCK_STEP of a die (R456). -/
  | thermalClockStep (die : Nat)
  /-- FULL_FUNCTION_OPEN: the results of training and self-test and the configured lsplit (R457). -/
  | fullFunctionOpen (stackSet : BitVec 12) (hub : Bool) (ports : BitVec 64) (lsplit : Nat)
  /-- FIRMWARE_LOAD: fwgo, or the management command (R459). -/
  | firmwareLoad (m : Master) (flashOk : Bool)
  /-- JTAG_BYPASS (R461). -/
  | jtagBypass (tdi : Bool)
  /-- NEGOTIATE_ALGORITHMS: whether the requester offers ECDSA P-384, SHA-384 and SHA-384 measurements (R422). -/
  | negotiateAlgorithms (asym hash meas : Bool)
  /-- GET_CERTIFICATE (R422). -/
  | getCertificate (slot off len : Nat)
  /-- CHALLENGE (R422). -/
  | challenge (slot : Nat) (nonce : BitVec 256)
  /-- GET_MEASUREMENTS: an index, 0 for their number, 255 for all; whether signed (R422). -/
  | getMeasurements (index : Nat) (signed : Bool) (nonce : BitVec 256)
  /-- VENDOR_DEFINED_REQUEST (R422). -/
  | vendorDefinedRequest (registry vendor code : Nat)
  /-- IEEE_1588_MESSAGE (R301). -/
  | ieee1588Message (t : Nat)
  /-- PCIE_COMPLETION_TIMEOUT of host-region load `id` (R231). -/
  | pcieCompletionTimeout (id : Nat)
  /-- NOP (R53). -/
  | nop
  /-- ILLEGAL_EPAEL_WORD: a word that decodes to no instruction (R50). -/
  | illegalEpaelWord
  /-- MNOP (R143). -/
  | mnop
  /-- MEND (R143). -/
  | mend
  /-- MWAIT (R150). -/
  | mwait
  /-- ILLEGAL_MATRIX_WORD (R141). -/
  | illegalMatrixWord
  /-- ILLEGAL_BURROW_WORD (R170). -/
  | illegalBurrowWord
  /-- SEARCH_ADMISSION (R374). -/
  | searchAdmission
  /-- MATRIX_SLOT_BOUNDARY on a die (R139). -/
  | matrixSlotBoundary
  /-- RST_PACKET at the head of a port (R282). -/
  | rstPacket
  /-- RLD_PACKET (R282). -/
  | rldPacket
  /-- RATOM_PACKET (R290). -/
  | ratomPacket
  /-- RFADD_PACKET (R291). -/
  | rfaddPacket
  /-- ACK (R284). -/
  | ack
  /-- RDATA (R284). -/
  | rdata
  /-- COLL_PACKET (R296). -/
  | collPacket
  /-- SYNC (R301). -/
  | sync
  /-- SYNC_INTERVAL (R301). -/
  | syncInterval
  /-- SYNC_LOSS_TIMEOUT (R301). -/
  | syncLossTimeout
  /-- WAITMEM_RECHECK of a queue (R335). -/
  | waitmemRecheck
  /-- SCHEDULING_TICK (R355). -/
  | schedulingTick
  /-- WATCHDOG_SAMPLE (R357). -/
  | watchdogSample
  /-- TLB_INVALIDATE_COMPLETE of a partition's oldest invalidation (R394). -/
  | tlbInvalidateComplete
  /-- HANDOVER_ACQUIRE: the next hand-over command of a partition (R401). -/
  | handoverAcquire
  /-- HANDOVER_ACQUIRE_COMPLETE (R401). -/
  | handoverAcquireComplete
  /-- HANDOVER_RELEASE (R402). -/
  | handoverRelease
  /-- CONTEXT_CREATE: the next context command of a partition (R408). -/
  | contextCreate
  /-- CONTEXT_RELOAD (R408). -/
  | contextReload
  /-- CONTEXT_DESTROY (R409). -/
  | contextDestroy
  /-- CONTEXT_DESTROY_COMPLETE of a context (R409). -/
  | contextDestroyComplete
  /-- QUEUE_ENABLE (R408). -/
  | queueEnable
  /-- QUEUE_DISABLE (R408). -/
  | queueDisable
  /-- SLOT_ENTRY (R408). -/
  | slotEntry
  /-- CLASS_QUOTAS (R408). -/
  | classQuotas
  /-- POWER_EMERGENCY (R455). -/
  | powerEmergency
  /-- THERMAL_TRIP (R456). -/
  | thermalTrip
  /-- POWER_GOOD: a cold power-up (R457). -/
  | powerGood
  /-- DEVICE_RESET (R457). -/
  | deviceReset
  /-- SVN_RAISE (R420). -/
  | svnRaise
  /-- FREEZE (R460). -/
  | freeze
  /-- JTAG_IDCODE (R461). -/
  | jtagIdcode
  /-- JTAG_SCAN (R461). -/
  | jtagScan
  /-- GET_VERSION (R422). -/
  | getVersion
  /-- GET_CAPABILITIES (R422). -/
  | getCapabilities
  /-- GET_DIGESTS (R422). -/
  | getDigests
  deriving DecidableEq, Repr

end Sys2Proof
end

