-- ==== Sys2Proof/Machine/State.lean ====
section
/-! DEFINITION. The state of the machine, as plain data: every thread, group, block, core, die, stack and package register
and table of the manual, what is in flight between its agents, and the model's own bookkeeping (agenda, cur, tick). -/

namespace Sys2Proof.Machine

/-! ### Memory, translation and the requests of the memory units (07, 14) -/

/-- Where bytes live: physical memory (striped, stack-local and host regions, R384), the shared memory of a block (R201), or
the scratch window of a context on a die (R202). -/
inductive Space where
  | main
  | shared (b : Nat)
  | scratch (ctx die : Nat)
  deriving DecidableEq, Repr

/-- A translated leaf (R389, R391). -/
structure Leaf where
  frame : Nat
  shift : Nat
  ord : Nat
  cls : Nat
  r : Bool
  w : Bool
  at_ : Bool
  x : Bool
  host : Bool
  near : Bool
  deriving DecidableEq, Repr

/-- The registers an access fills: of a thread's v file, of the group's s file, or a buffer record. -/
inductive Into where
  | v (first n : Nat)
  | s (first n : Nat)
  | record (n : Nat)
  | nothing
  deriving DecidableEq, Repr

/-- One thread's part of a memory request: its bytes, what it stores, what it fills and how the bytes are extended (R220); `rc` says that it is
an access of the spill stack, which is RC whatever its page says (R258). -/
structure LaneReq where
  t : Nat
  va : Nat
  addr : Nat
  w : Nat
  data : Nat := 0
  cmp : Nat := 0
  into : Into := .nothing
  ext : Nat := 0
  rc : Bool := false
  deriving DecidableEq, Repr

/-- What a memory request does. -/
inductive ReqKind where
  | load
  | near
  | literal
  | store
  /-- Atomic operation and type; whether the old value returns (R222). -/
  | atomic (op ty : Nat) (ret : Bool)
  /-- A returning atomic that has been performed; the old values by thread stand in `data`. -/
  | answered
  deriving DecidableEq, Repr

/-- What a side-log entry waits for (R397, R399): the answer to a fault, or only the earlier entries of its page. -/
inductive Logged where
  | fault (id : Nat)
  | behind
  deriving DecidableEq, Repr

/-- A request of one pass to one 128-byte sector (R207, R211). `logged` says that it stands in the side log (R209, R399); `so` that its page is
SO (R259); `path` is the path of an access made once for its pass, nothing for the accesses of threads (R255, R259, R269); `since` the number
that stood when the first of its translations was made (R394). -/
structure Req where
  b : Nat
  g : Nat
  ctx : Nat
  core : Nat
  kind : ReqKind
  space : Space
  lanes : List LaneReq
  origin : W64
  acq : Bool := false
  rel : Bool := false
  so : Bool := false
  path : W32 := 0#32
  since : Nat := 0
  logged : Option Logged := none
  deriving DecidableEq, Repr

/-- Where a remote operation goes (R280): the peer and its package or scale-out index, the inbound window, the paths allowed, and
whether it goes by scale-out. -/
structure Route where
  peer : Nat
  pkg : Nat
  iw : Nat
  paths : List Nat
  so : Bool
  deriving DecidableEq, Repr

/-- A thread's access gathered by a pass: where it goes, the order kind of its page, what its side-log entry waits for, the number that stood when
it was translated, and, for a remote store, its route. -/
structure Gathered where
  lane : LaneReq
  space : Space
  ord : Nat := 1
  logged : Option Logged := none
  since : Nat := 0
  route : Option Route := none
  deriving DecidableEq, Repr

/-- A serviceable fault (R396, R397): whether its record has been written, its serial, and what the record shows. -/
structure FaultRec where
  ctx : Nat
  va : Nat
  cause : Nat
  source : Nat
  access : Nat
  unit : Nat
  /-- 0 raised, 1 held for a full ring, 2 written. -/
  stage : Nat := 0
  serial : Nat := 0
  deriving DecidableEq, Repr

/-- A context (R406, R407): its record as loaded, its remap table, whether work of it has retired since the last sample and for how many
milliseconds none has (R357), and whether it is being destroyed (R409). -/
structure Context where
  partition : Nat := 0
  record : Nat := 0
  remap : Nat := 0
  pulsed : Bool := false
  idle : Nat := 0
  ending : Bool := false
  /-- Stopped by its watchdog: nothing of it is bound until a queue of it is enabled again (R357). -/
  halted : Bool := false
  root : Nat := 0
  peers : Nat := 0
  scratch0 : Nat × Nat := (0, 0)
  scratch1 : Nat × Nat := (0, 0)
  watchdog : Nat := 0
  timeout : Nat := 0
  deriving DecidableEq, Repr

/-- What one core holds beside its blocks: its capacity and, while repair is pending, the capacity to come, spare units left, group
buffers, the owner of its matrix engine and the context a slot has granted it to, its near cache (R115, R139, R214, R229, R349, R450, R451). -/
structure Core where
  corecap : W32 := 0x3040C080#32
  pending : Option W32 := none
  regSpares : Nat := 2
  shmSpares : Nat := 2
  buffers : Nat := 16
  owner : Option Nat := none
  grant : Option Nat := none
  near : Table (List Byte) := []
  nearPoison : Table Unit := []
  /-- The block that the copy engine has served last (R234). -/
  ceLast : Nat := 0
  deriving DecidableEq, Repr

/-! ### Threads, groups and blocks (02, 11, 16) -/

/-- What a register left empty by POISON or by a failed remote response carries (R432): the trap code, its source, the
tpc of the instruction that left it, the address and the status. -/
structure Mark where
  code : Nat
  src : Nat
  origin : W64
  tval : W64
  info : Nat
  deriving DecidableEq, Repr

/-- A 32-bit register with its full/empty bit and poison mark (R23, R28, R432). -/
structure Cell where
  val : W32 := 0#32
  full : Bool := true
  mark : Option Mark := none
  deriving DecidableEq, Repr

/-- A buffer record register (R23, R204). -/
structure BCell where
  val : BitVec 128 := 0#128
  full : Bool := true
  mark : Option Mark := none
  deriving DecidableEq, Repr

/-- A trap as raised: code, value, information, the causing tpc where it is not the word's own, source, and whether a
second one was not latched (R423, R425, R431). -/
structure TrapRec where
  code : Nat
  tval : W64 := 0#64
  info : W64 := 0#64
  origin : Option W64 := none
  src : Nat := 0
  more : Bool := false
  deriving DecidableEq, Repr

/-- How a thread stands outside its path (R31, R424 to R428). -/
inductive Park where
  /-- Not parked. -/
  | none
  /-- Trapped in the pass that is issuing; delivered at its end. -/
  | raised (r : TrapRec)
  /-- Waiting for the fault service under a fault record (R426); the word it is parked on and the word after it. -/
  | fault (id : Nat) (r : TrapRec) (next word : W64)
  /-- A fault answered with deliver while the block was switched out: delivered at resumption (R436). -/
  | deferred (r : TrapRec) (next word : W64)
  /-- Unhandled trap: parked for good (R428). -/
  | dead
  deriving DecidableEq, Repr

/-- Live or helper (R18). -/
inductive Role where
  | live | helper
  deriving DecidableEq, Repr

/-- How a thread stands in a macro (R58): not in one, or running its body. -/
inductive MacroRole where
  | none | body
  deriving DecidableEq, Repr

/-- What a waiting thread waits on (R316, R317). -/
inductive SetWait where
  | set (n : Nat)
  | slot (m : Nat)
  deriving DecidableEq, Repr

/-- A thread that waits in JWAIT (R316): on what, the set its word names, the word after it and the word itself. -/
structure Waiting where
  on : SetWait
  jn : Nat
  next : W64
  word : W64
  deriving DecidableEq, Repr

/-- What the word at `pc` had begun when its trap was delivered, for ERET.retry (R30, R209, R225): whether it left its destination empty, and the
spill slot it accesses. -/
structure Redo where
  pc : W64
  replay : Bool
  slot : Option Nat
  deriving DecidableEq, Repr

/-- One thread slot (R23, R430). `replay` is the word that left its destination empty and is to be performed again (R30, R209), `slot` the spill
slot it accesses (R225), `kept` both while the thread is in its handler, `waitFrom` the WAITW or SLEEP under way and when it first issued (R300,
R443). -/
structure Thread where
  role : Role := .live
  v : Table Cell := []
  x : Table W32 := []
  p : BitVec 8 := 0#8
  em : Bool := true
  tpc : W64 := 0#64
  tmw : BitVec 5 := 0#5
  inMacro : MacroRole := .none
  exited : Bool := false
  park : Park := .none
  wait : Option Waiting := none
  replay : Option W64 := none
  tcause : W32 := 0#32
  tepc : W64 := 0#64
  tnpc : W64 := 0#64
  tval : W64 := 0#64
  tinfo : W64 := 0#64
  torg : W64 := 0#64
  tword : W64 := 0#64
  th : Bool := false
  tpix : W32 := 0#32
  pendRemote : Option TrapRec := none
  pendNear : Option TrapRec := none
  age : Nat := 0
  arrivals : Table Nat := []
  slot : Option Nat := none
  kept : Option Redo := none
  waitFrom : Option (W64 × Nat) := none
  deriving DecidableEq, Repr

/-- State of a rejoin set (R25). -/
inductive JState where
  | free | opened | released
  deriving DecidableEq, Repr

/-- A rejoin-set register (R25). -/
structure JSet where
  state : JState := .free
  arrived : W32 := 0#32
  member : W32 := 0#32
  deriving DecidableEq, Repr

/-- What an instruction that holds its path waits for (R306). -/
inductive HoldKind where
  /-- A clause header's waits: which wait is under way (0 loads, 1 stores, 2 tag, 3 barrier), the accesses issued before which number
  it waits for, and the phase of the barrier it has arrived in, if it has (R37). -/
  | header (stage upto : Nat) (phase : Option Nat)
  /-- BOWAIT: until the phase bit of the barrier object differs (R253). -/
  | bo
  /-- TWANY, TWALL, TFIRST (R252). -/
  | tags
  /-- FENCE, or a release before an operation: until earlier accesses are performed (R269, R272). -/
  | fence
  /-- BAR: the phase it has arrived in, nothing while the arrival itself waits (R271). -/
  | bar (phase : Option Nat)
  /-- BAR.wait (R271). -/
  | barWait
  /-- WAITW: when its limit passes, nothing without one (R300). -/
  | waitw (deadline : Option Nat)
  /-- WAITW whose limit has passed (R300). -/
  | waitwOver
  /-- RFENCE: operations issued before this number are to be answered (R292). -/
  | rfence (upto : Nat)
  /-- SLEEP: the deadline (R443). -/
  | sleep (deadline : Nat)
  /-- SLEEP whose deadline has passed (R443). -/
  | sleepDone
  /-- An owner of pix waiting for another owner (R434). -/
  | pix
  /-- WSET: until its copy is complete (R229). -/
  | wset
  /-- COPY or KICK waiting for a copy-engine slot; whether one has been granted (R234). -/
  | ceSlot (granted : Bool)
  /-- COPY waiting for a tag count below 4,095 (R240). -/
  | tagCount
  /-- NCMD: until its commands are answered (R370). -/
  | ncmd
  /-- NCLOSE: waiting for the end of the context opened under this serial (R371). -/
  | nclose (serial : Nat)
  /-- NOPEN: waiting for a context; its near work (R369). -/
  | nopen (work : Nat)
  /-- NOPEN whose handle or refusal has come (R369). -/
  | opened (value : Nat)
  deriving DecidableEq, Repr

/-- A body word of a macro: its index, its length, the words of the body, and the word (R58). -/
structure BodyPos where
  k : Nat
  len : Nat
  size : Nat
  word : W64 := 0#64
  deriving DecidableEq, Repr

/-- A word a group executes: which group and path, where the word stands in its clause, how long it is, the word itself with its extension, inside
a macro its place in the body, and the instruction it holds (R31, R40, R58). -/
structure Issue where
  b : Nat
  g : Nat
  path : W32
  hdr : W64
  count : Nat
  widx : Nat
  len : Nat
  word : W64
  yield : Nat := 0
  body : Option BodyPos := none
  e : Instr := .nop
  deriving DecidableEq, Repr

/-- A held path: its threads, what holds it, and the word that does (R306). -/
structure Hold where
  mask : W32
  why : HoldKind
  issue : Option Issue := none
  deriving DecidableEq, Repr

/-- A pass that has begun and is held, or that runs in two passes: the threads still to be visited, those that contribute
to the second pass, and the values carried from thread to thread (R29, R323). -/
structure Pass where
  rest : W32
  took : W32
  acc : List Nat
  second : Bool := false
  /-- Memory requests gathered so far, the page whose walk it waits for, and pages whose translation failed with their causes (R207, R393). -/
  gathered : List Gathered := []
  asked : Option Nat := none
  failed : List (Nat × Nat) := []
  /-- The word the pass executes. -/
  issue : Option Issue := none
  deriving DecidableEq, Repr

/-- Which rule the group's next choice of a path follows (R307). -/
inductive Pick where
  | keep | weight | age
  deriving DecidableEq, Repr

/-- One group (R23, R26, R27, R307, R430). -/
structure Group where
  s : Table Cell := []
  b : Table BCell := []
  j : Table JSet := []
  fst : W32 := 0#32
  pix : W32 := 0#32
  ssp : W32 := 0#32
  live : W32 := 0#32
  help : W32 := 0#32
  thv : W64 := 0#64
  tmst : W64 := 0#64
  tmpc : W64 := 0#64
  rotation : Nat := 0
  issuing : W32 := 0#32
  pick : Pick := .weight
  spinning : Bool := false
  holds : List Hold := []
  pass : Option Pass := none
  /-- The threads whose owner of pix is under way (R434). -/
  pixOwner : W32 := 0#32
  /-- Records still to be loaded before the first pass, and the address of record 0 (R227). -/
  loads : List Nat := []
  loadBase : Nat := 0
  /-- The registers of the last WSET, and how many are still to be copied (R229). -/
  wset : List Nat := []
  wsetCopying : Bool := false
  /-- Spill region (R224): base and capacity in slots. -/
  spillBase : W64 := 0#64
  spillCap : Nat := 0
  /-- Track held, passes on it, since when; since when it waits for one; the group that has claimed its track (R352). -/
  track : Option Nat := none
  trackPasses : Nat := 0
  trackSince : Nat := 0
  waitSince : Option Nat := none
  claimedBy : Option Nat := none
  ended : Bool := false
  deriving DecidableEq, Repr

/-- Where a block is (R411): on a core, out as an image, moving between the two, or ended while others of its cluster go on (R201). -/
inductive Place where
  | resident | out | moving | ended
  deriving DecidableEq, Repr

/-- Whose instruction `exec` runs (model's own, log 2). -/
inductive Agent where
  | none
  | group (i : Issue)
  | msq (b : Nat)
  | engine (stack be ctx : Nat)
  | queue (slot : Nat)
  | port (n : Nat)
  | partition (p : Nat)
  deriving DecidableEq, Repr

/-- An event of the command cores (R338): a tail write or an append to a queue, a change that a queue may wait for, a report of a context, and the
scheduling tick or timer of a command core. -/
inductive CmdEvent where
  | queue (slot : Nat)
  | change (slot : Nat)
  | context (ctx : Nat)
  | tick (cc : Nat)
  deriving DecidableEq, Repr

/-- Who moves next (model's own, log 2). -/
inductive Turn where
  | group (b g : Nat)
  | msq (b : Nat)
  | engine (stack be ctx : Nat)
  | queue (slot : Nat)
  | port (n : Nat) (e : Instr)
  | partition (p : Nat) (e : Instr)
  | recheck (slot : Nat)
  | noted (slot : Nat)
  | command (cc : Nat)
  | arrive (b : Nat)
  | event (e : Instr)
  deriving DecidableEq, Repr

/-- A numbered barrier (R270): the open phase, the threads that have arrived in it (32 × group + thread), and whether the MSQ
has. -/
structure NBarrier where
  phase : Nat := 0
  arrived : List Nat := []
  msq : Bool := false
  deriving DecidableEq, Repr

/-- Where the matrix sequencer stands (R119). -/
inductive MState where
  | idle | running | stopped | ended
  deriving DecidableEq, Repr

/-- The matrix sequencer of a block (R114, R118 to R120): its registers, the status fields of mst, the engine word under way, its
latest arrival at each barrier, the fault its stop waits on, whether the stop has been delivered (R134), and the word it has fetched while that word
waits (R116). -/
structure Msq where
  entry : Nat := 0
  q : Table W64 := []
  mpc : W64 := 0#64
  mrp : BitVec 128 := BitVec.allOnes 128
  mcp : BitVec 128 := BitVec.allOnes 128
  mrow : Nat := 0
  state : MState := .idle
  fcode : Nat := 0
  fop : Nat := 0
  wtd : Bool := false
  flags : BitVec 7 := 0#7
  mfa : W64 := 0#64
  job : Option Instr := none
  arrivals : Table Nat := []
  fault : Option Nat := none
  delivered : Bool := false
  fetched : Option Instr := none
  deriving DecidableEq, Repr

/-- One block (R17, R26, R57, R240, R270, R284): its launch facts, its place, and what its groups share. -/
structure Block where
  ctx : Nat := 0
  grid : Nat := 0
  lin : Nat := 0
  bx : W32 := 0#32
  by_ : W32 := 0#32
  bz : W32 := 0#32
  gcnt : Nat := 1
  cbx : Nat := 0
  vcore : Nat := 0
  nreg : Nat := 32
  /-- Core it stands on while resident. -/
  core : Nat := 0
  place : Place := .resident
  /-- Code of its macros, one list of words each (R57). -/
  macros : List (List W32) := []
  /-- What its bind record gave it: first group slot, first tag and number of tags, base of its shared memory in KiB, first slot of its
  macros; the image and number of its macros; whether it has a stream (R57, R350). -/
  slot : Nat := 0
  tag : Nat := 0
  ntag : Nat := 0
  shmBase : Nat := 0
  macroBase : Nat := 0
  macroImage : Nat := 0
  macroCount : Nat := 0
  stream : Bool := false
  /-- Order of its latest binding and of its latest switch-out, tick at which it was resumed; address and size of its image while it is out;
  no core can hold it, as reported (R353, R355, R356, R412). -/
  bindOrder : Nat := 0
  outOrder : Nat := 0
  resumedAt : Option Nat := none
  image : Nat := 0
  noFit : Bool := false
  /-- It is moving into a core, and not out of one (R411, R438). -/
  arriving : Bool := false
  /-- Shared memory allocated in bytes (R201), and the cluster it belongs to. -/
  shm : Nat := 0
  cluster : Nat := 0
  tgal : W64 := 0#64
  tgm : W64 := 0#64
  /-- Pending count of each tag (R240). -/
  tcount : Table Nat := []
  nb : Table NBarrier := []
  mjoin : BitVec 16 := 0#16
  msq : Msq := {}
  /-- Accumulator tiles a0 to a3, row i of tile n at 128 n + i; an unlisted row is all zeros (R115, R125). -/
  tiles : Table (List W32) := []
  /-- Poisoned sectors of the tiles, sector k of row i of tile n at 512 n + 4 i + k (R446). -/
  tileBad : Table Unit := []
  /-- Current epoch of its remote operations (R284, R292). -/
  epoch : Bool := false
  deriving DecidableEq, Repr

/-- A long-latency result on its way: whose destination, the value of its registers together, and the flags it sets when
it fills (R110, R73). `lane` is nothing for a uniform destination; `pc` and `k` name the word, `k` its place in a macro's body. -/
structure Fill where
  g : Nat
  pc : W64 := 0#64
  k : Nat := 0
  lane : Option Nat
  first : Nat
  n : Nat
  value : Nat
  flags : BitVec 6
  deriving DecidableEq, Repr

/-- One side of a COPY: a run of virtual addresses with its swizzle, or of another space (R248). -/
inductive CopySide where
  | virt (start swz : Nat)
  | other (space : Space) (start : Nat)
  deriving DecidableEq, Repr

/-- A copy accepted by a copy engine (R232, R238, R249): the block and group that issued it, its two sides or the request block
KICK gave it, its length, reduction, barrier object and tag; whether it has begun to read its source, how many
chunks are done, the fault it is suspended on, the fault code and flags for its barrier object, and which units of which
sectors it has written clean. -/
structure Copy where
  b : Nat
  g : Nat
  ctx : Nat
  core : Nat
  src : CopySide
  dst : CopySide
  block : Option Nat := none
  len : Nat
  red : Nat := 0
  ty : Nat := 0
  bo : Option (Space × Nat) := none
  tag : Option Nat := none
  started : Bool := false
  done : Nat := 0
  stuck : Option Nat := none
  fc : Nat := 0
  flags : BitVec 6 := 0#6
  clean : Table Nat := []
  /-- Suspended when its block was switched out, and part of the block's image since (R239). -/
  saved : Bool := false
  deriving DecidableEq, Repr

/-- A count on its way to a barrier object (R244). -/
structure Count where
  /-- The context and vcore of the block it is addressed to, where its object is in shared memory (R410); the block whose near work sends it (R359). -/
  dest : Option (Nat × Nat) := none
  near : Option Nat := none
  space : Space
  addr : Nat
  n : Nat
  fc : Nat := 0
  flags : BitVec 6 := 0#6
  deriving DecidableEq, Repr

/-! ### The fabric (10) -/

/-- A hop entry of a collective (R295). -/
structure Hop where
  nslot : Nat
  n : Nat
  op : Nat
  pkg : Nat
  deriving DecidableEq, Repr

/-- A collective packet (R295): flags at their fst positions. -/
structure CollPkt where
  cid : Nat
  step : Nat
  fmt : Nat
  slot : Nat
  last : Bool
  mm : Bool
  flags : BitVec 6
  k : Nat
  hops : List Hop
  pay : List Byte
  deriving DecidableEq, Repr

/-- A scale-up port: lanes running, sequence numbers expected and next, the flits kept for replay, packets being assembled and received by
channel, channels the far end has stopped with the packets waiting on them, its error count, channels it has told the far end to stop, and the partition last
served on each channel (R277 to R279, R405). -/
structure Port where
  lanes : Nat := 2
  rxSeq : BitVec 12 := 0#12
  txSeq : BitVec 12 := 0#12
  replay : List Flit := []
  parts : Table (List Byte) := []
  queues : Table (List Packet) := []
  stopped : BitVec 5 := 0#5
  waiting : Table (List Packet) := []
  errors : Nat := 0
  told : BitVec 5 := 0#5
  served : Table Nat := []
  deriving DecidableEq, Repr

/-- An entry of the scale-out map (R303): IPv6 address, UDP destination port, far package number. -/
structure FarEntry where
  addr : BitVec 128 := 0#128
  udp : Nat := 47210
  pkg : Nat := 0
  deriving DecidableEq, Repr

/-- A scale-out peer (R303): next number to send and to receive, and packets not yet acknowledged with their numbers. -/
structure Far where
  tx : BitVec 32 := 0#32
  rx : BitVec 32 := 0#32
  unacked : List (BitVec 32 × Packet) := []
  since : Nat := 0
  deriving DecidableEq, Repr

/-- What a remote operation is (R288 to R298). -/
inductive RemoteKind where
  | store
  | load
  | atomic (ret : Bool)
  | fetchAdd
  | coll (id : Nat)
  | relay
  deriving DecidableEq, Repr

/-- An outstanding remote operation (R284): its issuer, its route, path, epoch and 256-byte span, its threads' parts, the issuing word, and
when it was issued. -/
structure RemoteOp where
  b : Nat
  g : Nat
  ctx : Nat
  core : Nat
  kind : RemoteKind
  peer : Nat
  pkg : Nat
  iw : Nat
  span : Nat
  path : Nat
  epoch : Bool
  seq : Nat
  lanes : List LaneReq
  origin : W64
  since : Nat
  /-- The peer is reached by scale-out. -/
  so : Bool := false
  deriving DecidableEq, Repr

/-- A response whose block is moving: it is applied when the block has moved (R411). -/
structure Landed where
  op : RemoteOp
  status : Nat
  data : Nat
  deriving DecidableEq, Repr

/-- A packet held at the responder under a fault (R282). -/
structure HeldPacket where
  port : Nat
  packet : Packet
  fault : Nat
  ctx : Nat
  deriving DecidableEq, Repr

/-- A collective input kept for its hop (R297): the port it came by, nothing for a local one. -/
structure Early where
  port : Option Nat
  pkt : CollPkt
  deriving DecidableEq, Repr

/-- What a hop remembers (R296): whether its inputs disagreed, the steps it has combined, and the number of steps once known. -/
structure HopBox where
  cid : Nat
  hops : Nat
  mm : Bool
  gone : List Nat
  total : Option Nat
  deriving DecidableEq, Repr

/-- A COLL not yet complete (R298). -/
structure Coll where
  b : Nat
  ctx : Nat
  core : Nat
  cid : Nat
  src : CopySide
  dst : CopySide
  len : Nat
  unit : Nat
  bo : Space × Nat
  head : CollPkt
  /-- Where the source's pages lie as translated at issue, and units of it that a local copy has read poisoned. -/
  pages : List (Nat × Space × Nat) := []
  bad : List Nat := []
  /-- Pieces sent, pieces in all. -/
  sent : Nat := 0
  pieces : Nat := 0
  /-- A copy out of its cid falls at this package; steps that have arrived; the last one once known. -/
  want : Bool := false
  steps : List Nat := []
  last : Option Nat := none
  /-- Bytes still to be written, as (offset, unit); bytes covered; the fault it is suspended on. -/
  todo : List (Nat × List Byte) := []
  covered : Nat := 0
  stuck : Option Nat := none
  fc : Nat := 0
  mm : Bool := false
  flags : BitVec 6 := 0#6
  deriving DecidableEq, Repr

/-! ### Bank engines and near work (06, 13) -/

/-- Who runs on a bank-engine context (R158, R367, R378): block `j` of a near grid, a streamed context, or a walker of query `q` of a search. -/
inductive Occupant where
  | block (work j : Nat)
  | streamed (work : Nat)
  | walker (search q : Nat)
  deriving DecidableEq, Repr

/-- State field of bst (R172). -/
inductive BeState where
  | ready | waiting | stopped | ended
  deriving DecidableEq, Repr

/-- A bank-engine context (R158): registers, row buffers, associative state, status, its slice as the frames of its pages, its window
and the poisoned sectors of it, the fault its stop waits on, the registration its hop or spawn waits on, and the column command being stepped. -/
structure BeCtx where
  who : Occupant
  g : Table W64 := []
  upc : Nat := 0
  h : Table (List Byte) := []
  wd : Nat := 0
  key : W64 := 0#64
  mask : W64 := 0#64
  tags : BitVec 1024 := 0#1024
  tables : Table (BitVec 128) := []
  state : BeState := .ready
  flags : BitVec 6 := 0#6
  nfr : W64 := 0#64
  vpr : Nat := 0
  frames : List Nat := []
  win : Memory := []
  winBad : Table Unit := []
  winSize : Nat := 0
  fault : Option Nat := none
  registration : Option Nat := none
  cmd : Option Nat := none
  deriving DecidableEq, Repr

/-- A top-k heap on a bank engine (R167). -/
structure BeHeap where
  engine : Nat
  cap : Nat
  entries : List Entry := []
  nan : Nat := 0
  deriving DecidableEq, Repr

/-- A near grid or a streamed context, from its launch to its end (R359, R363 to R366): who issued it, its pages as translated at issue,
its record and its progress. -/
structure NearWork where
  b : Nat
  g : Nat
  t : Nat
  ctx : Nat
  origin : W64
  streamed : Bool
  pages : List (Nat × Nat)
  code : Nat × Nat
  winSize : Nat
  winImage : Nat
  status : Nat
  bo : Space × Nat
  init : List W64
  slice : Nat
  base : Nat
  blocks : Nat
  ended : Nat := 0
  stopped : Nat := 0
  low : Option (Nat × W64 × W64) := none
  deriving DecidableEq, Repr

/-- An open streamed context by its serial (R367, R368): owner, engine context, near work, whether its stop has been reported, and whether
it is being closed. -/
structure Open where
  b : Nat
  g : Nat
  key : Nat
  work : Nat
  stopped : Bool := false
  closing : Bool := false
  deriving DecidableEq, Repr

/-- A column command (R370): its thread and destinations, what it asks, whether it has reached its engine, and its answer with pn. -/
structure Command where
  b : Nat
  g : Nat
  t : Nat
  reg : Nat
  pn : Nat
  handle : Nat
  operand : W64
  code : Nat
  arrived : Bool := false
  answer : Option (W64 × Bool) := none
  deriving DecidableEq, Repr

/-- What the home stack holds of a query: its live count and its dispatch count first (R374, R378, R379). -/
structure Query where
  live : Nat
  dispatches : Nat := 0
  truncated : Bool := false
  stopped : Bool := false
  merged : Bool := false
  buffer : List Byte := []
  deriving DecidableEq, Repr

/-- A search (R372 to R379). -/
structure Search where
  b : Nat
  g : Nat
  t : Nat
  ctx : Nat
  origin : W64
  pages : List (Nat × Nat)
  base : Nat
  slice : Nat
  stackSet : Nat
  etype : Nat
  perQuery : Nat
  nmax : Nat
  dim : Nat
  k : Nat
  nq : Nat
  wq : Nat
  budget : Nat
  snapshot : W64
  qbase : Nat
  qstride : Nat
  qsize : Nat
  bo : Space × Nat
  entries : List W64
  result : Nat
  code : Nat × Nat
  admitted : Bool := false
  slot : Nat := 0
  queries : List Query := []
  visited : Table Unit := []
  deriving DecidableEq, Repr

/-- A walker in a store or in a message (R377). -/
structure Walker where
  search : Nat
  q : Nat
  g : List W64
  deriving DecidableEq, Repr

/-- A hop or spawn on its way (R378): the sending context, the walker, its target engine, and whether the home has granted it. -/
structure Registration where
  sender : Nat
  hop : Bool
  walker : Walker
  target : Nat
  granted : Bool := false
  deriving DecidableEq, Repr

/-! ### Queues, grids and continuation pools (12) -/

/-- A launch record (R339). -/
structure Launch where
  entry : Nat := 0
  arg : Nat := 0
  stream : Nat := 0
  spill : Nat := 0
  tiles : Nat := 0
  deps : Nat := 0
  image : Nat := 0
  x : Nat := 1
  y : Nat := 1
  z : Nat := 1
  slots : Nat := 0
  shm : Nat := 0
  mjoin : Nat := 0
  macros : Nat := 0
  rbmask : Nat := 0
  rboff : Nat := 0
  g : Nat := 1
  live : Nat := 32
  c : Nat := 1
  nreg : Nat := 32
  tags : Nat := 0
  w : Nat := 0
  pool : Option Nat := none
  clear : Bool := false
  poolBase : Nat := 0
  capacity : Nat := 0
  timer : Nat := 0
  own : Nat := 0
  deriving DecidableEq, Repr

/-- A group formed from continuation records (R346): serial, die, program counter, and the payload of each thread. -/
structure FormedGroup where
  serial : Nat
  die : Nat
  pc : W64
  recs : List (List W32)
  deriving DecidableEq, Repr

/-- An accepted grid (R340 to R346), keyed by 1,024 × context + handle: its queue, when it was accepted, its record, the blocks bound so far,
how many have ended; for a continuation grid the serial to come, the groups waiting, and whether a grid that names its pool has
been accepted. -/
structure Grid where
  ctx : Nat
  queue : Nat
  order : Nat
  cont : Bool
  l : Launch
  first : Nat := 0
  bound : Table Unit := []
  ended : Nat := 0
  serial : Nat := 0
  formed : List FormedGroup := []
  deriving DecidableEq, Repr

/-- A continuation record on its way to a die's binning unit (R347). -/
structure Posted where
  die : Nat
  grid : Nat
  pc : W64
  words : List W32
  deriving DecidableEq, Repr

/-- An open bin (R345): its die, continuation grid and program counter, its records, and when its timer expires. -/
structure Bin where
  die : Nat
  grid : Nat
  pc : W64
  recs : List (List W32)
  deadline : Nat
  deriving DecidableEq, Repr

/-- A buffer being parsed (R336): address of the next word, words left, and its packet's completion: ring offset where it stood in the ring, irq. -/
structure Frame where
  addr : Nat
  left : Nat
  upTo : Option Nat
  irq : Bool
  deriving DecidableEq, Repr

/-- A packet that has taken effect and is not yet committed (R335): ring offset past it where it stood in the ring, irq, the grid it waits for. -/
structure Uncommitted where
  upTo : Option Nat
  irq : Bool
  grid : Option Nat
  deriving DecidableEq, Repr

/-- A queue slot (R332 to R334): the record it was loaded from, its fields, its slot state, the buffers under way, packets not yet
committed, the WAITBIT or WAITMEM that holds it, and the fault its fetch waits on. -/
structure Queue where
  record : Nat := 0
  ctx : Nat := 0
  base : Nat := 0
  n : Nat := 12
  prio : Nat := 0
  fed : Bool := false
  enabled : Bool := false
  err : Nat := 0
  head : Nat := 0
  tail : Nat := 0
  prog : Nat := 0
  captured : Option Nat := none
  state : Nat := 0
  frames : List Frame := []
  uncommitted : List Uncommitted := []
  held : Option Instr := none
  fault : Option Nat := none
  deriving DecidableEq, Repr

/-! ### Partitions, start, errors and power (14, 15, 17) -/

/-- An invalidation under way (R394): context, first page, number of pages (0 for all), the number of the first access after its start, and
whether tlbdone counts it; for a hand-over, the pages that it has given to the host (R401). -/
structure Inval where
  ctx : Nat
  page : Nat
  pages : Nat
  upto : Nat
  counted : Bool
  taken : List Nat := []
  deriving DecidableEq, Repr

/-- A partition's register page (R403, R408): registers software writes, by offset; fault serial and ring tail; hdone, cdone, tlbdone; queued
hand-over and context commands; the hand-over, the destroy and the reload under way; invalidations in order. -/
structure Page where
  regs : Table W64 := []
  serial : Nat := 0
  frtail : Nat := 0
  hdone : W64 := 0#64
  cdone : W64 := 0#64
  tlbdone : Nat := 0
  handovers : List (List W64) := []
  commands : List (List W64) := []
  acquiring : Option Inval := none
  destroying : Option (Nat × Nat) := none
  reloading : Option Inval := none
  invals : List Inval := []
  deriving DecidableEq, Repr

/-- What one stack's controls hold (R450, R453, R454, R456): actreg, chwid, channels halved for heat, the lim to restore, SRAM spares left. -/
structure Stack where
  lim : Nat := 0xFFFF
  win : Nat := 1024
  lanef : W32 := 0#32
  half : W32 := 0#32
  hot : Bool := false
  cool : Nat := 0xFFFF
  sramSpares : Nat := 16
  sramLost : Nat := 0
  deriving DecidableEq, Repr

/-- A step of the power controller that can be undone (R455): the lim of each stack it lowered, or the clock of each die, as before it. -/
inductive PowerStep where
  | lims (old : List (Nat × Nat))
  | clocks (old : List (Nat × Nat))
  deriving DecidableEq, Repr

/-- What flash, fuses and counters keep through a reset (R420, R421, R452, R459): the image, the repair log as (structure, unit, entry), revoked
key indices, minimum SVN, next leaf of the identity key. -/
structure Flash where
  image : Option (List Byte) := none
  repairs : List (Nat × Nat × Nat) := []
  revoked : BitVec 4 := 0#4
  minSvn : Nat := 0
  leaf : Nat := 0
  deriving DecidableEq, Repr

/-- A targeted self-test under way (R449): the site and whether its error was corrected. -/
structure Test where
  site : Site
  corrected : Bool
  deriving DecidableEq, Repr

/-- Answers of the SPDM responder (R422). -/
inductive Reply where
  | version (v : Nat)
  | capabilities
  | algorithms (asym hash meas : Bool)
  | digests (slotMask : Nat) (digest : Nat)
  /-- Bytes of the chain from an offset, and how many follow them. -/
  | certificate (bytes : List Byte) (left : Nat)
  /-- The ECDSA signature of a signed answer; its HSS signature is that of `vendor`, over the same message hash. -/
  | challengeAuth (nonce : BitVec 256) (ecdsa : Nat)
  | measurements (blocks : List (Nat × Nat)) (ecdsa : Nat)
  /-- The companion list, as each certificate's issuer key and HSS signature, and the HSS signature of the latest signed answer. -/
  | vendor (companion : List (Nat × Nat)) (hss : Nat)
  | error
  deriving DecidableEq, Repr

/-- What leaves the device. -/
inductive Out where
  /-- An answer to a host access of BAR2, or Unsupported Request (R403). -/
  | bar2 (x : Nat)
  | unsupported
  /-- An SPDM answer; the test port's output bit, identification code and scan data (R422, R461). -/
  | spdm (r : Reply)
  | tdo (b : Bool)
  | idcode (x : Nat)
  | scan
  | msix (vector : Nat)
  | mctpEvent (record : List W32)
  /-- A flit on a port, and a port's request to send again from a sequence number. -/
  | flit (port : Nat) (f : Flit)
  | replayFrom (port : Nat) (seq : BitVec 12)
  /-- Stop and go of a port's channels with no flit to carry them (R278). -/
  | flow (port : Nat) (stop go : BitVec 5)
  /-- A datagram to a scale-out peer, in the traffic class of a channel: sequence number, acknowledgement, packets (R303). -/
  | datagram (peer : FarEntry) (channel : Nat) (seq ack : BitVec 32) (ps : List Packet)
  deriving DecidableEq, Repr

/-- The machine. -/
structure State where
  agenda : List Turn := []
  cur : Agent := .none
  tick : Nat := 0
  nextId : Nat := 0
  outbox : List Out := []
  /-- Timestamp counter in ns (R301). -/
  time : Nat := 0
  threads : Table Thread := []
  groups : Table Group := []
  blocks : Table Block := []
  fills : Table Fill := []
  /-- Physical memory (R384), poisoned sectors of every space, and the other spaces by their key. -/
  mem : Memory := []
  spaces : Table Memory := []
  poison : Table Unit := []
  /-- Requests of the memory units not yet finished (R28, R37, R209). -/
  reqs : Table Req := []
  copies : Table Copy := []
  counts : Table Count := []
  /-- Own package number in its scale-up domain. -/
  package : Nat := 0
  ports : Table Port := []
  /-- The scale-out map and its peers, by map index (R303). -/
  farMap : Table FarEntry := []
  fars : Table Far := []
  /-- Outstanding remote operations by requester tag; tags of operations that have timed out, whose responses are still to come; responses to blocks
  that are moving; responses that frozen masters have discarded (R284, R285, R411, R417). -/
  remote : Table RemoteOp := []
  late : Table Unit := []
  landed : List Landed := []
  discarded : Nat := 0
  /-- Inbound windows (R281). -/
  inbound : Table (BitVec 128) := []
  heldPackets : Table HeldPacket := []
  early : List Early := []
  boxes : List HopBox := []
  colls : Table Coll := []
  /-- Bank-engine contexts in use, context c of engine e of stack s at 256 s + 4 e + c; the context that issued last, by engine (R160); heaps; near grids and opens; launch packets as
  (work, stack) and blocks waiting at a stack controller as (work, block) (R158, R362 to R369). -/
  engines : Table BeCtx := []
  beLast : Table Nat := []
  heaps : Table BeHeap := []
  nearWork : Table NearWork := []
  nearPackets : Table (Nat × Nat) := []
  nearQueue : Table (List (Nat × Nat)) := []
  /-- Code images by near work and stack, at 16 w + s (R361). -/
  images : Table (List W32) := []
  opens : Table Open := []
  openSerial : Nat := 0
  commands : Table Command := []
  /-- Searches in the order of admission, stored walkers by engine, hops and spawns under way, and ends of walkers on their way home with
  whether the walker stopped (R374 to R378). -/
  searches : Table Search := []
  walkers : Table (List Walker) := []
  registrations : Table Registration := []
  endNotices : Table (Nat × Nat × Bool) := []
  /-- Timestamp status (R301, R302): lock, master, ptp, offset, when a SYNC last arrived, intervals within 20 ns, first lock made. -/
  lock : Bool := false
  master : Bool := false
  ptp : Bool := false
  off : Int := 0
  syncAt : Nat := 0
  syncGood : Nat := 0
  /-- When a SYNC of each package last arrived; the master that management has named. -/
  heard : Table Nat := []
  namedMaster : Option Nat := none
  stepped : Bool := false
  /-- Rate correction of the counter in ppm, the part of a tick it has run up, in millionths, and whether the master's SYNC has come in this
  interval (R301). -/
  rate : Int := 0
  frac : Nat := 0
  syncSeen : Bool := false
  /-- Frozen masters, as (kind, index, context named, if one is) (R417). -/
  frozenMasters : List (Nat × Nat × Option Nat) := []
  /-- Cached translations and walks under way, by context and 64 KiB page (R393). -/
  tlb : Table Leaf := []
  walks : Table Unit := []
  faults : Table FaultRec := []
  contexts : Table Context := []
  partitions : Table Partition := []
  cores : Table Core := []
  /-- Events pending for the command cores, oldest first, and the one each core handles (R338). -/
  events : List CmdEvent := []
  commanding : Table CmdEvent := []
  /-- Queue slots, grids, records posted, open bins in the order of opening (R332, R340, R345). -/
  queues : Table Queue := []
  grids : Table Grid := []
  posted : Table Posted := []
  bins : Table Bin := []
  /-- Tile bitmaps registered by accepted grids, the latest first: context, address, blocks (R340, R342). -/
  bitmaps : List (Nat × Nat × Nat) := []
  /-- Entries of the matrix slot table by 64 × die + entry, slot lengths in µs where not 1,000, and the slot last applied, by die (R138, R139). -/
  slotTable : Table Nat := []
  mslen : Table Nat := []
  slotSeen : Table Nat := []
  /-- Way masks and quotas by 8 × die + partition, where not at reset (R216). -/
  l2wm : Table W32 := []
  l2cq : Table W32 := []
  /-- Scheduling ticks made, and milliseconds the watchdog has sampled (R355, R357). -/
  ticks : Nat := 0
  samples : Nat := 0
  pages : Table Page := []
  /-- Start stage, 3 for full function, its error, the safe page, and what survives a reset (R457 to R459). -/
  stage : Nat := 0
  startErr : Nat := 0
  fwaddr : W64 := 0#64
  fwlen : W64 := 0#64
  fwst : Nat := 0
  flash : Flash := {}
  running : Option (List Byte) := none
  /-- All clocks stopped; a freeze since cold power-up, scan used; thermal trip (R456, R460, R461). -/
  frozen : Bool := false
  froze : Bool := false
  scanned : Bool := false
  tripped : Bool := false
  /-- Stacks, clock of each die in MHz, the controller's steps, power and hottest sensor as pwrst shows them (R454, R455). -/
  stackSet : Table Stack := []
  clocks : Table Nat := []
  powerSteps : List PowerStep := []
  watts : Nat := 0
  hottest : Nat := 0
  /-- Self-tests under way, spare rows used by bank, scratch spares used by die, scratch blocks that read poisoned for good by 2,048 × die +
  block, line frames, cache lines disabled as (structure, unit) (R449, R450). -/
  tests : Table Test := []
  rowSpares : Table Nat := []
  scratchSpares : Table Nat := []
  lost : Table Unit := []
  disabled : List (Nat × Nat) := []
  /-- The SPDM responder: version given, capabilities given, algorithms agreed, number of signed answers given, the message hash of the latest (R422). -/
  spdmStage : Nat := 0
  signed : Nat := 0
  lastSigned : Option Nat := none
  alias_ : Bool := false
  lsplit : Nat := 0
  /-- The host completes AtomicOps (R388). -/
  hostAtomics : Bool := true
  deviceRing : List (List W32) := []
  deviceWaiting : List (List W32) := []
  deviceLost : Nat := 0
  deriving DecidableEq, Repr

/-- Why a step stops the machine. -/
inductive Fault where
  /-- No run raises it: every stop of the device is a state of the device. Safe. -/
  | none
  deriving DecidableEq, Repr

/-- Why an instruction has no meaning. -/
inductive Refusal where
  /-- Raised by exec for an instruction whose meaning is not written yet. Safe. -/
  | notModelled (mnemonic : String)
  deriving DecidableEq, Repr

/-- Every resource, for a given lsplit: striped memory with a save area of its last 4 GiB, every unit, slot, context, window and way (R404; the
size of the save area is DESIGN CHOICE, log 20). -/
def Partition.whole (lsplit : Nat) : Partition :=
  let n := 48 * (16 - lsplit)
  { valid := true, clusters := BitVec.allOnes 32, stackSet := BitVec.allOnes 12
    memory := [(0, n - 4)], save := (n - 4, min n 4), scratch0 := (0, 1024), scratch1 := (0, 1024), slots := (0, 1024), contexts := (0, 4096)
    windows := (0, 4096), entries0 := (0, 64), entries1 := (0, 64), ways := BitVec.allOnes 16 }

/-- The machine right after reset: stage 0, nothing running, partition 0 holding every resource (R404, R457); each field else at its default. -/
def State.reset : State := { partitions := [(0, Partition.whole 0)] }

end Sys2Proof.Machine
end

