-- ==== Sys2Proof/Machine/Ops.lean ====
section
/-! DEFINITION. Named operations on the state: access to threads, groups and blocks, program counters, taking a trap and
returning from one, and the end of a pass (02, 11, 16). -/

namespace Sys2Proof.Machine

/-! ### Access -/

/-- The key of a group in the group table. -/
def gkey (b g : Nat) : Nat := b * 32 + g
/-- The key of a thread in the thread table. -/
def tkey (gk t : Nat) : Nat := gk * 32 + t

def State.thread (s : State) (k : Nat) : Thread := Table.get {} s.threads k
def State.setThread (s : State) (k : Nat) (th : Thread) : State := { s with threads := Table.put s.threads k th }
def State.modThread (s : State) (k : Nat) (f : Thread → Thread) : State := { s with threads := Table.modify s.threads k f }
def State.group (s : State) (gk : Nat) : Group := Table.get {} s.groups gk
def State.setGroup (s : State) (gk : Nat) (gr : Group) : State := { s with groups := Table.put s.groups gk gr }
def State.modGroup (s : State) (gk : Nat) (f : Group → Group) : State := { s with groups := Table.modify s.groups gk f }
def State.block (s : State) (b : Nat) : Block := Table.get {} s.blocks b
def State.setBlock (s : State) (b : Nat) (bl : Block) : State := { s with blocks := Table.put s.blocks b bl }
def State.modBlock (s : State) (b : Nat) (f : Block → Block) : State := { s with blocks := Table.modify s.blocks b f }

/-- Bits `lo` to `lo + n - 1` of a number. -/
def fieldOf (x lo n : Nat) : Nat := (x / 2 ^ lo) % 2 ^ n

/-! What a core holds: its fields of corecap (R451). -/

def State.core (s : State) (n : Nat) : Core := Table.get {} s.cores n
def State.modCore (s : State) (n : Nat) (f : Core → Core) : State := { s with cores := Table.put s.cores n (f (s.core n)) }

def Core.me (c : Core) : Bool := c.corecap.getLsbD 29
def Core.trk (c : Core) : Nat := fieldOf c.corecap.toNat 23 6
def Core.gs (c : Core) : Nat := fieldOf c.corecap.toNat 16 7
def Core.shm (c : Core) : Nat := fieldOf c.corecap.toNat 9 7
def Core.reg (c : Core) : Nat := fieldOf c.corecap.toNat 0 9

/-- The key of the group an issue belongs to. -/
def Issue.gk (i : Issue) : Nat := gkey i.b i.g
/-- The key of lane `t` of an issue's group. -/
def Issue.tk (i : Issue) (t : Nat) : Nat := tkey i.gk t

/-! ### Sets of threads -/

/-- The threads of a mask in ascending index (R4). -/
def lanesOf (m : W32) : List Nat := (List.range 32).filter (fun t => m.getLsbD t)
/-- The mask of a list of threads. -/
def maskOf (l : List Nat) : W32 := l.foldl (fun m t => m ||| ((1#32) <<< t)) 0#32
/-- The first thread of a mask (R31); 0 for the empty one. -/
def firstLane (m : W32) : Nat := ((lanesOf m).head?).getD 0

/-- The threads of a group that are present and satisfy a condition. -/
def State.lanesWhere (s : State) (gk : Nat) (f : Thread → Bool) : List Nat :=
  (List.range 32).filter (fun t => match Table.find s.threads (tkey gk t) with
    | some th => f th
    | none => false)

/-- The thread can stand in a path: neither exited, parked nor waiting (R31). -/
def Thread.running (th : Thread) : Bool := !th.exited && th.park == .none && th.wait.isNone

/-! ### Program counters (R25, R40) -/

def pcAddr (pc : W64) : W64 := pc &&& 0x01FFFFFFFFFFFFFC#64
def pcWidx (pc : W64) : Nat := ((pc >>> 57) &&& 0xF#64).toNat
def mkPc (addr : W64) (widx : Nat) : W64 := (addr &&& 0x01FFFFFFFFFFFFFC#64) ||| (BitVec.ofNat 64 (widx % 16) <<< 57)

/-- The program counter of the issued word, in tpc layout (R25). -/
def Issue.pc (i : Issue) : W64 := mkPc (i.hdr + BitVec.ofNat 64 (4 * i.widx)) i.widx
/-- The clause header that follows the issue's clause (R34). -/
def Issue.nextClause (i : Issue) : W64 := mkPc (i.hdr + BitVec.ofNat 64 (4 * (i.count + 1))) 0
/-- The word after the issued one: in its clause, or the next clause header (R427). -/
def Issue.nextPc (i : Issue) : W64 :=
  if i.count < i.widx + i.len then i.nextClause
  else mkPc (i.hdr + BitVec.ofNat 64 (4 * (i.widx + i.len))) (i.widx + i.len)
/-- The issued word is the last of its clause. -/
def Issue.last (i : Issue) : Bool := decide (i.count < i.widx + i.len)
/-- The issued word ends its clause: it is the last one, and, in a macro, the last of the body (R39). -/
def Issue.ends (i : Issue) : Bool :=
  i.last && (match i.body with
    | none => true
    | some p => decide (p.size ≤ p.k + p.len))
/-- A branch target at a signed number of words from the clause header (R44, R319). -/
def Issue.target (i : Issue) (off : Int) : W64 := mkPc (i.hdr + BitVec.ofInt 64 (4 * off)) 0

/-! ### Active threads (R31) -/

/-- A guard holds for a thread: gn = 0 with guard 0 is unguarded (R46). -/
def guardHolds (guard : BitVec 3) (gn : Bool) (th : Thread) : Bool :=
  if guard == 0#3 && !gn then true else th.p.getLsbD guard.toNat != gn
/-- The guard of an extension word. -/
def extGuard (x : Option Ext) (th : Thread) : Bool :=
  match x with
  | none => true
  | some e => guardHolds e.guard e.gn th

/-- The active threads of an issue: on its path, em set, guard holding (R31). -/
def State.active (s : State) (i : Issue) (guard : Thread → Bool) : List Nat :=
  (lanesOf i.path).filter (fun t => (s.thread (i.tk t)).em && guard (s.thread (i.tk t)))

/-! ### Reports -/

/-- Sends a record to the device event ring: the ring holds 4,096, the safety core 256 more, the rest are counted; vector
1,040 and an MCTP event go out (R417, R448). -/
def State.deviceEvent (s : State) (r : List W32) : State :=
  let s := { s with outbox := s.outbox ++ [Out.msix 1040, Out.mctpEvent r] }
  if s.deviceRing.length < 4096 then { s with deviceRing := s.deviceRing ++ [r] }
  else if s.deviceWaiting.length < 256 then { s with deviceWaiting := s.deviceWaiting ++ [r] }
  else { s with deviceLost := s.deviceLost + 1 }

/-- The low and high words of a 64-bit value. -/
def lo32 (x : W64) : W32 := x.setWidth 32
def hi32 (x : W64) : W32 := (x >>> 32).setWidth 32

/-- The ordering lock of an event: that of its queue, or of its context (R338). -/
def CmdEvent.lock : CmdEvent → Option (Bool × Nat)
  | .queue n => some (true, n)
  | .change n => some (true, n)
  | .context c => some (false, c)
  | .tick _ => none

/-- An event becomes pending, unless the same one is (R338). -/
def State.post (s : State) (e : CmdEvent) : State := if s.events.contains e then s else { s with events := s.events ++ [e] }

/-- A change that the queues of a context may wait for: the end of a grid, a bit or a word (R338). -/
def State.postChange (s : State) (ctx : Nat) : State :=
  (s.queues.filter (fun e => e.2.ctx == ctx && e.2.state == 1)).foldl (fun s e => s.post (.change e.1)) s

/-- A command core holds a lock (R338). -/
def State.serves (s : State) (l : Bool × Nat) : Bool := s.commanding.any (fun e => e.2.lock == some l)

/-- A context's entry; the default one where it is not valid. -/
def State.context (s : State) (ctx : Nat) : Context := Table.get {} s.contexts ctx

/-- Work of a context retires (R357). -/
def State.pulse (s : State) (ctx : Nat) : State :=
  { s with contexts := Table.modify s.contexts ctx (fun c => { c with pulsed := true }) }

/-- Reports an event in the layout of R417: code, master, index of the unit, context, one word of detail, address, time. Events that the
manual names without a code use code 0 (log 18). -/
def State.event (s : State) (code master unit ctx detail addr : Nat) : State :=
  s.deviceEvent [BitVec.ofNat 32 (code + 16 * master), BitVec.ofNat 32 unit, BitVec.ofNat 32 (ctx + 4096 * (s.context ctx).partition),
    BitVec.ofNat 32 detail, BitVec.ofNat 32 addr, BitVec.ofNat 32 (addr / 2 ^ 32), BitVec.ofNat 32 s.time, BitVec.ofNat 32 (s.time / 2 ^ 32)]

/-- The partition of a master: that of a core's cluster or of a bank engine's stack; that of the context named for the shared ones (R404, R417). -/
def State.masterPartition (s : State) (master index ctx : Nat) : Nat :=
  let own := fun (f : Partition → Bool) => ((s.partitions.find? (fun e => e.2.valid && f e.2)).map Prod.fst).getD 0
  match master with
  | 0 | 1 => own (fun p => p.clusters.getLsbD (index / 8))
  | 2 => own (fun p => p.stackSet.getLsbD (index / 64))
  | _ => (s.context ctx).partition

/-- An isolation violation: the master is frozen and a record written; it names a context where one is involved (R416, R417). -/
def State.freeze (s : State) (code master index : Nat) (ctx : Option Nat) (addr : Nat) : State :=
  let c := ctx.getD 0
  let s := match ctx with
    | some c => s.post (.context c)
    | none => s
  { s.deviceEvent [BitVec.ofNat 32 (code + 16 * master), BitVec.ofNat 32 index, BitVec.ofNat 32 (c + 4096 * s.masterPartition master index c),
      0#32, BitVec.ofNat 32 addr, BitVec.ofNat 32 (addr / 2 ^ 32), BitVec.ofNat 32 s.time, BitVec.ofNat 32 (s.time / 2 ^ 32)] with
    frozenMasters := s.frozenMasters ++ [(master, index, ctx)] }

/-- An isolation violation that names a context. -/
def State.isolate (s : State) (code master index ctx addr : Nat) : State := s.freeze code master index (some ctx) addr

/-- A context that a core does not serve: its partition does not own the core, though another does (R405, R416 code 4). -/
def State.foreign (s : State) (core ctx : Nat) : Bool :=
  s.partitions.any (fun e => e.2.valid && e.2.clusters.getLsbD (core / 8)) && s.masterPartition 0 core ctx != (s.context ctx).partition
/-- The same of a bank engine, by its stack. -/
def State.foreignEngine (s : State) (engine ctx : Nat) : Bool :=
  s.partitions.any (fun e => e.2.valid && e.2.stackSet.getLsbD (engine / 64)) && s.masterPartition 2 engine ctx != (s.context ctx).partition

/-- A failed translation of cause 7 is reported as an isolation event and freezes nothing (R395, R416). -/
def State.reportCause (s : State) (cause core ctx va : Nat) : State := if cause == 7 then s.event 0 0 core ctx cause va else s

/-! ### Taking a trap (16 R423 to R431) -/

/-- Raises a trap on one thread: it parks at its own program counter until the pass ends, and a pending trap it takes
is no longer pending; a helper leaves its path (R10, R424, R425, R429). -/
def State.raise (s : State) (k : Nat) (r : TrapRec) : State :=
  let bl := s.block (k / 1024)
  (if r.code == 3 && r.src == 0 then s.reportCause (r.info.toNat % 16) bl.core bl.ctx r.tval.toNat else s).modThread k (fun th =>
    match th.role with
    | .helper => { th with exited := true }
    | .live =>
      { th with
        park := .raised r
        pendRemote := if th.pendRemote = some r then none else th.pendRemote
        pendNear := if th.pendNear = some r then none else th.pendNear })

/-- Raises one trap on every thread of the path (R424). -/
def State.raiseAll (s : State) (i : Issue) (r : TrapRec) : State :=
  (lanesOf i.path).foldl (fun s t => s.raise (i.tk t) r) s

/-- tcause of a trap, without the th bit, which is read live (R431). -/
def TrapRec.cause (r : TrapRec) : W32 :=
  BitVec.ofNat 32 (r.code + (if r.more then 2048 else 0) + 4096 * (r.src % 16))

/-- The record of an unhandled trap, with the group's slot on its core (R428). -/
def State.unhandled (s : State) (b g t : Nat) (code : Nat) (tepc : W64) : State :=
  let bl := s.block b
  s.event 7 0 bl.core bl.ctx (code % 32 + 32 * t + 1024 * ((bl.slot + g) % 64)) tepc.toNat

/-- The trap state of a thread, written as R427 has it: `tnpc` is the word after the parked one. -/
def Thread.record (th : Thread) (r : TrapRec) (tnpc word : W64) (tpix : W32) : Thread :=
  { th with tcause := r.cause, tepc := th.tpc, tnpc := tnpc, tval := r.tval, tinfo := r.info
            torg := r.origin.getD th.tpc, tword := word, tpix := tpix, wait := none }

/-- What a trapped word had begun stays for ERET.retry, while the handler begins anew (R30, R225). -/
def Thread.suspend (th : Thread) : Thread :=
  { th with kept := if th.replay.isSome || th.slot.isSome then some { pc := th.tpc, replay := th.replay == some th.tpc, slot := th.slot } else none
            replay := none, slot := none, waitFrom := none }

/-- Delivers a trap to a thread: into its group's handler, where the group then chooses by weight, or unhandled where thv is 0 or the thread is
in its handler already (R427, R428). A helper is never delivered (R429). -/
def State.deliver (s : State) (b g t : Nat) (r : TrapRec) (tnpc word : W64) : State :=
  let k := tkey (gkey b g) t
  let th := s.thread k
  let gr := s.group (gkey b g)
  let th' := th.record r tnpc word (if gr.pixOwner.getLsbD t then gr.pix else 0#32)
  match th.role with
  | .helper => s.setThread k { th with exited := true, wait := none }
  | .live =>
    if gr.thv == 0#64 || th.th then
      (s.setThread k { th' with park := .dead }).unhandled b g t r.code th.tpc
    else (s.setThread k { th'.suspend with th := true, park := .none, inMacro := .none, tpc := mkPc gr.thv 0 }).modGroup (gkey b g) (fun gr =>
      { gr with pick := if gr.pick == .age then .age else .weight })

/-- Gives up pix after an owner of it trapped (R434). -/
def State.dropPix (s : State) (gk : Nat) (ts : List Nat) : State :=
  s.modGroup gk (fun gr => if ts.any gr.pixOwner.getLsbD then { gr with pix := 0#32, pixOwner := 0#32 } else gr)

/-- The trap that the issued word has raised on a thread: of its path, or parked at the word since the word began to hold (R306, R426). -/
def State.raisedBy (s : State) (i : Issue) (t : Nat) : Option TrapRec :=
  let th := s.thread (i.tk t)
  match th.park with
  | .raised r => if i.path.getLsbD t || th.tpc == i.pc then some r else none
  | _ => none

/-- Delivers every trap that the word has raised (R426, R427). -/
def State.deliverAll (s : State) (i : Issue) : State :=
  let ts := (List.range 32).filterMap (fun t => (s.raisedBy i t).map (fun r => (t, r)))
  if ts.isEmpty then s
  else (ts.foldl (fun s p => s.deliver i.b i.g p.1 p.2 i.nextPc i.word) s).dropPix i.gk (ts.map Prod.fst)

/-! ### Rejoin sets: completion and orphans (11 R311 to R314) -/

def Group.set (gr : Group) (n : Nat) : JSet := Table.get {} gr.j n
def Group.putSet (gr : Group) (n : Nat) (js : JSet) : Group := { gr with j := Table.set {} gr.j n js }

/-- The thread waits on `w`. -/
def Thread.waitsOn (w : SetWait) (th : Thread) : Bool :=
  match th.wait with
  | some q => decide (q.on = w)
  | none => false

/-- The threads waiting on `w`, helpers alongside among them. -/
def State.waiters (s : State) (gk : Nat) (w : SetWait) : List Nat := s.lanesWhere gk (Thread.waitsOn w)

/-- The threads waiting on `w` go on at the word after their own JWAIT (R312). -/
def State.release (s : State) (gk : Nat) (w : SetWait) : State :=
  (s.waiters gk w).foldl (fun s t => s.modThread (tkey gk t) (fun th => match th.wait with
    | some q => { th with wait := none, tpc := q.next }
    | none => th)) s

/-- Moves the threads waiting on `w` to wait on `w'` (R317). -/
def State.rewait (s : State) (gk : Nat) (w w' : SetWait) : State :=
  (s.waiters gk w).foldl (fun s t => s.modThread (tkey gk t) (fun th => { th with wait := th.wait.map (fun q => { q with on := w' }) })) s

/-- Completes set `n` if its members have all arrived (R312). -/
def State.testComplete (s : State) (gk : Nat) (n : Nat) : State :=
  let js := (s.group gk).set n
  if js.state == .opened && js.member != 0#32 && js.member == js.arrived then
    (s.modGroup gk (fun gr => { gr.putSet n { js with state := .released, arrived := 0#32 } with pick := .weight })).release gk (.set n)
  else s

/-- ORPHAN_SET on one waiting thread, case 1 to 3 (R314, R423): it parks at its JWAIT and is delivered. -/
def State.orphan (s : State) (b g t case : Nat) : State :=
  match (s.thread (tkey (gkey b g) t)).wait with
  | none => s
  | some q => s.deliver b g t { code := 10, info := BitVec.ofNat 64 (q.jn % 16 + 256 * case) } q.next q.word

/-- Every thread waiting on a discarded set or slot takes ORPHAN_SET, case 2 (R314). -/
def State.orphanAll (s : State) (b g : Nat) (w : SetWait) : State :=
  (s.waiters (gkey b g) w).foldl (fun s t => s.orphan b g t 2) s

/-- The numbers of the rejoin sets. -/
def setNumbers : List Nat := List.range 16

/-- Some live set with waiting threads has a parked member that has not arrived (R314 case 3). -/
def State.completable (s : State) (gk : Nat) : Bool :=
  let gr := s.group gk
  let parked := maskOf (s.lanesWhere gk (fun th => !th.exited && th.park != .none))
  setNumbers.any (fun n => !(s.waiters gk (.set n)).isEmpty
    && (((gr.set n).member &&& ~~~(gr.set n).arrived) &&& parked) != 0#32)

/-- Deadlock: a thread waits, every thread that could run waits or is parked, and no set can complete (R314 case 3). -/
def State.deadlocked (s : State) (gk : Nat) : Bool :=
  !(s.lanesWhere gk (fun th => th.wait.isSome && th.role == Role.live)).isEmpty
    && (s.lanesWhere gk (fun th => th.role == Role.live && th.running)).isEmpty
    && !s.completable gk

/-- Every waiting thread takes ORPHAN_SET and its arrival is withdrawn, where R314 case 3 holds. -/
def State.orphanCheck (s : State) (b g : Nat) : State :=
  let gk := gkey b g
  if s.deadlocked gk then
    let ts := s.lanesWhere gk (fun th => th.wait.isSome)
    let s := s.modGroup gk (fun gr => { gr with j := gr.j.map (fun e => (e.1, { e.2 with arrived := e.2.arrived &&& ~~~maskOf ts })) })
    ts.foldl (fun s t => s.orphan b g t 3) s
  else s

/-- Takes threads out of the members of set `n` (R311). -/
def JSet.quit (js : JSet) (q : W32) : JSet :=
  match js.state with
  | .free => js
  | st =>
    let m := js.member &&& ~~~q
    if m == 0#32 then {} else { state := st, member := m, arrived := js.arrived &&& m }

/-! ### The end of a pass (11 R305 to R307, 12 R352) -/

/-- A thread of the path that neither trapped, exited nor waits takes the next word; in a macro the next body word, and past
the last one the word after the MCALL (R31, R58). -/
def Issue.advance (i : Issue) (th : Thread) : Thread :=
  if th.running then
    match i.body with
    | some p =>
      if p.k + p.len < p.size then { th with tmw := BitVec.ofNat 5 (p.k + p.len) }
      else { th with tmw := 0#5, inMacro := .none, tpc := i.nextPc }
    | none => { th with tpc := i.nextPc }
  else th

/-- Ages of the group's threads after a pass: zero for those that issued (R307). -/
def State.ageGroup (s : State) (i : Issue) : State :=
  (s.lanesWhere i.gk (fun th => !th.exited)).foldl (fun s t =>
    s.modThread (i.tk t) (fun th => { th with age := if i.path.getLsbD t then 0 else th.age + 1 })) s

/-- The issuing path stays one path: all its threads run on at one place (R307). -/
def State.together (s : State) (i : Issue) : Bool :=
  let ths := (lanesOf i.path).map (fun t => s.thread (i.tk t))
  match ths with
  | [] => false
  | a :: rest => a.running && rest.all (fun th => th.running && th.tpc == a.tpc && th.inMacro == a.inMacro && (th.inMacro == .none || th.tmw == a.tmw))

/-- Every live thread of the group has exited (R319). -/
def State.allExited (s : State) (gk : Nat) : Bool := (s.lanesWhere gk (fun th => th.role == Role.live && !th.exited)).isEmpty

/-! ### Tracks (12 R352) -/

/-- The threads of a group that a hold keeps at its word. -/
def Group.held (gr : Group) : W32 := gr.holds.foldl (fun m h => m ||| h.mask) 0#32

/-- The threads that stand on runnable paths: running, not held, and not where a held path stands (R306). -/
def State.freeLanes (s : State) (gk : Nat) : List Nat :=
  let gr := s.group gk
  let at_ := gr.holds.map (fun h => (s.thread (tkey gk (firstLane h.mask))).tpc)
  (s.lanesWhere gk Thread.running).filter (fun t => !gr.held.getLsbD t && !at_.contains (s.thread (tkey gk t)).tpc)

/-- The group has a runnable path, or a pass under way (R306). -/
def State.hasRunnable (s : State) (gk : Nat) : Bool :=
  let gr := s.group gk
  !gr.ended && (gr.pass.isSome || !(s.freeLanes gk).isEmpty)

/-- The groups of the blocks resident on a core. -/
def State.groupsOn (s : State) (core : Nat) : List Nat :=
  (s.groups.filter (fun e => match Table.find s.blocks (e.1 / 32) with
    | some bl => bl.core == core && bl.place == Place.resident
    | none => false)).map Prod.fst

/-- A core that is frozen, itself or by its copy engine, does nothing and discards what is addressed to it (R417). -/
def State.coreFrozen (s : State) (core : Nat) : Bool := s.frozenMasters.any (fun m => (m.1 == 0 || m.1 == 1) && m.2.1 == core)
/-- The fabric ingress of a port is frozen (R417). -/
def State.portFrozen (s : State) (port : Nat) : Bool := s.frozenMasters.any (fun m => m.1 == 3 && m.2.1 == port)
/-- A block stands on a frozen core (R417). -/
def State.inert (s : State) (b : Nat) : Bool := ((s.block b).place == .resident || (s.block b).place == .moving) && s.coreFrozen (s.block b).core
/-- What is addressed to a space is held: it is the shared memory of a block that is moving, and not of the sender itself (R411). -/
def State.heldFor (s : State) (own : Nat) (sp : Space) : Bool :=
  match sp with
  | .shared b => b != own && (s.block b).place == .moving
  | _ => false
/-- A response addressed to a frozen master is discarded and counted (R417). -/
def State.discard (s : State) : State := { s with discarded := s.discarded + 1 }

/-- The arithmetic clock of a die in MHz (R3, R454). -/
def State.clock (s : State) (die : Nat) : Nat := Table.get 2700 s.clocks die

/-- The counter advances by ticks of the wall clock, run faster or slower by its rate correction in millionths (R301). -/
def State.passTime (s : State) (ticks : Nat) : State :=
  let n := s.frac + (ticks * (1000000 + s.rate)).toNat
  { s with time := s.time + n / 1000000, frac := n % 1000000 }

/-- Cycles of a core's arithmetic clock since a time of the counter, which is in ns (R3). -/
def State.cyclesSince (s : State) (core since : Nat) : Nat := (s.time - since) * s.clock (core / 128) / 1000

/-- Another group of the core waits for a track: it has begun to wait, or it could run. -/
def State.othersWait (s : State) (gk : Nat) : Bool :=
  (s.groupsOn (s.block (gk / 32)).core).any (fun k => k != gk && (s.group k).track.isNone && ((s.group k).waitSince.isSome || s.hasRunnable k))

/-- A group gives up its track, to its claimant if there is one; it waits from now on if it can run (R352). -/
def State.dropTrack (s : State) (gk : Nat) : State :=
  let gr := s.group gk
  match gr.track with
  | none => s
  | some tr =>
    let s := s.modGroup gk (fun gr => { gr with track := none, trackPasses := 0, claimedBy := none, waitSince := some s.time })
    match gr.claimedBy with
    | none => s
    | some c => s.modGroup c (fun g => { g with track := some tr, trackPasses := 0, trackSince := s.time, waitSince := none })

/-- After a pass, or when a path holds: a group without a runnable path, ended, claimed, or, while another waits, spinning or with 512 passes
issued, gives up its track (R352). -/
def State.settleTrack (s : State) (i : Issue) : State :=
  let gr := s.group i.gk
  if !s.hasRunnable i.gk || gr.claimedBy.isSome || (((i.ends && i.yield == 2) || 512 ≤ gr.trackPasses) && s.othersWait i.gk) then s.dropTrack i.gk
  else s

/-- What the end of every pass does after the instruction's own effect: traps are delivered, ages and the rotation counter
advance, the next choice is named, a hint of the clause takes effect, deadlock is tested, and the group ends with its last
live thread (R39, R307, R314, R319, R427). -/
def State.closePass (s : State) (i : Issue) : State :=
  let s := (s.deliverAll i).ageGroup i
  let keep := s.together i
  let s := s.modGroup i.gk (fun gr =>
    { gr with
      pass := none
      holds := gr.holds.filter (fun h => decide (h.mask ≠ i.path))
      rotation := gr.rotation + 1
      issuing := i.path
      trackPasses := gr.trackPasses + 1
      pick := if i.ends && i.yield != 0 then .age else if keep && gr.pick == .keep then .keep
              else if gr.pick == .age then .age else .weight
      spinning := if i.ends then i.yield == 2 else gr.spinning })
  let s := (s.orphanCheck i.b i.g).pulse (s.block i.b).ctx
  let s := if s.allExited i.gk then s.modGroup i.gk (fun gr => { gr with ended := true }) else s
  s.settleTrack i

/-- Ends a pass whose threads in `adv` take the next word (R31, R305). -/
def State.endPassFor (s : State) (i : Issue) (adv : W32) : State :=
  ((lanesOf adv).foldl (fun s t => s.modThread (i.tk t) i.advance) s).closePass i

/-- Ends a pass: every thread of the path that is still running takes the next word. -/
def State.endPass (s : State) (i : Issue) : State := s.endPassFor i i.path

/-- Ends a once-per-pass word that trapped: every thread of the path takes the trap (R424). -/
def State.trapPath (s : State) (i : Issue) (r : TrapRec) : State := (s.raiseAll i r).closePass i

/-- Ends a pass in which every active thread takes a trap and the others take the next word. -/
def State.trapActive (s : State) (i : Issue) (act : List Nat) (r : TrapRec) : State :=
  (act.foldl (fun s t => s.raise (i.tk t) r) s).endPass i

/-- Holds the path at its word: it is not runnable until the wait ends (R306), and the group's other paths issue. -/
def State.holdPath (s : State) (i : Issue) (why : HoldKind) : State :=
  (s.modGroup i.gk (fun gr =>
    { gr with
      pass := none
      holds := { mask := i.path, why := why, issue := some i } :: gr.holds.filter (fun h => decide (h.mask ≠ i.path))
      issuing := i.path, pick := if gr.pick == .age then .age else .weight })).settleTrack i

/-- What holds the path, if it holds (R306). -/
def State.holdOf (s : State) (i : Issue) : Option HoldKind :=
  ((s.group i.gk).holds.find? (fun h => decide (h.mask = i.path))).map Hold.why

/-- Holds a pass at a thread, keeping the threads still to be visited and the carried values (R29). -/
def State.holdPass (s : State) (i : Issue) (rest : List Nat) (took : W32) (acc : List Nat) : State :=
  s.modGroup i.gk (fun gr =>
    let p := gr.pass.getD { rest := 0#32, took := 0#32, acc := [] }
    { gr with issuing := i.path, pass := some { p with rest := maskOf rest, took := took, acc := acc, issue := some i } })

/-! ### Numbered barriers and exits (09 R270, 11 R313) -/

/-- The counted threads of a block: live, not exited, of all its groups, as 32 × group + thread (R270). -/
def State.counted (s : State) (b : Nat) : List Nat :=
  (s.threads.filter (fun e => e.1 / 1024 == b && e.2.role == Role.live && !e.2.exited)).map (fun e => e.1 % 1024)

/-- Completes the open phase of barrier `n` if every counted thread, and a joined MSQ, has arrived (R270). -/
def State.testBarrier (s : State) (b n : Nat) : State :=
  let bl := s.block b
  let nb := Table.get {} bl.nb n
  if (nb.msq || !nb.arrived.isEmpty) && (s.counted b).all nb.arrived.contains && (nb.msq || !bl.mjoin.getLsbD n) then
    s.modBlock b (fun bl => { bl with nb := Table.set {} bl.nb n { phase := nb.phase + 1 } })
  else s

/-- Tests every numbered barrier of a block. -/
def State.testBarriers (s : State) (b : Nat) : State := (List.range 16).foldl (fun s n => s.testBarrier b n) s

/-- A thread exits: it leaves every rejoin set and every barrier count, and what that completes completes (R270, R313). A
helper only leaves its path (R310). -/
def State.exitThread (s : State) (b g t : Nat) : State :=
  let gk := gkey b g
  let th := s.thread (tkey gk t)
  let s := s.setThread (tkey gk t) { th with exited := true }
  match th.role with
  | .helper => s
  | .live =>
    let s := s.modGroup gk (fun gr => setNumbers.foldl (fun gr n => gr.putSet n ((gr.set n).quit (1#32 <<< t))) gr)
    (setNumbers.foldl (fun s n => s.testComplete gk n) s).testBarriers b

/-- The pending trap a thread takes at a word of R425, a remote one before a near one. -/
def Thread.pending (th : Thread) : Option TrapRec :=
  match th.role with
  | .helper => none
  | .live => match th.pendRemote with
    | some r => some r
    | none => th.pendNear

/-- A trap for a thread that has exited is unhandled: the thread is parked for good with its trap state, and its block does not end (R425, R428). It
stands at no word: its own program counter serves for what R427 takes from one (log 118). -/
def State.trapExited (s : State) (b g t : Nat) (r : TrapRec) : State :=
  let k := tkey (gkey b g) t
  let th := s.thread k
  (((s.setThread k { th.record r th.tpc 0#64 0#32 with exited := false, park := .dead }).modGroup (gkey b g) (fun gr => { gr with ended := false })).unhandled
    b g t r.code th.tpc)

/-! ### A pass over threads -/

/-- What one thread's turn of a pass comes to. -/
inductive Turned where
  /-- The turn is done; the carried values. -/
  | done (s : State) (acc : List Nat)
  /-- The pass is held at this thread (R29). -/
  | hold
  /-- The pass is held at this thread, which has asked for something (a walk). -/
  | holdWith (s : State)
  /-- The thread takes a trap; the carried values stay as they are. -/
  | trap (r : TrapRec)
  deriving DecidableEq, Repr

/-- Runs the threads of a pass in order. The result holds the threads left when it was held, those whose turn was done, and
the carried values. -/
def runLanes (i : Issue) (f : State → Nat → List Nat → Turned) (lanes : List Nat) (s : State) (took : W32) (acc : List Nat) :
    State × List Nat × W32 × List Nat :=
  match lanes with
  | [] => (s, [], took, acc)
  | t :: rest =>
    match f s t acc with
    | .done s' acc' => runLanes i f rest s' (took ||| (1#32 <<< t)) acc'
    | .hold => (s, t :: rest, took, acc)
    | .holdWith s' => (s', t :: rest, took, acc)
    | .trap r => runLanes i f rest (s.raise (i.tk t) r) took acc

/-- The threads a pass has still to visit, those done and the carried values: those of a held pass, or the active threads. -/
def State.passStart (s : State) (i : Issue) (guard : Thread → Bool) : List Nat × W32 × List Nat :=
  match (s.group i.gk).pass with
  | some p => (lanesOf p.rest, p.took, p.acc)
  | none => (s.active i guard, 0#32, [])

/-- A per-thread pass: runs the threads, and either ends the pass or holds it (R29, R305). -/
def State.perThread (s : State) (i : Issue) (guard : Thread → Bool) (f : State → Nat → List Nat → Turned) : State :=
  let st := s.passStart i guard
  let r := runLanes i f st.1 s st.2.1 st.2.2
  match r.2.1 with
  | [] => r.1.endPass i
  | rest => r.1.holdPass i rest r.2.2.1 r.2.2.2

/-- A per-thread pass of a control transfer: the threads whose turn is done have been moved, the others take the next word
(R309, R319). -/
def State.perThreadMove (s : State) (i : Issue) (guard : Thread → Bool) (f : State → Nat → List Nat → Turned) : State :=
  let st := s.passStart i guard
  let r := runLanes i f st.1 s st.2.1 st.2.2
  match r.2.1 with
  | [] => r.1.endPassFor i (i.path &&& ~~~r.2.2.1)
  | rest => r.1.holdPass i rest r.2.2.1 r.2.2.2

/-- The owner of pix at the start of its pass: threads returned to it by ERET.retry bring their tpix back (R434). -/
def State.takePix (s : State) (i : Issue) : State :=
  let th := s.thread (i.tk (firstLane i.path))
  if th.tpix != 0#32 && !th.th && th.tpc == th.tepc then
    ((lanesOf i.path).foldl (fun s t => s.modThread (i.tk t) (fun th => { th with tpix := 0#32 })) s).modGroup i.gk
      (fun gr => { gr with pix := th.tpix, pixOwner := i.path })
  else s

/-- Another instruction owns pix (R434). -/
def State.pixTaken (s : State) (i : Issue) : Bool :=
  let gr := s.group i.gk
  gr.pixOwner != 0#32 && (gr.pixOwner &&& i.path) == 0#32

end Sys2Proof.Machine
end

