-- ==== Sys2Proof/Machine/Flags.lean ====
section
/-! DEFINITION. Sticky flags and rounding modes of a group (02 R27, R47; 03 R72, R73). -/

namespace Sys2Proof.Machine

/-- SetSticky: ORs flags into fst of a group (R10, R73). -/
def State.setSticky (s : State) (gk : Nat) (fl : Flags) : State :=
  if fl == 0#6 then s else s.modGroup gk (fun gr => { gr with fst := gr.fst ||| fl.setWidth 32 })

/-- The default rounding mode rmd of a group (R27). -/
def Group.rmd (gr : Group) : RMode := RMode.ofRmd ((gr.fst >>> 10).toNat % 4)

/-- The mode that a rounding field selects (R47). -/
def modeOf (rnd : Nat) (gr : Group) : RMode :=
  match rnd with
  | 0 => gr.rmd
  | 1 => .rn
  | 2 => .rz
  | 3 => .ru
  | _ => .rd

/-- What a CSRW of fst leaves: rmd from bits 11:10, flags cleared where a 1 is written, reserved bits zero (R27, R73). -/
def writeFst (old new : W32) : W32 := (new &&& 0xC00#32) ||| (old &&& ~~~new &&& 0x3F#32)

end Sys2Proof.Machine
end

