-- ==== Sys2Proof/WellFormed.lean ====
section
/-! DEFINITION. Which words are instructions: the legality rules of each entry (R6). A register operand is described by
the number of registers it covers and where it must begin; one table, `rShape` and `iShape`, serves the
decoder and the meanings. -/

namespace Sys2Proof

/-- A register operand: how many registers it covers (0: the field is unused and must be zero), what the first register
must be a multiple of (R46, R220), and whether the field is no register operand at all but read raw by its entry, with or
without a trap-on-empty bit of its own. -/
structure Opd where
  n : Nat := 0
  align : Nat := 1
  raw : Bool := false
  ebit : Bool := false
  deriving DecidableEq, Repr

def Opd.dash : Opd := {}
def Opd.one : Opd := { n := 1 }
def Opd.pair : Opd := { n := 2, align := 2 }
def Opd.rawField : Opd := { raw := true }
/-- A field that names a buffer record (R220). -/
def Opd.recField : Opd := { raw := true, ebit := true }
/-- A run of registers from any first one (R106). -/
def Opd.run (k : Nat) : Opd := { n := k }

/-- The type codes of 64 bits (R48, R84). -/
def is64 (ty : Nat) : Bool := ty == 4 || ty == 5 || ty == 6
/-- A value operand of a type (R84). -/
def Opd.val (ty : Nat) : Opd := if is64 ty then Opd.pair else Opd.one

/-- The operands of a word. `dSrc`: d is read as well; `uni`: a destination in s is accepted. -/
structure Shape where
  d : Opd := {}
  a : Opd := {}
  b : Opd := {}
  c : Opd := {}
  dSrc : Bool := false
  uni : Bool := true
  xoOk : Bool := true
  deriving DecidableEq, Repr

/-- An extension field, or its default without an extension (R45, R85). -/
def extTy (d : Nat) (x : Option Ext) : Nat := match x with | some e => e.ty.toNat | none => d
def extRnd (x : Option Ext) : Nat := match x with | some e => e.rnd.toNat | none => 0
def extSub (x : Option Ext) : Nat := match x with | some e => e.sub.toNat | none => 0
def extXo (x : Option Ext) : Nat := match x with | some e => e.xo.toNat | none => 0
def extXs (x : Option Ext) : Nat := match x with | some e => e.xs.toNat | none => 0
def extC (x : Option Ext) : BitVec 7 := match x with | some e => e.c | none => 0#7
def extEc (x : Option Ext) : Bool := match x with | some e => e.ec | none => false

/-- The default type of an entry (R85, R87, R89, R91, R92, R95 to R97, R107, R111, R112, R325). BSCALE and FTRANS name none and take f32 alone: with X
clear the model takes f32 and runs them (DESIGN CHOICE, log 138). -/
def defaultType (op : Nat) : Nat :=
  if op == 0x18 then 0
  else if 0x10 ≤ op && op ≤ 0x17 then 1
  else if op == 0x27 then 1
  else if op == 0x74 || op == 0x75 then 1
  else if op == 0x35 || op == 0x36 || op == 0x37 || op == 0x39 then 0
  else if 0x30 ≤ op && op ≤ 0x3C then 1
  else if 0x40 ≤ op && op ≤ 0x53 then 3
  else if op == 0x63 || (0x65 ≤ op && op ≤ 0x69) then 3
  else if op == 0x71 || op == 0x72 || op == 0x73 || (0x76 ≤ op && op ≤ 0x79) then 3
  else if op == 0x81 || op == 0x82 || op == 0x87 then 1
  else 0

def intTypes : List Nat := [0, 1, 2, 4, 5, 11, 12, 13, 14]
def mulTypes : List Nat := [0, 1, 2, 4, 5, 11, 12]
def fourFloats : List Nat := [3, 6, 7, 8]

/-- A shape if the condition holds. -/
def shapeIf (ok : Bool) (s : Shape) : Option Shape := if ok then some s else none

/-- Floating-point rounding field (R47). -/
def rndOk (r : Nat) : Bool := decide (r ≤ 4)
/-- Integer modifier field: none or saturate (R85). -/
def satOk (r : Nat) : Bool := r == 0 || r == 5

/-- The registers a CVT code takes (R100). -/
def cvtOpd (code : Nat) : Opd := if code == 3 || code == 7 || code == 8 then Opd.pair else Opd.one

/-- The longest DOT run of a type (R106). -/
def dotMax (ty : Nat) : Nat :=
  if ty == 7 || ty == 8 then 16
  else if ty == 9 || ty == 10 || ty == 13 || ty == 14 then 8
  else if ty == 15 then 4 else 0

/-- Whether SCAN or QRED accept an operation with a type and a rounding field (R325). -/
def scanOk (op ty rnd : Nat) : Bool :=
  if op == 0 then
    (([1, 2, 4, 5].contains ty) && satOk rnd) || (([3, 6].contains ty) && rndOk rnd)
  else if op == 1 || op == 2 then [1, 2, 4, 5, 3, 6].contains ty && rnd == 0
  else if op == 3 || op == 4 || op == 5 then [0, 5].contains ty && rnd == 0
  else false

/-- The width in bits of a readable control register, if the number is listed (R26, R430). -/
def csrWidth (n : Nat) : Option Nat :=
  if n ≤ 0x00A || n == 0x010 || n == 0x011 || n == 0x015 || n == 0x016 || n == 0x100 then some 32
  else if n == 0x012 || n == 0x013 || n == 0x014 then some 64
  else if (0x101 ≤ n && n ≤ 0x106) || n == 0x108 || n == 0x110 || n == 0x111 then some 64
  else none
/-- The width of a writable control register (R442). -/
def csrwWidth (n : Nat) : Option Nat :=
  if n == 0x010 || n == 0x011 then some 32
  else if n == 0x101 || n == 0x102 || n == 0x108 then some 64
  else none

/-- Every extension field but the guard is zero (or there is no extension). -/
def guardOnly (x : Option Ext) : Bool :=
  match x with
  | none => true
  | some e => e.c == 0#7 && !e.ec && e.ty == 0#4 && e.rnd == 0#4 && e.xs == 0#2 && e.xo == 0#2 && e.sub == 0#8
/-- Every extension field but the guard and sub is zero. -/
def guardSub (x : Option Ext) : Bool :=
  match x with
  | none => true
  | some e => e.c == 0#7 && !e.ec && e.ty == 0#4 && e.rnd == 0#4 && e.xs == 0#2 && e.xo == 0#2

/-- The shapes of rows 0x1 to 0x7 in the R form (04), from the type, the rounding field, sub and whether the extension stands. -/
def aluShape (op : Nat) (f : RForm) : Option Shape :=
  let x := f.ext.isSome
  let ty := extTy (defaultType op) f.ext
  let rnd := extRnd f.ext
  let sub := extSub f.ext
  let v := Opd.val ty
  match op with
  | 0x10 => shapeIf (intTypes.contains ty && satOk rnd && sub == 0) { d := v, a := v, b := v }
  | 0x11 => shapeIf (intTypes.contains ty && satOk rnd && sub == 0) { d := v, a := v, b := v }
  | 0x12 => shapeIf (mulTypes.contains ty && satOk rnd && sub == 0) { d := v, a := v, b := v }
  | 0x13 => shapeIf ([1, 2, 4, 5].contains ty && rnd == 0 && sub == 0) { d := v, a := v, b := v }
  | 0x14 => shapeIf (x && [0, 1, 2, 4, 5].contains ty && satOk rnd && sub == 0) { d := v, a := v, b := v, c := v }
  | 0x15 => shapeIf (intTypes.contains ty && rnd == 0 && decide (sub ≤ 1)) { d := v, a := v, b := v }
  | 0x16 => shapeIf ([1, 2, 11, 12, 13, 14].contains ty && rnd == 0 && sub == 0) { d := v, a := v, b := v }
  | 0x17 => shapeIf (x && [0, 1, 2, 4, 5].contains ty && satOk rnd && sub == 0) { d := v, a := v, b := v, c := v }
  | 0x18 => shapeIf ([0, 2, 4, 5].contains ty && rnd == 0 && decide (sub < 32)) { d := v, a := v, b := Opd.one }
  | 0x20 => shapeIf ([0, 5].contains ty && rnd == 0) { d := v, a := v, b := v, c := if x then v else Opd.dash }
  | 0x21 => shapeIf ([0, 5].contains ty && rnd == 0 && decide (sub ≤ 4)) { d := v, a := v, b := Opd.one }
  | 0x22 => shapeIf ([0, 1, 2].contains ty && rnd == 0 && sub == 0) { d := v, a := v, b := v }
  | 0x23 => shapeIf (x && ty == 0 && rnd == 0 && sub == 0) { d := v, a := v, b := v, c := v }
  | 0x24 => shapeIf ([0, 5].contains ty && rnd == 0 && sub == 0) { d := Opd.one, a := v }
  | 0x25 => shapeIf ([0, 5].contains ty && rnd == 0 && sub == 0) { d := Opd.one, a := v }
  | 0x26 => shapeIf ([0, 5].contains ty && rnd == 0 && sub == 0) { d := v, a := v }
  | 0x27 =>
    let ok := [0, 1, 2, 4, 5].contains ty && rnd == 0 && (sub / 16) % 8 == 0 && decide (sub % 16 ≤ 5)
    if sub / 128 == 1 then shapeIf ok { d := Opd.one, a := v, b := v }
    else shapeIf (ok && decide (f.d.toNat < 8) && extXo f.ext != 3) { d := Opd.rawField, a := v, b := v }
  | 0x28 => shapeIf ([0, 5].contains ty && rnd == 0 && decide (sub < 16)) { d := v, a := v, b := v }
  | 0x29 =>
    shapeIf (x && ty == 0 && rnd == 0 && !f.ea && !f.eb && !extEc f.ext && extXo f.ext == 0 && extXs f.ext == 0
        && decide (f.d.toNat < 8) && decide (f.a.toNat < 8) && decide (f.b.toNat < 8) && decide ((extC f.ext).toNat < 8))
      { d := Opd.rawField, a := Opd.rawField, b := Opd.rawField, c := Opd.rawField, xoOk := false }
  | 0x2A => shapeIf ([0, 5].contains ty && rnd == 0 && sub == 0) { d := v, a := v }
  | 0x2B =>
    if sub == 0 then shapeIf (ty == 0 && rnd == 0) { d := Opd.one }
    else shapeIf (ty == 0 && rnd == 0 && decide (sub ≤ 2)) { a := Opd.one }
  | 0x40 => shapeIf (fourFloats.contains ty && rndOk rnd && sub == 0) { d := v, a := v, b := v }
  | 0x41 => shapeIf (fourFloats.contains ty && rndOk rnd && sub == 0) { d := v, a := v, b := v }
  | 0x42 => shapeIf (fourFloats.contains ty && rndOk rnd && sub == 0) { d := v, a := v, b := v }
  | 0x43 => shapeIf (x && fourFloats.contains ty && rndOk rnd && sub == 0) { d := v, a := v, b := v, c := v }
  | 0x44 => shapeIf (fourFloats.contains ty && rnd == 0 && decide (sub ≤ 1)) { d := v, a := v, b := v }
  | 0x45 => shapeIf (fourFloats.contains ty && rnd == 0 && decide (sub ≤ 1)) { d := v, a := v, b := v }
  | 0x46 =>
    let ok := [3, 6].contains ty && rnd == 0 && (sub / 16) % 8 == 0 && decide (sub % 16 ≤ 7)
    if sub / 128 == 1 then shapeIf ok { d := Opd.one, a := v, b := v }
    else shapeIf (ok && decide (f.d.toNat < 8) && extXo f.ext != 3) { d := Opd.rawField, a := v, b := v }
  | 0x47 => shapeIf ([3, 6].contains ty && rnd == 0 && sub == 0) { d := Opd.one, a := v }
  | 0x48 => shapeIf (fourFloats.contains ty && rndOk rnd && decide (sub ≤ 1)) { d := v, a := v }
  | 0x49 => shapeIf ([3, 6].contains ty && rndOk rnd && sub == 0) { d := v, a := v, b := Opd.one }
  | 0x50 => shapeIf (fourFloats.contains ty && rnd == 0 && sub == 0) { d := v, a := v }
  | 0x51 => shapeIf (fourFloats.contains ty && rnd == 0 && sub == 0) { d := v, a := v }
  | 0x52 => shapeIf (fourFloats.contains ty && rnd == 0 && decide (sub ≤ 2)) { d := v, a := v, b := v }
  | 0x53 => shapeIf (fourFloats.contains ty && rnd == 0 && sub == 0) { d := v, a := v }
  | 0x60 =>
    let dc := sub / 16
    let sc := sub % 16
    shapeIf (x && rndOk rnd && (ty / 8) % 2 == 0 && (ty / 2) % 2 == 0 && (decide (14 ≤ dc) || (ty / 4) % 2 == 0)
        && (decide (14 ≤ sc) || ty % 2 == 0))
      { d := cvtOpd dc, a := cvtOpd sc }
  | 0x61 =>
    if [7, 8, 11, 12].contains ty then shapeIf (x && rndOk rnd && sub == 0) { d := Opd.one, a := Opd.one, b := Opd.one }
    else if [9, 10, 13, 14].contains ty then
      shapeIf (x && rndOk rnd && decide (sub ≤ 1)) { d := Opd.one, a := Opd.one, b := Opd.one, dSrc := true }
    else shapeIf (x && ty == 15 && rndOk rnd && decide (sub ≤ 3)) { d := Opd.one, a := Opd.one, b := Opd.one, dSrc := true }
  | 0x62 =>
    let e := if ty == 15 then 8 else if [9, 10, 13, 14].contains ty then 4 else 2
    shapeIf (x && decide (7 ≤ ty) && rnd == 0 && decide (sub < e)) { d := Opd.one, a := Opd.one }
  | 0x63 => shapeIf (ty == 3 && rndOk rnd && decide (sub < 8)) { d := Opd.one, a := Opd.one, b := Opd.one }
  | 0x64 => shapeIf (x && ty == 0 && rnd == 0 && sub == 0) { d := Opd.one, a := Opd.one, b := Opd.one, c := Opd.one }
  | 0x70 =>
    let n := sub % 32
    let sc := sub / 128
    shapeIf (x && rnd == 0 && (sub / 32) % 4 == 0 && decide (1 ≤ n) && decide (n ≤ dotMax ty)
        && (sc == 0 || !(ty == 13 || ty == 14)))
      { d := Opd.one, a := Opd.run n, b := Opd.run (n + sc), c := Opd.one }
  | 0x71 =>
    let o := if ty == 3 then Opd.pair else Opd.one
    shapeIf (x && [3, 7, 8].contains ty && rndOk rnd && decide (sub ≤ 1)) { d := o, a := o, b := o, c := o }
  | 0x72 =>
    let o := if ty == 3 then Opd.pair else Opd.one
    shapeIf (x && [3, 7, 8].contains ty && rndOk rnd && decide (sub ≤ 1))
      { d := if ty == 3 then { n := 4, align := 2 } else Opd.pair, a := o, b := o, c := o }
  | 0x73 => shapeIf (x && ty == 3 && rnd == 0 && decide (sub < 64) && decide (sub % 32 ≤ 24)) { d := Opd.pair, a := Opd.one }
  | 0x74 => shapeIf ([0, 1, 2, 4, 5].contains ty && rnd == 0 && sub == 0) { d := v, a := v, b := v }
  | 0x75 => shapeIf ([0, 1, 2, 4, 5].contains ty && rnd == 0 && sub == 0) { d := v, a := v, b := v }
  | 0x76 => shapeIf ([3, 6].contains ty && rndOk rnd && sub == 0) { d := v, a := v, b := v }
  | 0x77 => shapeIf ([3, 6].contains ty && rndOk rnd && sub == 0) { d := v, a := v }
  | 0x78 => shapeIf ([3, 6].contains ty && rndOk rnd && sub == 0) { d := v, a := v }
  | 0x79 => shapeIf (ty == 3 && rnd == 0 && decide (sub ≤ 6)) { d := Opd.one, a := Opd.one }
  | _ => none

/-- The shapes of the exchange row 0x8 (11 R322 to R330). -/
def exchangeShape (op : Nat) (f : RForm) : Option Shape :=
  let x := f.ext.isSome
  let ty := extTy (defaultType op) f.ext
  let rnd := extRnd f.ext
  let sub := extSub f.ext
  let v := Opd.val ty
  match op with
  | 0x80 => shapeIf ([0, 5].contains ty && rnd == 0 && sub == 0) { d := v, a := v, b := v, uni := false }
  | 0x81 => shapeIf (scanOk (sub % 8) ty rnd && decide (sub < 16)) { d := v, a := v, b := v, uni := false }
  | 0x82 => shapeIf (scanOk (sub % 8) ty rnd) { d := v, a := v, b := v, uni := false }
  | 0x83 => shapeIf (x && [0, 5].contains ty && rnd == 0 && decide (sub ≤ 1)) { d := v, a := v, b := Opd.one, c := v, uni := false }
  | 0x84 =>
    shapeIf ([0, 5].contains ty && rnd == 0 && decide (sub < 96) && (decide (64 ≤ sub) || sub % 32 == 0)) { d := v, a := v }
  | 0x85 => shapeIf (ty == 0 && rnd == 0 && decide (sub < 64)) { d := Opd.one }
  | 0x86 => shapeIf ([0, 5].contains ty && rnd == 0 && decide (sub < 8)) { d := v, a := v, uni := false }
  | 0x87 => shapeIf (scanOk (sub % 8) ty rnd && decide (sub < 8)) { d := v, a := v, uni := false }
  | 0x88 => shapeIf ([0, 5].contains ty && rnd == 0 && sub == 0) { d := Opd.one, a := v, uni := false }
  | _ => none

/-- The shapes of the control and system rows, and of XADD and XGET (11 R315 to R320, 16 R440 to R444, 02 R56, R58). -/
def controlShape (op : Nat) (f : RForm) : Option Shape :=
  let plain : Shape := { xoOk := false }
  match op with
  | 0x03 => shapeIf (extTy 0 f.ext == 0 && extRnd f.ext == 0 && extSub f.ext == 0) { a := Opd.one }
  | 0x05 => shapeIf (extTy 0 f.ext == 0 && extRnd f.ext == 0 && extSub f.ext == 0) { a := Opd.pair }
  | 0x08 | 0x09 | 0x0A | 0x0B | 0x0C | 0x0D =>
    shapeIf (decide (f.d.toNat < 16) && guardOnly f.ext) { plain with d := Opd.rawField }
  | 0x0E =>
    shapeIf (decide (f.a.toNat < 16) && !f.ea && guardSub f.ext && decide (extSub f.ext ≤ 2))
      { plain with d := Opd.one, a := Opd.rawField }
  | 0xE0 =>
    shapeIf (!f.ea && !f.eb && (match f.ext with
        | none => false
        | some e => !e.ec && e.ty == 0#4 && e.rnd == 0#4 && !e.gn && e.guard == 0#3 && e.xs == 0#2 && e.xo == 0#2))
      { plain with d := Opd.rawField, a := Opd.rawField, b := Opd.rawField, c := Opd.rawField }
  | 0xE2 => shapeIf (f.ext.isNone && decide (f.d.toNat < 4)) { plain with d := Opd.rawField, a := Opd.one }
  | 0xE3 => shapeIf (f.ext.isNone && decide (f.a.toNat < 4) && !f.ea) { plain with d := Opd.one, a := Opd.rawField }
  | 0xF0 | 0xF4 => shapeIf (guardSub f.ext) plain
  | 0xF1 => shapeIf (f.ext.isNone && decide (f.d.toNat ≤ 1)) { plain with d := Opd.rawField }
  | 0xF2 =>
    match csrWidth (f.a.toNat * 32 + f.b.toNat) with
    | some w =>
      shapeIf (decide (f.b.toNat < 32) && !f.ea && !f.eb && guardOnly f.ext)
        { plain with d := if w == 64 then Opd.pair else Opd.one, a := Opd.rawField, b := Opd.rawField }
    | none => none
  | 0xF3 =>
    match csrwWidth (f.d.toNat * 32 + f.b.toNat) with
    | some w =>
      shapeIf (decide (f.b.toNat < 32) && !f.eb && guardOnly f.ext)
        { plain with d := Opd.rawField, a := if w == 64 then Opd.pair else Opd.one, b := Opd.rawField }
    | none => none
  | 0xF5 => shapeIf (guardOnly f.ext) { plain with a := Opd.one }
  | 0xF6 => shapeIf (guardSub f.ext && decide (extSub f.ext ≤ 1)) plain
  | _ => none

/-- The registers a memory size names (R220). -/
def sizeOpd (size : Nat) : Opd :=
  if size == 5 then Opd.pair else if size == 6 then { n := 4, align := 4 } else Opd.one
/-- The bytes of a memory size (R220). -/
def sizeBytes (size : Nat) : Nat :=
  if size == 1 || size == 2 then 1 else if size == 3 || size == 4 then 2 else if size == 5 then 8 else if size == 6 then 16 else 4
def loadSizeOk (size : Nat) : Bool := decide (size ≤ 6)
def storeSizeOk (size : Nat) : Bool := [0, 1, 3, 5, 6].contains size
/-- Ordering qualifier and scope (R220): scope 7 is illegal, and a plain access has scope 0. -/
def orderOk (allowed : List Nat) (ord scope : Nat) : Bool :=
  allowed.contains ord && decide (scope ≤ 6) && (ord != 0 || scope == 0)
/-- The field names a buffer record (R220). -/
def recordOk (code : BitVec 7) : Bool := decide (code.toNat < 16)
/-- Types an atomic operation accepts (R222). -/
def atomTypes (op : Nat) : List Nat :=
  if op == 0 || op == 1 then [0, 5]
  else if op == 2 || op == 3 || op == 4 then [1, 2, 4, 5]
  else if op == 5 || op == 6 || op == 7 then [0, 5]
  else if op == 8 || op == 9 then [2]
  else if op == 10 || op == 11 || op == 12 then [3, 6, 7, 8]
  else []
/-- The c operand of an atomic: one value, or a comparand and a value for .cas (R222). -/
def atomC (op ty : Nat) : Opd :=
  if op == 1 then (if is64 ty then { n := 4, align := 4 } else Opd.pair) else Opd.val ty
/-- A side of a copy: a buffer record, shared memory or scratch (R247). -/
def copySide (code : BitVec 7) : Bool := decide (code.toNat ≤ 0x11)
/-- The type codes of a reducing copy (R237). -/
def copyTypes : List Nat := [1, 2, 3, 4, 5, 6, 7, 8]
/-- Distinct registers that WSET ranges name (R228). -/
def wsetRanges (f : RForm) : List (Nat × Nat) :=
  match f.ext with
  | none => []
  | some e =>
    [(f.d.toNat, e.sub.toNat % 16), (f.a.toNat, e.sub.toNat / 16), (f.b.toNat, e.rnd.toNat), (e.c.toNat, e.ty.toNat)]
/-- The registers a list of ranges names, each once, in ascending order. -/
def wsetRegs (rs : List (Nat × Nat)) : List Nat :=
  (List.range 96).filter (fun r => rs.any (fun p => decide (p.1 ≤ r) && decide (r < p.1 + p.2)))

/-- Scope bits 5:3 of sub with the other bits zero (R253). -/
def boScope (rnd sub : Nat) : Bool := sub % 8 == 0 && decide (sub < 64) && decide (sub / 8 ≤ 6) && (rnd != 0 || sub == 0)

/-- The shapes of rows 0x9 and 0xA (07 R220 to R228). -/
def memoryShape (op : Nat) (f : RForm) : Option Shape :=
  let x := f.ext.isSome
  let ty := extTy 0 f.ext
  let rnd := extRnd f.ext
  let sub := extSub f.ext
  let size := sub % 8
  let scope := (sub / 8) % 8
  let plain := ty == 0 && decide (sub < 64)
  match op with
  | 0x90 => shapeIf (plain && loadSizeOk size && orderOk [0, 5, 8] rnd scope && recordOk f.b)
      { d := sizeOpd size, a := Opd.one, b := Opd.recField }
  | 0x91 => shapeIf (plain && storeSizeOk size && orderOk [0, 6, 8] rnd scope && recordOk f.b)
      { d := sizeOpd size, a := Opd.one, b := Opd.recField }
  | 0x92 | 0x94 => shapeIf (plain && loadSizeOk size && orderOk [0, 5, 8] rnd scope) { d := sizeOpd size, a := Opd.one }
  | 0x93 | 0x95 => shapeIf (plain && storeSizeOk size && orderOk [0, 6, 8] rnd scope) { d := sizeOpd size, a := Opd.one }
  | 0x96 | 0x97 | 0x98 =>
    let o := sub % 16
    let nr := (sub / 16) % 2 == 1
    shapeIf (x && (atomTypes o).contains ty && orderOk [0, 5, 6, 7, 8] rnd (sub / 32) && (op != 0x96 || recordOk f.b))
      { d := if nr then Opd.dash else Opd.val ty, a := Opd.one, b := if op == 0x96 then Opd.recField else Opd.dash, c := atomC o ty }
  | 0x99 | 0x9A => shapeIf (ty == 0 && satOk rnd) { d := Opd.one }
  | 0x9B => shapeIf (ty == 0 && rnd == 0 && decide (sub ≤ 1) && recordOk f.b) { a := Opd.one, b := Opd.recField }
  | 0x9C => shapeIf (plain && loadSizeOk size && rnd == 0 && scope == 0 && recordOk f.b)
      { d := sizeOpd size, a := Opd.one, b := Opd.recField }
  | 0xA0 =>
    if sub == 0 then shapeIf (ty == 0 && rnd == 0 && recordOk f.d && recordOk f.b && extXo f.ext != 3)
      { d := Opd.rawField, a := Opd.one, b := Opd.recField }
    else shapeIf (ty == 0 && rnd == 0 && sub == 1 && recordOk f.d && extXo f.ext != 3) { d := Opd.rawField, a := Opd.one }
  | 0xA1 =>
    if sub == 0 then shapeIf (ty == 0 && rnd == 0 && recordOk f.d && recordOk f.b && extXo f.ext != 3)
      { d := Opd.rawField, a := Opd.one, b := Opd.recField }
    else shapeIf (ty == 0 && rnd == 0 && sub == 1 && recordOk f.d && f.b == 0#7 && extXo f.ext != 3)
      { d := Opd.rawField, a := Opd.one, b := Opd.recField }
  | 0xA2 => shapeIf (ty == 0 && rnd == 0 && decide (sub < 4) && recordOk f.d && extXo f.ext != 3)
      { d := Opd.rawField, a := Opd.one }
  | 0xA3 => shapeIf (ty == 0 && rnd == 0 && decide (sub < 4) && recordOk f.b) { d := Opd.one, b := Opd.recField }
  | 0xA4 =>
    shapeIf (!f.ea && !f.eb && (match f.ext with
        | none => false
        | some e => !e.ec && !e.gn && e.guard == 0#3 && e.xs == 0#2 && e.xo == 0#2)
        && (wsetRanges f).all (fun p => decide (p.1 + p.2 ≤ 96) && (p.2 != 0 || p.1 == 0))
        && decide ((wsetRegs (wsetRanges f)).length ≤ 32))
      { d := Opd.rawField, a := Opd.rawField, b := Opd.rawField, c := Opd.rawField, xoOk := false }
  | _ => none

/-- The shapes of rows 0xB and 0xC (08 R247 to R253, 09 R269, R271, 10 R300, R302). -/
def asyncShape (op : Nat) (f : RForm) : Option Shape :=
  let x := f.ext.isSome
  let ty := extTy 0 f.ext
  let rnd := extRnd f.ext
  let sub := extSub f.ext
  match op with
  | 0xB0 =>
    let red := [5, 6, 7].contains rnd
    shapeIf (copySide f.d && copySide f.b && (decide (f.b.toNat < 16) || !f.eb)
        && (rnd == 0 || red) && (if red then copyTypes.contains ty && decide (128 ≤ sub) else ty == 0)
        && ((sub / 64) % 2 == 1 || sub % 64 == 0) && (extXo f.ext == 0 || extXo f.ext == 1))
      { d := Opd.rawField, a := { n := 4, align := 4 }, b := Opd.recField }
  | 0xB1 => shapeIf (guardOnly f.ext) { a := Opd.one, b := Opd.one, xoOk := false }
  | 0xB2 | 0xB3 | 0xB5 => shapeIf (guardOnly f.ext) { a := Opd.pair, xoOk := false }
  | 0xB4 => shapeIf (guardSub f.ext && decide (sub ≤ 1)) { d := Opd.one, a := Opd.pair, xoOk := false }
  | 0xB6 | 0xB8 => shapeIf (ty == 0 && rnd == 0 && sub == 0) { a := Opd.one, b := Opd.one }
  | 0xB7 =>
    shapeIf (ty == 0 && (rnd == 0 || rnd == 6) && (sub / 4) % 2 == 0 && boScope rnd (sub - sub % 4))
      { d := if sub % 2 == 1 then Opd.one else Opd.dash, a := Opd.one
        b := if (sub / 2) % 2 == 1 then Opd.one else Opd.dash }
  | 0xB9 => shapeIf (ty == 0 && (rnd == 0 || rnd == 5) && boScope rnd sub) { a := Opd.one, b := Opd.one }
  | 0xBA =>
    if sub == 128 then shapeIf (ty == 0 && rnd == 0) { d := Opd.one, a := Opd.one }
    else shapeIf (ty == 0 && (rnd == 0 || rnd == 5) && boScope rnd sub) { d := Opd.one, a := Opd.one, b := Opd.one }
  | 0xC0 =>
    shapeIf (x && ty == 0 && [5, 6, 7, 8].contains rnd && decide (sub < 128) && sub % 8 == 0 && (sub / 8) % 8 != 7
        && extXo f.ext == 0)
      { xoOk := false }
  | 0xC1 => shapeIf (guardSub f.ext && decide (sub ≤ 1) && decide (f.d.toNat < 16)) { d := Opd.rawField, xoOk := false }
  | 0xC2 => shapeIf (guardOnly f.ext && decide (f.d.toNat < 16)) { d := Opd.rawField, xoOk := false }
  | 0xC3 =>
    shapeIf (x && ty == 0 && orderOk [0, 5, 8] rnd (sub % 8) && recordOk f.b && extXo f.ext != 2)
      { d := Opd.pair, a := Opd.one, b := Opd.recField, c := Opd.pair }
  | 0xC4 => shapeIf (guardSub f.ext && decide (sub ≤ 1)) { d := Opd.pair, xoOk := false }
  | _ => none

/-- The shapes of row 0xD (10 R288 to R298, 12 R347, R348, 13 R365 to R373). -/
def remoteShape (op : Nat) (f : RForm) : Option Shape :=
  let x := f.ext.isSome
  let ty := extTy 0 f.ext
  let rnd := extRnd f.ext
  let sub := extSub f.ext
  match op with
  | 0xD0 => shapeIf (ty == 0 && rnd == 0 && decide (sub < 16) && storeSizeOk (sub % 8))
      { d := sizeOpd (sub % 8), a := Opd.pair }
  | 0xD1 => shapeIf (ty == 0 && rnd == 0 && decide (sub < 7)) { d := sizeOpd (sub % 8), a := Opd.pair }
  | 0xD2 =>
    let o := sub % 16
    shapeIf (x && (atomTypes o).contains ty && rnd == 0 && decide (sub < 32))
      { d := if sub / 16 == 1 then Opd.dash else Opd.val ty, a := Opd.pair, c := atomC o ty }
  | 0xD3 => shapeIf (x && ty == 0 && rnd == 0 && sub == 0) { d := Opd.pair, a := Opd.pair, c := { n := 4, align := 4 } }
  | 0xD4 => shapeIf (guardOnly f.ext) { xoOk := false }
  | 0xD5 =>
    shapeIf (x && copySide f.d && copySide f.b && (decide (f.b.toNat < 16) || !f.eb) && ty == 0 && rnd == 0 && sub == 0
        && extXo f.ext == 0)
      { d := Opd.rawField, a := { n := 4, align := 4 }, b := Opd.recField, c := Opd.one, xoOk := false }
  | 0xD6 => shapeIf (guardOnly f.ext) { d := Opd.one, a := Opd.one, b := Opd.one, xoOk := false }
  | 0xD7 =>
    shapeIf (ty == 0 && rnd == 0 && decide (sub ≤ 14) && extXo f.ext != 2 && (sub == 0 || decide (f.b.toNat < 96)))
      { a := Opd.pair, b := if sub == 0 then Opd.recField else Opd.run sub }
  | 0xD8 => shapeIf (guardOnly f.ext) { a := Opd.one, xoOk := false }
  | 0xD9 => shapeIf (guardOnly f.ext && recordOk f.b) { a := Opd.one, b := Opd.recField, xoOk := false }
  | 0xDA => shapeIf (guardOnly f.ext && recordOk f.b) { d := Opd.one, a := Opd.one, b := Opd.recField, xoOk := false }
  | 0xDB =>
    shapeIf (x && ty == 0 && decide (rnd < 8)) { d := Opd.pair, a := Opd.one, b := Opd.pair, uni := false }
  | 0xDC => shapeIf (guardOnly f.ext) { d := Opd.one, a := Opd.one, xoOk := false }
  | _ => none

/-- The shape of an R-form word, nothing where the entry refuses its type, modifier, sub-operation or raw fields (R6). -/
def rShape (op : Nat) (f : RForm) : Option Shape :=
  if 0x10 ≤ op && op < 0x80 then aluShape op f
  else if 0x80 ≤ op && op < 0x90 then exchangeShape op f
  else if 0x90 ≤ op && op < 0xB0 then memoryShape op f
  else if 0xB0 ≤ op && op < 0xD0 then asyncShape op f
  else if 0xD0 ≤ op && op < 0xE0 then remoteShape op f
  else controlShape op f

/-- A directly named register operand lies in one bank and begins where it must; an unused field is zero (R6, R46, R84). -/
def fieldOk (code : BitVec 7) (e : Bool) (o : Opd) (indexed : Bool) : Bool :=
  if o.raw then !indexed && (!e || o.ebit)
  else if o.n == 0 then code == 0#7 && !e && !indexed
  else if indexed then true
  else code.toNat % o.align == 0
    && (if code.toNat < 96 then decide (code.toNat + o.n ≤ 96) else decide (code.toNat + o.n ≤ 128))

/-- Index fields: xs is zero without xo, and the entry admits an index (R49, R84). -/
def indexOk (x : Option Ext) (sh : Shape) : Bool :=
  (extXo x != 0 || extXs x == 0) && (sh.xoOk || extXo x == 0)

/-- An R-form word is legal whatever the block's register count (R6, R42, R45, R46, R84). -/
def rLegal (op : Nat) (f : RForm) : Bool :=
  match rShape op f with
  | none => false
  | some sh =>
    let xo := extXo f.ext
    fieldOk f.d false sh.d (xo == 3) && fieldOk f.a f.ea sh.a (xo == 1) && fieldOk f.b f.eb sh.b (xo == 2)
      && fieldOk (extC f.ext) (extEc f.ext) sh.c false && indexOk f.ext sh
      && (sh.uni || xo == 3 || decide (f.d.toNat < 96))

/-- The operands of an I-form word: d, and c as the source when the extension stands (R43, R95, R96). FFMAI reads both. -/
def iShape (op : Nat) (f : IForm) : Option Shape :=
  let x := f.ext.isSome
  let ty := extTy (defaultType op) f.ext
  let rnd := extRnd f.ext
  let v := Opd.val ty
  let two : Shape := { d := v, c := if x then v else Opd.dash, dSrc := !x }
  let ok := extSub f.ext == 0
  match op with
  | 0x30 => shapeIf (ok && intTypes.contains ty && satOk rnd) two
  | 0x31 => shapeIf (ok && mulTypes.contains ty && satOk rnd) two
  | 0x32 | 0x33 | 0x34 => shapeIf (ok && [0, 1, 2, 4, 5].contains ty && rnd == 0) two
  | 0x35 | 0x36 | 0x37 => shapeIf (ok && [0, 5].contains ty && rnd == 0) two
  | 0x38 => shapeIf (ok && rnd == 0) { d := v }
  | 0x39 => shapeIf (ok && ty == 0 && rnd == 0) two
  | 0x3A =>
    shapeIf (match f.ext with
      | none => true
      | some e => [0, 1, 2, 4, 5, 6].contains ty && rnd == 0 && ok && !e.gn && e.guard == 0#3 && e.xo == 0#2) { d := v, xoOk := false }
  | 0x3B | 0x3C => shapeIf (ok && intTypes.contains ty && rnd == 0) two
  | 0x65 | 0x66 => shapeIf (ok && fourFloats.contains ty && rndOk rnd) two
  | 0x67 => shapeIf (ok && x && fourFloats.contains ty && rndOk rnd) { d := v, c := v, dSrc := true }
  | 0x68 | 0x69 => shapeIf (ok && fourFloats.contains ty && rnd == 0) two
  | 0xE1 => shapeIf (!x && decide (f.d.toNat < 4)) { d := Opd.rawField, xoOk := false }
  | _ => none

/-- An I-form word is legal (R43, R84: xo may select only d). -/
def iLegal (op : Nat) (f : IForm) : Bool :=
  match iShape op f with
  | none => false
  | some sh =>
    fieldOk f.d false sh.d (extXo f.ext == 3) && fieldOk (extC f.ext) (extEc f.ext) sh.c false && indexOk f.ext sh
      && (extXo f.ext == 0 || extXo f.ext == 3)

/-- A clause header is legal (R33). -/
def Header.legal (h : Header) : Bool :=
  h.count != 0#4 && decide (h.cls.toNat ≤ 8) && (h.tv || h.tag == 0#6) && (h.bv || h.nb == 0#4) && h.yield != 3#2

/-! ### Burrow words (06 R165, R170, R178 to R199) -/

def z4 (x : BitVec 4) : Bool := x == 0#4

/-- An element type and metric that the distance unit supports, as DIST codes them (R165, R190). -/
def distOk (sub : Nat) : Bool :=
  let e := sub % 8
  let m := (sub / 8) % 4
  (decide (e ≤ 3) && decide (m ≤ 1)) || (e == 4 && m == 2)

/-- Form R words: reserved sub-operations, fields that must be zero, and limits of a field (R170). -/
def brLegal (op : Nat) (f : BrForm) : Bool :=
  let sub := f.sub.toNat
  match op with
  | 0x01 => f == {}
  | 0x04 => z4 f.d && z4 f.b && z4 f.c && sub == 0
  | 0x05 => f == {}
  | 0x08 => z4 f.c && decide (sub < 16) && (decide (sub < 14) || z4 f.b)
  | 0x0B => z4 f.c && decide (sub < 6)
  | 0x12 => z4 f.d && z4 f.c
  | 0x13 => z4 f.d && z4 f.c
  | 0x1A => z4 f.d && z4 f.c && decide (sub < 4)
  | 0x1D => z4 f.d && sub == 0
  | 0x20 => distOk sub
  | 0x21 => z4 f.c && decide (sub < 32) && distOk sub
  | 0x22 =>
    decide (f.c.toNat < 8) && (match sub with
      | 0 => z4 f.b
      | 1 => z4 f.d && z4 f.a && z4 f.b
      | 2 => z4 f.d && z4 f.a && z4 f.b
      | 6 => z4 f.d && z4 f.a && decide (f.b.toNat < 8) && f.b != f.c
      | n => decide (n < 6) && z4 f.a && z4 f.b)
  | 0x23 => sub == 0
  | 0x24 => decide (f.c.toNat < 8) && z4 f.b && sub == 0
  | 0x28 => decide (sub < 2) && (sub == 1 || z4 f.d)
  | 0x29 => z4 f.d && z4 f.b && z4 f.c && sub == 0
  | 0x2A => z4 f.d && z4 f.b && z4 f.c && sub == 0
  | 0x2B => z4 f.b && z4 f.c && sub == 0
  | 0x2C => z4 f.b && z4 f.c && sub == 0 && f.d != f.a
  | 0x2D => z4 f.d && z4 f.b && z4 f.c && sub == 0
  | 0x2E => z4 f.a && z4 f.b && z4 f.c && decide (sub % 16 < 9) && (sub / 16) % 8 == 0 && (decide (sub < 128) || sub % 16 == 0)
  | _ => false

/-- Form I words (R178, R179). -/
def biLegal (op : Nat) (f : BiForm) : Bool :=
  match op with
  | 0x06 => z4 f.d && z4 f.a && z4 f.sub
  | 0x09 => decide (f.sub.toNat < 14)
  | _ => false

/-- Form J words (R178). -/
def bjLegal (op : Nat) (f : BjForm) : Bool :=
  match op with
  | 0x02 => f.cond != 7#3 && (f.cond != 0#3 || (z4 f.a && z4 f.b))
  | 0x03 => z4 f.b && f.cond == 0#3
  | _ => false

/-- Form H words (R184 to R189). -/
def bhLegal (op : Nat) (f : BhForm) : Bool :=
  let sub := f.sub.toNat
  let noH2 := f.h2 == 0#2
  match op with
  | 0x14 => noH2 && z4 f.b && z4 f.c && sub == 0
  | 0x15 => noH2 && z4 f.b && z4 f.c && sub == 0
  | 0x16 => z4 f.a && z4 f.b && z4 f.c && decide (sub < 3) && (sub == 0 || noH2)
  | 0x17 => noH2 && z4 f.b && z4 f.c && decide (sub < 2)
  | 0x18 => noH2 && z4 f.c && sub == 0
  | 0x19 => noH2 && z4 f.c && sub == 0
  | 0x1B => noH2 && z4 f.c && decide (sub < 8) && (decide (4 ≤ sub) || (z4 f.a && z4 f.b))
  | 0x1C =>
    f.h == 0#2 && noH2 && (match sub with
      | 3 => z4 f.a && z4 f.b
      | 4 => z4 f.a && z4 f.b
      | 5 => z4 f.b
      | 6 => z4 f.c
      | n => (decide (n < 3) || n == 7) && z4 f.a && z4 f.b && z4 f.c)
  | 0x1E => noH2 && z4 f.b && decide (sub < 128)
  | _ => false

/-! ### Matrix words (05 R122, R123, R141 to R157) -/

/-- The fields of MMA or MMAS are legal (R122, R123, R153, R154). -/
def mmaLegal (f : MmaForm) (sparse : Option (Nat × Nat)) : Bool :=
  let fa := f.fa.toNat
  let fb := f.fb.toNat
  let k := f.k.toNat
  decide (fa ≤ 8) && decide (fb ≤ 8) && (decide (fa < 7) == decide (fb < 7)) && f.qa.toNat % 2 == 0 && f.qb.toNat % 2 == 0
    && decide (1 ≤ k) && decide (k ≤ 4096)
    && (if f.sc then f.qs.toNat % 4 == 0 && decide (2 ≤ fa) && decide (fa ≤ 6) && decide (2 ≤ fb) && decide (fb ≤ 6) else f.qs == 0#5)
    && (match sparse with
      | some (_, qm) => k % 32 == 0 && qm % 2 == 0
      | none => true)

def mpredLegal (sel : BitVec 2) (qa : BitVec 5) (useq : Bool) (count : BitVec 8) : Bool :=
  if sel.toNat < 2 then useq || (qa == 0#5 && decide (count.toNat ≤ 128)) else qa.toNat % 2 == 0 && !useq && count == 0#8
def mldtLegal (fmt : BitVec 4) (qa : BitVec 5) : Bool :=
  decide (fmt.toNat ≤ 7) && fmt != 3#4 && fmt != 4#4 && qa.toNat % 2 == 0
def msttLegal (f : MsttForm) : Bool :=
  let fmt := f.fmt.toNat
  decide (fmt ≤ 7) && decide (f.rnd.toNat ≤ 3) && (!(fmt == 0 || decide (5 ≤ fmt)) || f.rnd == 0#3) && (f.bo || f.qbo == 0#5)
    && f.qa.toNat % 2 == 0

/-! ### Every instruction -/

/-- The fields of an instruction meet the rules of its entry that do not depend on the state (R6). Packets have at most 4,095 words (R335);
events carry no encoding. -/
def Instr.wellFormed (i : Instr) : Bool :=
  match i with
  | .clauseHeader h => h.legal
  | .exit f => f.off == 0#20
  | .bra _ => true
  | .bru _ => true
  | .brx f => rLegal 0x03 f
  | .call _ => true
  | .ret f => rLegal 0x05 f
  | .jenter f => rLegal 0x08 f
  | .jquit f => rLegal 0x09 f
  | .jwait f => rLegal 0x0A f
  | .jfree f => rLegal 0x0B f
  | .jpush f => rLegal 0x0C f
  | .jpop f => rLegal 0x0D f
  | .jread f => rLegal 0x0E f
  | .iadd f => rLegal 0x10 f
  | .isub f => rLegal 0x11 f
  | .imul f => rLegal 0x12 f
  | .imulh f => rLegal 0x13 f
  | .imad f => rLegal 0x14 f
  | .iminmax f => rLegal 0x15 f
  | .iabsd f => rLegal 0x16 f
  | .isum f => rLegal 0x17 f
  | .iaddsh f => rLegal 0x18 f
  | .tlog f => rLegal 0x20 f
  | .shift f => rLegal 0x21 f
  | .bfx f => rLegal 0x22 f
  | .bfi f => rLegal 0x23 f
  | .popc f => rLegal 0x24 f
  | .clz f => rLegal 0x25 f
  | .brev f => rLegal 0x26 f
  | .icmp f => rLegal 0x27 f
  | .sel f => rLegal 0x28 f
  | .plop f => rLegal 0x29 f
  | .mov f => rLegal 0x2A f
  | .pmov f => rLegal 0x2B f
  | .iaddi f => iLegal 0x30 f
  | .imuli f => iLegal 0x31 f
  | .andi f => iLegal 0x32 f
  | .ori f => iLegal 0x33 f
  | .xori f => iLegal 0x34 f
  | .shli f => iLegal 0x35 f
  | .shri f => iLegal 0x36 f
  | .srai f => iLegal 0x37 f
  | .movi f => iLegal 0x38 f
  | .movhi f => iLegal 0x39 f
  | .ldl f => iLegal 0x3A f
  | .imini f => iLegal 0x3B f
  | .imaxi f => iLegal 0x3C f
  | .fadd f => rLegal 0x40 f
  | .fsub f => rLegal 0x41 f
  | .fmul f => rLegal 0x42 f
  | .ffma f => rLegal 0x43 f
  | .fmin f => rLegal 0x44 f
  | .fmax f => rLegal 0x45 f
  | .fcmp f => rLegal 0x46 f
  | .fclass f => rLegal 0x47 f
  | .frnd f => rLegal 0x48 f
  | .fldexp f => rLegal 0x49 f
  | .fabs f => rLegal 0x50 f
  | .fneg f => rLegal 0x51 f
  | .fcsgn f => rLegal 0x52 f
  | .fsat f => rLegal 0x53 f
  | .cvt f => rLegal 0x60 f
  | .pack f => rLegal 0x61 f
  | .unpack f => rLegal 0x62 f
  | .bscale f => rLegal 0x63 f
  | .bshuf f => rLegal 0x64 f
  | .faddi f => iLegal 0x65 f
  | .fmuli f => iLegal 0x66 f
  | .ffmai f => iLegal 0x67 f
  | .fmini f => iLegal 0x68 f
  | .fmaxi f => iLegal 0x69 f
  | .dot f => rLegal 0x70 f
  | .cfma f => rLegal 0x71 f
  | .bfly f => rLegal 0x72 f
  | .twid f => rLegal 0x73 f
  | .idiv f => rLegal 0x74 f
  | .irem f => rLegal 0x75 f
  | .fdiv f => rLegal 0x76 f
  | .fsqrt f => rLegal 0x77 f
  | .frsqrt f => rLegal 0x78 f
  | .ftrans f => rLegal 0x79 f
  | .prev f => rLegal 0x80 f
  | .scan f => rLegal 0x81 f
  | .sscan f => rLegal 0x82 f
  | .xread f => rLegal 0x83 f
  | .bcast f => rLegal 0x84 f
  | .vote f => rLegal 0x85 f
  | .qxch f => rLegal 0x86 f
  | .qred f => rLegal 0x87 f
  | .xmatch f => rLegal 0x88 f
  | .ld f => rLegal 0x90 f
  | .st f => rLegal 0x91 f
  | .lds f => rLegal 0x92 f
  | .sts f => rLegal 0x93 f
  | .ldx f => rLegal 0x94 f
  | .stx f => rLegal 0x95 f
  | .atom f => rLegal 0x96 f
  | .atoms f => rLegal 0x97 f
  | .atomx f => rLegal 0x98 f
  | .spld f => rLegal 0x99 f
  | .spst f => rLegal 0x9A f
  | .pref f => rLegal 0x9B f
  | .ldnc f => rLegal 0x9C f
  | .bld f => rLegal 0xA0 f
  | .bst f => rLegal 0xA1 f
  | .bset f => rLegal 0xA2 f
  | .bget f => rLegal 0xA3 f
  | .wset f => rLegal 0xA4 f
  | .copy f => rLegal 0xB0 f
  | .kick f => rLegal 0xB1 f
  | .twany f => rLegal 0xB2 f
  | .twall f => rLegal 0xB3 f
  | .tfirst f => rLegal 0xB4 f
  | .tclr f => rLegal 0xB5 f
  | .boinit f => rLegal 0xB6 f
  | .boarrive f => rLegal 0xB7 f
  | .boexpect f => rLegal 0xB8 f
  | .bowait f => rLegal 0xB9 f
  | .botest f => rLegal 0xBA f
  | .fence f => rLegal 0xC0 f
  | .bar f => rLegal 0xC1 f
  | .bararv f => rLegal 0xC2 f
  | .waitw f => rLegal 0xC3 f
  | .time f => rLegal 0xC4 f
  | .rst f => rLegal 0xD0 f
  | .rld f => rLegal 0xD1 f
  | .ratom f => rLegal 0xD2 f
  | .rfadd f => rLegal 0xD3 f
  | .rfence f => rLegal 0xD4 f
  | .coll f => rLegal 0xD5 f
  | .launch f => rLegal 0xD6 f
  | .postc f => rLegal 0xD7 f
  | .search f => rLegal 0xD8 f
  | .nlaunch f => rLegal 0xD9 f
  | .nopen f => rLegal 0xDA f
  | .ncmd f => rLegal 0xDB f
  | .nclose f => rLegal 0xDC f
  | .mcall f => rLegal 0xE0 f
  | .xset f => iLegal 0xE1 f
  | .xadd f => rLegal 0xE2 f
  | .xget f => rLegal 0xE3 f
  | .trap f => rLegal 0xF0 f
  | .eret f => rLegal 0xF1 f
  | .csrr f => rLegal 0xF2 f
  | .csrw f => rLegal 0xF3 f
  | .bkpt f => rLegal 0xF4 f
  | .sleep f => rLegal 0xF5 f
  | .yield f => rLegal 0xF6 f
  | .mbr cond qa _ => decide (cond.toNat ≤ 5) && (cond != 0#3 || qa == 0#5)
  | .mli _ mode _ => mode != 3#2
  | .malu _ _ qb op bimm imm => decide (op.toNat ≤ 9) && (if bimm then qb == 0#5 else imm == 0#32)
  | .mldq qd _ n _ => decide (qd.toNat + n.toNat ≤ 31)
  | .mstq qd _ n _ => decide (qd.toNat + n.toNat ≤ 31)
  | .mpred k qa useq n => mpredLegal k qa useq n
  | .mbar op nb mask => if op == 3#2 then nb == 0#4 else mask == 0#16
  | .mrds _ k clr => decide (k.toNat ≤ 5) && (!clr || k == 0#3)
  | .mzero _ fill qa => fill || qa == 0#5
  | .mma f => mmaLegal f none
  | .mmas f n qm => mmaLegal f (some (n.toNat + 1, qm.toNat))
  | .mldt _ fmt qa => mldtLegal fmt qa
  | .mstt f => msttLegal f
  | .bnop f => brLegal 0x01 f
  | .br f => bjLegal 0x02 f
  | .bcall f => bjLegal 0x03 f
  | .bjr f => brLegal 0x04 f
  | .bend f => brLegal 0x05 f
  | .btrap f => biLegal 0x06 f
  | .galu f => brLegal 0x08 f
  | .galui f => biLegal 0x09 f
  | .gset _ => true
  | .gcmp f => brLegal 0x0B f
  | .wld _ => true
  | .wst _ => true
  | .ald f => brLegal 0x12 f
  | .ast f => brLegal 0x13 f
  | .hrd f => bhLegal 0x14 f
  | .hwr f => bhLegal 0x15 f
  | .hmov f => bhLegal 0x16 f
  | .hwin f => bhLegal 0x17 f
  | .hget f => bhLegal 0x18 f
  | .hput f => bhLegal 0x19 f
  | .kset f => brLegal 0x1A f
  | .glint f => bhLegal 0x1B f
  | .top f => bhLegal 0x1C f
  | .ttld f => brLegal 0x1D f
  | .ttp f => bhLegal 0x1E f
  | .dist f => brLegal 0x20 f
  | .distg f => brLegal 0x21 f
  | .heap f => brLegal 0x22 f
  | .hoffer f => brLegal 0x23 f
  | .hout f => brLegal 0x24 f
  | .post f => brLegal 0x28 f
  | .whop f => brLegal 0x29 f
  | .wspawn f => brLegal 0x2A f
  | .visit f => brLegal 0x2B f
  | .cwait f => brLegal 0x2C f
  | .creply f => brLegal 0x2D f
  | .rds f => brLegal 0x2E f
  | .nopPacket _ ws => decide (ws.length < 4096)
  | .grid _ ws => decide (ws.length < 4096)
  | .cgrid _ ws => decide (ws.length < 4096)
  | .ib _ ws => decide (ws.length < 4096)
  | .waitbit _ ws => decide (ws.length < 4096)
  | .waitmem _ ws => decide (ws.length < 4096)
  | .write _ ws => decide (ws.length < 4096)
  | .tstamp _ ws => decide (ws.length < 4096)
  | .mmaBandCommit _ => true
  | .nearLaunchPacket _ => true
  | .nearBlockStart _ _ _ => true
  | .streamedContextStart _ _ _ => true
  | .columnCommand _ => true
  | .ncmdAnswer _ => true
  | .walkerDispatch _ _ _ => true
  | .walkerMessage _ => true
  | .walkerRegistration _ => true
  | .walkerEndNotice _ => true
  | .queryMerge _ _ => true
  | .wsetCopyComplete _ _ => true
  | .loadDataArrival _ => true
  | .longLatencyFill _ => true
  | .storeAcknowledge _ => true
  | .pageWalkComplete _ _ => true
  | .faultEvent _ => true
  | .faultRecordDeferred _ => true
  | .rotationQuantumExpiry _ _ => true
  | .trackClaim _ _ => true
  | .trackPassLimit _ _ => true
  | .ceSlotAccept _ _ => true
  | .copySourceStart _ _ => true
  | .copyComplete _ => true
  | .boCountUpdate _ => true
  | .remoteTimeoutExpiry _ => true
  | .collCompletion _ => true
  | .waitwTimeout _ _ => true
  | .sleepExpiry _ _ => true
  | .scaleOutResendTimeout _ => true
  | .blockEnd _ => true
  | .continuationRecordArrival _ => true
  | .binFlushTimeout _ => true
  | .switchOutDrainComplete _ => true
  | .watchdogExpiry _ => true
  | .repairCorecapChange _ => true
  | .flitReceive _ _ _ _ => true
  | .laneFailure _ => true
  | .scaleOutDatagram _ _ _ _ => true
  | .qtailWrite _ _ => true
  | .bindStart _ _ _ => true
  | .bindResume _ _ _ => true
  | .bindSwitchOut _ _ _ => true
  | .masterRelease _ _ => true
  | .tlbInvalidate _ => true
  | .faultRetry _ _ => true
  | .faultDeliver _ _ => true
  | .partitionDescriptorWrite _ _ => true
  | .hostBar2Access _ _ _ _ => true
  | .registerWrite _ _ _ => true
  | .errorDetect _ _ => true
  | .selfTestComplete _ _ => true
  | .hbmLaneFailure _ _ => true
  | .channelFullWidthRestore _ _ => true
  | .stackThermalHigh _ => true
  | .powerEvaluation _ _ _ _ _ => true
  | .thermalClockStep _ => true
  | .fullFunctionOpen _ _ _ _ => true
  | .firmwareLoad _ _ => true
  | .jtagBypass _ => true
  | .negotiateAlgorithms _ _ _ => true
  | .getCertificate _ _ _ => true
  | .challenge _ _ => true
  | .getMeasurements _ _ _ => true
  | .vendorDefinedRequest _ _ _ => true
  | .ieee1588Message _ => true
  | .pcieCompletionTimeout _ => true
  | .nop => true
  | .illegalEpaelWord => true
  | .mnop => true
  | .mend => true
  | .mwait => true
  | .illegalMatrixWord => true
  | .illegalBurrowWord => true
  | .searchAdmission => true
  | .matrixSlotBoundary => true
  | .rstPacket => true
  | .rldPacket => true
  | .ratomPacket => true
  | .rfaddPacket => true
  | .ack => true
  | .rdata => true
  | .collPacket => true
  | .sync => true
  | .syncInterval => true
  | .syncLossTimeout => true
  | .waitmemRecheck => true
  | .schedulingTick => true
  | .watchdogSample => true
  | .tlbInvalidateComplete => true
  | .handoverAcquire => true
  | .handoverAcquireComplete => true
  | .handoverRelease => true
  | .contextCreate => true
  | .contextReload => true
  | .contextDestroy => true
  | .contextDestroyComplete => true
  | .queueEnable => true
  | .queueDisable => true
  | .slotEntry => true
  | .classQuotas => true
  | .powerEmergency => true
  | .thermalTrip => true
  | .powerGood => true
  | .deviceReset => true
  | .svnRaise => true
  | .freeze => true
  | .jtagIdcode => true
  | .jtagScan => true
  | .getVersion => true
  | .getCapabilities => true
  | .getDigests => true

end Sys2Proof
end

