-- ==== Sys2Proof/Machine/Operands.lean ====
section
/-! DEFINITION. Operands: where a field points, what reading it comes to, writing a destination, and the passes of the
register-only instructions (02 R24, R28 to R30, R46, R49; 04 R83, R84; 16 R432). -/

namespace Sys2Proof.Machine

/-- The first register an operand names: of the thread's v file or of the group's s file (R46). -/
inductive Loc where
  | v (r : Nat)
  | s (r : Nat)
  deriving DecidableEq, Repr

/-- The register operand fields of a word, with their trap-on-empty bits, index fields and guard. -/
structure Fields where
  d : BitVec 7
  a : BitVec 7
  b : BitVec 7
  c : BitVec 7
  ea : Bool
  eb : Bool
  ec : Bool
  xo : Nat
  xs : Nat
  ext : Option Ext
  deriving DecidableEq, Repr

def Fields.ofR (f : RForm) : Fields :=
  { d := f.d, a := f.a, b := f.b, c := extC f.ext, ea := f.ea, eb := f.eb, ec := extEc f.ext, xo := extXo f.ext, xs := extXs f.ext
    ext := f.ext }
def Fields.ofI (f : IForm) : Fields :=
  { d := f.d, a := 0#7, b := 0#7, c := extC f.ext, ea := false, eb := false, ec := extEc f.ext, xo := extXo f.ext, xs := extXs f.ext
    ext := f.ext }

def xBase (x : W32) : Nat := x.toNat % 256
def xLimit (x : W32) : Nat := (x.toNat / 256) % 256

/-- Where an operand lies for a thread: direct, or indexed with its checks (R46, R49, R84). -/
def locate (th : Thread) (code : BitVec 7) (o : Opd) (index : Option Nat) : Except TrapRec Loc :=
  match index with
  | none => .ok (if code.toNat < 96 then .v code.toNat else .s (code.toNat - 96))
  | some xs =>
    let x := Table.get 0#32 th.x xs
    let k := code.toNat
    if xLimit x < k + o.n || xLimit x ≤ k then
      .error { code := 9, tval := BitVec.ofNat 64 k, info := BitVec.ofNat 64 xs }
    else if (xBase x + k) % o.align != 0 then
      .error { code := 6, tval := BitVec.ofNat 64 (xBase x + k) }
    else .ok (.v (xBase x + k))

/-- Register `j` after the first of a location. -/
def State.cell (s : State) (i : Issue) (t : Nat) (l : Loc) (j : Nat) : Cell :=
  match l with
  | .v r => Table.get {} (s.thread (i.tk t)).v (r + j)
  | .s r => Table.get {} (s.group i.gk).s (r + j)

def State.setCell (s : State) (i : Issue) (t : Nat) (l : Loc) (j : Nat) (c : Cell) : State :=
  match l with
  | .v r => s.modThread (i.tk t) (fun th => { th with v := Table.set {} th.v (r + j) c })
  | .s r => s.modGroup i.gk (fun gr => { gr with s := Table.set {} gr.s (r + j) c })

/-- The cells of an operand. -/
def State.cells (s : State) (i : Issue) (t : Nat) (l : Loc) (n : Nat) : List Cell := (List.range n).map (s.cell i t l)

/-- The value of registers read together, the first lowest (R23). -/
def cellsValue (cs : List Cell) : Nat :=
  match cs with
  | [] => 0
  | c :: rest => c.val.toNat + 2 ^ 32 * cellsValue rest

/-- Writes a value over `n` registers and marks them full; a poison mark goes (R29, R30, R432). -/
def State.writeCells (s : State) (i : Issue) (t : Nat) (l : Loc) (n : Nat) (x : Nat) : State :=
  (List.range n).foldl (fun s j => s.setCell i t l j { val := BitVec.ofNat 32 (x / 2 ^ (32 * j)) }) s

/-- Marks `n` registers empty (R28). -/
def State.emptyCells (s : State) (i : Issue) (t : Nat) (l : Loc) (n : Nat) : State :=
  (List.range n).foldl (fun s j => s.setCell i t l j { s.cell i t l j with full := false, mark := none }) s

/-- What reading an operand comes to. -/
inductive Got where
  | val (x : Nat)
  | hold
  | trap (r : TrapRec)
  deriving DecidableEq, Repr

/-- The trap of a marked register (R210, R285, R423, R432). -/
def Mark.trap (m : Mark) (code : Nat) : TrapRec :=
  { code := m.code, tval := m.tval, info := if m.code == 5 then BitVec.ofNat 64 (code % 128) else BitVec.ofNat 64 m.info
    origin := some m.origin, src := m.src }

/-- The first marked register among cells, with its place. -/
def firstMark (cs : List Cell) (j : Nat) : Option (Nat × Mark) :=
  match cs with
  | [] => none
  | c :: rest => match c.mark with
    | some m => some (j, m)
    | none => firstMark rest (j + 1)

/-- Reads cells under R29: a mark traps, an empty register traps or holds, a full operand gives its value. -/
def readCells (cs : List Cell) (code : Nat) (e : Bool) : Got :=
  match firstMark cs 0 with
  | some (j, m) => .trap (m.trap (code + j))
  | none =>
    if cs.all Cell.full then .val (cellsValue cs)
    else if e then .trap { code := 8, info := BitVec.ofNat 64 code }
    else .hold

/-- Reads a source operand of a thread (R29). An operand of no register reads as 0. -/
def State.read (s : State) (i : Issue) (t : Nat) (code : BitVec 7) (e : Bool) (o : Opd) (index : Option Nat) : Got :=
  if o.raw || o.n == 0 then .val 0
  else match locate (s.thread (i.tk t)) code o index with
    | .error r => .trap r
    | .ok l => readCells (s.cells i t l o.n) code.toNat e

/-- The source operands of a word, in the order they are read: a, b, c, and d where it is a source too. -/
def sources (q : Fields) (sh : Shape) : List (BitVec 7 × Bool × Opd × Option Nat) :=
  [(q.a, q.ea, sh.a, if q.xo == 1 then some q.xs else none),
   (q.b, q.eb, sh.b, if q.xo == 2 then some q.xs else none),
   (q.c, q.ec, sh.c, none),
   (q.d, false, if sh.dSrc then sh.d else {}, if q.xo == 3 then some q.xs else none)]

/-- What reading every source comes to. -/
inductive GotAll where
  | vals (xs : List Nat)
  | hold
  | trap (r : TrapRec)
  deriving DecidableEq, Repr

/-- Reads sources in order; the first that traps or holds decides (R10, R29). -/
def State.readAll (s : State) (i : Issue) (t : Nat) (srcs : List (BitVec 7 × Bool × Opd × Option Nat)) : GotAll :=
  match srcs with
  | [] => .vals []
  | (code, e, o, x) :: rest =>
    match s.read i t code e o x with
    | .trap r => .trap r
    | .hold => .hold
    | .val n => match s.readAll i t rest with
      | .vals ns => .vals (n :: ns)
      | o => o

/-- Reads sources for a once-per-pass word: any that traps decides before any that holds (R83). -/
def State.readUniform (s : State) (i : Issue) (t : Nat) (srcs : List (BitVec 7 × Bool × Opd × Option Nat)) : GotAll :=
  match srcs with
  | [] => .vals []
  | (code, e, o, x) :: rest =>
    match s.read i t code e o x, s.readUniform i t rest with
    | .trap r, _ => .trap r
    | _, .trap r => .trap r
    | .hold, _ => .hold
    | _, .hold => .hold
    | .val n, .vals ns => .vals (n :: ns)

/-- The values of the four operand fields. -/
structure Args where
  a : Nat
  b : Nat
  c : Nat
  d : Nat
  deriving DecidableEq, Repr

def argsOf (xs : List Nat) : Args :=
  match xs with
  | [a, b, c, d] => ⟨a, b, c, d⟩
  | _ => ⟨0, 0, 0, 0⟩

/-- The directly named registers of a field lie below nreg (R24, R84). -/
def belowNreg (nreg : Nat) (code : BitVec 7) (o : Opd) (indexed : Bool) : Bool :=
  o.raw || o.n == 0 || indexed || decide (96 ≤ code.toNat) || decide (code.toNat + o.n ≤ nreg)

/-- Every register field of the word is below nreg (R24). -/
def Fields.belowNreg (q : Fields) (sh : Shape) (nreg : Nat) : Bool :=
  Machine.belowNreg nreg q.d sh.d (q.xo == 3) && Machine.belowNreg nreg q.a sh.a (q.xo == 1)
    && Machine.belowNreg nreg q.b sh.b (q.xo == 2) && Machine.belowNreg nreg q.c sh.c false

/-- A destination can be written: each register is full or marked, or the word replays the producer that left it empty
(R30, R432). -/
def State.destReady (s : State) (i : Issue) (t : Nat) (l : Loc) (n : Nat) : Bool :=
  (s.cells i t l n).all (fun c => c.full || c.mark.isSome) || (s.thread (i.tk t)).replay == some (s.thread (i.tk t)).tpc

/-- The destination names s registers: the word is uniform (R46). -/
def Fields.uniform (q : Fields) (sh : Shape) : Bool := !sh.d.raw && sh.d.n != 0 && q.xo != 3 && decide (96 ≤ q.d.toNat)

/-- Where a result goes. -/
inductive Dest where
  /-- The registers of d. -/
  | reg
  /-- The predicate whose number d holds (R91). -/
  | pred
  /-- The registers of d after a latency, with flags at the fill (R110). -/
  | later
  deriving DecidableEq, Repr

/-- The effect of a computed result for one thread, `lane` nothing for a uniform word. -/
def State.deposit (s : State) (i : Issue) (t : Nat) (uniform : Bool) (l : Loc) (n : Nat) (kind : Dest) (pn : Nat)
    (r : Nat × Flags) : State :=
  match kind with
  | .reg => (s.writeCells i t l n r.1).setSticky i.gk r.2
  | .pred =>
    (s.modThread (i.tk t) (fun th => { th with p := if r.1 == 0 then th.p &&& ~~~(1#8 <<< pn) else th.p ||| (1#8 <<< pn) })).setSticky i.gk r.2
  | .later =>
    let first := match l with | .v k => k | .s k => k
    let s := s.emptyCells i t l n
    { s with
      fills := Table.put s.fills s.nextId { g := i.gk, pc := i.pc, k := (i.body.map BodyPos.k).getD 0, lane := if uniform then none else some t, first := first, n := n, value := r.1, flags := r.2 }
      nextId := s.nextId + 1 }

/-- One thread's turn of a register-only instruction (R83): sources, then the destination, then the result. -/
def aluTurn (i : Issue) (q : Fields) (sh : Shape) (kind : Dest) (op : Group → Thread → Args → Nat × Flags)
    (s : State) (t : Nat) (acc : List Nat) : Turned :=
  match s.readAll i t (sources q sh) with
  | .trap r => .trap r
  | .hold => .hold
  | .vals xs =>
    let r := op (s.group i.gk) (s.thread (i.tk t)) (argsOf xs)
    match kind with
    | .pred => .done (s.deposit i t false (.v 0) 0 kind (q.d.toNat % 8) r) acc
    | _ =>
      match locate (s.thread (i.tk t)) q.d sh.d (if q.xo == 3 then some q.xs else none) with
      | .error tr => .trap tr
      | .ok l => if s.destReady i t l sh.d.n then .done (s.deposit i t false l sh.d.n kind 0 r) acc else .hold

/-- A uniform register-only instruction: once per pass, with the first thread's guard and registers (R32, R83). -/
def State.aluUniform (s : State) (i : Issue) (q : Fields) (sh : Shape) (kind : Dest)
    (op : Group → Thread → Args → Nat × Flags) : State :=
  let t := firstLane i.path
  if !extGuard q.ext (s.thread (i.tk t)) then s.endPass i
  else match s.readUniform i t (sources q sh) with
    | .trap r => s.trapPath i r
    | .hold => s.holdPass i (lanesOf i.path) 0#32 []
    | .vals xs =>
      let l := Loc.s (q.d.toNat - 96)
      if s.destReady i t l sh.d.n then
        (s.deposit i t true l sh.d.n kind 0 (op (s.group i.gk) (s.thread (i.tk t)) (argsOf xs))).endPass i
      else s.holdPass i (lanesOf i.path) 0#32 []

/-- ILLEGAL_OP on each active thread of the pass (R6). -/
def State.illegal (s : State) (i : Issue) (x : Option Ext) : State := s.trapActive i (s.active i (extGuard x)) { code := 1 }

/-- A register-only instruction (R83): illegal words trap, a destination in s runs once, anything else runs per thread. -/
def State.alu (s : State) (i : Issue) (legal : Bool) (sh : Option Shape) (q : Fields) (kind : Dest)
    (op : Group → Thread → Args → Nat × Flags) : State :=
  match sh with
  | none => s.illegal i q.ext
  | some sh =>
    if !legal || !q.belowNreg sh (s.block i.b).nreg then s.illegal i q.ext
    else if q.uniform sh then s.aluUniform i q sh kind op
    else s.perThread i (extGuard q.ext) (aluTurn i q sh kind op)

/-- Runs `f` for the group whose word is executed; an instruction met by another agent leaves the state as it is (log 10). -/
def State.onGroup (s : State) (f : Issue → State) : State :=
  match s.cur with
  | .group i => f i
  | _ => s

/-- A register-only R-form instruction. -/
def State.aluR (s : State) (op : Nat) (f : RForm) (kind : Dest) (g : Group → Thread → Args → Nat × Flags) : State :=
  s.onGroup (fun i => s.alu i (rLegal op f) (rShape op f) (Fields.ofR f) kind g)
/-- A register-only I-form instruction. -/
def State.aluI (s : State) (op : Nat) (f : IForm) (g : Group → Thread → Args → Nat × Flags) : State :=
  s.onGroup (fun i => s.alu i (iLegal op f) (iShape op f) (Fields.ofI f) .reg g)

/-! ### Words that wait for a time (R300, R443) -/

/-- WAITW or SLEEP issues: where it is its first issue, its threads note the time. -/
def State.startWait (s : State) (i : Issue) : State :=
  (lanesOf i.path).foldl (fun s t => s.modThread (i.tk t) (fun th =>
    if th.waitFrom.any (fun w => w.1 == i.pc) then th else { th with waitFrom := some (i.pc, s.time) })) s

/-- When the word under way first issued. -/
def State.firstIssue (s : State) (i : Issue) : Nat := ((s.thread (i.tk (firstLane i.path))).waitFrom.map Prod.snd).getD s.time

/-- The word is over for its path. -/
def State.waitOver (s : State) (i : Issue) : State :=
  (lanesOf i.path).foldl (fun s t => s.modThread (i.tk t) (fun th => { th with waitFrom := none, replay := none })) s

end Sys2Proof.Machine
end

