-- ==== Sys2Proof/Machine/Control.lean ====
section
/-! DEFINITION. Control flow and rejoin sets (11 R309 to R321), index registers and macros (02 R53, R56 to R58). -/

namespace Sys2Proof.Machine

/-- The signed offset of a B-form word (R44). -/
def BForm.offset (f : BForm) : Int := f.off.toInt
/-- The guard of a B-form word (R46). -/
def bGuard (f : BForm) (th : Thread) : Bool := guardHolds f.guard f.gn th

/-- Moves one thread to a clause header. -/
def State.jump (s : State) (i : Issue) (t : Nat) (pc : W64) : State := s.modThread (i.tk t) (fun th => { th with tpc := pc })

/-- BRA: each active thread branches, the others fall through (R319). -/
def execBra (f : BForm) (s : State) : Host.Outcome State Fault Refusal :=
  .next (s.onGroup (fun i => s.perThreadMove i (bGuard f) (fun s t acc => .done (s.jump i t (i.target (BForm.offset f))) acc)))

/-- BRU: the whole path branches when the guard holds for its first thread, em ignored (R309, R319). -/
def execBru (f : BForm) (s : State) : Host.Outcome State Fault Refusal :=
  .next (s.onGroup (fun i =>
    if bGuard f (s.thread (i.tk (firstLane i.path))) then
      ((lanesOf i.path).foldl (fun s t => s.jump i t (i.target (BForm.offset f))) s).endPassFor i 0#32
    else s.endPass i))

/-- One thread's turn of CALL: v30:v31 take the address of the next word under R30, then the branch (R319). -/
def callTurn (i : Issue) (f : BForm) (s : State) (t : Nat) (acc : List Nat) : Turned :=
  if s.destReady i t (.v 30) 2 then
    .done ((s.writeCells i t (.v 30) 2 (pcAddr i.nextPc).toNat).jump i t (i.target (BForm.offset f))) acc
  else .hold

/-- CALL (R319). -/
def execCall (f : BForm) (s : State) : Host.Outcome State Fault Refusal :=
  .next (s.onGroup (fun i => s.perThreadMove i (bGuard f) (callTurn i f)))

/-- EXIT: pending traps come first, then each active thread exits, helpers only leaving their path (R310, R313, R319, R425). A
nonzero offset is illegal. -/
def execExit (f : BForm) (s : State) : Host.Outcome State Fault Refusal :=
  .next (s.onGroup (fun i =>
    if f.off != 0#20 then s.trapActive i (s.active i (bGuard f)) { code := 1 }
    else s.perThread i (bGuard f) (fun s t acc =>
      match (s.thread (i.tk t)).pending with
      | some r => .trap r
      | none => .done (s.exitThread i.b i.g t) acc)))

/-- Runs a control word of the R form if it is legal (R6). -/
def State.control (s : State) (op : Nat) (f : RForm) (go : Issue → State) : State :=
  s.onGroup (fun i =>
    match rShape op f with
    | none => s.illegal i f.ext
    | some sh => if !rLegal op f || !(Fields.ofR f).belowNreg sh (s.block i.b).nreg then s.illegal i f.ext else go i)

/-- Reads the a operand of a word for a thread. -/
def State.readA (s : State) (i : Issue) (t : Nat) (f : RForm) (o : Opd) : Got :=
  s.read i t f.a f.ea o (if extXo f.ext == 1 then some (extXs f.ext) else none)

/-- BRX: each active thread branches by the signed value of a (R320). -/
def execBrx (f : RForm) (s : State) : Host.Outcome State Fault Refusal :=
  .next (s.control 0x03 f (fun i => s.perThreadMove i (extGuard f.ext) (fun s t acc =>
    match s.readA i t f Opd.one with
    | .trap r => .trap r
    | .hold => .hold
    | .val x => .done (s.jump i t (i.target (BitVec.ofNat 32 x).toInt)) acc)))

/-- An address is a clause-header address: bits 1:0 and 63:57 zero (R320, R442). -/
def codeAddrOk (x : Nat) : Bool := x % 4 == 0 && decide (x < 2 ^ 57)

/-- RET: each active thread branches to the address in the pair (R320). -/
def execRet (f : RForm) (s : State) : Host.Outcome State Fault Refusal :=
  .next (s.control 0x05 f (fun i => s.perThreadMove i (extGuard f.ext) (fun s t acc =>
    match s.readA i t f Opd.pair with
    | .trap r => .trap r
    | .hold => .hold
    | .val x =>
      if codeAddrOk x then .done (s.jump i t (mkPc (BitVec.ofNat 64 x) 0)) acc
      else .trap { code := 6, tval := BitVec.ofNat 64 x })))

/-- NOP changes no state but the program counter (R53). -/
def execNop (s : State) : Host.Outcome State Fault Refusal := .next (s.onGroup (fun i => s.endPass i))

/-! ### Rejoin sets (R315, R316, R318) -/

/-- The active threads of an issue that are not helpers. -/
def State.activeLive (s : State) (i : Issue) (x : Option Ext) : List Nat :=
  (s.active i (extGuard x)).filter (fun t => (s.thread (i.tk t)).role == Role.live)

def State.modSet (s : State) (i : Issue) (n : Nat) (g : JSet → JSet) : State :=
  s.modGroup i.gk (fun gr => gr.putSet n (g (gr.set n)))

/-- JENTER by threads (R311): a free set stays free where no thread enters; a released set opens again, whoever enters. -/
def JSet.enter (js : JSet) (e : W32) : JSet :=
  match js.state with
  | .free => if e == 0#32 then js else { state := .opened, member := e, arrived := 0#32 }
  | _ => { js with state := .opened, member := js.member ||| e }

/-- JENTER (R316). -/
def execJenter (f : RForm) (s : State) : Host.Outcome State Fault Refusal :=
  .next (s.control 0x08 f (fun i => (s.modSet i (f.d.toNat % 16) (fun js => js.enter (maskOf (s.activeLive i f.ext)))).endPass i))

/-- JQUIT (R316). -/
def execJquit (f : RForm) (s : State) : Host.Outcome State Fault Refusal :=
  .next (s.control 0x09 f (fun i =>
    ((s.modSet i (f.d.toNat % 16) (fun js => js.quit (maskOf (s.activeLive i f.ext)))).testComplete i.gk (f.d.toNat % 16)).endPass i))

/-- Arrival of threads at a set (R311); a free set has no members, so no thread arrives there. -/
def JSet.arrive (js : JSet) (a : W32) : JSet :=
  if a == 0#32 then js
  else match js.state with
    | .free => js
    | .opened => { js with arrived := js.arrived ||| a }
    | .released => { js with state := .opened, arrived := a }

/-- Makes a thread wait on set `n` at the issued word (R316). -/
def State.waitOn (s : State) (i : Issue) (n t : Nat) : State :=
  s.modThread (i.tk t) (fun th => { th with wait := some { on := .set n, jn := n, next := i.nextPc, word := i.word } })

/-- JWAIT (R316): members arrive and wait, non-members trap, helpers wait alongside where a thread arrives. -/
def execJwait (f : RForm) (s : State) : Host.Outcome State Fault Refusal :=
  let n := f.d.toNat % 16
  .next (s.control 0x0A f (fun i =>
    let js := (s.group i.gk).set n
    let live := s.activeLive i f.ext
    let a := live.filter (fun t => js.member.getLsbD t)
    let bad := live.filter (fun t => !js.member.getLsbD t)
    let helpers := (lanesOf i.path).filter (fun t => (s.thread (i.tk t)).role == Role.helper)
    let s := bad.foldl (fun s t => s.raise (i.tk t) { code := 10, info := BitVec.ofNat 64 (n + 256) }) s
    let s := (if a.isEmpty then a else a ++ helpers).foldl (fun s t => s.waitOn i n t) s
    -- the threads that go on do so before the set completes: what completion frees has its own next word
    let s := ((lanesOf i.path).filter (fun t => (s.thread (i.tk t)).running)).foldl (fun s t => s.jump i t i.nextPc) s
    let s := (s.modSet i n (fun js => js.arrive (maskOf a))).testComplete i.gk n
    s.endPassFor i 0#32))

/-- Discards set `n` where threads wait: they take ORPHAN_SET, case 2 (R314). -/
def State.discardSet (s : State) (b g n : Nat) : State :=
  if ((s.group (gkey b g)).set n).arrived == 0#32 then s else s.orphanAll b g (.set n)

/-- The guard of a once-per-pass word holds for the first thread of the path (R32). -/
def State.uniformGuard (s : State) (i : Issue) (x : Option Ext) : Bool := extGuard x (s.thread (i.tk (firstLane i.path)))

/-- JFREE (R317). -/
def execJfree (f : RForm) (s : State) : Host.Outcome State Fault Refusal :=
  let n := f.d.toNat % 16
  .next (s.control 0x0B f (fun i =>
    if s.uniformGuard i f.ext then ((s.discardSet i.b i.g n).modSet i n (fun _ => {})).endPass i else s.endPass i))

def JState.code : JState → Nat
  | .free => 0 | .opened => 1 | .released => 2

/-- JREAD: the member mask, the arrived mask or the state (R318). -/
def execJread (f : RForm) (s : State) : Host.Outcome State Fault Refusal :=
  .next (s.aluR 0x0E f .reg (fun gr _ _ =>
    let js := gr.set (f.a.toNat % 16)
    (match extSub f.ext with
      | 0 => js.member.toNat | 1 => js.arrived.toNat | _ => js.state.code, Flags.none)))

/-! ### Index registers (R56) -/

/-- A new index value is accepted (R56). -/
def xOk (base : Int) (limit nreg : Nat) : Bool :=
  decide (1 ≤ limit) && decide (limit ≤ 160) && decide (96 ≤ base) && decide (base + limit ≤ nreg)

/-- The INDEX_BOUND of XSET and XADD: the rejected limit and base (R423). -/
def xTrap (n : Nat) (base : Int) (limit : Nat) : TrapRec :=
  { code := 9, tval := BitVec.ofInt 64 (base * 256 + (limit : Int)), info := BitVec.ofNat 64 n }

/-- Writes an index register after its check (R56). -/
def setIndex (i : Issue) (n : Nat) (base : Int) (limit : Nat) (s : State) (t : Nat) (acc : List Nat) : Turned :=
  if xOk base limit (s.block i.b).nreg then
    .done (s.modThread (i.tk t) (fun th => { th with x := Table.set 0#32 th.x n (BitVec.ofNat 32 (limit * 256 + base.toNat)) })) acc
  else .trap (xTrap n base limit)

/-- XSET (R56). -/
def execXset (f : IForm) (s : State) : Host.Outcome State Fault Refusal :=
  .next (s.onGroup (fun i =>
    if !iLegal 0xE1 f then s.illegal i f.ext
    else s.perThread i (fun _ => true) (setIndex i (f.d.toNat % 4) (f.imm.toNat % 256 : Nat) (f.imm.toNat / 256))))

/-- XADD: the base moves by a read as signed, the limit stays (R56). -/
def execXadd (f : RForm) (s : State) : Host.Outcome State Fault Refusal :=
  let n := f.d.toNat % 4
  .next (s.control 0xE2 f (fun i => s.perThread i (fun _ => true) (fun s t acc =>
    match s.readA i t f Opd.one with
    | .trap r => .trap r
    | .hold => .hold
    | .val a =>
      let x := Table.get 0#32 (s.thread (i.tk t)).x n
      setIndex i n ((xBase x : Int) + bitsToInt true 32 a) (xLimit x) s t acc)))

/-- XGET (R56). -/
def execXget (f : RForm) (s : State) : Host.Outcome State Fault Refusal :=
  .next (s.aluR 0xE3 f .reg (fun _ th _ => ((Table.get 0#32 th.x (f.a.toNat % 4)).toNat, Flags.none)))

/-! ### Macros (R58) -/

/-- MCALL: the path enters the macro's body, each thread at word tmw, or, met again at a body word, that word is forbidden (R58). The path takes
the body words in the steps that follow, em deciding there as in every pass (log 27). -/
def execMcall (f : RForm) (s : State) : Host.Outcome State Fault Refusal :=
  let number := extSub f.ext
  .next (s.control 0xE0 f (fun i =>
    let act := s.active i (fun _ => true)
    match i.body with
    | some p => s.trapActive i act { code := 13, info := BitVec.ofNat 64 (number + 256 * p.k) }
    | none =>
      if (s.block i.b).macros.length ≤ number then
        ((lanesOf i.path).foldl (fun s t => s.modThread (i.tk t) (fun th => { th with tmw := 0#5 })) s).trapActive i act
          { code := 13, info := BitVec.ofNat 64 number }
      else (lanesOf i.path).foldl (fun s t => s.modThread (i.tk t) (fun th => { th with inMacro := .body })) s))

/-- The guard of a word as it stands, its extension in bits 63:32: that of the B form, or that of the extension (R44, R45). -/
def wordGuard (w : W64) (th : Thread) : Bool :=
  let op := (w.extractLsb' 24 8).toNat
  if op == 1 || op == 2 || op == 4 || op == 6 then guardHolds (w.extractLsb' 21 3) (w.getLsbD 20) th
  else if w.getLsbD 0 then guardHolds (w.extractLsb' 44 3) (w.getLsbD 47) th
  else true

/-- ILLEGAL_EPAEL_WORD: each active thread of the pass traps; a header, a pool marker and a place past the clause leave the others where they
stand (R6, R33 to R36, R50, R54, R433). -/
def execIllegalEpaelWord (s : State) : Host.Outcome State Fault Refusal :=
  .next (s.onGroup (fun i =>
    if i.widx == 0 || decide (i.count < i.widx) then ((s.active i (fun _ => true)).foldl (fun s t => s.raise (i.tk t) { code := 1 }) s).closePass i
    else s.trapActive i (s.active i (wordGuard ((i.body.map BodyPos.word).getD i.word))) { code := 1 }))

end Sys2Proof.Machine
end

