-- ==== Sys2Proof/Machine/Integer.lean ====
section
/-! DEFINITION. Integer arithmetic, bitwise, shift and bit-field instructions, compares, selects, moves and integer
immediates (04 R87 to R95). -/

namespace Sys2Proof.Machine

/-- Width of an element of a type (R48, R67). -/
def elemWidth (ty : Nat) : Nat :=
  if is64 ty then 64 else if ty == 13 || ty == 14 || ty == 9 || ty == 10 then 8
  else if ty == 11 || ty == 12 || ty == 7 || ty == 8 then 16 else if ty == 15 then 4 else 32
/-- The type is signed (R87: b32 is read as n32). -/
def signedTy (ty : Nat) : Bool := ty == 1 || ty == 4 || ty == 11 || ty == 13
/-- Elements in a value of a type. -/
def elemCount (ty : Nat) : Nat := if is64 ty then 1 else 32 / elemWidth ty
/-- Element `e` of width `w`. -/
def elemAt (w x e : Nat) : Nat := (x / 2 ^ (w * e)) % 2 ^ w

/-- Applies an operation element by element and ORs the flags (R67). -/
def mapElems (w : Nat) (f : Nat → Nat × Flags) (n : Nat) : Nat × Flags :=
  (List.range n).foldl (fun acc e => let r := f e; (acc.1 + r.1 * 2 ^ (w * e), acc.2 ||| r.2)) (0, Flags.none)

/-- A result narrowed to its element: saturated with SAT, or wrapped (R88). -/
def narrow (sat : Bool) (ty : Nat) (x : Int) : Nat × Flags :=
  let w := elemWidth ty
  if sat then
    let r := satInt (signedTy ty) w x
    (intToBits w r.1, r.2)
  else (intToBits w x, Flags.none)

/-- An integer operation on the elements of a, b and c read as the type (R88). -/
def intOp (ty : Nat) (sat : Bool) (f : Int → Int → Int → Int) (a b c : Nat) : Nat × Flags :=
  let w := elemWidth ty
  let rd := fun x e => bitsToInt (signedTy ty) w (elemAt w x e)
  mapElems w (fun e => narrow sat ty (f (rd a e) (rd b e) (rd c e))) (elemCount ty)

/-- Floor of the product over 2^w (R88). -/
def mulHigh (w : Nat) (a b : Int) : Int := (a * b).fdiv (2 ^ w : Nat)

/-- The type, saturation and sub of an R-form word. -/
def RForm.tyOf (op : Nat) (f : RForm) : Nat := extTy (defaultType op) f.ext
def satOf (x : Option Ext) : Bool := extRnd x == 5

def aluInt (op : Nat) (f : RForm) (g : Int → Int → Int → Int) (s : State) : State :=
  s.aluR op f .reg (fun _ _ x => intOp (RForm.tyOf op f) (satOf f.ext) g x.a x.b x.c)

/-- IADD (R88). -/
def execIadd (f : RForm) (s : State) : Host.Outcome State Fault Refusal := .next (aluInt 0x10 f (fun a b _ => a + b) s)
/-- ISUB (R88). -/
def execIsub (f : RForm) (s : State) : Host.Outcome State Fault Refusal := .next (aluInt 0x11 f (fun a b _ => a - b) s)
/-- IMUL (R88). -/
def execImul (f : RForm) (s : State) : Host.Outcome State Fault Refusal := .next (aluInt 0x12 f (fun a b _ => a * b) s)
/-- IMULH (R88). -/
def execImulh (f : RForm) (s : State) : Host.Outcome State Fault Refusal :=
  .next (aluInt 0x13 f (fun a b _ => mulHigh (elemWidth (RForm.tyOf 0x13 f)) a b) s)
/-- IMAD (R88). -/
def execImad (f : RForm) (s : State) : Host.Outcome State Fault Refusal := .next (aluInt 0x14 f (fun a b c => a * b + c) s)
/-- IMINMAX: sub 0 minimum, 1 maximum (R88). -/
def execIminmax (f : RForm) (s : State) : Host.Outcome State Fault Refusal :=
  .next (aluInt 0x15 f (fun a b _ => if extSub f.ext == 0 then min a b else max a b) s)
/-- IABSD: the absolute difference, always in range as an unsigned element (R88). -/
def execIabsd (f : RForm) (s : State) : Host.Outcome State Fault Refusal :=
  .next (aluInt 0x16 f (fun a b _ => ((a - b).natAbs : Int)) s)
/-- ISUM (R88). -/
def execIsum (f : RForm) (s : State) : Host.Outcome State Fault Refusal := .next (aluInt 0x17 f (fun a b c => a + b + c) s)

/-- B' of IADDSH: b as n32; sign-extended for i64 (R88). -/
def addshB (ty b : Nat) : Int := if ty == 4 then bitsToInt true 32 b else (b : Int)
/-- IADDSH (R88). -/
def execIaddsh (f : RForm) (s : State) : Host.Outcome State Fault Refusal :=
  let ty := RForm.tyOf 0x18 f
  .next (s.aluR 0x18 f .reg (fun _ _ x =>
    narrow false ty (bitsToInt (signedTy ty) (elemWidth ty) x.a + addshB ty x.b * (2 ^ (extSub f.ext % 32) : Nat))))

/-! ### Bitwise, shift and bit-field (R89, R90) -/

/-- The bit of a number. -/
def bitAt (x i : Nat) : Nat := (x / 2 ^ i) % 2
/-- A number of `w` bits from its bits. -/
def ofBits (w : Nat) (f : Nat → Nat) : Nat := (List.range w).foldl (fun acc i => acc + (f i % 2) * 2 ^ i) 0

/-- Three-input lookup on each bit (R90). -/
def lutBits (w lut a b c : Nat) : Nat := ofBits w (fun i => bitAt lut (bitAt a i + 2 * bitAt b i + 4 * bitAt c i))

/-- TLOG; with X clear lut is 0 and the result 0 (R89, R90). -/
def execTlog (f : RForm) (s : State) : Host.Outcome State Fault Refusal :=
  .next (s.aluR 0x20 f .reg (fun _ _ x => (lutBits (elemWidth (RForm.tyOf 0x20 f)) (extSub f.ext) x.a x.b x.c, Flags.none)))

/-- SHIFT: 0 shl, 1 shr, 2 sar, 3 rol, 4 ror (R90). -/
def shiftBits (w op a n : Nat) : Nat :=
  match op with
  | 0 => if n < w then (a * 2 ^ n) % 2 ^ w else 0
  | 1 => if n < w then a / 2 ^ n else 0
  | 2 =>
    let neg := decide (2 ^ (w - 1) ≤ a)
    if n < w then a / 2 ^ n + (if neg then 2 ^ w - 2 ^ (w - n) else 0) else if neg then 2 ^ w - 1 else 0
  | 3 => let k := n % w; (a * 2 ^ k) % 2 ^ w + a / 2 ^ (w - k)
  | _ => let k := n % w; a / 2 ^ k + (a * 2 ^ (w - k)) % 2 ^ w

/-- SHIFT (R90). -/
def execShift (f : RForm) (s : State) : Host.Outcome State Fault Refusal :=
  .next (s.aluR 0x21 f .reg (fun _ _ x => (shiftBits (elemWidth (RForm.tyOf 0x21 f)) (extSub f.ext) x.a x.b, Flags.none)))

def fieldPos (b : Nat) : Nat := b % 256
def fieldLen (b : Nat) : Nat := min ((b / 256) % 256) 32

/-- BFX: a field of a, extended (R90). -/
def bfxBits (signed : Bool) (a b : Nat) : Nat :=
  let len := fieldLen b
  let wide := if signed then intToBits 512 (bitsToInt true 32 a) else a % 2 ^ 32
  if len == 0 then 0 else intToBits 32 (bitsToInt signed len (wide / 2 ^ fieldPos b))

/-- BFX (R90). -/
def execBfx (f : RForm) (s : State) : Host.Outcome State Fault Refusal :=
  .next (s.aluR 0x22 f .reg (fun _ _ x => (bfxBits (RForm.tyOf 0x22 f == 1) x.a x.b, Flags.none)))

/-- BFI: a's low bits inserted into c (R90). -/
def bfiBits (a b c : Nat) : Nat :=
  let pos := fieldPos b
  let len := fieldLen b
  ofBits 32 (fun i => if pos ≤ i && i < pos + len then bitAt a (i - pos) else bitAt c i)

/-- BFI (R90). -/
def execBfi (f : RForm) (s : State) : Host.Outcome State Fault Refusal :=
  .next (s.aluR 0x23 f .reg (fun _ _ x => (bfiBits x.a x.b x.c, Flags.none)))

def popCount (w a : Nat) : Nat := (List.range w).foldl (fun acc i => acc + bitAt a i) 0
/-- POPC (R90). -/
def execPopc (f : RForm) (s : State) : Host.Outcome State Fault Refusal :=
  .next (s.aluR 0x24 f .reg (fun _ _ x => (popCount (elemWidth (RForm.tyOf 0x24 f)) x.a, Flags.none)))

def leadingZeros (w a : Nat) : Nat := if a == 0 then w else w - 1 - Nat.log2 a
/-- CLZ (R90). -/
def execClz (f : RForm) (s : State) : Host.Outcome State Fault Refusal :=
  .next (s.aluR 0x25 f .reg (fun _ _ x => (leadingZeros (elemWidth (RForm.tyOf 0x25 f)) x.a, Flags.none)))

def reverseBits (w a : Nat) : Nat := ofBits w (fun i => bitAt a (w - 1 - i))
/-- BREV (R90). -/
def execBrev (f : RForm) (s : State) : Host.Outcome State Fault Refusal :=
  .next (s.aluR 0x26 f .reg (fun _ _ x => (reverseBits (elemWidth (RForm.tyOf 0x26 f)) x.a, Flags.none)))

/-! ### Compare, select, move (R91, R92, R94) -/

/-- The destination of a compare: a predicate unless sub bit 7 is set (R91). -/
def cmpDest (x : Option Ext) : Dest := if extSub x / 128 == 1 then .reg else .pred
/-- The value a compare writes (R91): a mask register takes all ones. -/
def cmpValue (x : Option Ext) (holds : Bool) : Nat := if holds then (if extSub x / 128 == 1 then 2 ^ 32 - 1 else 1) else 0

/-- ICMP conditions: eq ne lt le gt ge (R91). -/
def intCond (c : Nat) (a b : Int) : Bool :=
  match c with
  | 0 => decide (a = b) | 1 => decide (a ≠ b) | 2 => decide (a < b) | 3 => decide (a ≤ b) | 4 => decide (b < a) | _ => decide (b ≤ a)

/-- ICMP (R91). -/
def execIcmp (f : RForm) (s : State) : Host.Outcome State Fault Refusal :=
  let ty := RForm.tyOf 0x27 f
  .next (s.aluR 0x27 f (cmpDest f.ext) (fun _ _ x =>
    (cmpValue f.ext (intCond (extSub f.ext % 16) (bitsToInt (signedTy ty) (elemWidth ty) x.a) (bitsToInt (signedTy ty) (elemWidth ty) x.b)),
      Flags.none)))

/-- SEL: a if the (negated) predicate of sub holds, else b (R92). -/
def execSel (f : RForm) (s : State) : Host.Outcome State Fault Refusal :=
  let n := extSub f.ext
  .next (s.aluR 0x28 f .reg (fun _ th x => (if th.p.getLsbD (n % 8) != (n / 8 % 2 == 1) then x.a else x.b, Flags.none)))

/-- PLOP: pd := lut[4pa + 2pb + pc] (R93). -/
def execPlop (f : RForm) (s : State) : Host.Outcome State Fault Refusal :=
  let pb := fun (th : Thread) (c : BitVec 7) => if th.p.getLsbD (c.toNat % 8) then 1 else 0
  .next (s.aluR 0x29 f .pred (fun _ th _ =>
    (bitAt (extSub f.ext) (4 * pb th f.a + 2 * pb th f.b + pb th (extC f.ext)), Flags.none)))

/-- MOV (R92). -/
def execMov (f : RForm) (s : State) : Host.Outcome State Fault Refusal := .next (s.aluR 0x2A f .reg (fun _ _ x => (x.a, Flags.none)))

/-- One thread's turn of PMOV to the predicates or to em (R94). -/
def pmovTurn (i : Issue) (q : Fields) (toEm : Bool) (s : State) (t : Nat) (acc : List Nat) : Turned :=
  match s.read i t q.a q.ea Opd.one (if q.xo == 1 then some q.xs else none) with
  | .trap r => .trap r
  | .hold => .hold
  | .val x =>
    .done (s.modThread (i.tk t) (fun th => if toEm then { th with em := bitAt x 0 == 1 } else { th with p := BitVec.ofNat 8 x })) acc

/-- PMOV em acts on every thread of the path whose guard holds: em is not consulted (R94). -/
def State.pmovEm (s : State) (i : Issue) (q : Fields) : State :=
  let st := match (s.group i.gk).pass with
    | some p => (lanesOf p.rest, p.took, p.acc)
    | none => ((lanesOf i.path).filter (fun t => extGuard q.ext (s.thread (i.tk t))), 0#32, [])
  let r := runLanes i (pmovTurn i q true) st.1 s st.2.1 st.2.2
  match r.2.1 with
  | [] => r.1.endPass i
  | rest => r.1.holdPass i rest r.2.2.1 r.2.2.2

/-- PMOV (R94): sub 0 reads predicates and em, 1 writes the predicates, 2 writes em. -/
def execPmov (f : RForm) (s : State) : Host.Outcome State Fault Refusal :=
  match extSub f.ext with
  | 0 => .next (s.aluR 0x2B f .reg (fun _ th _ => (th.p.toNat + (if th.em then 256 else 0), Flags.none)))
  | k => .next (s.onGroup (fun i =>
    let q := Fields.ofR f
    match rShape 0x2B f with
    | none => s.illegal i f.ext
    | some sh =>
      if !rLegal 0x2B f || !q.belowNreg sh (s.block i.b).nreg then s.illegal i f.ext
      else if k == 2 then s.pmovEm i q
      else s.perThread i (extGuard f.ext) (pmovTurn i q false)))

/-! ### Integer immediates (R48, R95) -/

/-- imm16 under a type (R48). R48 widens a BF16 immediate exactly and does not say what becomes of a NaN: under f64 the model gives the canonical NaN, as
a conversion does, and under f32 it keeps sign and payload (DESIGN CHOICE, log 137). -/
def immValue (ty : Nat) (imm : BitVec 16) : Nat :=
  let n := imm.toNat
  match ty with
  | 1 => intToBits 32 (bitsToInt true 16 n)
  | 3 => n * 65536
  | 4 => intToBits 64 (bitsToInt true 16 n)
  | 6 => (Fmt.f64.round .rn (Fmt.bf16.decode n)).1
  | 7 | 8 | 11 | 12 => n + n * 65536
  | 9 | 10 | 13 | 14 => n + n * 65536
  | 15 => n + n * 65536
  | _ => n

/-- The source of an I-form word: c with an extension, d without (R43). -/
def immSource (f : IForm) (x : Args) : Nat := if f.ext.isSome then x.c else x.d

def IForm.tyOf (op : Nat) (f : IForm) : Nat := extTy (defaultType op) f.ext

def aluImm (op : Nat) (f : IForm) (g : Int → Int → Int) (s : State) : State :=
  let ty := IForm.tyOf op f
  s.aluI op f (fun _ _ x => intOp ty (satOf f.ext) (fun a b _ => g a b) (immSource f x) (immValue ty f.imm) 0)

/-- IADDI (R95). -/
def execIaddi (f : IForm) (s : State) : Host.Outcome State Fault Refusal := .next (aluImm 0x30 f (· + ·) s)
/-- IMULI (R95). -/
def execImuli (f : IForm) (s : State) : Host.Outcome State Fault Refusal := .next (aluImm 0x31 f (· * ·) s)

def bitImm (op : Nat) (f : IForm) (lut : Nat) (s : State) : State :=
  let ty := IForm.tyOf op f
  s.aluI op f (fun _ _ x => (lutBits (elemWidth ty) lut (immSource f x) (immValue ty f.imm) 0, Flags.none))

/-- ANDI (R95). -/
def execAndi (f : IForm) (s : State) : Host.Outcome State Fault Refusal := .next (bitImm 0x32 f 0x88 s)
/-- ORI (R95). -/
def execOri (f : IForm) (s : State) : Host.Outcome State Fault Refusal := .next (bitImm 0x33 f 0xEE s)
/-- XORI (R95). -/
def execXori (f : IForm) (s : State) : Host.Outcome State Fault Refusal := .next (bitImm 0x34 f 0x66 s)

def shiftImm (op : Nat) (f : IForm) (kind : Nat) (s : State) : State :=
  s.aluI op f (fun _ _ x => (shiftBits (elemWidth (IForm.tyOf op f)) kind (immSource f x) f.imm.toNat, Flags.none))

/-- SHLI: the count is imm as n16 (R95). -/
def execShli (f : IForm) (s : State) : Host.Outcome State Fault Refusal := .next (shiftImm 0x35 f 0 s)
/-- SHRI (R95). -/
def execShri (f : IForm) (s : State) : Host.Outcome State Fault Refusal := .next (shiftImm 0x36 f 1 s)
/-- SRAI (R95). -/
def execSrai (f : IForm) (s : State) : Host.Outcome State Fault Refusal := .next (shiftImm 0x37 f 2 s)

/-- MOVI: the immediate, under any of the sixteen types (R48, R95). -/
def execMovi (f : IForm) (s : State) : Host.Outcome State Fault Refusal :=
  .next (s.aluI 0x38 f (fun _ _ _ => (immValue (IForm.tyOf 0x38 f) f.imm, Flags.none)))
/-- MOVHI: imm × 2^16 + x[15:0] (R95). -/
def execMovhi (f : IForm) (s : State) : Host.Outcome State Fault Refusal :=
  .next (s.aluI 0x39 f (fun _ _ x => (f.imm.toNat * 65536 + immSource f x % 65536, Flags.none)))
/-- IMINI (R95). -/
def execImini (f : IForm) (s : State) : Host.Outcome State Fault Refusal := .next (aluImm 0x3B f min s)
/-- IMAXI (R95). -/
def execImaxi (f : IForm) (s : State) : Host.Outcome State Fault Refusal := .next (aluImm 0x3C f max s)

end Sys2Proof.Machine
end

