-- ==== Sys2Proof/Machine/Transcend.lean ====
section
/-! DEFINITION. FTRANS and TWID (04 R109, R113): series in fixed point with 256 fraction bits, far below every f32
rounding boundary (log 8), then the enclosing f32 values. -/

namespace Sys2Proof.Machine

/-- Fraction bits of the fixed-point numbers. -/
def fixBits : Nat := 256
/-- 1 in fixed point. -/
def fixOne : Nat := 2 ^ fixBits
/-- ⌊π · 2^256⌋. -/
def fixPi : Nat := 0x3243f6a8885a308d313198a2e03707344a4093822299f31d0082efa98ec4e6c89
/-- ⌊ln 2 · 2^256⌋. -/
def fixLn2 : Nat := 0xb17217f7d1cf79abc9e3b39803f2f6af40f343267298b62d8a0d175b8baafa2b

/-- Sum of x^n/n! from term `n` on, `t` being that term: e^x for 0 ≤ x < 1. -/
def expSeries (x : Nat) (fuel n t : Nat) : Nat :=
  match fuel with
  | 0 => 0
  | k + 1 => t + expSeries x k (n + 1) (t * x / fixOne / (n + 1))
/-- e^x in fixed point for 0 ≤ x < 1. -/
def fixExp (x : Nat) : Nat := expSeries x 80 0 fixOne

/-- Alternating sum t − t·x²/((n+1)(n+2)) + …: sine from n = 1, cosine from n = 0. -/
def trigSeries (x2 : Nat) (fuel n t : Nat) : Int :=
  match fuel with
  | 0 => 0
  | k + 1 => (t : Int) - trigSeries x2 k (n + 2) (t * x2 / fixOne / ((n + 1) * (n + 2)))
/-- sin x in fixed point for 0 ≤ x < 2. -/
def fixSin (x : Nat) : Nat := (trigSeries (x * x / fixOne) 50 1 x).toNat
/-- cos x in fixed point for 0 ≤ x < 2. -/
def fixCos (x : Nat) : Nat := (trigSeries (x * x / fixOne) 50 0 fixOne).toNat

/-- z + z³/3 + z⁵/5 + … = atanh z. -/
def atanhSeries (z2 : Nat) (fuel n p : Nat) : Nat :=
  match fuel with
  | 0 => 0
  | k + 1 => p / n + atanhSeries z2 k (n + 2) (p * z2 / fixOne)
/-- ln y in fixed point for y in [1, 2). -/
def fixLn (y : Nat) : Nat :=
  let z := (y - fixOne) * fixOne / (y + fixOne)
  2 * atanhSeries (z * z / fixOne) 90 1 z

/-- `man · 2^exp` as a fixed-point number (cut below 2^−256). -/
def toFix (man : Nat) (exp : Int) : Nat :=
  let e := exp + fixBits
  if 0 ≤ e then man * 2 ^ e.toNat else man / 2 ^ (-e).toNat

/-- A result of a transcendental function: exact, or lying strictly inside the place of its last bit. -/
structure Approx where
  val : FVal
  exact : Bool
  deriving DecidableEq, Repr

/-- An inexact value: the fixed-point magnitude with a last odd bit below it, times 2^shift. -/
def Approx.near (neg : Bool) (fix : Nat) (shift : Int) : Approx :=
  { val := .fin neg (2 * fix + 1) (shift - fixBits - 1), exact := false }
def Approx.exactly (v : FVal) : Approx := { val := v, exact := true }
/-- A positive result beyond every f32 number: below the least one, or above the greatest. -/
def Approx.beyond (below : Bool) : Approx := { val := .fin false 1 (if below then -600 else 600), exact := false }

/-- 2^(n + f) with f in [0, 1) in fixed point. -/
def approxExp2 (n : Int) (f : Nat) : Approx := .near false (fixExp (f * fixLn2 / fixOne)) n

/-- e^x for x = ± m·2^e, with 2^e·m below 2^9. -/
def approxExp (neg : Bool) (m : Nat) (e : Int) : Approx :=
  let x : Int := signedMan neg (toFix m e)
  let n : Int := x / (fixLn2 : Int)
  .near false (fixExp (x - n * fixLn2).toNat) n

/-- log2 of a positive number that is not a power of two, as a signed fixed-point number. -/
def fixLog2 (m : Nat) (e : Int) : Int :=
  let l := Nat.log2 m
  let y := toFix m (-(l : Int))
  ((l : Int) + e) * (fixOne : Int) + (fixLn y * fixOne / fixLn2 : Nat)

/-- ln of a positive number, as a signed fixed-point number. -/
def fixLogE (m : Nat) (e : Int) : Int :=
  let l := Nat.log2 m
  ((l : Int) + e) * (fixLn2 : Int) + (fixLn (toFix m (-(l : Int))) : Nat)

/-- A signed fixed-point number as an inexact result. -/
def Approx.ofFix (x : Int) : Approx := .near (decide (x < 0)) x.natAbs 0

/-- |sin πr| or |cos πr| for r = `a`/2^`k` with 0 < r < 1/2, in fixed point; the cosine stays below 1. -/
def fixTrigPi (cosine : Bool) (a : Nat) (k : Nat) : Nat :=
  let x := a * fixPi / 2 ^ k
  if cosine then min (fixCos x) (fixOne - 1) else fixSin x

/-- sin(π·m·2^e) for a number that is not a multiple of 1/2 (`quarter` false) and cos likewise: e < −1. -/
def approxTrigPi (cosine neg : Bool) (m : Nat) (e : Int) : Approx :=
  let k := (-e).toNat
  let r := m % (2 * 2 ^ k)
  let half := 2 ^ k
  let upper := decide (half ≤ r)
  let r1 := if upper then r - half else r
  let second := decide (half < 2 * r1)
  let r2 := if second then half - r1 else r1
  let sgn := if cosine then (upper != second) else (upper != neg)
  .near sgn (fixTrigPi cosine r2 k) 0

/-- The value of FTRANS function `fn` at a number that is not a NaN, with NV or DZ (R113). -/
def ftransValue (fn : Nat) (x : FVal) : Approx × Flags :=
  let one : FVal := .fin false 1 0
  let zero : FVal := .fin false 0 0
  match fn, x with
  | _, .nan => (.exactly .nan, Flags.none)
  | 0, .inf s | 2, .inf s => (.exactly (if s then zero else .inf false), Flags.none)
  | 1, .inf s | 3, .inf s => if s then (.exactly .nan, Flags.nv) else (.exactly (.inf false), Flags.none)
  | 6, .inf s => (.exactly (.fin s 1 0), Flags.none)
  | _, .inf _ => (.exactly .nan, Flags.nv)
  | 0, .fin s m e =>
    if m == 0 then (.exactly one, Flags.none)
    else if 9 < (Nat.log2 m : Int) + e then (.beyond s, Flags.none)
    else if 0 ≤ e || m % 2 ^ (-e).toNat == 0 then
      let n := signedMan s (if 0 ≤ e then m * 2 ^ e.toNat else m / 2 ^ (-e).toNat)
      ({ val := .fin false 1 n, exact := decide (-149 ≤ n) && decide (n ≤ 127) }, Flags.none)
    else
      let v : Int := signedMan s (toFix m e)
      let n : Int := v / (fixOne : Int)
      (approxExp2 n (v - n * fixOne).toNat, Flags.none)
  | 2, .fin s m e =>
    if m == 0 then (.exactly one, Flags.none)
    else if 9 < (Nat.log2 m : Int) + e then (.beyond s, Flags.none)
    else (approxExp s m e, Flags.none)
  | 1, .fin s m e =>
    if m == 0 then (.exactly (.inf true), Flags.dz)
    else if s then (.exactly .nan, Flags.nv)
    else if m == 2 ^ Nat.log2 m then (.exactly (FVal.ofInt ((Nat.log2 m : Int) + e) 0 false), Flags.none)
    else (Approx.ofFix (fixLog2 m e), Flags.none)
  | 3, .fin s m e =>
    if m == 0 then (.exactly (.inf true), Flags.dz)
    else if s then (.exactly .nan, Flags.nv)
    else if m == 2 ^ Nat.log2 m && (Nat.log2 m : Int) + e == 0 then (.exactly zero, Flags.none)
    else (Approx.ofFix (fixLogE m e), Flags.none)
  | 4, .fin s m e =>
    if 0 ≤ e || m % 2 ^ (-e).toNat == 0 then (.exactly (.fin s 0 0), Flags.none)
    else if m % 2 ^ ((-e).toNat - 1) == 0 then
      (.exactly (.fin (s != ((m / 2 ^ (-e).toNat) % 2 == 1)) 1 0), Flags.none)
    else (approxTrigPi false s m e, Flags.none)
  | 5, .fin _ m e =>
    if 0 ≤ e then (.exactly (.fin (e == 0 && m % 2 == 1) 1 0), Flags.none)
    else if m % 2 ^ (-e).toNat == 0 then (.exactly (.fin ((m / 2 ^ (-e).toNat) % 2 == 1) 1 0), Flags.none)
    else if m % 2 ^ ((-e).toNat - 1) == 0 then (.exactly zero, Flags.none)
    else (approxTrigPi true false m e, Flags.none)
  | _, .fin s m e =>
    if m == 0 then (.exactly (.fin s 0 0), Flags.none)
    else if (Nat.log2 m : Int) + e < -40 then
      ({ val := .fin s (m * 2 ^ 64 - 1) (e - 64), exact := false }, Flags.none)
    else if 6 < (Nat.log2 m : Int) + e then ({ val := .fin s (2 ^ 64 - 1) (-64), exact := false }, Flags.none)
    else
      let t := (toFix m e) * 2
      let n := t / fixLn2
      let w := fixExp (t - n * fixLn2) * 2 ^ n
      ({ val := .fin s (2 * ((w - fixOne) * fixOne / (w + fixOne)) + 1) (-(fixBits : Int) - 1), exact := false }, Flags.none)

/-- FTRANS.fn of f32 bits: exact where the result is representable, else one of the two enclosing values; overflow gives
+∞ (R113). Which of the two is a free value (log 7). -/
def ftransBits (fn : Nat) (a : BitVec 32) : Nat × Flags :=
  let r := ftransValue fn (Fmt.f32.decode a.toNat)
  if r.1.exact then
    let y := Fmt.f32.round .rn r.1.val
    (y.1, r.2 ||| y.2)
  else
    let s := r.1.val.sign
    let toward := Fmt.f32.round .rz r.1.val
    let away := Fmt.f32.round (if s then .rd else .ru) r.1.val
    let fl := r.2 ||| toward.2 ||| away.2
    if (toward.2 &&& Flags.of) != 0#6 then (Fmt.f32.infBits s, fl)
    else if Config.ftransAway fn a then (away.1, r.2 ||| away.2) else (toward.1, r.2 ||| toward.2)

/-- cos (or sin) of 2πk/2^logn correctly rounded to f32, an exact zero as +0 (R109). -/
def twidBits (cosine : Bool) (k logn : Nat) : Nat :=
  let n := 2 ^ logn
  let j := k % n
  -- 2πj/n = π · (2j) · 2^(−logn)
  let r := if cosine then ftransValue 5 (.fin false (2 * j) (-(logn : Int)))
           else ftransValue 4 (.fin false (2 * j) (-(logn : Int)))
  match r.1.val with
  | .fin s m e => if m == 0 then 0 else (Fmt.f32.round .rn (.fin s m e)).1
  | v => (Fmt.f32.round .rn v).1

end Sys2Proof.Machine
end

