-- ==== Sys2Proof/Machine/FloatOps.lean ====
section
/-! DEFINITION. Floating-point, conversion, packing, dot-product and transform instructions (04 R96 to R109). -/

namespace Sys2Proof.Machine

/-- The float format of a type code (R48). -/
def fmtOf (ty : Nat) : Fmt :=
  match ty with
  | 6 => .f64 | 7 => .bf16 | 8 => .f16 | 9 => .e4m3 | 10 => .e5m2 | 15 => .e2m1 | _ => .f32

/-- A float operation on each element (R67). -/
def fltOp (ty : Nat) (f : Fmt → Nat → Nat → Nat → Nat × Flags) (a b c : Nat) : Nat × Flags :=
  let w := elemWidth ty
  mapElems w (fun e => f (fmtOf ty) (elemAt w a e) (elemAt w b e) (elemAt w c e)) (elemCount ty)

/-- A float R-form instruction; the mode is read at the turn (R47, R73). -/
def aluFlt (op : Nat) (f : RForm) (g : RMode → Fmt → Nat → Nat → Nat → Nat × Flags) (s : State) : State :=
  s.aluR op f .reg (fun gr _ x => fltOp (RForm.tyOf op f) (g (modeOf (extRnd f.ext) gr)) x.a x.b x.c)

/-- FADD (R98). -/
def execFadd (f : RForm) (s : State) : Host.Outcome State Fault Refusal := .next (aluFlt 0x40 f (fun m t a b _ => t.addBits m a b) s)
/-- FSUB (R98). -/
def execFsub (f : RForm) (s : State) : Host.Outcome State Fault Refusal := .next (aluFlt 0x41 f (fun m t a b _ => t.subBits m a b) s)
/-- FMUL (R98). -/
def execFmul (f : RForm) (s : State) : Host.Outcome State Fault Refusal := .next (aluFlt 0x42 f (fun m t a b _ => t.mulBits m a b) s)
/-- FFMA (R98). -/
def execFfma (f : RForm) (s : State) : Host.Outcome State Fault Refusal := .next (aluFlt 0x43 f (fun m t a b c => t.fmaBits m a b c) s)

/-- FMIN and FMAX on bits, with number or NaN semantics (R98). -/
def minMax (small nan : Bool) (t : Fmt) (a b : Nat) : Nat × Flags :=
  (if nan then t.minMaxNan small a b else t.minMaxNumber small a b, Flags.none)

/-- FMIN (R98). -/
def execFmin (f : RForm) (s : State) : Host.Outcome State Fault Refusal :=
  .next (aluFlt 0x44 f (fun _ t a b _ => minMax true (extSub f.ext == 1) t a b) s)
/-- FMAX (R98). -/
def execFmax (f : RForm) (s : State) : Host.Outcome State Fault Refusal :=
  .next (aluFlt 0x45 f (fun _ t a b _ => minMax false (extSub f.ext == 1) t a b) s)

/-- FCMP conditions: eq ne lt le gt ge ord un (R91). -/
def fltCond (c : Nat) (o : Option Ordering) : Bool :=
  match c, o with
  | 0, some .eq => true
  | 1, some .eq => false
  | 1, _ => true
  | 2, some .lt => true
  | 3, some .lt => true
  | 3, some .eq => true
  | 4, some .gt => true
  | 5, some .gt => true
  | 5, some .eq => true
  | 6, some _ => true
  | 7, none => true
  | _, _ => false

/-- FCMP (R91). -/
def execFcmp (f : RForm) (s : State) : Host.Outcome State Fault Refusal :=
  let t := fmtOf (RForm.tyOf 0x46 f)
  .next (s.aluR 0x46 f (cmpDest f.ext) (fun _ _ x =>
    (cmpValue f.ext (fltCond (extSub f.ext % 16) (FVal.cmp (t.decode x.a) (t.decode x.b))), Flags.none)))

/-- FCLASS: one register whatever the type (R98). -/
def execFclass (f : RForm) (s : State) : Host.Outcome State Fault Refusal :=
  .next (s.aluR 0x47 f .reg (fun _ _ x => ((fmtOf (RForm.tyOf 0x47 f)).classBits x.a, Flags.none)))
/-- FRND: sub 1 reports NX (R98). -/
def execFrnd (f : RForm) (s : State) : Host.Outcome State Fault Refusal :=
  .next (aluFlt 0x48 f (fun m t a _ _ => t.rndBits m (extSub f.ext == 1) a) s)
/-- FLDEXP: b as i32 (R98). -/
def execFldexp (f : RForm) (s : State) : Host.Outcome State Fault Refusal :=
  .next (s.aluR 0x49 f .reg (fun gr _ x =>
    (fmtOf (RForm.tyOf 0x49 f)).ldexpBits (modeOf (extRnd f.ext) gr) x.a (bitsToInt true 32 x.b)))

/-- The magnitude bits of an element. -/
def magnitude (t : Fmt) (a : Nat) : Nat := a % 2 ^ (t.width - 1)
/-- The sign bit of an element, 0 or 1. -/
def signOf (t : Fmt) (a : Nat) : Nat := bitAt a (t.width - 1)
/-- An element with another sign bit (R99). -/
def withSign (t : Fmt) (a sgn : Nat) : Nat := magnitude t a + (sgn % 2) * 2 ^ (t.width - 1)

/-- FABS (R99). -/
def execFabs (f : RForm) (s : State) : Host.Outcome State Fault Refusal :=
  .next (aluFlt 0x50 f (fun _ t a _ _ => (withSign t a 0, Flags.none)) s)
/-- FNEG (R99). -/
def execFneg (f : RForm) (s : State) : Host.Outcome State Fault Refusal :=
  .next (aluFlt 0x51 f (fun _ t a _ _ => (withSign t a (1 + signOf t a), Flags.none)) s)
/-- FCSGN: 0 copies b's sign, 1 its inverse, 2 a's XOR b's (R99). -/
def execFcsgn (f : RForm) (s : State) : Host.Outcome State Fault Refusal :=
  .next (aluFlt 0x52 f (fun _ t a b _ =>
    (withSign t a (match extSub f.ext with
      | 0 => signOf t b | 1 => 1 + signOf t b | _ => signOf t a + signOf t b), Flags.none)) s)
/-- FSAT (R99). -/
def execFsat (f : RForm) (s : State) : Host.Outcome State Fault Refusal :=
  .next (aluFlt 0x53 f (fun _ t a _ _ => (t.satBits a, Flags.none)) s)

/-! ### Float immediates (R96) -/

def aluFltImm (op : Nat) (f : IForm) (g : RMode → Fmt → Nat → Nat → Nat × Flags) (s : State) : State :=
  let ty := IForm.tyOf op f
  s.aluI op f (fun gr _ x => fltOp ty (fun t a b _ => g (modeOf (extRnd f.ext) gr) t a b) (immSource f x) (immValue ty f.imm) 0)

/-- FADDI (R96). -/
def execFaddi (f : IForm) (s : State) : Host.Outcome State Fault Refusal := .next (aluFltImm 0x65 f (fun m t a b => t.addBits m a b) s)
/-- FMULI (R96). -/
def execFmuli (f : IForm) (s : State) : Host.Outcome State Fault Refusal := .next (aluFltImm 0x66 f (fun m t a b => t.mulBits m a b) s)
/-- FFMAI: Round(c × imm + d) (R96). -/
def execFfmai (f : IForm) (s : State) : Host.Outcome State Fault Refusal :=
  let ty := IForm.tyOf 0x67 f
  .next (s.aluI 0x67 f (fun gr _ x => fltOp ty (fun t a b c => t.fmaBits (modeOf (extRnd f.ext) gr) a b c) x.c (immValue ty f.imm) x.d))
/-- FMINI (R96). -/
def execFmini (f : IForm) (s : State) : Host.Outcome State Fault Refusal := .next (aluFltImm 0x68 f (fun _ t a b => minMax true false t a b) s)
/-- FMAXI (R96). -/
def execFmaxi (f : IForm) (s : State) : Host.Outcome State Fault Refusal := .next (aluFltImm 0x69 f (fun _ t a b => minMax false false t a b) s)

/-! ### Conversion and packing (R100 to R105) -/

/-- What a CVT code with its variant bit names (R100). -/
inductive CvtFmt where
  | int (signed : Bool) (w : Nat)
  | flt (t : Fmt)
  | e8m0
  deriving DecidableEq, Repr

def cvtFmt (code : Nat) (variant : Bool) : CvtFmt :=
  match code with
  | 0 => .int true 8 | 1 => .int true 16 | 2 => .int true 32 | 3 => .int true 64
  | 4 => .int false 8 | 5 => .int false 16 | 6 => .int false 32 | 7 => .int false 64
  | 8 => .flt .f64 | 9 => .flt .f32 | 10 => .flt .bf16 | 11 => .flt .f16 | 12 => .flt .e4m3 | 13 => .flt .e5m2
  | 14 => if variant then .flt .e2m3 else .flt .e3m2
  | _ => if variant then .e8m0 else .flt .e2m1

/-- The exact value of a under a source code, reading only the bits its placement names (R100, R101). -/
def CvtFmt.value (c : CvtFmt) (a : Nat) : FVal :=
  match c with
  | .int sg w => FVal.ofInteger (bitsToInt sg w a)
  | .flt t => t.decode (a % 2 ^ t.width)
  | .e8m0 => e8m0Value a

/-- A value converted under R75 and placed under the destination code; a narrow signed integer is sign-extended to 32 bits
(R100, R101). -/
def CvtFmt.place (c : CvtFmt) (mode : RMode) (x : FVal) : Nat × Flags :=
  match c with
  | .int sg w =>
    let r := floatToInt sg w mode x
    (intToBits (max w 32) r.1, r.2)
  | .flt t => t.convert mode x
  | .e8m0 => toE8m0 mode x

/-- An integer converted to an integer saturates with SAT (R75). -/
def cvtBits (dst src : CvtFmt) (mode : RMode) (a : Nat) : Nat × Flags :=
  match dst, src with
  | .int sg w, .int sg' w' =>
    let r := satInt sg w (bitsToInt sg' w' a)
    (intToBits (max w 32) r.1, r.2)
  | _, _ => dst.place mode (src.value a)

/-- CVT (R101). -/
def execCvt (f : RForm) (s : State) : Host.Outcome State Fault Refusal :=
  let sub := extSub f.ext
  let ty := extTy 0 f.ext
  .next (s.aluR 0x60 f .reg (fun gr _ x =>
    cvtBits (cvtFmt (sub / 16) (ty / 4 % 2 == 1)) (cvtFmt (sub % 16) (ty % 2 == 1)) (modeOf (extRnd f.ext) gr) x.a))

/-- One element of PACK: the 32-bit source narrowed to the type (R75, R102). -/
def packElem (ty : Nat) (mode : RMode) (x : Nat) : Nat × Flags :=
  match ty with
  | 11 | 13 => narrow true ty (bitsToInt true 32 x)
  | 12 | 14 => narrow true ty (x % 2 ^ 32 : Nat)
  | _ => (fmtOf ty).convert mode (Fmt.f32.decode x)

/-- `d` with element `e` of width `w` replaced. -/
def putElem (w d e x : Nat) : Nat := d - elemAt w d e * 2 ^ (w * e) + (x % 2 ^ w) * 2 ^ (w * e)

/-- PACK: elements 2q and 2q+1 from a and b (R102). -/
def execPack (f : RForm) (s : State) : Host.Outcome State Fault Refusal :=
  let ty := RForm.tyOf 0x61 f
  let w := elemWidth ty
  let q := extSub f.ext % 4
  .next (s.aluR 0x61 f .reg (fun gr _ x =>
    let lo := packElem ty (modeOf (extRnd f.ext) gr) x.a
    let hi := packElem ty (modeOf (extRnd f.ext) gr) x.b
    (putElem w (putElem w x.d (2 * q) lo.1) (2 * q + 1) hi.1, lo.2 ||| hi.2)))

/-- UNPACK: one element widened to 32 bits (R103). -/
def unpackElem (ty e a : Nat) : Nat :=
  let w := elemWidth ty
  let x := elemAt w a e
  match ty with
  | 11 | 13 => intToBits 32 (bitsToInt true w x)
  | 12 | 14 => x
  | _ => (Fmt.f32.round .rn ((fmtOf ty).decode x)).1

/-- UNPACK (R103). -/
def execUnpack (f : RForm) (s : State) : Host.Outcome State Fault Refusal :=
  .next (s.aluR 0x62 f .reg (fun _ _ x => (unpackElem (RForm.tyOf 0x62 f) (extSub f.ext) x.a, Flags.none)))

/-- BSCALE (R104): a NaN scale gives the canonical NaN without a flag. -/
def bscaleBits (mode : RMode) (lane : Nat) (inv : Bool) (a b : Nat) : Nat × Flags :=
  let code := elemAt 8 b lane
  if code == 255 then (Fmt.f32.canonNan, Flags.none)
  else Fmt.f32.ldexpBits mode a (if inv then 127 - (code : Int) else (code : Int) - 127)

/-- BSCALE (R104). -/
def execBscale (f : RForm) (s : State) : Host.Outcome State Fault Refusal :=
  .next (s.aluR 0x63 f .reg (fun gr _ x => bscaleBits (modeOf (extRnd f.ext) gr) (extSub f.ext % 4) (extSub f.ext / 4 % 2 == 1) x.a x.b))

/-- One byte of BSHUF under its control byte (R105). -/
def shufByte (a b k : Nat) : Nat :=
  let src := elemAt 8 (a + b * 2 ^ 32) (k % 8)
  match (k / 8) % 4 with
  | 0 => src
  | 1 => 0
  | 2 => if 128 ≤ src then 255 else 0
  | _ => 255

/-- BSHUF (R105). -/
def execBshuf (f : RForm) (s : State) : Host.Outcome State Fault Refusal :=
  .next (s.aluR 0x64 f .reg (fun _ _ x => mapElems 8 (fun e => (shufByte x.a x.b (elemAt 8 x.c e), Flags.none)) 4))

/-! ### DOT (R106) -/

/-- The products of a run, each with the flags of a 0 × ∞ product, and both block scales applied exactly (R106). -/
def dotTerms (ty k : Nat) (scaled : Bool) (sc a b : Nat) : List (FVal × Flags) :=
  let w := elemWidth ty
  let t := fmtOf ty
  (List.range k).map (fun i =>
    let p := FVal.mul (t.decode (elemAt w a i)) (t.decode (elemAt w b i))
    if scaled then
      let q := FVal.mul p.1 (e8m0Value (sc % 256))
      let r := FVal.mul q.1 (e8m0Value (sc / 256 % 256))
      (r.1, p.2)
    else p)

/-- DOT: one chunk on the accumulator c (R76, R78, R106). -/
def dotBits (ty n : Nat) (scaled : Bool) (a b c : Nat) : Nat × Flags :=
  let k := n * elemCount ty
  if ty == 13 || ty == 14 then
    let w := elemWidth ty
    let sum := (List.range k).foldl (fun acc i =>
      acc + bitsToInt (ty == 13) w (elemAt w a i) * bitsToInt (ty == 13) w (elemAt w b i)) (0 : Int)
    let r := intSumChunks (bitsToInt true 32 c) [sum]
    (intToBits 32 r.1, r.2)
  else sumChunks .f32 c [dotTerms ty k scaled (b / 2 ^ (32 * n)) a b]

/-- DOT (R106). -/
def execDot (f : RForm) (s : State) : Host.Outcome State Fault Refusal :=
  let sub := extSub f.ext
  .next (s.aluR 0x70 f .reg (fun _ _ x => dotBits (RForm.tyOf 0x70 f) (sub % 32) (sub / 128 == 1) x.a x.b x.c))

/-! ### Complex arithmetic (R107 to R109) -/

/-- Width of a part of a complex value: a pair of f32, or two packed halves (R107). -/
def partWidth (ty : Nat) : Nat := if ty == 3 then 32 else 16
def rePart (ty x : Nat) : FVal := (fmtOf ty).decode (elemAt (partWidth ty) x 0)
def imPart (ty x : Nat) : FVal := (fmtOf ty).decode (elemAt (partWidth ty) x 1)

/-- The exact sum of two products and a term under a mode, its specials as R107 has them: 0 × ∞ or infinities of opposite
sign give NaN with NV; zeros of opposite sign give +0, −0 when rounding down (R65). -/
def sumTerms (mode : RMode) (ts : List (FVal × Flags)) : FVal × Flags :=
  let c := chunkValue ts
  match c.1 with
  | .fin _ m _ =>
    if m == 0 then
      let vs := ts.map Prod.fst
      (.fin (if vs.all (fun v => v.sign) then true else if vs.all (fun v => !v.sign && v.isZero) then false
             else mode == .rd) 0 0, c.2)
    else c
  | _ => c

/-- A term taken negative. -/
def negTerm (t : FVal × Flags) : FVal × Flags := (t.1.neg, t.2)

/-- Round of a sum of terms (R107). -/
def roundTerms (t : Fmt) (mode : RMode) (ts : List (FVal × Flags)) : Nat × Flags := t.finish mode (sumTerms mode ts)

/-- CFMA (R107). -/
def cfmaBits (ty : Nat) (mode : RMode) (cj : Bool) (a b c : Nat) : Nat × Flags :=
  let t := fmtOf ty
  let w := partWidth ty
  let ar := rePart ty a; let ai := imPart ty a
  let br := rePart ty b; let bi := if cj then (imPart ty b).neg else imPart ty b
  let cr := rePart ty c; let ci := imPart ty c
  if [ar, ai, br, bi, cr, ci].any FVal.isNan then (t.canonNan + t.canonNan * 2 ^ w, Flags.none)
  else
    let re := roundTerms t mode [FVal.mul ar br, negTerm (FVal.mul ai bi), (cr, Flags.none)]
    let im := roundTerms t mode [FVal.mul ar bi, FVal.mul ai br, (ci, Flags.none)]
    (re.1 + im.1 * 2 ^ w, re.2 ||| im.2)

/-- CFMA (R107). -/
def execCfma (f : RForm) (s : State) : Host.Outcome State Fault Refusal :=
  .next (s.aluR 0x71 f .reg (fun gr _ x => cfmaBits (RForm.tyOf 0x71 f) (modeOf (extRnd f.ext) gr) (extSub f.ext == 1) x.a x.b x.c))

/-- BFLY: u in the low registers, l above (R108). -/
def bflyBits (ty : Nat) (mode : RMode) (cj : Bool) (a b c : Nat) : Nat × Flags :=
  let t := fmtOf ty
  let w := partWidth ty
  let ar := rePart ty a; let ai := imPart ty a
  let br := rePart ty b; let bi := imPart ty b
  let wr := rePart ty c; let wi := if cj then (imPart ty c).neg else imPart ty c
  let nan := t.canonNan
  if [ar, ai, br, bi, wr, wi].any FVal.isNan then (nan + nan * 2 ^ w + nan * 2 ^ (2 * w) + nan * 2 ^ (3 * w), Flags.none)
  else
    let ure := roundTerms t mode [(ar, Flags.none), FVal.mul wr br, negTerm (FVal.mul wi bi)]
    let uim := roundTerms t mode [(ai, Flags.none), FVal.mul wr bi, FVal.mul wi br]
    let lre := roundTerms t mode [(ar, Flags.none), negTerm (FVal.mul wr br), FVal.mul wi bi]
    let lim := roundTerms t mode [(ai, Flags.none), negTerm (FVal.mul wr bi), negTerm (FVal.mul wi br)]
    (ure.1 + uim.1 * 2 ^ w + lre.1 * 2 ^ (2 * w) + lim.1 * 2 ^ (3 * w), ure.2 ||| uim.2 ||| lre.2 ||| lim.2)

/-- BFLY (R108). -/
def execBfly (f : RForm) (s : State) : Host.Outcome State Fault Refusal :=
  .next (s.aluR 0x72 f .reg (fun gr _ x => bflyBits (RForm.tyOf 0x72 f) (modeOf (extRnd f.ext) gr) (extSub f.ext == 1) x.a x.b x.c))

/-- TWID: cos in the even register, sin in the odd one, negated by .neg; an exact zero is +0 (R109). -/
def twidPair (logn : Nat) (neg : Bool) (a : Nat) : Nat :=
  let sn := twidBits false a logn
  twidBits true a logn + 2 ^ 32 * (if neg && sn != 0 then withSign .f32 sn (1 + signOf .f32 sn) else sn)

/-- TWID (R109). -/
def execTwid (f : RForm) (s : State) : Host.Outcome State Fault Refusal :=
  .next (s.aluR 0x73 f .reg (fun _ _ x => (twidPair (extSub f.ext % 32) (extSub f.ext / 32 % 2 == 1) x.a, Flags.none)))

/-! ### Long latency (R110 to R113) -/

/-- IDIV and IREM (R111). -/
def divInt (ty : Nat) (rem : Bool) (a b : Nat) : Nat × Flags :=
  let w := elemWidth ty
  let sg := signedTy ty
  let x := bitsToInt sg w a
  let y := bitsToInt sg w b
  if y == 0 then (if rem then intToBits w x else 2 ^ w - 1, Flags.dz)
  else if sg && x == -(2 ^ (w - 1) : Nat) && y == -1 then (if rem then (0, Flags.none) else (2 ^ (w - 1) - 1, Flags.sat))
  else (intToBits w (if rem then x.tmod y else x.tdiv y), Flags.none)

/-- IDIV (R110, R111). -/
def execIdiv (f : RForm) (s : State) : Host.Outcome State Fault Refusal :=
  .next (s.aluR 0x74 f .later (fun _ _ x => divInt (RForm.tyOf 0x74 f) false x.a x.b))
/-- IREM (R110, R111). -/
def execIrem (f : RForm) (s : State) : Host.Outcome State Fault Refusal :=
  .next (s.aluR 0x75 f .later (fun _ _ x => divInt (RForm.tyOf 0x75 f) true x.a x.b))
/-- FDIV (R110, R112). -/
def execFdiv (f : RForm) (s : State) : Host.Outcome State Fault Refusal :=
  .next (s.aluR 0x76 f .later (fun gr _ x => (fmtOf (RForm.tyOf 0x76 f)).divBits (modeOf (extRnd f.ext) gr) x.a x.b))
/-- FSQRT (R110, R112). -/
def execFsqrt (f : RForm) (s : State) : Host.Outcome State Fault Refusal :=
  .next (s.aluR 0x77 f .later (fun gr _ x => (fmtOf (RForm.tyOf 0x77 f)).sqrtBits (modeOf (extRnd f.ext) gr) x.a))
/-- FRSQRT (R110, R112). -/
def execFrsqrt (f : RForm) (s : State) : Host.Outcome State Fault Refusal :=
  .next (s.aluR 0x78 f .later (fun gr _ x => (fmtOf (RForm.tyOf 0x78 f)).rsqrtBits (modeOf (extRnd f.ext) gr) x.a))
/-- FTRANS (R110, R113). -/
def execFtrans (f : RForm) (s : State) : Host.Outcome State Fault Refusal :=
  .next (s.aluR 0x79 f .later (fun _ _ x => ftransBits (extSub f.ext) (BitVec.ofNat 32 x.a)))

/-- The fills of one word land in the order in which its threads issued (R110). -/
def State.fillReady (s : State) (id : Nat) (p : Fill) : Bool :=
  s.fills.all (fun e => !(decide (e.1 < id) && e.2.g == p.g && e.2.pc == p.pc && e.2.k == p.k))

/-- LONG_LATENCY_FILL: the result of pending fill `id` is written in its turn, its registers become full and its flags are set; a thread
that has exited discards it, and a frozen core fills nothing (R30, R73, R110, R417). -/
def execLongLatencyFill (id : Nat) (s : State) : Host.Outcome State Fault Refusal :=
  match Table.find s.fills id with
  | none => .next s
  | some p =>
    if !s.fillReady id p || s.inert (p.g / 32) then .next s
    else
      let s := { s with fills := Table.erase s.fills id }
      let i : Issue := { b := p.g / 32, g := p.g % 32, path := 0#32, hdr := 0#64, count := 0, widx := 0, len := 0, word := 0#64 }
      let s := match p.lane with
        | none => s.writeCells i 0 (.s p.first) p.n p.value
        | some t => if (s.thread (i.tk t)).exited then s else s.writeCells i t (.v p.first) p.n p.value
      .next (s.setSticky p.g p.flags)

end Sys2Proof.Machine
end

