-- ==== Sys2Proof/Machine/Memory.lean ====
section
/-! DEFINITION. Memory spaces and translation: bytes and poison of every space, shared and scratch addresses, the physical map,
page-table walks, causes and fault records (07 R200 to R210, 14 R382 to R397, 17 R446, R447). -/

namespace Sys2Proof.Machine

/-! ### Bytes and poison of a space -/

/-- The key of a space other than main memory. -/
def Space.key : Space → Nat
  | .main => 0
  | .shared b => 2 * b + 1
  | .scratch ctx die => 2 * (2 * ctx + die) + 2

def State.memOf (s : State) (sp : Space) : Memory :=
  match sp with
  | .main => s.mem
  | _ => Table.get [] s.spaces sp.key
def State.setMem (s : State) (sp : Space) (m : Memory) : State :=
  match sp with
  | .main => { s with mem := m }
  | _ => { s with spaces := Table.set [] s.spaces sp.key m }

/-- `n` bytes as a little-endian number (R1). -/
def State.load (s : State) (sp : Space) (a n : Nat) : Nat := (s.memOf sp).readNat a n
/-- Stores the low `n` bytes of a number (R1). -/
def State.store (s : State) (sp : Space) (a n x : Nat) : State := s.setMem sp ((s.memOf sp).writeNat a n x)

def sectorOf (a : Nat) : Nat := a / 128
def Space.sectorKey (sp : Space) (sector : Nat) : Nat := sp.key * 2 ^ 48 + sector

/-- The scratch block that holds an address reads poisoned for good (R450). -/
def State.lostAt (s : State) (sp : Space) (a : Nat) : Bool :=
  match sp with
  | .scratch ctx die =>
    let c := Table.get ({} : Context) s.contexts ctx
    (Table.find s.lost (2048 * die + (if die == 0 then c.scratch0.1 else c.scratch1.1) + a / 65536)).isSome
  | _ => false
/-- The sector that holds an address is poisoned (R446, R450). -/
def State.poisoned (s : State) (sp : Space) (a : Nat) : Bool := (Table.find s.poison (sp.sectorKey (sectorOf a))).isSome || s.lostAt sp a
def State.setPoison (s : State) (sp : Space) (a : Nat) : State := { s with poison := Table.put s.poison (sp.sectorKey (sectorOf a)) () }
/-- A sector is clean again (R447). -/
def State.clearPoison (s : State) (sp : Space) (a : Nat) : State := { s with poison := Table.erase s.poison (sp.sectorKey (sectorOf a)) }
/-- Any sector of a range is poisoned. -/
def State.poisonedIn (s : State) (sp : Space) (a n : Nat) : Bool :=
  (List.range ((a % 128 + n + 127) / 128)).any (fun k => s.poisoned sp (a + 128 * k - (if k == 0 then 0 else a % 128)))

/-! ### Shared and scratch addresses (R201, R202) -/

/-- The block that an address names: the issuing block, or block cbx of its cluster (R201). -/
def State.sharedBlock (s : State) (b : Nat) (sa : Nat) : Option Nat :=
  let bl := s.block b
  let cl := (sa / 2 ^ 22) % 2
  let cbx := (sa / 2 ^ 19) % 8
  if 2 ^ 23 ≤ sa then none
  else if cl == 0 then (if cbx == 0 then some b else none)
  else (s.blocks.find? (fun e => e.2.cluster == bl.cluster && e.2.grid == bl.grid && e.2.ctx == bl.ctx && e.2.cbx == cbx)).map Prod.fst

/-- The target of a shared address for an access of `w` bytes, nothing where it takes BUFFER_BOUND (R201). -/
def State.sharedTarget (s : State) (b sa w : Nat) : Option (Space × Nat) :=
  match s.sharedBlock b sa with
  | none => none
  | some t => if sa % 2 ^ 19 + w ≤ (s.block t).shm then some (.shared t, sa % 2 ^ 19) else none

/-- The scratch window of a context on a die, in bytes (R202, R407). -/
def Context.window (c : Context) (die : Nat) : Nat := (if die == 0 then c.scratch0.2 else c.scratch1.2) * 65536


/-- The target of a scratch address (R202). -/
def State.scratchTarget (s : State) (ctx xa w : Nat) : Option (Space × Nat) :=
  let die := (xa / 2 ^ 26) % 2
  let off := xa % 2 ^ 26
  if 2 ^ 27 ≤ xa then none
  else if off + w ≤ (s.context ctx).window die then some (.scratch ctx die, off) else none

/-! ### The physical map (R384 to R387) -/

inductive Region where
  | striped | local_ | host | hole
  deriving DecidableEq, Repr

def mib64 : Nat := 67108864
def gib : Nat := 1073741824
/-- The end of the striped region, SB (R384). -/
def stripedEnd (lsplit : Nat) : Nat := 768 * (16 - lsplit) * mib64
def localBase : Nat := 0x10000000000
def hostBase : Nat := 0x8000000000000

def regionOf (lsplit pa : Nat) : Region :=
  if pa < stripedEnd lsplit then .striped
  else if localBase ≤ pa && pa < localBase + 12 * 2 ^ 36 then
    (if (pa - localBase) % 2 ^ 30 < lsplit * mib64 then .local_ else .hole)
  else if hostBase ≤ pa && pa < hostBase + 2 ^ 48 then .host
  else .hole

/-- Stack, pseudo-channel and physical row of a device address (R386, R387). -/
def rowOf (lsplit pa : Nat) : Nat × Nat × Nat :=
  if pa < stripedEnd lsplit then
    let n := pa / 1024
    (n % 12, n / 12 % 64, n / 768)
  else
    let d := pa - localBase
    (d / 2 ^ 36, d / 2 ^ 30 % 64, 65536 * (16 - lsplit) + (d % 2 ^ 30) / 1024)

/-- The home die of a sector and its home L2 slice in that die (R12, R14, R386). -/
def homeOf (lsplit pa : Nat) : Nat × Nat := let r := rowOf lsplit pa; (r.1 / 6, 4 * r.2.1 + r.2.2 % 4)

/-- Memory of a partition: its ranges and the local part of its stacks (R405). -/
def Partition.owns (p : Partition) (lsplit pa : Nat) : Bool :=
  match regionOf lsplit pa with
  | .striped => p.memory.any (fun r => decide (r.1 * gib ≤ pa) && decide (pa < (r.1 + r.2) * gib))
  | .local_ => p.stackSet.getLsbD ((pa - localBase) / 2 ^ 36)
  | _ => false

/-- The controls of a stack (17 R450, R453, R454). -/
def State.stack (s : State) (n : Nat) : Stack := Table.get {} s.stackSet n
def State.modStack (s : State) (n : Nat) (f : Stack → Stack) : State := { s with stackSet := Table.put s.stackSet n (f (s.stack n)) }

def State.partition (s : State) (p : Nat) : Partition := Table.get {} s.partitions p

/-! ### Page tables (R389 to R392) -/

/-- Index bits and shift of each level from the root (R389). -/
def walkLevels : List (Nat × Nat) := [(45, 4096), (33, 4096), (21, 4096), (16, 32)]

def entryBits (e hi lo : Nat) : Nat := (e / 2 ^ lo) % 2 ^ (hi - lo + 1)

/-- The leaf an entry holds at a level of the given shift. -/
def leafOf (e shift : Nat) : Leaf :=
  { frame := entryBits e 51 16 * 65536, shift := shift, ord := entryBits e 3 2, cls := entryBits e 5 4
    r := entryBits e 6 6 == 1, w := entryBits e 7 7 == 1, at_ := entryBits e 8 8 == 1, x := entryBits e 9 9 == 1
    host := entryBits e 10 10 == 1, near := entryBits e 11 11 == 1 }

/-- An address lies in the range of the stack-local region, populated or not (R384). -/
def inLocal (pa : Nat) : Bool := decide (localBase ≤ pa) && decide (pa < localBase + 12 * 2 ^ 36)

/-- A malformed entry (R390); a table or frame where the stack-local region is not populated is not malformed, but stands in a hole (R395). -/
def malformed (lsplit e shift : Nat) : Bool :=
  let leaf := entryBits e 1 1 == 1
  let frame := entryBits e 51 16 * 65536
  let local_ := entryBits e 11 11 == 1
  entryBits e 15 12 != 0 || entryBits e 63 63 == 1 || (shift == 45 && leaf) || (shift == 16 && !leaf)
    || (!leaf && (entryBits e 11 2 != 0 || !(decide (frame < stripedEnd lsplit) || inLocal frame)))
    || (leaf && (frame % 2 ^ shift != 0 || (local_ && shift == 33)
        || local_ != inLocal frame))

/-- Walks the tables of a context from one level on: a leaf, or a cause (R390 to R392, R395). -/
def State.walkFrom (s : State) (p : Partition) (va : Nat) (levels : List (Nat × Nat)) (table : Nat) : Except Nat Leaf :=
  match levels with
  | [] => .error 2
  | (shift, n) :: rest =>
    let a := table + 8 * ((va / 2 ^ shift) % n)
    if !p.owns s.lsplit a then .error 7
    else if s.poisoned .main a then .error 3
    else
      let e := s.mem.readNat a 8
      if e % 2 == 0 then .error 1
      else if malformed s.lsplit e shift then .error 2
      else if entryBits e 1 1 == 1 then .ok (leafOf e shift)
      else s.walkFrom p va rest (entryBits e 51 16 * 65536)

/-- A walk of a virtual address in a context (R389). -/
def State.walk (s : State) (ctx va : Nat) : Except Nat Leaf :=
  let c := s.context ctx
  s.walkFrom (s.partition c.partition) va walkLevels c.root

/-- Which page permissions an access needs (R208, R391). -/
structure Need where
  r : Bool := false
  w : Bool := false
  at_ : Bool := false
  x : Bool := false
  deriving DecidableEq, Repr

def Need.read : Need := { r := true }
def Need.write : Need := { w := true }
def Need.atomic : Need := { r := true, w := true, at_ := true }
def Need.exec : Need := { x := true }

/-- The whole mapped range of a leaf lies in its partition's memory or in the host region (R391). -/
def Leaf.inside (l : Leaf) (p : Partition) (lsplit : Nat) : Bool :=
  let pieces := (2 ^ l.shift + gib - 1) / gib
  (List.range pieces).all (fun k =>
    let lo := l.frame + k * gib
    let hi := l.frame + min (2 ^ l.shift) ((k + 1) * gib) - 1
    (regionOf lsplit lo == .host && regionOf lsplit hi == .host) || (p.owns lsplit lo && p.owns lsplit hi))

/-- The cause for which an access through a leaf fails: PERMISSION causes before HANDOVER (R208, R391, R395). -/
def State.leafCause (s : State) (ctx : Nat) (l : Leaf) (n : Need) : Option Nat :=
  if !l.inside (s.partition (s.context ctx).partition) s.lsplit then some 7
  else if l.ord == 3 then some 6
  else if (n.r && !l.r) || (n.w && !l.w) || (n.at_ && !l.at_) || (n.x && !l.x) then some 5
  else if l.host then some 4
  else none

/-- The key of a 64 KiB page of a context in the translation caches. -/
def pageKey (ctx va : Nat) : Nat := ctx * 2 ^ 41 + va / 65536

def windowBase : Nat := 0x1FF000000000000
def scratchWindowBase : Nat := 0x1FF010000000000

/-- What translating one access comes to. -/
inductive Reach where
  /-- The bytes, the order kind and the physical leaf. -/
  | ok (sp : Space) (addr ord : Nat)
  /-- A walk is needed (R393). -/
  | miss
  | fault (cause : Nat)
  deriving DecidableEq, Repr

/-- An access in the window region, for an agent of block `b` if there is one (R383). -/
def State.window (s : State) (ctx : Nat) (b : Option Nat) (va w : Nat) (n : Need) : Reach :=
  let target := match b with
    | none => none
    | some b =>
      if va < windowBase + 2 ^ 32 then s.sharedTarget b (va - windowBase) w
      else if scratchWindowBase ≤ va && va < scratchWindowBase + 2 ^ 32 then s.scratchTarget ctx (va - scratchWindowBase) w
      else none
  match target with
  | some (sp, a) => if n.x then .fault 8 else .ok sp a 1
  | none => .fault 8

/-- Uses a leaf for an access. -/
def State.through (s : State) (ctx va : Nat) (n : Need) (l : Leaf) : Reach :=
  match s.leafCause ctx l n with
  | some c => .fault c
  | none => .ok .main (l.frame + va % 2 ^ l.shift) l.ord

/-- Translates an access of `w` bytes with the cached translations; `failed` are the pages whose walks have ended with a cause
(R382, R383, R391, R393). -/
def State.reach (s : State) (ctx : Nat) (b : Option Nat) (failed : List (Nat × Nat)) (va w : Nat) (n : Need) : Reach :=
  if windowBase ≤ va then s.window ctx b va w n
  else match Table.find s.tlb (pageKey ctx va) with
    | some l => s.through ctx va n l
    | none =>
      match failed.find? (fun e => e.1 == pageKey ctx va) with
      | some e => .fault e.2
      | none => .miss

/-- Translates an access whose agent waits for its own walk: a miss is walked at once, and the caches keep no entry that was
not valid (R393). -/
def State.reachNow (s : State) (ctx : Nat) (b : Option Nat) (va w : Nat) (n : Need) : Reach :=
  match s.reach ctx b [] va w n with
  | .miss => match s.walk ctx va with
    | .ok l => s.through ctx va n l
    | .error c => .fault c
  | r => r

/-- A pass of group `gk` asks for the walk of a page and waits for it (R207, R393). -/
def State.askWalk (s : State) (gk ctx va : Nat) : State :=
  { s.modGroup gk (fun gr => { gr with pass := some { gr.pass.getD { rest := 0#32, took := 0#32, acc := [] } with asked := some (pageKey ctx va) } }) with
    walks := Table.put s.walks (pageKey ctx va) () }

/-! ### Causes and fault records (R395 to R397) -/

/-- The trap of a cause: 1 to 3 PAGE_FAULT, 4 HANDOVER, the rest PERMISSION (R395). -/
def causeTrap (cause : Nat) : Nat := if cause ≤ 3 then 2 else if cause == 4 then 4 else 3
def serviceable (cause : Nat) : Bool := decide (cause ≤ 4)

/-- The trap record of a translation failure (R423). -/
def faultTrap (va cause access : Nat) : TrapRec :=
  { code := causeTrap cause, tval := BitVec.ofNat 64 va, info := BitVec.ofNat 64 (cause + 16 * access) }

/-- The next fresh identifier. -/
def State.fresh (s : State) : Nat × State := (s.nextId, { s with nextId := s.nextId + 1 })

/-- The unit field of a fault record for a core: die and core (R397). -/
def unitOfCore (core : Nat) : Nat := core / 128 + 4 * (core % 128)

/-- Raises a serviceable fault, or joins the outstanding one of the same context, page and cause (R396). -/
def State.raiseFault (s : State) (ctx va cause source access unit : Nat) : Nat × State :=
  match s.faults.find? (fun e => e.2.ctx == ctx && e.2.va / 65536 == va / 65536 && e.2.cause == cause) with
  | some e => (e.1, s)
  | none =>
    let id := s.nextId
    (id, { s.post (.context ctx) with
      nextId := id + 1
      faults := Table.put s.faults id { ctx := ctx, va := va, cause := cause, source := source, access := access, unit := unit } })

/-- A fault report to a context, naming who made the access (R209, R238): it leaves as a device event. -/
def State.faultReport (s : State) (core ctx who va : Nat) : State :=
  s.event 0 0 core ctx who va

end Sys2Proof.Machine
end

