-- ==== Sys2Proof/Machine/LoadStore.lean ====
section
/-! DEFINITION. The memory unit: buffer records, the passes of loads, stores and atomics, their requests, the side log, and the
events that perform them (07 R204 to R213, R220 to R223; 14 R399). -/

namespace Sys2Proof.Machine

/-! ### Buffer records (R204 to R206) -/

def recField (r : BitVec 128) (lo n : Nat) : Nat := (r.toNat / 2 ^ lo) % 2 ^ n
def recBase (r : BitVec 128) : Nat := recField r 0 57
def recLsz (r : BitVec 128) : Nat := recField r 57 3
def recSwz (r : BitVec 128) : Nat := recField r 60 4
def recExtent (r : BitVec 128) : Nat := recField r 64 32
def recOor (r : BitVec 128) : Nat := recField r 120 2
def recStride (r : BitVec 128) : Nat := if recField r 96 24 == 0 then 2 ^ recLsz r else recField r 96 24
/-- A malformed record (R204). -/
def recMalformed (r : BitVec 128) : Bool := recField r 124 4 != 0 || recOor r == 3 || decide (4 ≤ recSwz r)

/-- The swizzle of an address: bits 3+s:4 XOR bits 6+s:7 (R205). -/
def swizzle (s a : Nat) : Nat :=
  if s == 0 then a
  else
    let lowBits := (a / 16) % 2 ^ s
    let high := (a / 128) % 2 ^ s
    a - lowBits * 16 + (lowBits ^^^ high) * 16

/-- The address of element `i` (R205). -/
def recAddress (r : BitVec 128) (i : Nat) : Nat := swizzle (recSwz r) ((recBase r + i * recStride r) % 2 ^ 57)

/-- What forming an address comes to. -/
inductive Formed where
  | addr (a : Nat)
  /-- Out of range: zero and drop (R206). -/
  | drop
  | trap (r : TrapRec)
  deriving DecidableEq, Repr

def boundTrap (x info : Nat) : TrapRec := { code := 7, tval := BitVec.ofNat 64 x, info := BitVec.ofNat 64 info }
def alignTrap (x : Nat) : TrapRec := { code := 6, tval := BitVec.ofNat 64 x }

/-- The address of an access of `w` bytes to an in-range element, with its checks (R205). -/
def recAccess (n : Nat) (r : BitVec 128) (i w : Nat) : Formed :=
  let a := recAddress r i
  if 2 ^ recLsz r < w then .trap (boundTrap i n) else if a % w != 0 then .trap (alignTrap a) else .addr a

/-- An access through record `n` with its bounds (R206). -/
def recForm (n : Nat) (r : BitVec 128) (i w : Nat) : Formed :=
  if recMalformed r then .trap (boundTrap i n)
  else if i < recExtent r then recAccess n r i w
  else match recOor r with
    | 1 => .trap (boundTrap i n)
    | 2 => if recExtent r == 0 then .drop else recAccess n r (recExtent r - 1) w
    | _ => .drop

/-- Reads buffer record `n` of a group (R220). -/
def Group.record (gr : Group) (n : Nat) (e : Bool) : Got :=
  let c := Table.get {} gr.b n
  match c.mark with
  | some m => .trap (m.trap n)
  | none => if c.full then .val c.val.toNat else if e then .trap { code := 8, info := BitVec.ofNat 64 n } else .hold

/-- How an instruction names memory: through a record, by shared address, or by scratch address. -/
inductive Via where
  | record (n : Nat) (e : Bool)
  | shared
  | scratch
  deriving DecidableEq, Repr

/-- The virtual address, or the shared or scratch address, of a thread's access (R201, R202, R205, R206). -/
def State.form (s : State) (i : Issue) (via : Via) (x w : Nat) (r : BitVec 128) : Formed :=
  match via with
  | .record n _ => recForm n r x w
  | .shared => match s.sharedTarget i.b x w with
    | none => .trap (boundTrap x 0xFF)
    | some _ => if x % w != 0 then .trap (alignTrap x) else .addr x
  | .scratch => match s.scratchTarget (s.block i.b).ctx x w with
    | none => .trap (boundTrap x 0xFF)
    | some _ => if x % w != 0 then .trap (alignTrap x) else .addr x

/-- Where the formed address leads (R201, R202, R391, R393). -/
def State.target (s : State) (i : Issue) (via : Via) (a w : Nat) (n : Need) : Reach :=
  let ctx := (s.block i.b).ctx
  let failed := match (s.group i.gk).pass with
    | some p => p.failed
    | none => []
  match via with
  | .record _ _ => s.reach ctx (some i.b) failed a w n
  | .shared => match s.sharedTarget i.b a w with
    | some (sp, x) => .ok sp x 1
    | none => .fault 8
  | .scratch => match s.scratchTarget ctx a w with
    | some (sp, x) => .ok sp x 1
    | none => .fault 8

/-! ### Gathering and committing requests (R207, R211) -/

def emptyPass : Pass := { rest := 0#32, took := 0#32, acc := [] }

/-- Adds an access to those the pass has gathered, as translated now. -/
def State.gather (s : State) (i : Issue) (x : Gathered) : State :=
  s.modGroup i.gk (fun gr => let p := gr.pass.getD emptyPass; { gr with pass := some { p with gathered := p.gathered ++ [{ x with since := s.nextId }] } })

/-- Entries of the side log of a core, one for each thread's access of at most 16 bytes (R399). -/
def State.logSize (s : State) (core : Nat) : Nat :=
  (s.reqs.filter (fun e => e.2.core == core && e.2.logged.isSome)).foldl (fun n e => n + e.2.lanes.length) 0

/-- The request is an entry of the side log of a core for the page of an address (R399). -/
def Req.logsPage (r : Req) (ctx core va : Nat) : Bool :=
  r.ctx == ctx && r.core == core && r.logged.isSome && r.lanes.any (fun l => l.va / 65536 == va / 65536)

/-- The side log of a core holds an entry for the page of an address (R399). -/
def State.loggedPage (s : State) (ctx core va : Nat) : Bool := s.reqs.any (fun e => e.2.logsPage ctx core va)

/-- How an instruction orders its accesses: the qualifier of R220 (0 plain, 5 acq, 6 rel, 7 ar, 8 sc). -/
def acquires (ord : Nat) : Bool := ord == 5 || ord == 7 || ord == 8
def releases (ord : Nat) : Bool := ord == 6 || ord == 7 || ord == 8

/-- Puts an access into the list of sector requests, with those of its sector, in the side log as elsewhere (R211). -/
def addToSector (l : List (Req × Nat)) (base : Req) (x : Gathered) : List (Req × Nat) :=
  match l with
  | [] => [({ base with space := x.space, lanes := [x.lane], logged := x.logged, so := x.ord == 0, since := x.since }, sectorOf x.lane.addr)]
  | (r, k) :: rest =>
    if r.logged == x.logged && r.space == x.space && k == sectorOf x.lane.addr then
      ({ r with lanes := r.lanes ++ [x.lane], so := r.so || x.ord == 0, since := min r.since x.since }, k) :: rest
    else (r, k) :: addToSector rest base x

/-- Discards one sector from a core's near cache (R212, R268). -/
def State.dropNear (s : State) (core sector : Nat) : State :=
  { s with cores := Table.modify s.cores core (fun c => { c with near := Table.erase c.near sector, nearPoison := Table.erase c.nearPoison sector }) }
/-- Discards a core's near cache whole (R268). -/
def State.clearNear (s : State) (core : Nat) : State :=
  { s with cores := Table.modify s.cores core (fun c => { c with near := [], nearPoison := [] }) }

def ReqKind.writes : ReqKind → Bool
  | .store => true
  | .atomic _ _ _ => true
  | _ => false

/-- Sends the requests a pass has gathered, one for each sector, in the order in which the pass first named them; `once` says that the access was
made once for the pass (R207, R211, R255). -/
def State.commit (s : State) (i : Issue) (kind : ReqKind) (ord : Nat) (once : Bool) : State :=
  match (s.group i.gk).pass with
  | none => s
  | some p =>
    let bl := s.block i.b
    let base : Req := { b := i.b, g := i.g, ctx := bl.ctx, core := bl.core, kind := kind, space := .main, lanes := [], origin := i.pc
                        acq := acquires ord, rel := releases ord, path := if once then i.path else 0#32 }
    let rs := p.gathered.foldl (fun l x => addToSector l base x) []
    rs.foldl (fun s r =>
      let s := { s with reqs := Table.put s.reqs s.nextId r.1, nextId := s.nextId + 1 }
      if kind.writes && r.1.space == .main && r.1.logged.isNone then s.dropNear bl.core r.2 else s) s

/-- Ends a memory pass: its requests go out, then the pass ends. -/
def State.memoryEnd (s : State) (i : Issue) (kind : ReqKind) (ord : Nat) (once : Bool := false) : State := (s.commit i kind ord once).endPass i

/-- A per-thread memory pass (R207). -/
def State.memoryPass (s : State) (i : Issue) (guard : Thread → Bool) (kind : ReqKind) (ord : Nat)
    (f : State → Nat → List Nat → Turned) : State :=
  let st := s.passStart i guard
  let r := runLanes i f st.1 s st.2.1 st.2.2
  match r.2.1 with
  | [] => r.1.memoryEnd i kind ord
  | rest => r.1.holdPass i rest r.2.2.1 r.2.2.2

/-! ### One thread's access -/

/-- Parks a thread on a fault of its access, its destination left empty; it replays when it resumes (R209, R426). -/
def State.parkOnFault (s : State) (i : Issue) (t : Nat) (id : Nat) (r : TrapRec) : State :=
  s.modThread (i.tk t) (fun th => { th with park := .fault id r i.nextPc i.word, replay := some th.tpc })

/-- The unit of a fault record raised by a block's core. -/
def State.unitOf (s : State) (i : Issue) : Nat := unitOfCore (s.block i.b).core

/-- A load or returning atomic that reaches no page: it waits for the walk, parks on a serviceable fault with `s1`'s empty
destination, or traps (R207, R209). -/
def State.loadMiss (s s1 : State) (i : Issue) (t va access : Nat) (r : Reach) (acc : List Nat) : Turned :=
  let ctx := (s.block i.b).ctx
  match r with
  | .ok _ _ _ => .hold
  | .miss => .holdWith (s.askWalk i.gk ctx va)
  | .fault c =>
    if serviceable c then
      let f := s1.raiseFault ctx va c 0 access (s.unitOf i)
      .done (f.2.parkOnFault i t f.1 (faultTrap va c access)) acc
    else .trap (faultTrap va c access)

/-- The side log has room for `n` entries more than the pass has gathered (R399). -/
def State.logRoom (s : State) (i : Issue) (n : Nat) : Bool :=
  let pending := match (s.group i.gk).pass with
    | some p => (p.gathered.filter (fun x => x.logged.isSome)).length
    | none => 0
  decide (s.logSize (s.block i.b).core + pending + n ≤ 256)

/-- Writes of one thread to one sector from the address `va` on, in parts of at most 16 bytes: they are gathered; a serviceable fault, or an earlier
log entry of the page, puts them into the side log; a log without room holds the pass (R209, R397, R399). -/
def State.storeParts (s : State) (i : Issue) (va : Nat) (lanes : List LaneReq) (access : Nat) (r : Reach) (acc : List Nat) : Turned :=
  let bl := s.block i.b
  let log := fun (s : State) (ord : Nat) (w : Logged) =>
    lanes.foldl (fun s l => s.gather i { lane := { l with addr := l.va }, space := .main, ord := ord, logged := some w }) s
  let room := s.logRoom i lanes.length
  match r with
  | .miss => .holdWith (s.askWalk i.gk bl.ctx va)
  | .ok sp a ord =>
    if sp == Space.main && s.loggedPage bl.ctx bl.core va then (if room then .done (log s ord .behind) acc else .hold)
    else .done (lanes.foldl (fun s l => s.gather i { lane := { l with addr := a + (l.va - va) }, space := sp, ord := ord }) s) acc
  | .fault c =>
    if !serviceable c then .trap (faultTrap va c access)
    else if !room then .hold
    else
      let f := s.raiseFault bl.ctx va c 0 access (s.unitOf i)
      .done (log f.2 1 (.fault f.1)) acc

/-- A store or non-returning atomic of one thread (R209, R399). -/
def State.storeTo (s : State) (i : Issue) (lane : LaneReq) (access : Nat) (r : Reach) (acc : List Nat) : Turned :=
  s.storeParts i lane.va [lane] access r acc

/-- The record a word names, read for a thread; 0 where it names none. -/
def State.viaRecord (s : State) (i : Issue) (via : Via) : Got :=
  match via with
  | .record n e => (s.group i.gk).record n e
  | _ => .val 0

/-- Fills a destination with zeros at once (R206, R429). -/
def State.fillZero (s : State) (i : Issue) (t : Nat) (l : Loc) (n : Nat) : State := s.writeCells i t l n 0

/-- Where a location's registers are, as a request keeps them. -/
def Loc.into (l : Loc) (n : Nat) : Into :=
  match l with
  | .v r => .v r n
  | .s r => .s r n

/-- A helper's load that would trap or fault returns zeros instead, once its destination can be written (R30, R213, R429). -/
def helperZero (s : State) (i : Issue) (t : Nat) (l : Loc) (n : Nat) (acc : List Nat) (r : Turned) : Turned :=
  match (s.thread (i.tk t)).role with
  | .live => r
  | .helper => match r with
    | .trap _ => if s.destReady i t l n then .done (s.fillZero i t l n) acc else .hold
    | .done s' acc' => if (s'.thread (i.tk t)).park == .none then .done s' acc' else .done (s.fillZero i t l n) acc
    | x => x

/-- A trap of a load or returning atomic whose destination cannot be named: a helper goes on, with nothing written (R429). -/
def nowhere (s : State) (i : Issue) (t : Nat) (acc : List Nat) (r : TrapRec) : Turned :=
  match (s.thread (i.tk t)).role with
  | .live => .trap r
  | .helper => .done s acc

/-- A trap met while a load or returning atomic reads its operands: a helper takes zeros instead (R213, R429). -/
def readTrap (s : State) (i : Issue) (t : Nat) (l : Except TrapRec Loc) (n : Nat) (acc : List Nat) (r : TrapRec) : Turned :=
  match l with
  | .error _ => nowhere s i t acc r
  | .ok l => helperZero s i t l n acc (.trap r)

/-- One thread's turn of a load (R208, R221). `size` is the size code, `n` the registers of d. -/
def loadTurn (i : Issue) (q : Fields) (sh : Shape) (via : Via) (size : Nat) (s : State) (t : Nat) (acc : List Nat) : Turned :=
  let w := sizeBytes size
  let into := locate (s.thread (i.tk t)) q.d sh.d (if q.xo == 3 then some q.xs else none)
  match s.viaRecord i via, s.read i t q.a q.ea sh.a (if q.xo == 1 then some q.xs else none) with
  | .trap r, _ => readTrap s i t into sh.d.n acc r
  | .hold, _ => .hold
  | _, .trap r => readTrap s i t into sh.d.n acc r
  | _, .hold => .hold
  | .val rec, .val x =>
    match into with
    | .error r => nowhere s i t acc r
    | .ok l =>
      helperZero s i t l sh.d.n acc (
        match s.form i via x w (BitVec.ofNat 128 rec) with
        | .trap r => .trap r
        | .drop => if s.destReady i t l sh.d.n then .done (s.fillZero i t l sh.d.n) acc else .hold
        | .addr a =>
          if !s.destReady i t l sh.d.n then .hold
          else
            let s1 := s.emptyCells i t l sh.d.n
            match s.target i via a w Need.read with
            | .ok sp pa ord =>
              .done ((s1.modThread (i.tk t) (fun th => { th with replay := none })).gather i
                { lane := { t := t, va := a, addr := pa, w := w, into := l.into sh.d.n, ext := size }, space := sp, ord := ord }) acc
            | r => s.loadMiss s1 i t a 0 r acc)

/-- One thread's turn of a store (R221). -/
def storeTurn (i : Issue) (q : Fields) (sh : Shape) (via : Via) (size : Nat) (s : State) (t : Nat) (acc : List Nat) : Turned :=
  let w := sizeBytes size
  match s.viaRecord i via, s.read i t q.a q.ea sh.a (if q.xo == 1 then some q.xs else none) with
  | .trap r, _ => .trap r
  | .hold, _ => .hold
  | _, .trap r => .trap r
  | _, .hold => .hold
  | .val rec, .val x =>
    match s.form i via x w (BitVec.ofNat 128 rec) with
    | .trap r => .trap r
    | .drop => .done s acc
    | .addr a =>
      match s.read i t q.d false sh.d (if q.xo == 3 then some q.xs else none) with
      | .trap r => .trap r
      | .hold => .hold
      | .val data =>
        match (s.thread (i.tk t)).role with
        | .helper => .done s acc
        | .live => s.storeTo i { t := t, va := a, addr := a, w := w, data := data } 1 (s.target i via a w Need.write) acc

/-- The threads of the path other than `t` stop as that one did, under the same fault or with the same trap; helpers with them where `helpers` says
so (R213, R426, R429; log 110). -/
def State.parkAll (s : State) (i : Issue) (t : Nat) (helpers : Bool) : State :=
  let others := (lanesOf i.path).filter (fun u => u != t && (helpers || (s.thread (i.tk u)).role == Role.live))
  let p := (s.thread (i.tk t)).park
  let again := (s.thread (i.tk t)).replay.isSome
  match p with
  | .fault _ _ _ _ => others.foldl (fun s u => s.modThread (i.tk u) (fun th => { th with park := p, replay := some th.tpc })) s
  | .raised r => others.foldl (fun s u => (s.modThread (i.tk u) (fun th => { th with replay := if again then some th.tpc else th.replay })).raise (i.tk u) r) s
  | _ => s

/-- Once an access made for the whole path has gone out, no thread of the path has one to replay (R30). -/
def State.replayed (s : State) (i : Issue) : State :=
  (lanesOf i.path).foldl (fun s u => s.modThread (i.tk u) (fun th => { th with replay := none })) s

/-- What becomes of the path once its first thread has made an access for all: it stops with it, or goes on (R213). -/
def State.settleOnce (s : State) (i : Issue) (t : Nat) (helpers : Bool) : State :=
  if (s.thread (i.tk t)).park == .none then s.replayed i else s.parkAll i t helpers

/-- Ends a load made once for its pass that traps: every thread of the path takes the trap, but helpers, which go on (R424, R429). -/
def State.trapLoad (s : State) (i : Issue) (r : TrapRec) : State := s.trapActive i ((lanesOf i.path).filter (fun t => (s.thread (i.tk t)).role == Role.live)) r

/-- A once-per-pass access: the first thread's turn, its traps and faults taken by the whole path (R213). -/
def State.memoryOnce (s : State) (i : Issue) (x : Option Ext) (kind : ReqKind) (ord : Nat)
    (f : State → Nat → List Nat → Turned) : State :=
  let t := firstLane i.path
  if !s.uniformGuard i x then s.endPass i
  else match f s t [] with
    | .trap r => if kind == .store then s.trapPath i r else s.trapLoad i r
    | .hold => s.holdPass i (lanesOf i.path) 0#32 []
    | .holdWith s' => s'.holdPass i (lanesOf i.path) 0#32 []
    | .done s' _ => (s'.settleOnce i t false).memoryEnd i kind ord true

/-- Runs a memory word of the R form if it is legal. -/
def State.memoryWord (s : State) (op : Nat) (f : RForm) (go : Issue → Shape → State) : State :=
  s.onGroup (fun i =>
    match rShape op f with
    | none => s.illegal i f.ext
    | some sh => if !rLegal op f || !(Fields.ofR f).belowNreg sh (s.block i.b).nreg then s.illegal i f.ext else go i sh)

/-- Every field is as a legal word has it, but for the registers that d and c name (R6, R208). -/
def Fields.addressOk (q : Fields) (sh : Shape) (nreg : Nat) : Bool :=
  let kind := fun (code : BitVec 7) e (o : Opd) x => fieldOk code e { o with align := 1 } x || (!o.raw && o.n != 0)
  kind q.d false sh.d (q.xo == 3) && fieldOk q.a q.ea sh.a (q.xo == 1) && Machine.belowNreg nreg q.a sh.a (q.xo == 1)
    && fieldOk q.b q.eb sh.b (q.xo == 2) && kind q.c q.ec sh.c false && indexOk q.ext sh

/-- The EMPTY_SOURCE that reading an operand comes to, if it does (R29). -/
def Got.empty? (g : Got) : Option TrapRec :=
  match g with
  | .trap r => if r.code == 8 then some r else none
  | _ => none

/-- The trap of a thread whose d or c fails its register check: EMPTY_SOURCE of an operand that can be read comes first (R208, R220). -/
def State.registerTrap (s : State) (i : Issue) (q : Fields) (sh : Shape) (via : Via) (t : Nat) : TrapRec :=
  let c := if fieldOk q.c q.ec sh.c false && Machine.belowNreg (s.block i.b).nreg q.c sh.c false then s.read i t q.c q.ec sh.c none else .val 0
  (([s.viaRecord i via, s.read i t q.a q.ea sh.a (if q.xo == 1 then some q.xs else none), c].filterMap Got.empty?).head?).getD { code := 1 }

/-- Runs a load, store or atomic if it is legal. A register check on d or c comes after the operands that say where the access goes (R208);
`once` says that the word runs for the first thread of the path only. -/
def State.addressedWord (s : State) (op : Nat) (f : RForm) (via : Via) (once : Bool) (go : Issue → Shape → State) : State :=
  s.onGroup (fun i =>
    match rShape op f with
    | none => s.illegal i f.ext
    | some sh =>
      let q := Fields.ofR f
      if rLegal op f && q.belowNreg sh (s.block i.b).nreg then go i sh
      else if !q.addressOk sh (s.block i.b).nreg then s.illegal i f.ext
      else if once && q.uniform sh then
        let r := s.registerTrap i q sh via (firstLane i.path)
        if r.code == 8 && s.uniformGuard i f.ext then s.trapPath i r else s.illegal i f.ext
      else s.perThread i (extGuard f.ext) (fun s t _ => .trap (s.registerTrap i q sh via t)))

def recordVia (f : RForm) : Via := .record (f.b.toNat % 16) f.eb

/-- A load of any space (R221). -/
def loadWord (op : Nat) (via : Via) (kind : ReqKind) (f : RForm) (s : State) : State :=
  s.addressedWord op f via true (fun i sh =>
    let q := Fields.ofR f
    let turn := loadTurn i q sh via (extSub f.ext % 8)
    if q.uniform sh then s.memoryOnce i f.ext kind (extRnd f.ext) turn
    else s.memoryPass i (extGuard f.ext) kind (extRnd f.ext) turn)

/-- A store of any space (R221). -/
def storeWord (op : Nat) (via : Via) (f : RForm) (s : State) : State :=
  s.addressedWord op f via false (fun i sh =>
    s.memoryPass i (extGuard f.ext) .store (extRnd f.ext) (storeTurn i (Fields.ofR f) sh via (extSub f.ext % 8)))

/-- LD (R221). -/
def execLd (f : RForm) (s : State) : Host.Outcome State Fault Refusal := .next (loadWord 0x90 (recordVia f) .load f s)
/-- ST (R221). -/
def execSt (f : RForm) (s : State) : Host.Outcome State Fault Refusal := .next (storeWord 0x91 (recordVia f) f s)
/-- LDS (R221). -/
def execLds (f : RForm) (s : State) : Host.Outcome State Fault Refusal := .next (loadWord 0x92 .shared .load f s)
/-- STS (R221). -/
def execSts (f : RForm) (s : State) : Host.Outcome State Fault Refusal := .next (storeWord 0x93 .shared f s)
/-- LDX (R221). -/
def execLdx (f : RForm) (s : State) : Host.Outcome State Fault Refusal := .next (loadWord 0x94 .scratch .load f s)
/-- STX (R221). -/
def execStx (f : RForm) (s : State) : Host.Outcome State Fault Refusal := .next (storeWord 0x95 .scratch f s)
/-- LDNC: a load through the core's near cache (R214, R221). -/
def execLdnc (f : RForm) (s : State) : Host.Outcome State Fault Refusal := .next (loadWord 0x9C (recordVia f) .near f s)

/-! ### Atomics (R222, R223) -/

/-- Bytes an atomic accesses (R222). -/
def atomBytes (ty : Nat) : Nat := if is64 ty then 8 else 4

/-- The new value of an atomic (R222). -/
def atomicNew (op ty old v cmp : Nat) : Nat :=
  let w := elemWidth ty
  let sg := signedTy ty
  let flt := fun (small : Bool) => (mapElems w (fun e => ((fmtOf ty).minMaxNumber small (elemAt w old e) (elemAt w v e), Flags.none)) (elemCount ty)).1
  match op with
  | 0 => v
  | 1 => if old == cmp then v else old
  | 2 => intToBits w (bitsToInt sg w old + bitsToInt sg w v)
  | 3 => if bitsToInt sg w v < bitsToInt sg w old then v else old
  | 4 => if bitsToInt sg w old < bitsToInt sg w v then v else old
  | 5 => lutBits w 0x88 old v 0
  | 6 => lutBits w 0xEE old v 0
  | 7 => lutBits w 0x66 old v 0
  | 8 => if v ≤ old then 0 else old + 1
  | 9 => if old == 0 || v < old then v else old - 1
  | 10 => (mapElems w (fun e => (fmtOf ty).addBits .rn (elemAt w old e) (elemAt w v e)) (elemCount ty)).1
  | 11 => flt true
  | _ => flt false

/-- The host region accepts .add, .swap and .cas of 32 and 64 bits, where the host completes AtomicOps (R388). -/
def State.hostRefuses (s : State) (sp : Space) (pa op ty : Nat) : Bool :=
  sp == .main && hostBase ≤ pa && !(s.hostAtomics && (op == 0 || op == 1 || op == 2) && ty != 3 && ty != 6 && decide (ty < 7))

/-- One thread's turn of an atomic (R223). -/
def atomTurn (i : Issue) (q : Fields) (sh : Shape) (via : Via) (op ty : Nat) (nr : Bool) (s : State) (t : Nat) (acc : List Nat) : Turned :=
  let w := atomBytes ty
  let access : LaneReq → Loc → Turned := fun lane l =>
    let r := match s.target i via lane.va w Need.atomic with
      | .ok sp pa ord => if s.hostRefuses sp pa op ty then Reach.fault 5 else .ok sp pa ord
      | r => r
    if nr then s.storeTo i lane 2 r acc
    else
      let s1 := s.emptyCells i t l sh.d.n
      match r with
      | .ok sp pa ord => .done ((s1.modThread (i.tk t) (fun th => { th with replay := none })).gather i
          { lane := { lane with addr := pa, into := l.into sh.d.n }, space := sp, ord := ord }) acc
      | r => s.loadMiss s1 i t lane.va 2 r acc
  let into := if nr then .ok (Loc.v 0) else locate (s.thread (i.tk t)) q.d sh.d (if q.xo == 3 then some q.xs else none)
  let stop := fun (r : TrapRec) => if nr then .trap r else readTrap s i t into sh.d.n acc r
  match s.viaRecord i via, s.read i t q.a q.ea sh.a (if q.xo == 1 then some q.xs else none), s.read i t q.c q.ec sh.c none with
  | .trap r, _, _ => stop r
  | .hold, _, _ => .hold
  | _, .trap r, _ => stop r
  | _, .hold, _ => .hold
  | _, _, .trap r => stop r
  | _, _, .hold => .hold
  | .val rec, .val x, .val c =>
    match into with
    | .error r => nowhere s i t acc r
    | .ok l =>
      let ready := nr || s.destReady i t l sh.d.n
      let zero := if nr then s else s.fillZero i t l sh.d.n
      match s.form i via x w (BitVec.ofNat 128 rec) with
      | .trap r => if (s.thread (i.tk t)).role == Role.helper && !nr then (if ready then .done zero acc else .hold) else .trap r
      | .drop => if ready then .done zero acc else .hold
      | .addr a =>
        if !ready then .hold
        else if (s.thread (i.tk t)).role == Role.helper then .done zero acc
        else
          let v := if op == 1 then c / 2 ^ (8 * w) else c
          access { t := t, va := a, addr := a, w := w, data := v, cmp := c % 2 ^ (8 * w) } l

/-- An atomic of any space (R223). -/
def atomWord (opc : Nat) (via : Via) (f : RForm) (s : State) : State :=
  s.addressedWord opc f via true (fun i sh =>
    let q := Fields.ofR f
    let sub := extSub f.ext
    let nr := (sub / 16) % 2 == 1
    let ty := extTy 0 f.ext
    let turn := atomTurn i q sh via (sub % 16) ty nr
    let kind := ReqKind.atomic (sub % 16) ty (!nr)
    if q.uniform sh then s.memoryOnce i f.ext kind (extRnd f.ext) turn
    else s.memoryPass i (extGuard f.ext) kind (extRnd f.ext) turn)

/-- ATOM (R223). -/
def execAtom (f : RForm) (s : State) : Host.Outcome State Fault Refusal := .next (atomWord 0x96 (recordVia f) f s)
/-- ATOMS (R218, R223). -/
def execAtoms (f : RForm) (s : State) : Host.Outcome State Fault Refusal := .next (atomWord 0x97 .shared f s)
/-- ATOMX (R223). -/
def execAtomx (f : RForm) (s : State) : Host.Outcome State Fault Refusal := .next (atomWord 0x98 .scratch f s)

/-! ### Performing requests -/

def overlap (a n b m : Nat) : Bool := decide (a < b + m) && decide (b < a + n)

/-- The leaf that maps a logged write now, nothing while there is none. -/
def State.entryLeaf (s : State) (r : Req) (va : Nat) : Option Leaf :=
  match s.walk r.ctx va with
  | .ok l => some l
  | .error _ => none

/-- Where a thread's access lies: its space and address; of a logged write nothing is known while no leaf maps its page (R209, R212). -/
def State.placeOf (s : State) (r : Req) (l : LaneReq) : Option (Space × Nat) :=
  if r.logged.isNone then some (r.space, l.addr) else (s.entryLeaf r l.va).map (fun f => (.main, f.frame + l.va % 2 ^ f.shift))

/-- Two accesses hold a common byte: matched by physical address, and, where one is not known yet, by the offset in the page, which translation
keeps (R212; log 33). -/
def State.sameBytes (s : State) (r q : Req) (x y : LaneReq) : Bool :=
  match s.placeOf r x, s.placeOf q y with
  | some a, some b => a.1 == b.1 && overlap a.2 x.w b.2 y.w
  | _, _ => r.space == q.space && overlap (x.va % 65536) x.w (y.va % 65536) y.w

/-- Two requests hold accesses of one thread to one byte. -/
def State.sameByte (s : State) (r q : Req) : Bool := r.lanes.any (fun x => q.lanes.any (fun y => x.t == y.t && s.sameBytes r q x y))

/-- The request goes through an SO page, which a logged write shows once a leaf maps it (R258, R259; log 136). -/
def State.ordersAll (s : State) (r : Req) : Bool :=
  if r.logged.isNone then r.so else r.lanes.any (fun l => !l.rc && (s.entryLeaf r l.va).any (fun f => f.ord == 0))

/-- The threads whose order a request keeps: those it acts for, and the whole path of an access to an SO page made once for a pass (R255, R259). -/
def State.threadsOf (s : State) (r : Req) : W32 := maskOf (r.lanes.map LaneReq.t) ||| (if s.ordersAll r then r.path else 0#32)

/-- A thread makes both requests. -/
def State.sameThread (s : State) (r q : Req) : Bool := r.b == q.b && r.g == q.g && (s.threadsOf r &&& s.threadsOf q) != 0#32

/-- The earlier request `q` is performed before `r`: a thread of both makes it to the same byte, or `r` releases, or `q` acquires, an access to an SO
page doing both (R212, R259, R263). Atomics of one core on shared memory are accepted in the order of their issue (R219). -/
def State.comesFirst (s : State) (q r : Req) : Bool :=
  let atoms := fun (x : Req) => x.space != .main && (match x.space, x.kind with | .shared _, .atomic _ _ _ => true | _, _ => false)
  (s.sameThread r q && (s.sameByte r q || r.rel || q.acq || s.ordersAll r || s.ordersAll q)) || (r.core == q.core && atoms r && atoms q)

/-- No earlier request must be performed before request `id`. -/
def State.inOrder (s : State) (id : Nat) (r : Req) : Bool := s.reqs.all (fun e => !(decide (e.1 < id) && s.comesFirst e.2 r))

/-- The access that a word makes at once, for the first thread of its path, may be made now: none of those issued before must come first. `rel` says
that it releases, `so` that its page is SO (R212, R255, R259, R263, R411). -/
def State.mayAccess (s : State) (i : Issue) (sp : Space) (va a w : Nat) (rel so : Bool) : Bool :=
  !s.heldFor i.b sp && s.inOrder s.nextId
    { b := i.b, g := i.g, ctx := (s.block i.b).ctx, core := (s.block i.b).core, kind := .load, space := sp
      lanes := [{ t := firstLane i.path, va := va, addr := a, w := w }], origin := i.pc, rel := rel, so := so, path := i.path }

/-- A request can be performed: it is not in the side log, it is not held for a block that is moving, and none must come first (R212, R219, R259,
R263, R411). -/
def State.reqReady (s : State) (id : Nat) (r : Req) : Bool := r.logged.isNone && !s.heldFor r.b r.space && s.inOrder id r

/-- A side-log entry is to be replayed: its fault has been answered, its block is on a core, no earlier entry of its page is left, and no earlier
request must come first (R209, R263, R397, R399). -/
def State.entryDue (s : State) (id : Nat) (r : Req) : Bool :=
  (match r.logged with
    | none => false
    | some .behind => true
    | some (.fault f) => (Table.find s.faults f).isNone)
    && (s.block r.b).place != .out
    && s.reqs.all (fun e => !(decide (e.1 < id) && r.lanes.any (fun l => e.2.logsPage r.ctx r.core l.va)))
    && s.inOrder id r

/-- The bytes of one sector after the writes of a request, in thread order; a write of all 128 bytes clears poison, any other
leaves it (R211, R447). -/
def State.applyWrites (s : State) (sp : Space) (ls : List LaneReq) : State :=
  let s1 := ls.foldl (fun s l => s.store sp l.addr l.w l.data) s
  match ls with
  | [] => s
  | l :: _ =>
    let base := l.addr / 128 * 128
    if (List.range 128).all (fun k => ls.any (fun x => decide (x.addr ≤ base + k) && decide (base + k < x.addr + x.w))) then s1.clearPoison sp base
    else s1

/-- Performs the atomics of a request in thread order; the lanes come back with the old values as data (R211, R223). -/
def State.applyAtomics (s : State) (sp : Space) (op ty : Nat) (ls : List LaneReq) : State × List LaneReq :=
  ls.foldl (fun acc l =>
    let old := acc.1.load sp l.addr l.w
    (acc.1.store sp l.addr l.w (atomicNew op ty old l.data l.cmp), acc.2 ++ [{ l with data := old }])) (s, [])

/-- Bytes as a load of a size code writes them: sizes 2 and 4 are sign-extended (R220). -/
def extendBytes (ext x : Nat) : Nat :=
  if ext == 2 then intToBits 32 (bitsToInt true 8 x) else if ext == 4 then intToBits 32 (bitsToInt true 16 x) else x

/-- A minimal issue that names a group, for register access outside a pass. -/
def groupOnly (b g : Nat) : Issue := { b := b, g := g, path := 0#32, hdr := 0#64, count := 0, widx := 0, len := 0, word := 0#64 }

/-- Fills what an access was for; a thread that has exited discards it (R30). -/
def State.fillInto (s : State) (b g : Nat) (l : LaneReq) (x : Nat) : State :=
  let i := groupOnly b g
  match l.into with
  | .v r n => if (s.thread (i.tk l.t)).exited then s else s.writeCells i l.t (.v r) n x
  | .s r n => s.writeCells i l.t (.s r) n x
  | .record n => s.modGroup (gkey b g) (fun gr => { gr with b := Table.set {} gr.b n { val := BitVec.ofNat 128 x } })
  | .nothing => s

/-- Leaves a destination empty with a mark (R210, R432); a helper's fills with zeros (R213, R429; log 111). -/
def State.markInto (s : State) (b g : Nat) (l : LaneReq) (m : Mark) : State :=
  let i := groupOnly b g
  let put := fun (loc : Loc) (n : Nat) => (List.range n).foldl (fun s j => s.setCell i l.t loc j { s.cell i l.t loc j with full := false, mark := some m }) s
  match (s.thread (i.tk l.t)).role with
  | .helper => s.fillInto b g l 0
  | .live => match l.into with
    | .v r n => if (s.thread (i.tk l.t)).exited then s else put (.v r) n
    | .s r n => put (.s r) n
    | .record n => s.modGroup (gkey b g) (fun gr => { gr with b := Table.set {} gr.b n { full := false, mark := some m } })
    | .nothing => s

/-- The mark of a poisoned sector (R210, R423). -/
def poisonMark (origin : W64) (va : Nat) : Mark := { code := 5, src := 1, origin := origin, tval := BitVec.ofNat 64 (va / 128 * 128), info := 0 }

/-- Whether a near cache holds a sector, its bytes read through the cache (R214). -/
def State.nearBytes (s : State) (core a n : Nat) : Option Nat :=
  match Table.find (Table.get ({} : Core) s.cores core).near (sectorOf a) with
  | some bs => some (bytesToNat ((bs.drop (a % 128)).take n))
  | none => none

/-- Brings a sector of an RC or UN page into a core's near cache with its poison; a full cache of 1,024 gives up its first
sector (R214). -/
def State.allocNear (s : State) (core a : Nat) : State :=
  let sec := sectorOf a
  let bytes := s.mem.readList (sec * 128) 128
  let c := Table.get ({} : Core) s.cores core
  let near := if c.near.length < 1024 then c.near else c.near.drop 1
  { s with cores := Table.put s.cores core { c with
      near := Table.put near sec bytes
      nearPoison := if s.poisoned .main a then Table.put c.nearPoison sec () else Table.erase c.nearPoison sec } }

/-- The load of a request through the near cache: a hit returns the cached bytes, a miss allocates unless the page is SO or lies
in the host region (R214, R388). -/
def State.nearLoad (s : State) (r : Req) : State :=
  match r.lanes with
  | [] => s
  | l :: _ =>
    let core := r.core
    let a := l.addr
    if r.space == .main && !r.so && decide (a < hostBase) && (s.nearBytes core a 1).isNone then s.allocNear core a else s

/-- The bytes of a load: from the near cache where it is allowed to hit, else from the home, where an LDNC of an SO page reads (R214). -/
def State.loadBytes (s : State) (r : Req) (l : LaneReq) : Nat × Bool :=
  match r.kind, (if r.space == .main && !r.so then s.nearBytes r.core l.addr l.w else none) with
  | .near, some x => (x, (Table.find (Table.get ({} : Core) s.cores r.core).nearPoison (sectorOf l.addr)).isSome)
  | _, _ => (s.load r.space l.addr l.w, s.poisoned r.space l.addr)

/-- LOAD_DATA_ARRIVAL: request `id` is performed; its destinations fill, or stay empty with a poison mark. A returning atomic
must have been performed first. An acquire discards the core's near cache; a frozen core discards what is addressed to it (R210, R221, R268, R417). -/
def execLoadDataArrival (id : Nat) (s : State) : Host.Outcome State Fault Refusal :=
  match Table.find s.reqs id with
  | none => .next s
  | some r =>
    let done := fun (s : State) => { s with reqs := Table.erase s.reqs id }
    if s.foreign r.core r.ctx then .next ((done s).isolate 4 0 r.core r.ctx ((r.lanes.map LaneReq.va).headD 0))
    else if s.inert r.b && !r.kind.writes && r.kind != .store then .next (done s.discard)
    else match r.kind with
    | .answered => .next (done (r.lanes.foldl (fun s l => s.fillInto r.b r.g l l.data) s))
    | .store => .next s
    | .atomic _ _ _ => .next s
    | _ =>
      if !s.reqReady id r then .next s
      else
        let s := match r.kind with
          | .near => s.nearLoad r
          | _ => s
        let s := r.lanes.foldl (fun s l =>
          let x := s.loadBytes r l
          if x.2 then s.markInto r.b r.g l (poisonMark r.origin l.va) else s.fillInto r.b r.g l (extendBytes l.ext x.1)) s
        .next (done (if r.acq || r.so then s.clearNear r.core else s))

/-- Reports a write that was dropped, naming its thread, to the context as a fault report (R209, R210). -/
def State.reportDropped (s : State) (r : Req) (l : LaneReq) : State := s.faultReport r.core r.ctx (32 * l.t + 1024 * r.g) l.va

/-- The near cache after a write of a core: an acquire or an access to an SO page discards it whole, any other write its own sector (R212, R268). -/
def State.afterWrite (s : State) (r : Req) (so : Bool) (sp : Space) (a : Nat) : State :=
  if r.acq || so then s.clearNear r.core else if sp == .main then s.dropNear r.core (sectorOf a) else s

/-- A page that an acquire by the host under way has taken from the device after the entry entered the log: the acquire waits for its replay, and the
host then reads what it wrote (R401; log 133). -/
def State.takenAfter (s : State) (r : Req) (va : Nat) : Bool :=
  s.pages.any (fun e => match e.2.acquiring with
    | some i => i.ctx == r.ctx && i.taken.contains (va / 65536) && decide (r.since < i.upto)
    | none => false)

/-- Translates a side-log entry again (R209, R399, R401). -/
def State.reachEntry (s : State) (r : Req) (l : LaneReq) (n : Need) : Reach :=
  match s.reachNow r.ctx none l.va l.w n with
  | .fault 4 =>
    if s.takenAfter r l.va then
      match s.entryLeaf r l.va with
      | some f => s.through r.ctx l.va n { f with host := false }
      | none => .fault 4
    else .fault 4
  | x => x

/-- Performs a side-log entry whose turn has come: its page is translated again, and where it is still not writable the write is dropped and reported
(R209, R399; log 91). -/
def State.replayEntry (s : State) (id : Nat) (r : Req) : State :=
  let gone : State := { s with reqs := Table.erase s.reqs id }
  let dropped := r.lanes.foldl (fun s x => s.reportDropped r x) gone
  match r.lanes with
  | [] => gone
  | l :: _ =>
    match r.kind, s.reachEntry r l (match r.kind with | .atomic _ _ _ => Need.atomic | _ => Need.write) with
    | .atomic op ty _, .ok sp a ord =>
      if s.poisoned sp a || s.hostRefuses sp a op ty then dropped
      else (gone.applyAtomics sp op ty (r.lanes.map (fun x => { x with addr := a + x.va - l.va }))).1.afterWrite r (ord == 0 && !l.rc) sp a
    | _, .ok sp a ord => (gone.applyWrites sp (r.lanes.map (fun x => { x with addr := a + x.va - l.va }))).afterWrite r (ord == 0 && !l.rc) sp a
    | _, .fault c => dropped.reportCause c r.core r.ctx l.va
    | _, .miss => s

/-- STORE_ACKNOWLEDGE: the store or atomic of request `id` is performed at its home; a returning atomic then waits for its data
to arrive. An atomic on a poisoned sector writes nothing (R37, R210, R211, R446). A log entry whose turn has come replays (R399). -/
def execStoreAcknowledge (id : Nat) (s : State) : Host.Outcome State Fault Refusal :=
  match Table.find s.reqs id with
  | none => .next s
  | some r =>
    if s.foreign r.core r.ctx then .next (State.isolate { s with reqs := Table.erase s.reqs id } 4 0 r.core r.ctx ((r.lanes.map LaneReq.va).headD 0))
    else if r.logged.isSome then .next (if s.entryDue id r then s.replayEntry id r else s)
    else if !s.reqReady id r then .next s
    else
      let gone := fun (s : State) => { s with reqs := Table.erase s.reqs id }
      let sector := match r.lanes with | l :: _ => l.addr | [] => 0
      match r.kind with
      | .store => .next (gone ((s.applyWrites r.space r.lanes).afterWrite r r.so r.space sector))
      | .atomic op ty ret =>
        if s.poisoned r.space sector then
          if ret then .next (gone (r.lanes.foldl (fun s l => s.markInto r.b r.g l (poisonMark r.origin l.va)) s))
          else .next (gone (r.lanes.foldl (fun s l => s.reportDropped r l) s))
        else
          let a := s.applyAtomics r.space op ty r.lanes
          let s := a.1.afterWrite r r.so r.space sector
          if ret then .next { s with reqs := Table.put s.reqs id { r with kind := .answered, lanes := a.2 } } else .next (gone s)
      | _ => .next s

end Sys2Proof.Machine
end

