-- ==== Sys2Proof/Machine/BarrierObject.lean ====
section
/-! DEFINITION. Barrier objects: their names, their updates and the instructions on them (08 R242 to R246, R253). -/

namespace Sys2Proof.Machine

/-! ### Names and updates (R242 to R244) -/

/-- The bytes a BO name points to in a block, or the trap code it takes (R243, R253). -/
def State.boTarget (s : State) (b name : Nat) : Except Nat (Space × Nat) :=
  let a := name % 2 ^ 30
  let place := match name / 2 ^ 30 with
    | 1 => s.sharedTarget b a 16
    | 2 => s.scratchTarget (s.block b).ctx a 16
    | _ => none
  match place with
  | none => .error 7
  | some t => if a % 16 != 0 then .error 6 else .ok t

/-- The trap of a BO name: out of its space's bounds its address failed, and a malformed or misaligned name is the value that did (R243,
R423). -/
def boTrap (code name : Nat) : TrapRec :=
  if code != 7 then alignTrap name
  else boundTrap (if name / 2 ^ 30 == 1 || name / 2 ^ 30 == 2 then name % 2 ^ 30 else name) 0xFF

def boField (x lo n : Nat) : Nat := (x / 2 ^ lo) % 2 ^ n
/-- Replaces bits of a number. -/
def boPut (x lo n v : Nat) : Nat := x - boField x lo n * 2 ^ lo + (v % 2 ^ n) * 2 ^ lo
def boPhase (x : Nat) : Nat := boField x 64 1
def boApend (x : Nat) : Nat := boField x 48 16
def boBpend (x : Nat) : Int := bitsToInt true 48 (boField x 0 48)
def boArel (x : Nat) : Nat := boField x 96 16
def boFc (x : Nat) : Nat := boField x 76 4
/-- The flags at their fst positions; bit 81 is reserved (R27, R242). -/
def boFlags (x : Nat) : Nat := boField x 82 4 * 4 + boField x 80 1
/-- A barrier object with its reserved bits zero (R242). -/
def boClean (x : Nat) : Nat := boField x 0 65 + boFc x * 2 ^ 76 + boFlags x * 2 ^ 80 + boArel x * 2 ^ 96

/-- Inverts the phase and reloads the arrivals where nothing is pending (R244). -/
def boFlip (x : Nat) : Nat :=
  if boBpend x == 0 && boApend x == 0 then boPut (boPut x 64 1 (1 - boPhase x)) 48 16 (boArel x) else x

/-- One update: `add` bytes are added, an arrival is made, a fault code and flags recorded (R244). -/
def boUpdate (x : Nat) (add : Int) (arrive : Bool) (fc flags : Nat) : Nat :=
  let x := boClean x
  let x := if fc != 0 && boFc x == 0 then boPut x 76 4 fc else x
  let x := boPut x 80 6 (boFlags x ||| flags)
  let bp := boBpend x + add
  if bp < -(2 ^ 47) || 2 ^ 47 ≤ bp || (arrive && boApend x == 0) then (if boFc x == 0 then boPut x 76 4 7 else x)
  else
    let x := boPut x 0 48 (intToBits 48 bp)
    boFlip (if arrive then boPut x 48 16 (boApend x - 1) else x)

/-- Applies an update at a BO's home. -/
def State.updateBo (s : State) (sp : Space) (a : Nat) (add : Int) (arrive : Bool) (fc flags : Nat) : State :=
  s.store sp a 16 (boUpdate (s.load sp a 16) add arrive fc flags)

/-- Sends a count towards a barrier object; for one in shared memory it carries the context and vcore of the block (R410). -/
def State.sendCount (s : State) (c : Count) : State :=
  let dest := match c.space with
    | .shared b => some ((s.block b).ctx, (s.block b).vcore)
    | _ => none
  { s with counts := Table.put s.counts s.nextId { c with dest := dest }, nextId := s.nextId + 1 }

/-- The block that a packet addressed to a context and vcore reaches (R410, R411). -/
def State.blockAt (s : State) (dest : Nat × Nat) : Option Nat :=
  (s.blocks.find? (fun e => e.2.ctx == dest.1 && e.2.vcore == dest.2 && e.2.place != Place.ended)).map Prod.fst

/-- BO_COUNT_UPDATE: count `id` arrives at its barrier object's home and is applied (R244): held while the block it names is moving, discarded
with an event where that block has ended, and discarded by a frozen core (R411, R417). -/
def execBoCountUpdate (id : Nat) (s : State) : Host.Outcome State Fault Refusal :=
  match Table.find s.counts id with
  | none => .next s
  | some c =>
    let s' : State := { s with counts := Table.erase s.counts id }
    match c.dest with
    | some v =>
      (match s.blockAt v with
      | none => .next (s'.event 0 5 0 v.1 0 c.addr)
      | some b =>
        if (s.block b).place == Place.moving then .next s
        else if s.inert b then .next s'.discard
        else .next (s'.updateBo (.shared b) c.addr (c.n : Int) false c.fc c.flags.toNat))
    | none => .next (s'.updateBo c.space c.addr (c.n : Int) false c.fc c.flags.toNat)

/-! ### Once-per-pass words with a destination in each active thread -/

/-- The threads that receive d: each active thread, or the first one where d is in s. -/
def State.receivers (s : State) (i : Issue) (q : Fields) (sh : Shape) : List Nat :=
  if sh.d.n == 0 || sh.d.raw then [] else if q.uniform sh then [firstLane i.path] else s.active i (extGuard q.ext)

/-- Every register that is to receive d can be written (R30); a failing index counts as ready, since it traps. -/
def State.eachReady (s : State) (i : Issue) (q : Fields) (sh : Shape) : Bool :=
  (s.receivers i q sh).all (fun t =>
    match locate (s.thread (i.tk t)) q.d sh.d (if q.xo == 3 then some q.xs else none) with
    | .error _ => true
    | .ok l => s.destReady i t l sh.d.n)

/-- Writes d in each receiving thread; a failing index traps its thread. -/
def State.putEach (s : State) (i : Issue) (q : Fields) (sh : Shape) (x : Nat) : State :=
  (s.receivers i q sh).foldl (fun s t =>
    match locate (s.thread (i.tk t)) q.d sh.d (if q.xo == 3 then some q.xs else none) with
    | .error r => s.raise (i.tk t) r
    | .ok l => s.writeCells i t l sh.d.n x) s

/-- Threads take traps at a word that goes on for the rest of its path: they leave the path and what holds it, and are delivered when the word's pass
ends (R306, R425, R426). -/
def State.leavePath (s : State) (i : Issue) (ts : List (Nat × TrapRec)) : State × Issue :=
  let rest := i.path &&& ~~~maskOf (ts.map Prod.fst)
  ((ts.foldl (fun s p => s.raise (i.tk p.1) p.2) s).modGroup i.gk (fun gr =>
      { gr with holds := gr.holds.map (fun h => if h.mask = i.path then { h with mask := rest } else h) }),
    { i with path := rest })

/-- Pending traps at a once-per-pass word or a wl wait: every non-helper thread of the path that holds one takes it, and leaves the
path (R425). -/
def State.takePending (s : State) (i : Issue) : State × Issue :=
  s.leavePath i ((lanesOf i.path).filterMap (fun t => (s.thread (i.tk t)).pending.map (fun r => (t, r))))

/-- Runs a once-per-pass word of R425's list: its guard, then the pending traps, then the word for the threads that are left. -/
def State.withPending (s : State) (i : Issue) (x : Option Ext) (go : State → Issue → State) : State :=
  if !s.uniformGuard i x then s.endPass i
  else
    let p := s.takePending i
    if p.2.path == 0#32 then p.1.closePass p.2 else go p.1 p.2

/-! ### Earlier accesses (R263) -/

/-- An access of the request belongs to one of the threads, or was made once for a pass of threads of the path (R255, R269). -/
def Req.madeBy (r : Req) (i : Issue) (ts : List Nat) : Bool :=
  r.b == i.b && r.g == i.g && (r.lanes.any (fun l => ts.contains l.t) || (r.path &&& i.path) != 0#32)

/-- Every earlier access of the threads, and every once-per-pass access of the path, has been performed: stores and atomics
acknowledged, loads bound (R263, R269). -/
def State.performed (s : State) (i : Issue) (ts : List Nat) : Bool :=
  s.reqs.all (fun e => !(e.2.madeBy i ts) || e.2.kind == ReqKind.answered)
/-- Every store and atomic issued by the group before number `upto` has been acknowledged, logged ones included; remote writes are not
waited for (R37, R272). -/
def State.storesDone (s : State) (i : Issue) (upto : Nat) : Bool :=
  s.reqs.all (fun e => !(e.2.b == i.b && e.2.g == i.g && decide (e.1 < upto)) || !e.2.kind.writes)

/-- The same for loads and returning atomics alone. -/
def State.loadsBound (s : State) (i : Issue) (ts : List Nat) : Bool :=
  s.reqs.all (fun e => !(e.2.madeBy i ts) || (match e.2.kind with
    | .store => true | .answered => true | .atomic _ _ ret => !ret | _ => false))

/-- The non-helper threads of a path. -/
def State.liveOf (s : State) (i : Issue) : List Nat := (lanesOf i.path).filter (fun t => (s.thread (i.tk t)).role == Role.live)

/-- A write of the group to bytes of a space is not yet performed. -/
def State.writesPending (s : State) (i : Issue) (sp : Space) (a w : Nat) : Bool :=
  s.reqs.any (fun e => e.2.b == i.b && e.2.g == i.g && e.2.kind.writes && e.2.space == sp && e.2.lanes.any (fun l => overlap l.addr l.w a w))

/-! ### The instructions (R253) -/

/-- The sources of a barrier-object word. -/
def boSources (f : RForm) (sh : Shape) : List (BitVec 7 × Bool × Opd × Option Nat) :=
  let q := Fields.ofR f
  [(q.a, q.ea, sh.a, if q.xo == 1 then some q.xs else none), (q.b, q.eb, sh.b, if q.xo == 2 then some q.xs else none)]

/-- A barrier-object word on a path whose first thread is no helper: its operands, its name, then `go` with the place of the BO, its
name and b. It keeps its place among the accesses of its thread (R212, R263). A helper's pass writes 0. -/
def State.boWord (s : State) (op : Nat) (f : RForm) (pend : Bool) (go : State → Issue → Shape → Space → Nat → Nat → Nat → State) : State :=
  s.memoryWord op f (fun i sh =>
    let q := Fields.ofR f
    let body := fun (s : State) (i : Issue) =>
      let t := firstLane i.path
      if (s.thread (i.tk t)).role == Role.helper then
        (if s.eachReady i q sh then (s.putEach i q sh 0).endPass i else s.holdPass i (lanesOf i.path) 0#32 [])
      else match s.readUniform i t (boSources f sh) with
        | .trap r => s.trapPath i r
        | .hold => s.holdPass i (lanesOf i.path) 0#32 []
        | .vals xs =>
          let x := argsOf (xs ++ [0, 0])
          match s.boTarget i.b x.a with
          | .error c => s.trapPath i (boTrap c x.a)
          | .ok (sp, a) =>
            if !s.mayAccess i sp a a 16 false false || !s.eachReady i q sh then s.holdPass i (lanesOf i.path) 0#32 []
            else go s i sh sp a x.a x.b
    if pend then s.withPending i f.ext body
    else if !s.uniformGuard i f.ext then s.endPass i else body s i)

/-- BOINIT (R253). -/
def execBoinit (f : RForm) (s : State) : Host.Outcome State Fault Refusal :=
  .next (s.boWord 0xB6 f false (fun s i _ sp a _ b =>
    if 65535 < b then s.trapPath i (boundTrap b 0xFF)
    else (s.store sp a 16 (b * 2 ^ 48 + b * 2 ^ 96)).endPass i))

/-- BOARRIVE: an expectation with .exp and an arrival, in one update; with .rel it waits for the path's earlier accesses (R244,
R253, R263). -/
def execBoarrive (f : RForm) (s : State) : Host.Outcome State Fault Refusal :=
  .next (s.boWord 0xB7 f false (fun s i sh sp a _ b =>
    if extRnd f.ext == 6 && !s.performed i (s.liveOf i) then s.holdPath i .fence
    else
      let ph := boPhase (s.load sp a 16)
      ((s.updateBo sp a (if (extSub f.ext / 2) % 2 == 1 then -(b : Int) else 0) true 0 0).putEach i (Fields.ofR f) sh ph).endPass i))

/-- BOEXPECT (R253). -/
def execBoexpect (f : RForm) (s : State) : Host.Outcome State Fault Refusal :=
  .next (s.boWord 0xB8 f false (fun s i _ sp a _ b => (s.updateBo sp a (-(b : Int)) false 0 0).endPass i))

/-- The trap of a fault code that an observed flip finds (R253, R471). -/
def fcTrap (fc name : Nat) : TrapRec :=
  { code := fc, tval := BitVec.ofNat 64 name, info := if fc == 7 then 0xFF#64 else 0#64, src := 5 }

/-- A flip is observed: the near cache is discarded, then a recorded fault traps every thread (R245, R253). -/
def State.observe (s : State) (i : Issue) (x name : Nat) (go : State → State) : State :=
  let s := s.clearNear (s.block i.b).core
  if boFc x != 0 then s.trapPath i (fcTrap (boFc x) name) else go s

/-- BOWAIT (R245, R253). -/
def execBowait (f : RForm) (s : State) : Host.Outcome State Fault Refusal :=
  .next (s.boWord 0xB9 f true (fun s i _ sp a name b =>
    let x := s.load sp a 16
    if boPhase x == b % 2 then s.holdPath i .bo else s.observe i x name (fun s => s.endPass i)))

/-- BOTEST and BOTEST.st (R253). -/
def execBotest (f : RForm) (s : State) : Host.Outcome State Fault Refusal :=
  .next (s.boWord 0xBA f true (fun s i sh sp a name b =>
    let q := Fields.ofR f
    let x := s.load sp a 16
    if extSub f.ext == 128 then
      (s.putEach i q sh (boApend x * 65536 + boFc x * 4096 + boPhase x * 256 + boFlags x)).endPass i
    else if boPhase x == b % 2 then (s.putEach i q sh 0).endPass i
    else s.observe i x name (fun s => (s.putEach i q sh 1).endPass i)))

end Sys2Proof.Machine
end

