-- ==== Sys2Proof/Machine/Copy.lean ====
section
/-! DEFINITION. Copy engines, request blocks and copy tags (08 R232 to R241, R247 to R252). -/

namespace Sys2Proof.Machine

/-! ### Where a chunk of a copy lies (R248 to R250) -/

/-- One end of a chunk: a virtual address, bytes of another space, an address outside its space, or nothing: a source of zeros, or a
destination that is skipped. -/
inductive ChunkEnd where
  | virt (va : Nat)
  | at_ (sp : Space) (a : Nat)
  | outside
  | nothing
  deriving DecidableEq, Repr

/-- Bytes `lo` to `lo + n - 1` of a request block. -/
def blockBytes (x lo n : Nat) : Nat := fieldOf x (8 * lo) (8 * n)

def rbOp (x : Nat) : Nat := fieldOf x 0 4
def rbDims (x : Nat) : Nat := fieldOf x 4 4 + 1
def rbLsz (x : Nat) : Nat := fieldOf x 8 4
def rbRed (x : Nat) : Nat := fieldOf x 12 4
def rbType (x : Nat) : Nat := fieldOf x 16 4
def rbTag (x : Nat) : Nat := fieldOf x 20 6
def rbTv (x : Nat) : Bool := fieldOf x 26 1 == 1
def rbBv (x : Nat) : Bool := fieldOf x 27 1 == 1
def rbExtent (x k : Nat) : Nat := blockBytes x (24 + 4 * k) 4
def rbStride (x side k : Nat) : Int := bitsToInt true 32 (blockBytes x (48 + 20 * side + 4 * (k - 1)) 4)
/-- Total bytes of a request block (R249). -/
def rbTotal (x : Nat) : Nat := 2 ^ rbLsz x * (List.range (rbDims x)).foldl (fun acc k => acc * rbExtent x k) 1

/-- The coordinates of element `e`, dimension 0 fastest. -/
def coords (x e : Nat) (k : Nat) : Nat :=
  (e / (List.range k).foldl (fun acc j => acc * rbExtent x j) 1) % (max 1 (rbExtent x k))

/-- The address of an element on a side, with `i1` in place of its coordinate 1 (R250). -/
def rbAddress (x side e i1 off : Nat) : Int :=
  (blockBytes x (8 + 8 * side) 8 : Int) + (coords x e 0 * 2 ^ rbLsz x + off : Nat)
    + (List.range (rbDims x)).foldl (fun acc k =>
        if k == 0 then acc else acc + (if k == 1 then (i1 : Int) else (coords x e k : Int)) * rbStride x side k) 0

/-- An address of a side's space for block `b`. -/
def State.sideEnd (s : State) (b space : Nat) (a : Int) (w : Nat) : ChunkEnd :=
  match space with
  | 0 => .virt (intToBits 57 a)
  | 1 => match s.sharedTarget b (intToBits 32 a) w with
    | some (sp, p) => .at_ sp p
    | none => .outside
  | _ => match s.scratchTarget (s.block b).ctx (intToBits 32 a) w with
    | some (sp, p) => .at_ sp p
    | none => .outside

/-- Bytes of one chunk: 16, or an element of less. -/
def Copy.chunk (c : Copy) : Nat :=
  match c.block with
  | none => 16
  | some x => min (2 ^ rbLsz x) 16
def Copy.chunks (c : Copy) : Nat := c.len / c.chunk

/-- Chunks of the next 16-byte unit: those that go on in the row of the next one, up to the end of the destination's unit (R236). -/
def Copy.unit (c : Copy) (dst : Int) : Nat :=
  match c.block with
  | none => 1
  | some x => if 4 ≤ rbLsz x then 1 else max 1 (min (rbExtent x 0 - c.done % max 1 (rbExtent x 0)) ((16 - (dst % 16).toNat) / 2 ^ rbLsz x))

def CopySide.end_ (d : CopySide) (u : Nat) : ChunkEnd :=
  match d with
  | .virt start swz => .virt (swizzle swz ((start + 16 * u) % 2 ^ 57))
  | .other sp start => .at_ sp (start + 16 * u)

/-- The bytes of an end, or the fault code with which the copy is abandoned, or the cause on which it is suspended (R238). -/
inductive Reached where
  | ok (sp : Space) (a : Nat)
  | abandon (code cause va : Nat)
  | suspend (cause va : Nat)
  deriving DecidableEq, Repr

def State.reachEnd (s : State) (c : Copy) (e : ChunkEnd) (w : Nat) (n : Need) : Reached :=
  match e with
  | .at_ sp a => .ok sp a
  | .virt va => match s.reachNow c.ctx (some c.b) va w n with
    | .ok sp a _ => .ok sp a
    | .fault cause => if serviceable cause then .suspend cause va else .abandon 3 cause va
    | .miss => .suspend 1 va
  | _ => .abandon 7 0 0

/-! ### Moving a chunk (R236 to R238, R447) -/

/-- The value a reducing copy leaves in an element run of `w` bytes (R237). -/
def combineRun (red ty w t x : Nat) : Nat × Flags :=
  let ew := elemWidth ty
  let flt := ty == 3 || ty == 6 || ty == 7 || ty == 8
  mapElems ew (fun e =>
    let a := elemAt ew t e
    let b := elemAt ew x e
    if flt then (if red == 1 then (fmtOf ty).addBits .rn a b else minMax (red == 2) false (fmtOf ty) a b)
    else
      let i := bitsToInt (signedTy ty) ew a
      let j := bitsToInt (signedTy ty) ew b
      if red == 1 then narrow true ty (i + j)
      else ((if (red == 2) == decide (j < i) then b else a), Flags.none)) (8 * w / ew)

/-- A unit written clean or from poison: a sector all of whose units were written clean is clean again (R238, R447). -/
def State.markUnit (s : State) (c : Copy) (sp : Space) (a w : Nat) (bad : Bool) : State × Copy :=
  let k := sp.sectorKey (sectorOf a)
  if bad then (s.setPoison sp a, { c with clean := Table.put c.clean k 0 })
  else
    let bits := (List.range w).foldl (fun m j => m ||| (1 <<< ((a + j) % 128))) (Table.get 0 c.clean k)
    let s := if bits == 2 ^ 128 - 1 then s.clearPoison sp a else s
    (s, { c with clean := Table.put c.clean k bits })

/-- Moves one chunk between two resolved places; without a source it writes zeros, a reducing copy too (R237, R250). -/
def State.moveChunk (s : State) (c : Copy) (src : Option (Space × Nat)) (dsp : Space) (da : Nat) : State × Copy :=
  let w := c.chunk
  let bad := match src with
    | some (sp, a) => s.poisoned sp a
    | none => false
  let r := match src with
    | none => (0, Flags.none)
    | some (sp, a) => if c.red == 0 then (s.load sp a w, Flags.none) else combineRun c.red c.ty w (s.load dsp da w) (s.load sp a w)
  let s := (s.store dsp da w r.1)
  let s := if dsp == .main then s.dropNear c.core (sectorOf da) else s
  s.markUnit { c with flags := c.flags ||| r.2, done := c.done + 1 } dsp da w bad

/-- The copy is abandoned: units not reached keep their bytes; the first fault code stays (R238). -/
def State.abandonCopy (s : State) (id : Nat) (c : Copy) (code va : Nat) : State :=
  { s with copies := Table.put s.copies id { c with fc := if c.fc == 0 then code else c.fc, done := c.chunks, stuck := none } }.faultReport
    c.core c.ctx (32768 + c.b) va

/-- The copy is suspended at its chunk; that of a block that is out belongs to its image from then on; one of a context that is being torn down is
abandoned (R238, R239, R409). -/
def State.suspendCopy (s : State) (id : Nat) (c : Copy) (cause va access : Nat) : State :=
  if (s.context c.ctx).ending then { s with copies := Table.put s.copies id { c with done := c.chunks } }
  else
    let f := s.raiseFault c.ctx va cause 3 access (unitOfCore c.core)
    { f.2 with copies := Table.put f.2.copies id { c with stuck := some f.1, saved := (s.block c.b).place == .out } }

/-- The index entry that a gather or scatter row takes: nothing where it reaches the limit (R250). -/
def State.rowIndex (s : State) (c : Copy) (x e : Nat) : Except Reached (Option Nat) :=
  if rbOp x == 0 then .ok (some (coords x e 1))
  else
    let a := blockBytes x 88 8 + 4 * coords x e 1
    match s.reachEnd c (s.sideEnd c.b (fieldOf (blockBytes x 100 1) 0 2) (a : Int) 4) 4 Need.read with
    | .ok sp p =>
      let v := s.load sp p 4
      .ok (if v < blockBytes x 96 4 then some v else none)
    | r => .error r

/-- The two ends of the next chunk. -/
def State.chunkEnds (s : State) (c : Copy) : Except Reached (ChunkEnd × ChunkEnd) :=
  match c.block with
  | none => .ok (c.src.end_ c.done, c.dst.end_ c.done)
  | some x =>
    let per := 2 ^ rbLsz x / c.chunk
    let e := c.done / per
    let off := c.done % per * c.chunk
    let i1 := coords x e 1
    let src := fun (i : Nat) => s.sideEnd c.b (fieldOf x 28 2) (rbAddress x 0 e i off) c.chunk
    let dst := fun (i : Nat) => s.sideEnd c.b (fieldOf x 30 2) (rbAddress x 1 e i off) c.chunk
    match s.rowIndex c x e with
    | .error r => .error r
    | .ok none => if rbOp x == 1 then .ok (.nothing, dst i1) else .ok (src i1, .nothing)
    | .ok (some v) => if rbOp x == 1 then .ok (src v, dst i1) else if rbOp x == 2 then .ok (src i1, dst v) else .ok (src i1, dst i1)

/-- One resolved chunk of a copy: its source, nothing for zeros, and its destination, nothing for one that is skipped. -/
structure CopyPiece where
  src : Option (Space × Nat)
  dst : Option (Space × Nat)
  deriving DecidableEq, Repr

/-- The places of the next chunk, or what stops it with the access that does (R238). -/
def State.chunkPlaces (s : State) (c : Copy) : Except (Reached × Nat) CopyPiece :=
  match s.chunkEnds c with
  | .error r => .error (r, 0)
  | .ok (_, .nothing) => .ok { src := none, dst := none }
  | .ok (src, dst) =>
    let from_ : Except Reached (Option (Space × Nat)) := match src with
      | .nothing => .ok none
      | e => match s.reachEnd c e c.chunk Need.read with
        | .ok sp a => .ok (some (sp, a))
        | r => .error r
    match from_ with
    | .error r => .error (r, 0)
    | .ok p =>
      match s.reachEnd c dst c.chunk (if c.red == 0 then Need.write else { r := true, w := true }) with
      | .ok dsp da => .ok { src := p, dst := some (dsp, da) }
      | r => .error (r, 1)

/-- The places of the next `n` chunks. -/
def State.unitPlaces (s : State) (c : Copy) (n : Nat) : Except (Reached × Nat) (List CopyPiece) :=
  match n with
  | 0 => .ok []
  | k + 1 =>
    match s.chunkPlaces c with
    | .error e => .error e
    | .ok h => match s.unitPlaces { c with done := c.done + 1 } k with
      | .error e => .error e
      | .ok hs => .ok (h :: hs)

/-- Chunks in the copy's next unit; a chunk that is skipped is a unit by itself. -/
def State.unitChunks (s : State) (c : Copy) : Nat :=
  match s.chunkEnds c with
  | .ok (_, .virt va) => c.unit (va : Int)
  | .ok (_, .at_ _ a) => c.unit (a : Int)
  | _ => 1

/-- Moves the next 16-byte unit of a copy that is neither suspended nor done: whole, or not at all where it stops (R236, R238). -/
def State.stepCopy (s : State) (id : Nat) (c : Copy) : State :=
  match s.unitPlaces c (s.unitChunks c) with
  | .error (.abandon code cause va, _) => (s.abandonCopy id c code va).reportCause cause c.core c.ctx va
  | .error (.suspend cause va, access) => s.suspendCopy id c cause va access
  | .error (.ok _ _, _) => s
  | .ok hs =>
    let p := hs.foldl (fun (p : State × Copy) h => match h.dst with
      | none => (p.1, { p.2 with done := p.2.done + 1 })
      | some d => p.1.moveChunk p.2 h.src d.1 d.2) (s, c)
    { p.1 with copies := Table.put p.1.copies id p.2 }

/-- A block other than the copy's own, whose shared memory its next unit reads or writes, is moving (R411). -/
def State.copyHeld (s : State) (c : Copy) : Bool :=
  let moving := fun (e : ChunkEnd) => match e with
    | .at_ (.shared b) _ => b != c.b && (s.block b).place == .moving
    | _ => false
  match s.chunkEnds c with
  | .ok (src, dst) => moving src || moving dst
  | .error _ => false

/-- Moves up to `n` units. -/
def State.runCopy (s : State) (id n : Nat) : State :=
  match n with
  | 0 => s
  | k + 1 =>
    match Table.find s.copies id with
    | none => s
    | some c => if c.stuck.isSome || c.chunks ≤ c.done || s.copyHeld c then s else ((s.stepCopy id c).pulse c.ctx).runCopy id k

/-- Every store and atomic issued earlier by the group has been acknowledged, logged ones included (R235). -/
def State.sourceReady (s : State) (id : Nat) (c : Copy) : Bool :=
  s.reqs.all (fun e => !(e.2.b == c.b && e.2.g == c.g && e.2.kind.writes && decide (e.1 < id)))

/-- The copy could move something now. -/
def State.servable (s : State) (id : Nat) (c : Copy) : Bool :=
  c.stuck.isNone && !c.saved && decide (c.done < c.chunks) && (c.started || s.sourceReady id c) && !s.copyHeld c

/-- The block whose turn it is on a core's copy engine: the next one after that served last, among those with something to move (R234). -/
def State.ceTurn (s : State) (core : Nat) : Option Nat :=
  let bs := (s.copies.filter (fun e => e.2.core == core && s.servable e.1 e.2)).map (fun e => e.2.b)
  let last := (s.core core).ceLast
  let least := fun (l : List Nat) => l.foldl (fun (m : Option Nat) b => match m with | some x => some (min x b) | none => some b) none
  (least (bs.filter (fun b => last < b))).orElse (fun _ => least bs)

/-- COPY_SOURCE_START: copy `id` may read its source from now on; where it is its block's turn, one request of up to `n` units and 128 bytes is served,
in address order (R234 to R236; log 4). A copy of a block that is out does not go on from a suspension until the block is back (R239). -/
def execCopySourceStart (id n : Nat) (s : State) : Host.Outcome State Fault Refusal :=
  match Table.find s.copies id with
  | none => .next s
  | some c =>
    if s.coreFrozen c.core || !(c.started || s.sourceReady id c) then .next s
    else if s.foreign c.core c.ctx then .next (s.isolate 4 1 c.core c.ctx 0)
    else
      let s := { s with copies := Table.put s.copies id { c with started := true } }
      if n != 0 && s.servable id c && s.ceTurn c.core == some c.b then .next ((s.modCore c.core (fun k => { k with ceLast := c.b })).runCopy id (min n 8))
      else .next s

/-- A tag after one of its copies completes: at a count of 0 its bit is set (R240). -/
def Block.tagDone (bl : Block) (n : Nat) : Block :=
  let k := Table.get 0 bl.tcount n - 1
  { bl with tcount := Table.set 0 bl.tcount n k, tgm := if k == 0 then bl.tgm ||| (1#64 <<< n) else bl.tgm }

/-- COPY_COMPLETE: a copy whose last chunk is written counts into its barrier object, updates its tag and frees its slot (R232,
R240, R244). -/
def execCopyComplete (id : Nat) (s : State) : Host.Outcome State Fault Refusal :=
  match Table.find s.copies id with
  | none => .next s
  | some c =>
    if !(c.started && c.stuck.isNone && !c.saved && !s.coreFrozen c.core && decide (c.chunks ≤ c.done)) then .next s
    else
      let s := { s with copies := Table.erase s.copies id }
      let s := match c.bo with
        | some (sp, a) => s.updateBo sp a (c.len : Int) false c.fc c.flags.toNat
        | none => s
      .next (match c.tag with
        | some n => s.modBlock c.b (fun bl => bl.tagDone n)
        | none => s)

/-! ### Accepting a copy (R233, R234, R240) -/

/-- Copies a core's engine holds, and slots it has granted to waiting passes. -/
def State.engineLoad (s : State) (core : Nat) : Nat :=
  (s.copies.filter (fun e => e.2.core == core && !e.2.saved)).length
    + ((s.groupsOn core).map (fun k => ((s.group k).holds.filter (fun h => h.why == .ceSlot true)).length)).sum

/-- CE_SLOT_ACCEPT: a slot of a full copy engine has become free and goes to the path of group `g` of block `b` that waits for
one (R234). -/
def execCeSlotAccept (b g : Nat) (s : State) : Host.Outcome State Fault Refusal :=
  if 64 ≤ s.engineLoad (s.block b).core then .next s
  else match (s.group (gkey b g)).holds.find? (fun h => h.why == .ceSlot false) with
    | none => .next s
    | some h => .next (s.modGroup (gkey b g) (fun gr => { gr with holds := gr.holds.map (fun k => if k = h then { h with why := .ceSlot true } else k) }))

/-- The engine has room for the path's next copy. -/
def State.slotFree (s : State) (i : Issue) : Bool :=
  s.holdOf i == some (.ceSlot true) || (s.holdOf i != some (.ceSlot false) && decide (s.engineLoad (s.block i.b).core < 64))

/-- Accepts a copy: its tag is counted and its bit cleared; a granted slot is used up (R240). -/
def State.acceptCopy (s : State) (i : Issue) (c : Copy) : State :=
  let s := s.modGroup i.gk (fun gr => { gr with holds := gr.holds.filter (fun h => !(h.mask == i.path && h.why == .ceSlot true)) })
  let s := { s with copies := Table.put s.copies s.nextId c, nextId := s.nextId + 1 }
  match c.tag with
  | some n => s.modBlock i.b (fun bl => { bl with tcount := Table.put bl.tcount n (Table.get 0 bl.tcount n + 1), tgm := bl.tgm &&& ~~~(1#64 <<< n) })
  | none => s

def State.tagFull (s : State) (b : Nat) (tag : Option Nat) : Bool :=
  match tag with
  | some n => decide (4095 ≤ Table.get 0 (s.block b).tcount n)
  | none => false

/-! ### COPY (R247, R248) -/

/-- Reduction codes of COPY as the copy keeps them. -/
def redCode (rnd : Nat) : Nat := if rnd == 5 then 1 else if rnd == 6 then 2 else if rnd == 7 then 3 else 0

/-- One side of a COPY of `len` bytes (R248). `x` is the index or address, `r` the record. -/
def State.copySide (s : State) (i : Issue) (sel x len ty : Nat) (red : Bool) (r : BitVec 128) : Except TrapRec CopySide :=
  if sel == 16 || sel == 17 then
    match (if sel == 16 then s.sharedTarget i.b x len else s.scratchTarget (s.block i.b).ctx x len) with
    | none => .error (boundTrap x 0xFF)
    | some (sp, a) => if x % 16 != 0 then .error (alignTrap x) else .ok (.other sp a)
  else
    let e := 2 ^ recLsz r
    if recMalformed r || recStride r != e || len % (max 16 e) != 0 || (red && e % atomBytes ty != 0) || recExtent r * e < x * e + len then
      .error (boundTrap x sel)
    else
      let start := (recBase r + x * e) % 2 ^ 57
      if swizzle (recSwz r) start % 16 != 0 then .error (alignTrap start) else .ok (.virt start (recSwz r))

/-- The record a side names, 0 for the other sides. -/
def Group.sideRecord (gr : Group) (sel : Nat) (e : Bool) : Got := if sel < 16 then gr.record sel e else .val 0

/-- COPY (R233, R247, R248). -/
def execCopy (f : RForm) (s : State) : Host.Outcome State Fault Refusal :=
  .next (s.onGroup (fun i =>
    let sub := extSub f.ext
    let tag := if (sub / 64) % 2 == 1 then some (sub % 64) else none
    let owns := match tag with
      | some n => (s.block i.b).tgal.getLsbD n
      | none => true
    match rShape 0xB0 f with
    | none => s.trapPath i { code := 1 }
    | some sh =>
      if !rLegal 0xB0 f || !(Fields.ofR f).belowNreg sh (s.block i.b).nreg || !owns then s.trapPath i { code := 1 }
      else if !s.uniformGuard i f.ext then s.endPass i
      else
        let t := firstLane i.path
        let gr := s.group i.gk
        let red := redCode (extRnd f.ext)
        let ty := extTy 0 f.ext
        let hold := s.holdPass i (lanesOf i.path) 0#32 []
        if (s.thread (i.tk t)).role == Role.helper then s.endPass i
        else match s.readA i t f sh.a, gr.sideRecord f.b.toNat f.eb, gr.sideRecord f.d.toNat false with
          | .trap r, _, _ => s.trapPath i r
          | _, .trap r, _ => s.trapPath i r
          | _, _, .trap r => s.trapPath i r
          | .val x, .val rs, .val rd =>
            let len := (x / 2 ^ 64) % 2 ^ 32
            let name := x / 2 ^ 96
            match s.copySide i f.b.toNat (x % 2 ^ 32) len ty (red != 0) (BitVec.ofNat 128 rs),
                s.copySide i f.d.toNat ((x / 2 ^ 32) % 2 ^ 32) len ty (red != 0) (BitVec.ofNat 128 rd) with
            | .error r, _ => s.trapPath i r
            | _, .error r => s.trapPath i r
            | .ok src, .ok dst =>
              let bv := 128 ≤ sub
              if len % 16 != 0 || (len == 0 && !bv) then s.trapPath i (boundTrap len 0xFF)
              else match (if bv then s.boTarget i.b name else .ok (.main, 0)) with
                | .error c => s.trapPath i (boTrap c name)
                | .ok bo =>
                  if s.tagFull i.b tag then s.holdPath i .tagCount
                  else if !s.slotFree i then s.holdPath i (.ceSlot false)
                  else
                    (s.acceptCopy i { b := i.b, g := i.g, ctx := (s.block i.b).ctx, core := (s.block i.b).core, src := src, dst := dst
                                      len := len, red := red, ty := ty, bo := if bv then some bo else none, tag := tag }).endPass i
          | _, _, _ => hold))

/-! ### KICK (R249 to R251) -/

/-- The trap a request block is refused with, if it is (R249). -/
def State.refuseBlock (s : State) (b x : Nat) : Option Nat :=
  let dims := rbDims x
  let spaceOk := fun (code base : Nat) => code != 3 && (if code == 0 then decide (base < 2 ^ 57) else decide (base < 2 ^ 32))
  let sp := fieldOf x 28 2
  let dp := fieldOf x 30 2
  let ip := blockBytes x 100 1
  let red := rbRed x
  let unused := (List.range 6).all (fun k => decide (k < dims)
    || (rbExtent x k == 0 && blockBytes x (48 + 4 * (k - 1)) 4 == 0 && blockBytes x (68 + 4 * (k - 1)) 4 == 0))
  let indexOk := if rbOp x == 0 then blockBytes x 88 13 == 0 else decide (ip ≤ 1) && spaceOk ip (blockBytes x 88 8)
  let redOk := if red == 0 then rbType x == 0
    else rbBv x && [1, 2, 3, 4, 5, 6, 7, 8].contains (rbType x) && 2 ^ rbLsz x % atomBytes (rbType x) == 0
  let tagOk := if rbTv x then (s.block b).tgal.getLsbD (rbTag x) else rbTag x == 0
  if !(decide (rbOp x ≤ 2) && decide (dims ≤ 6) && decide (rbLsz x ≤ 7) && decide (red ≤ 3) && spaceOk sp (blockBytes x 8 8)
      && spaceOk dp (blockBytes x 16 8) && unused && indexOk && redOk && tagOk && blockBytes x 101 27 == 0
      && decide (rbTotal x < 2 ^ 47)) then some 7
  else
    let unit := min (2 ^ rbLsz x) 16
    let strides := (List.range 5).all (fun k => blockBytes x (48 + 4 * k) 4 % unit == 0 && blockBytes x (68 + 4 * k) 4 % unit == 0)
    if blockBytes x 8 8 % unit != 0 || blockBytes x 16 8 % unit != 0 || blockBytes x 88 8 % unit != 0 || !strides then some 6
    else if rbBv x then (match s.boTarget b (blockBytes x 4 4) with
      | .error c => some c
      | .ok _ => none)
    else none

/-- The copy of an accepted request block. -/
def State.blockCopy (s : State) (i : Issue) (x : Nat) : Copy :=
  { b := i.b, g := i.g, ctx := (s.block i.b).ctx, core := (s.block i.b).core, src := .virt 0 0, dst := .virt 0 0, block := some x
    len := rbTotal x, red := rbRed x, ty := rbType x
    bo := if rbBv x then (match s.boTarget i.b (blockBytes x 4 4) with | .ok p => some p | .error _ => none) else none
    tag := if rbTv x then some (rbTag x) else none }

def State.setPix (s : State) (i : Issue) (x : Nat) : State :=
  s.modGroup i.gk (fun gr => { gr with pix := BitVec.ofNat 32 x, pixOwner := if x == 0 then 0#32 else i.path })

/-- Launches request blocks from number `m` on, `fuel` of them (R251). -/
def State.kickFrom (s : State) (i : Issue) (base m fuel : Nat) : State :=
  match fuel with
  | 0 => (s.setPix i 0).endPass i
  | k + 1 =>
    let a := base + 128 * m
    match s.sharedTarget i.b a 128 with
    | none => s.trapPath i (boundTrap a 0xFF)
    | some (sp, p) =>
      if s.writesPending i sp p 128 then s.holdPass i (lanesOf i.path) 0#32 []
      else
        let x := s.load sp p 128
        match s.refuseBlock i.b x with
        | some c => s.trapPath i (boTrap c a)
        | none =>
          if s.tagFull i.b (if rbTv x then some (rbTag x) else none) then s.holdPath i .tagCount
          else if !s.slotFree i then s.holdPath i (.ceSlot false)
          else ((s.acceptCopy i (s.blockCopy i x)).setPix i (m + 1)).kickFrom i base (m + 1) k

/-- KICK (R251): it goes on from pix. -/
def execKick (f : RForm) (s : State) : Host.Outcome State Fault Refusal :=
  .next (s.memoryWord 0xB1 f (fun i sh =>
    let t := firstLane i.path
    if !s.uniformGuard i f.ext then s.endPass i
    else if (s.thread (i.tk t)).role == Role.helper then s.endPass i
    else match s.readUniform i t (boSources f sh) with
      | .trap r => s.trapPath i r
      | .hold => s.holdPass i (lanesOf i.path) 0#32 []
      | .vals xs =>
        let x := argsOf (xs ++ [0, 0])
        if x.b == 0 || 65535 < x.b then s.trapPath i (boundTrap x.b 0xFF)
        else if x.a % 128 != 0 then s.trapPath i (alignTrap x.a)
        else
          let s := s.takePix i
          if s.pixTaken i then s.holdPath i .pix
          else
            let m := (s.group i.gk).pix.toNat
            s.kickFrom i x.a m (x.b - m)))

/-! ### Tags (R241, R252) -/

/-- A tag word: its mask read from the first thread; a bit not allocated to the block is illegal (R252). -/
def State.tagWord (s : State) (op : Nat) (f : RForm) (go : State → Issue → Shape → W64 → State) : State :=
  s.onGroup (fun i =>
    match rShape op f with
    | none => s.trapPath i { code := 1 }
    | some sh =>
      let q := Fields.ofR f
      if !rLegal op f || !q.belowNreg sh (s.block i.b).nreg then s.trapPath i { code := 1 }
      else if !s.uniformGuard i f.ext then s.endPass i
      else match s.readA i (firstLane i.path) f sh.a with
        | .trap r => s.trapPath i r
        | .hold => s.holdPass i (lanesOf i.path) 0#32 []
        | .val x =>
          let m := BitVec.ofNat 64 x
          if (m &&& ~~~(s.block i.b).tgal) != 0#64 then s.trapPath i { code := 1 } else go s i sh m)

/-- A satisfied tag wait acquires: the near cache is discarded (R241). -/
def State.tagWait (s : State) (i : Issue) (m : W64) (ok : Bool) : State :=
  if m == 0#64 then s.endPass i
  else if ok then (s.clearNear (s.block i.b).core).endPass i
  else s.holdPath i .tags

/-- TWANY (R252). -/
def execTwany (f : RForm) (s : State) : Host.Outcome State Fault Refusal :=
  .next (s.tagWord 0xB2 f (fun s i _ m => s.tagWait i m ((m &&& (s.block i.b).tgm) != 0#64)))
/-- TWALL (R252). -/
def execTwall (f : RForm) (s : State) : Host.Outcome State Fault Refusal :=
  .next (s.tagWord 0xB3 f (fun s i _ m => s.tagWait i m ((m &&& (s.block i.b).tgm) == m)))

/-- The lowest set bit of a mask; 64 for none. -/
def lowestBit (m : W64) : Nat := ((List.range 64).find? (fun k => m.getLsbD k)).getD 64

/-- TFIRST and TFIRST.nw (R252). -/
def execTfirst (f : RForm) (s : State) : Host.Outcome State Fault Refusal :=
  .next (s.tagWord 0xB4 f (fun s i sh m =>
    let q := Fields.ofR f
    let hit := m &&& (s.block i.b).tgm
    if !s.eachReady i q sh then s.holdPass i (lanesOf i.path) 0#32 []
    else if hit == 0#64 then
      (if m == 0#64 || extSub f.ext == 1 then (s.putEach i q sh 64).endPass i else s.holdPath i .tags)
    else
      let n := lowestBit hit
      let s := s.modBlock i.b (fun bl => { bl with tgm := bl.tgm &&& ~~~(1#64 <<< n) })
      ((s.clearNear (s.block i.b).core).putEach i q sh n).endPass i))

/-- TCLR (R252). -/
def execTclr (f : RForm) (s : State) : Host.Outcome State Fault Refusal :=
  .next (s.tagWord 0xB5 f (fun s i _ m => (s.modBlock i.b (fun bl => { bl with tgm := bl.tgm &&& ~~~m })).endPass i))

end Sys2Proof.Machine
end

