-- ==== Sys2Proof/Machine/Fabric.lean ====
section
/-! DEFINITION. Links, flits and packets of the fabric, and scale-out datagrams (10 R277 to R279, R283, R303). -/

namespace Sys2Proof.Machine

/-! ### The packet header (R279) -/

def hdrField (h : BitVec 128) (lo n : Nat) : Nat := (h.toNat / 2 ^ lo) % 2 ^ n
def Packet.offset (p : Packet) : Nat := hdrField p.hdr 82 46
def Packet.window (p : Packet) : Nat := hdrField p.hdr 64 12
/-- The requester's 17-bit tag (R284). -/
def Packet.tag (p : Packet) : Nat := hdrField p.hdr 53 11 + 2048 * hdrField p.hdr 76 6
def Packet.status (p : Packet) : Nat := hdrField p.hdr 49 4
def Packet.atype (p : Packet) : Nat := hdrField p.hdr 45 4
def Packet.op (p : Packet) : Nat := hdrField p.hdr 41 4
def Packet.len (p : Packet) : Nat := hdrField p.hdr 32 9
def Packet.type_ (p : Packet) : Nat := hdrField p.hdr 27 5
def Packet.vc (p : Packet) : Nat := hdrField p.hdr 24 3
def Packet.ord (p : Packet) : Bool := hdrField p.hdr 22 1 == 1
def Packet.path (p : Packet) : Nat := hdrField p.hdr 20 2
def Packet.src (p : Packet) : Nat := hdrField p.hdr 10 10
def Packet.dst (p : Packet) : Nat := hdrField p.hdr 0 10

/-- The fields a sender fills in. -/
structure Head where
  type_ : Nat
  dst : Nat
  src : Nat
  path : Nat := 0
  tag : Nat := 0
  offset : Nat := 0
  window : Nat := 0
  len : Nat := 0
  op : Nat := 0
  atype : Nat := 0
  status : Nat := 0
  ord : Bool := false
  deriving DecidableEq, Repr

/-- The channel of each packet type (R278). -/
def channelOf (type_ : Nat) : Nat :=
  match type_ with
  | 0 => 2
  | 1 | 2 | 3 => 0
  | 4 | 5 => 1
  | 6 => 3
  | _ => 4

/-- A header (R279); a response with a nonzero status has poison set (R282). -/
def Head.bits (h : Head) : BitVec 128 :=
  BitVec.ofNat 128 (h.dst % 2 ^ 10 + 2 ^ 10 * (h.src % 2 ^ 10) + 2 ^ 20 * (h.path % 4) + 2 ^ 22 * h.ord.toNat
    + 2 ^ 23 * (decide (h.status ≠ 0)).toNat + 2 ^ 24 * channelOf h.type_ + 2 ^ 27 * (h.type_ % 32) + 2 ^ 32 * (h.len % 512)
    + 2 ^ 41 * (h.op % 16) + 2 ^ 45 * (h.atype % 16) + 2 ^ 49 * (h.status % 16) + 2 ^ 53 * (h.tag % 2048) + 2 ^ 64 * (h.window % 4096)
    + 2 ^ 76 * (h.tag / 2048 % 64) + 2 ^ 82 * (h.offset % 2 ^ 46))

/-- Bytes after the header that a packet carries: its payload, and the collective header before it; a load request carries none, its
len being the bytes it asks for (R279, R295; log 19). -/
def bodyLength (hdr : BitVec 128) : Nat :=
  let p : Packet := { hdr := hdr, body := [] }
  if p.type_ == 6 then 32 + p.len else if p.type_ == 1 then 0 else p.len

/-! ### Flits (R277, R278) -/

def State.port (s : State) (n : Nat) : Port := Table.get {} s.ports n
def State.setPort (s : State) (n : Nat) (p : Port) : State := { s with ports := Table.put s.ports n p }

/-- The flits a packet takes (R279). -/
def Packet.flits (p : Packet) : Nat := (16 + p.body.length + 63) / 64
/-- The receive buffer of each channel in flits (R278). -/
def bufferSize (vc : Nat) : Nat := if vc == 2 then 512 else if vc == 4 then 16 else 256
/-- Free space of a channel. -/
def Port.free (p : Port) (vc : Nat) : Nat :=
  bufferSize vc - ((Table.get [] p.queues vc).map Packet.flits).sum - (Table.get [] p.parts vc).length / 64
/-- The stop bits a port sends: the free space is at the headroom or below; the go bits: it is at twice the headroom (R278). -/
def Port.stops (p : Port) : BitVec 5 :=
  (List.range 5).foldl (fun m vc => if p.free vc ≤ Config.headroom vc then m ||| (1#5 <<< vc) else m) 0#5
def Port.goes (p : Port) : BitVec 5 :=
  (List.range 5).foldl (fun m vc => if 2 * Config.headroom vc ≤ p.free vc then m ||| (1#5 <<< vc) else m) 0#5

/-- Cuts bytes into 64-byte pieces, zeros at the end. -/
def pieces64 (fuel : Nat) (bs : List Byte) : List (BitVec 512) :=
  match fuel with
  | 0 => []
  | k + 1 => if bs.isEmpty then [] else BitVec.ofNat 512 (bytesToNat (bs.take 64)) :: pieces64 k (bs.drop 64)

/-- The bytes of a packet. -/
def Packet.bytes (p : Packet) : List Byte := natToBytes 16 p.hdr.toNat ++ p.body

/-- The CRC-32 of a flit and its trailer (R277). -/
def Flit.check (f : Flit) : BitVec 32 := Config.linkCrc f.data f.seq f.vc f.stop f.go

/-- Channels told to stop, after stop and go have been sent. -/
def Port.tell (q : Port) : Port := { q with told := (q.told ||| q.stops) &&& ~~~q.goes }

/-- Sends the flits of a packet on a port; 256 are kept for replay (R277). -/
def State.sendFlits (s : State) (n : Nat) (p : Packet) : State :=
  (pieces64 6 p.bytes).foldl (fun s d =>
    let q := s.port n
    let f : Flit := { seq := q.txSeq, vc := p.vc, stop := q.stops, go := q.goes, data := d, crc := Config.linkCrc d q.txSeq p.vc q.stops q.goes }
    { s.setPort n { q.tell with txSeq := q.txSeq + 1#12, replay := (q.replay ++ [f]).drop (q.replay.length + 1 - 256) } with
      outbox := s.outbox ++ [Out.flit n f] }) s

/-- The receiver sends stop for a channel whose free space has fallen to its headroom, and go for a stopped one whose free space has reached twice
that (R278; log 17). Scale-out has neither (R303). -/
def State.tellFlow (s : State) (n : Nat) : State :=
  let q := s.port n
  let stop := q.stops &&& ~~~q.told
  let go := q.goes &&& q.told
  if 64 ≤ n || (stop == 0#5 && go == 0#5) then s else { s.setPort n q.tell with outbox := s.outbox ++ [Out.flow n stop go] }

/-- Sends a packet by the port its destination and path take, or lets it wait while its channel or the port is stopped (R278, R279, R450). -/
def State.sendPort (s : State) (p : Packet) : State :=
  let n := Config.route p.dst p.path % 64
  let q := s.port n
  if q.lanes == 0 || q.stopped.getLsbD p.vc || !(Table.get [] q.waiting p.vc).isEmpty then
    s.setPort n { q with waiting := Table.put q.waiting p.vc (Table.get [] q.waiting p.vc ++ [p]) }
  else s.sendFlits n p

/-- An entry of the scale-out map, which the command cores load (R303). -/
def State.farEntry (s : State) (peer : Nat) : FarEntry := Table.get {} s.farMap peer

/-- The package a peer entry's pkg names: itself, or that of its entry of the scale-out map (R280, R303). -/
def State.peerPackage (s : State) (so : Bool) (pkg : Nat) : Nat := if so then (s.farEntry pkg).pkg else pkg

/-- Sends a packet to a scale-out peer (R303). -/
def State.sendFar (s : State) (peer : Nat) (p : Packet) : State :=
  let f := Table.get ({} : Far) s.fars peer
  { s with
    fars := Table.put s.fars peer { f with tx := f.tx + 1#32, unacked := f.unacked ++ [(f.tx, p)]
                                           since := if f.unacked.isEmpty then s.time else f.since }
    outbox := s.outbox ++ [Out.datagram (s.farEntry peer) p.vc f.tx f.rx [p]] }

/-- Ports 64 and up stand for scale-out peers, by map index. -/
def State.send (s : State) (so : Bool) (pkg : Nat) (p : Packet) : State := if so then s.sendFar pkg p else s.sendPort p

/-- Sends the packets that waited on a channel. -/
def State.flush (s : State) (n vc : Nat) : State :=
  let q := s.port n
  (Table.get [] q.waiting vc).foldl (fun s p => s.sendFlits n p) (s.setPort n { q with waiting := Table.erase q.waiting vc })

/-- A packet whose type or channel cannot be is discarded as a port error (R279). -/
def Packet.malformed (p : Packet) : Bool := decide (8 ≤ p.type_) || decide (5 ≤ p.vc) || p.vc != channelOf p.type_

/-- Counts a port error and reports it (R279). -/
def State.portError (s : State) (n addr : Nat) : State :=
  let q := s.port n
  (s.setPort n { q with errors := q.errors + 1 }).event 0 3 n 0 0 addr

/-- A whole packet has been assembled on a port. -/
def State.received (s : State) (n : Nat) (p : Packet) : State :=
  let q := s.port n
  if p.malformed then s.portError n (p.hdr.toNat % 2 ^ 64)
  else s.setPort n { q with queues := Table.put q.queues p.vc (Table.get [] q.queues p.vc ++ [p]) }

/-- Bytes received on a channel are added to the packet being assembled; a packet begins in a flit of its own (log 19). -/
def State.assemble (s : State) (n vc : Nat) (bs : List Byte) : State :=
  let q := s.port n
  let all := Table.get [] q.parts vc ++ bs
  let hdr := BitVec.ofNat 128 (bytesToNat (all.take 16))
  let need := 16 + bodyLength hdr
  if all.length < need then s.setPort n { q with parts := Table.put q.parts vc all }
  else (s.setPort n { q with parts := Table.erase q.parts vc }).received n { hdr := hdr, body := (all.drop 16).take (need - 16) }

/-- FLIT_RECEIVE: a flit reaches a port. One that fails its CRC or is out of sequence is discarded and asked for again; a good one updates
stop and go and joins its packet; where `idle`, stop and go alone arrive. `ask` is the far end's own request to send again from a sequence number (R277, R278). A frozen ingress takes
nothing (R417). -/
def execFlitReceive (n : Nat) (f : Flit) (idle : Bool) (ask : Option (BitVec 12)) (s : State) : Host.Outcome State Fault Refusal :=
  let s := match ask with
    | some a =>
      { s with outbox := s.outbox ++ (((s.port n).replay.dropWhile (fun (g : Flit) => decide (g.seq ≠ a))).map (Out.flit n)) }
    | none => s
  let q := s.port n
  if q.lanes == 0 || s.portFrozen n then .next s
  else if idle && f.crc != f.check then .next s
  else if !idle && (f.crc != f.check || f.seq != q.rxSeq) then .next { s with outbox := s.outbox ++ [Out.replayFrom n q.rxSeq] }
  else
    let s := s.setPort n { q with rxSeq := if idle then q.rxSeq else q.rxSeq + 1#12, stopped := (q.stopped ||| f.stop) &&& ~~~f.go }
    let s := (List.range 5).foldl (fun s vc => if (s.port n).stopped.getLsbD vc then s else s.flush n vc) s
    if idle then .next s
    else .next ((if 5 ≤ f.vc then s.portError n f.vc else s.assemble n f.vc (natToBytes 64 f.data.toNat)).tellFlow n)

/-- LANE_FAILURE: the port runs on one lane, or stops where it had no other, and the event is reported (R277, R448, R450). -/
def execLaneFailure (n : Nat) (s : State) : Host.Outcome State Fault Refusal :=
  .next ((s.setPort n { s.port n with lanes := (s.port n).lanes - 1 }).event 10 3 n 0 0 0)

/-- The packets of a datagram, numbered from `seq`: one already received is discarded, the next in sequence is received (R303). -/
def State.takeFar (s : State) (peer : Nat) (seq : BitVec 32) (ps : List Packet) : State :=
  match ps with
  | [] => s
  | p :: rest =>
    let f := Table.get ({} : Far) s.fars peer
    let s := if seq == f.rx then { s with fars := Table.put s.fars peer { f with rx := f.rx + 1#32 } }.received (64 + peer) p else s
    s.takeFar peer (seq + 1#32) rest

/-- SCALE_OUT_DATAGRAM: a datagram of a scale-out peer. Its acknowledgement frees what it covers, its packets are taken in sequence, and what has been
received is acknowledged (R303; log 17). -/
def execScaleOutDatagram (peer : Nat) (seq ack : BitVec 32) (ps : List Packet) (s : State) : Host.Outcome State Fault Refusal :=
  let f := Table.get ({} : Far) s.fars peer
  let left := f.unacked.filter (fun e => (e.1 - ack).toNat < 2 ^ 31)
  let f := { f with unacked := left, since := if left.length < f.unacked.length then s.time else f.since }
  let s := ({ s with fars := Table.put s.fars peer f }).takeFar peer seq ps
  let g := Table.get ({} : Far) s.fars peer
  .next (if ps.isEmpty then s else { s with outbox := s.outbox ++ [Out.datagram (s.farEntry peer) (channelOf 4) g.tx g.rx []] })

/-- SCALE_OUT_RESEND_TIMEOUT: after 20 µs without acknowledgement, everything from the first packet unacknowledged is sent again (R303). -/
def execScaleOutResendTimeout (peer : Nat) (s : State) : Host.Outcome State Fault Refusal :=
  let f := Table.get ({} : Far) s.fars peer
  if f.unacked.isEmpty || s.time < f.since + 20000 then .next s
  else .next { s with
    outbox := s.outbox ++ f.unacked.map (fun e => Out.datagram (s.farEntry peer) e.2.vc e.1 f.rx [e.2])
    fars := Table.put s.fars peer { f with since := s.time } }

/-- Runs `f` for the port that acts (log 10). -/
def State.onPort (s : State) (f : Nat → State) : State :=
  match s.cur with
  | .port n => f n
  | _ => s

def iwField (e : BitVec 128) (lo n : Nat) : Nat := (e.toNat / 2 ^ lo) % 2 ^ n

/-- The partition that owns an inbound window (R404). -/
def State.windowOwner (s : State) (iw : Nat) : Option Nat :=
  (s.partitions.find? (fun e => e.2.valid && decide (e.2.windows.1 ≤ iw) && decide (iw < e.2.windows.1 + e.2.windows.2))).map Prod.fst

/-- Whose packet it is: of the partition that owns its window, or that issued the operation it answers; 8 for collectives and time (R405). -/
def State.packetOwner (s : State) (p : Packet) : Nat :=
  match p.type_ with
  | 0 | 1 | 2 | 3 => (s.windowOwner p.window).getD 8
  | 4 | 5 => ((Table.find s.remote p.tag).map (fun op => (s.context op.ctx).partition)).getD 8
  | _ => 8

/-- The partition whose turn it is among those with packets on a channel: the next one after that last served (R405). -/
def State.turnOf (s : State) (n vc : Nat) : Nat :=
  let owners := (Table.get [] (s.port n).queues vc).map s.packetOwner
  let last := Table.get 8 (s.port n).served vc
  (((List.range 9).map (fun k => (last + 1 + k) % 9)).find? owners.contains).getD 8

/-- The packet of a channel of a port that is served next: the first one of the partition whose turn it is (R405). A frozen ingress serves none (R417). -/
def State.nextOn (s : State) (n vc : Nat) : Option Packet :=
  if s.portFrozen n then none else (Table.get [] (s.port n).queues vc).find? (fun p => s.packetOwner p == s.turnOf n vc)

/-- The packet of a channel that is served next, if it is of the type looked for. -/
def State.head (s : State) (n vc type_ : Nat) : Option Packet := (s.nextOn n vc).filter (fun p => p.type_ == type_)

/-- Takes the packet served next out of its channel. -/
def State.popPacket (s : State) (n vc : Nat) : State :=
  let q := s.port n
  let own := s.turnOf n vc
  (s.setPort n { q with queues := Table.put q.queues vc ((Table.get [] q.queues vc).eraseP (fun p => s.packetOwner p == own))
                        served := Table.put q.served vc own }).tellFlow n

end Sys2Proof.Machine
end

