-- ==== Sys2Proof/Machine/Remote.lean ====
section
/-! DEFINITION. Remote operations: the requester's checks and table, the four per-thread instructions and RFENCE, the responder, responses
and timeouts (10 R280 to R292). -/

namespace Sys2Proof.Machine

/-! ### The requester (R280, R282 to R284) -/

/-- What looking up a remote address comes to. -/
inductive Look where
  | ok (r : Route)
  | trap (t : TrapRec)
  /-- An entry could not be read: a fault at that address (R282). -/
  | fault (cause va : Nat)
  deriving DecidableEq, Repr

/-- Reads an entry of the peer or window tables; a PERMISSION or a poisoned sector makes it count as invalid (R282). -/
def State.tableEntry (s : State) (ctx va : Nat) : Except Nat Nat :=
  match s.reachNow ctx none (va % 2 ^ 57) 8 Need.read with
  | .ok sp a _ => .ok (if s.poisoned sp a then 0 else s.load sp a 8)
  | .fault c => if serviceable c then .error c else .ok 0
  | .miss => .ok 0

/-- A read of a table entry that fails with cause 7 is reported as an isolation event (R395). -/
def State.tableReport (s : State) (core ctx va : Nat) : State :=
  match s.reachNow ctx none (va % 2 ^ 57) 8 Need.read with
  | .fault c => s.reportCause c core ctx va
  | _ => s

/-- The reports of the table reads of an access that the tables refuse (R282, R395). -/
def State.lookReport (s : State) (core ctx addr w : Nat) : State :=
  let table := (s.context ctx).peers
  let pva := table + 8 * (addr / 2 ^ 54)
  if addr % 2 ^ 46 % w != 0 || table == 0 then s
  else match s.tableEntry ctx pva with
    | .error _ => s
    | .ok pe =>
      let s := s.tableReport core ctx pva
      if fieldOf pe 63 1 == 0 then s else s.tableReport core ctx (fieldOf pe 0 46 * 2 ^ 11 + 8 * fieldOf addr 46 8)

/-- Steps 2 and 3 of R282 for an access of `w` bytes. -/
def State.look (s : State) (ctx addr w : Nat) : Look :=
  let bad : Look := .trap { code := 11, tval := BitVec.ofNat 64 addr }
  let off := addr % 2 ^ 46
  let table := (s.context ctx).peers
  let pva := table + 8 * (addr / 2 ^ 54)
  if off % w != 0 then .trap (alignTrap addr)
  else if table == 0 then bad
  else match s.tableEntry ctx pva with
    | .error c => .fault c pva
    | .ok pe =>
      let wva := fieldOf pe 0 46 * 2 ^ 11 + 8 * fieldOf addr 46 8
      if fieldOf pe 63 1 == 0 then bad
      else match s.tableEntry ctx wva with
        | .error c => .fault c wva
        | .ok we =>
          if fieldOf we 63 1 == 0 || 2 ^ fieldOf we 42 6 < off + w then bad
          else
            let mask := fieldOf pe 58 4
            let paths := (List.range 4).filter (fun k => bitAt mask k == 1)
            .ok { peer := addr / 2 ^ 54, pkg := fieldOf pe 48 10, iw := fieldOf we 48 12, paths := if paths.isEmpty then [0] else paths
                  so := fieldOf pe 62 1 == 1 }

/-- Packets outstanding on a path. -/
def State.onPath (s : State) (path : Nat) : Nat := (s.remote.filter (fun e => e.2.path == path)).length

/-- The path of a packet: that of an outstanding operation of the block to the span, else the allowed one with the fewest packets
outstanding (R283); which of several such is a free choice (log 14). -/
def State.pathFor (s : State) (b : Nat) (r : Route) (span : Nat) : Nat :=
  match s.remote.find? (fun e => e.2.b == b && e.2.peer == r.peer && e.2.iw == r.iw && e.2.span == span && e.2.kind != .relay) with
  | some e => e.2.path
  | none =>
    let least := (r.paths.map s.onPath).foldl min (2 ^ 20)
    let best := r.paths.filter (fun p => s.onPath p == least)
    best.getD (Config.pathTie s.tick % best.length) 0

/-- Requester tags taken: outstanding operations, and those whose late responses are still to come (R284, R285). -/
def State.tagsTaken (s : State) : Nat := s.remote.length + s.late.length

/-- The lowest requester tag from `k` on that is free, nothing where all 131,072 are taken (R284). -/
def State.tagFrom (s : State) (fuel k : Nat) : Option Nat :=
  match fuel with
  | 0 => none
  | n + 1 =>
    if 131072 ≤ k then none
    else if (Table.find s.remote k).isNone && (Table.find s.late k).isNone then some k
    else s.tagFrom n (k + 1)

/-- A requester tag that no operation holds. -/
def State.freeTag (s : State) : Option Nat := s.tagFrom (s.tagsTaken + 1) 0

/-- The operation counts among the block's own on its path: collectives and relays do not (R284, R292). -/
def RemoteOp.counts (op : RemoteOp) : Bool :=
  match op.kind with
  | .coll _ => false
  | .relay => false
  | _ => true

/-- Issue can take one more operation after `n` already gathered: the block's count on the path it would take, and the table, have room (R284). -/
def State.remoteRoom (s : State) (b : Nat) (r : Route) (span n : Nat) : Bool :=
  let ep := (s.block b).epoch
  let path := s.pathFor b r span
  decide ((s.remote.filter (fun e => e.2.b == b && e.2.counts && e.2.epoch == ep && e.2.path == path)).length + n < 65535)
    && decide (s.tagsTaken + n < 131072)

/-- A core has response space for one more load or returning atomic (R284). -/
def State.responseRoom (s : State) (core : Nat) : Bool :=
  decide ((s.remote.filter (fun e => e.2.core == core && e.2.lanes.any (fun l => l.into != .nothing))).length < 4096)

/-- Sends one request packet and enters it in the outstanding-operation table. -/
def State.request (s : State) (op : RemoteOp) (so : Bool) (h : Head) (body : List Byte) : State :=
  match s.freeTag with
  | none => s
  | some tag =>
    let s := { s with remote := Table.put s.remote tag { op with seq := s.nextId, since := s.time, so := so }, nextId := s.nextId + 1 }
    s.send so op.pkg { hdr := { h with dst := s.peerPackage so op.pkg, src := s.package, path := op.path, tag := tag }.bits, body := body }

/-- The operation of one thread of an issue. -/
def State.remoteOp (s : State) (i : Issue) (kind : RemoteKind) (r : Route) (off : Nat) (lanes : List LaneReq) : RemoteOp :=
  let bl := s.block i.b
  { b := i.b, g := i.g, ctx := bl.ctx, core := bl.core, kind := kind, peer := r.peer, pkg := r.pkg, iw := r.iw, span := off / 256
    path := s.pathFor i.b r (off / 256), epoch := bl.epoch, seq := 0, lanes := lanes, origin := i.pc, since := 0 }

/-! ### RST (R288) -/

/-- A thread whose table read faulted parks under a fault record, source 0 and access 0 (R282); a helper takes it as a trap. -/
def State.lookFault (s : State) (i : Issue) (t cause va : Nat) (acc : List Nat) : Turned :=
  match (s.thread (i.tk t)).role with
  | .helper => .trap (faultTrap va cause 0)
  | .live =>
    let r := s.raiseFault (s.block i.b).ctx va cause 0 0 (s.unitOf i)
    .done (r.2.parkOnFault i t r.1 (faultTrap va cause 0)) acc

/-- A remote write of the block to a peer, or a returning atomic, is outstanding (R274, R288). -/
def State.writesTo (s : State) (b peer : Nat) : Bool :=
  s.remote.any (fun e => e.2.b == b && e.2.peer == peer && (match e.2.kind with
    | .store => true | .atomic _ => true | .fetchAdd => true | _ => false))

/-- Sends a remote store of bytes from an offset on. -/
def State.sendStore (s : State) (i : Issue) (r : Route) (off : Nat) (bytes : List Byte) (lanes : List LaneReq) (fl : Bool) : State :=
  s.request (s.remoteOp i .store r off lanes) r.so { type_ := 0, dst := 0, src := 0, offset := off, window := r.iw, len := bytes.length, ord := fl } bytes

/-- One thread's turn of RST: a flagged store is sent at its turn, once the block's earlier remote writes to the peer are acknowledged;
a plain one is gathered. -/
def rstTurn (i : Issue) (f : RForm) (sh : Shape) (s : State) (t : Nat) (acc : List Nat) : Turned :=
  let q := Fields.ofR f
  let size := extSub f.ext % 8
  let fl := 8 ≤ extSub f.ext
  let w := sizeBytes size
  match (s.thread (i.tk t)).pending with
  | some r => .trap r
  | none =>
    match s.readA i t f sh.a with
    | .trap r => .trap r
    | .hold => .hold
    | .val addr =>
      match s.look (s.block i.b).ctx addr w with
      | .trap r => .done ((s.lookReport (s.block i.b).core (s.block i.b).ctx addr w).raise (i.tk t) r) acc
      | .fault c va => s.lookFault i t c va acc
      | .ok r =>
        match s.read i t q.d false sh.d (if q.xo == 3 then some q.xs else none) with
        | .trap r => .trap r
        | .hold => .hold
        | .val x =>
          let gathered := match (s.group i.gk).pass with
            | some p => p.gathered.length
            | none => 0
          let lane : LaneReq := { t := t, va := addr, addr := addr % 2 ^ 46, w := w, data := x }
          match (s.thread (i.tk t)).role with
          | .helper => .done s acc
          | .live =>
            if fl && s.writesTo i.b r.peer then .hold
            else if !s.remoteRoom i.b r (addr % 2 ^ 46 / 256) gathered then .hold
            else if fl then .done (s.sendStore i r (addr % 2 ^ 46) (natToBytes w x) [lane] true) acc
            else .done (s.gather i { lane := lane, space := .main, route := some r }) acc

/-- The bytes that lanes write, later threads over earlier ones (R283). -/
def laneBytes (ls : List LaneReq) : Table Byte :=
  ls.foldl (fun m l => (List.range l.w).foldl (fun m j => Table.put m (l.addr + j) (BitVec.ofNat 8 (l.data / 256 ^ j))) m) []

/-- Cuts a table of bytes into runs of contiguous ones: (first offset, bytes). -/
def byteRuns (m : Table Byte) : List (Nat × List Byte) :=
  m.foldl (fun rs e =>
    match rs.getLast? with
    | some (a, bs) => if a + bs.length = e.1 then rs.dropLast ++ [(a, bs ++ [e.2])] else rs ++ [(e.1, [e.2])]
    | none => [(e.1, [e.2])]) []

/-- The spans a pass wrote, each once, in the order first named. -/
def spansOf (xs : List Gathered) : List (Route × Nat) :=
  xs.foldl (fun l x =>
    match x.route with
    | some r => if l.contains (r, x.lane.addr / 256) then l else l ++ [(r, x.lane.addr / 256)]
    | none => l) []

/-- The outstanding-operation table has room for what a pass has gathered (R284). -/
def State.gatheredRoom (s : State) (i : Issue) : Bool :=
  decide (s.tagsTaken + (match (s.group i.gk).pass with | some p => p.gathered.length | none => 0) ≤ 131072)

/-- Sends the remote stores a pass has gathered: of one span, contiguous bytes go in one packet (R283). -/
def State.sendGathered (s : State) (i : Issue) : State :=
  match (s.group i.gk).pass with
  | none => s
  | some p =>
    (spansOf p.gathered).foldl (fun s k =>
      let ls := (p.gathered.filter (fun x => x.route == some k.1 && x.lane.addr / 256 == k.2)).map Gathered.lane
      (byteRuns (laneBytes ls)).foldl (fun s run =>
        s.sendStore i k.1 run.1 run.2 (ls.filter (fun l => overlap l.addr l.w run.1 run.2.length)) false) s) s

/-- RST and RST.fl (R288). -/
def execRst (f : RForm) (s : State) : Host.Outcome State Fault Refusal :=
  .next (s.memoryWord 0xD0 f (fun i sh =>
    let st := s.passStart i (extGuard f.ext)
    let r := runLanes i (rstTurn i f sh) st.1 s st.2.1 st.2.2
    match r.2.1 with
    | [] => if r.1.gatheredRoom i then (r.1.sendGathered i).endPass i else r.1.holdPass i [] r.2.2.1 r.2.2.2
    | rest => r.1.holdPass i rest r.2.2.1 r.2.2.2))

/-! ### Returning operations (R289 to R291) -/

/-- One thread's turn of a remote operation: the address, the c operand, the checks, then `go` sends it. A helper gets zeros. -/
def remoteTurn (i : Issue) (f : RForm) (sh : Shape) (w : Nat) (ret : Bool)
    (go : State → Nat → Loc → Nat → Nat → Route → State) (s : State) (t : Nat) (acc : List Nat) : Turned :=
  let q := Fields.ofR f
  match (s.thread (i.tk t)).pending with
  | some r => .trap r
  | none =>
    let into : Except TrapRec Loc :=
      if ret then locate (s.thread (i.tk t)) q.d sh.d (if q.xo == 3 then some q.xs else none) else .ok (Loc.v 0)
    let zero := fun (r : TrapRec) => if ret then readTrap s i t into sh.d.n acc r else .trap r
    let refuse := fun (r : TrapRec) (addr : Nat) =>
      let s' := s.lookReport (s.block i.b).core (s.block i.b).ctx addr w
      match if ret then readTrap s' i t into sh.d.n acc r else .trap r with
      | .trap r => Turned.done (s'.raise (i.tk t) r) acc
      | x => x
    match s.readA i t f sh.a, s.read i t q.c q.ec sh.c none with
    | .trap r, _ => zero r
    | .hold, _ => .hold
    | _, .trap r => zero r
    | _, .hold => .hold
    | .val addr, .val c =>
      match into with
      | .error r => zero r
      | .ok l =>
        if ret && !s.destReady i t l sh.d.n then .hold
        else match s.look (s.block i.b).ctx addr w with
          | .trap r => refuse r addr
          | .fault cause va =>
            if ret && (s.thread (i.tk t)).role == Role.helper then .done (s.fillZero i t l sh.d.n) acc else s.lookFault i t cause va acc
          | .ok r =>
            match (s.thread (i.tk t)).role with
            | .helper => .done (if ret then s.fillZero i t l sh.d.n else s) acc
            | .live =>
              if !s.remoteRoom i.b r (addr % 2 ^ 46 / 256) 0 || (ret && !s.responseRoom (s.block i.b).core) then .hold
              else
                let s := if ret then s.emptyCells i t l sh.d.n else s
                .done (go (s.modThread (i.tk t) (fun th => { th with replay := none })) t l addr c r) acc

/-- Runs a word that R425 lists as per-thread where its destination makes it execute once: the active threads take their pending traps, then the word
runs for the threads that are left. -/
def State.withActivePending (s : State) (i : Issue) (x : Option Ext) (go : State → Issue → State) : State :=
  if !s.uniformGuard i x then s.endPass i
  else
    let p := s.leavePath i ((s.active i (extGuard x)).filterMap (fun t => (s.thread (i.tk t)).pending.map (fun r => (t, r))))
    if p.2.path == 0#32 then p.1.closePass p.2 else go p.1 p.2

/-- A remote word once or per thread; its requests are sent at the threads' turns. -/
def State.remoteWord (s : State) (op : Nat) (f : RForm) (turn : Issue → Shape → State → Nat → List Nat → Turned) : State :=
  s.memoryWord op f (fun i sh =>
    if (Fields.ofR f).uniform sh then s.withActivePending i f.ext (fun s i => s.memoryOnce i f.ext .load 0 (turn i sh))
    else s.perThread i (extGuard f.ext) (turn i sh))

/-- RLD (R289). -/
def execRld (f : RForm) (s : State) : Host.Outcome State Fault Refusal :=
  let size := extSub f.ext % 8
  let w := sizeBytes size
  .next (s.remoteWord 0xD1 f (fun i sh => remoteTurn i f sh w true (fun s t l addr _ r =>
    s.request (s.remoteOp i .load r (addr % 2 ^ 46) [{ t := t, va := addr, addr := addr % 2 ^ 46, w := w, into := l.into sh.d.n, ext := size }])
      r.so { type_ := 1, dst := 0, src := 0, offset := addr % 2 ^ 46, window := r.iw, len := w } [])))

/-- RATOM and RATOM.nr (R290): the payload is the value, after the comparand for .cas; the ord bit marks .nr (log 19). -/
def execRatom (f : RForm) (s : State) : Host.Outcome State Fault Refusal :=
  let o := extSub f.ext % 16
  let nr := extSub f.ext / 16 == 1
  let ty := extTy 0 f.ext
  let w := atomBytes ty
  .next (s.remoteWord 0xD2 f (fun i sh => remoteTurn i f sh w (!nr) (fun s t l addr c r =>
    let n := if o == 1 then 2 * w else w
    s.request (s.remoteOp i (.atomic (!nr)) r (addr % 2 ^ 46)
        [{ t := t, va := addr, addr := addr % 2 ^ 46, w := w, into := if nr then .nothing else l.into sh.d.n }])
      r.so { type_ := 2, dst := 0, src := 0, offset := addr % 2 ^ 46, window := r.iw, len := n, op := o, atype := ty, ord := nr } (natToBytes n c))))

/-- RFADD (R291): the payload is inc, then limit (log 19). -/
def execRfadd (f : RForm) (s : State) : Host.Outcome State Fault Refusal :=
  .next (s.remoteWord 0xD3 f (fun i sh => remoteTurn i f sh 8 true (fun s t l addr c r =>
    s.request (s.remoteOp i .fetchAdd r (addr % 2 ^ 46) [{ t := t, va := addr, addr := addr % 2 ^ 46, w := 8, into := l.into sh.d.n }])
      r.so { type_ := 3, dst := 0, src := 0, offset := addr % 2 ^ 46, window := r.iw, len := 16 } (natToBytes 16 c))))

/-- RFENCE: the block's operations issued before it are to be answered; the block's epoch changes at its first issue (R292). -/
def execRfence (f : RForm) (s : State) : Host.Outcome State Fault Refusal :=
  .next (s.memoryWord 0xD4 f (fun i _ =>
    s.withPending i f.ext (fun s i =>
      let upto := match s.holdOf i with
        | some (.rfence n) => n
        | _ => s.nextId
      let s := match s.holdOf i with
        | some (.rfence _) => s
        | _ => s.modBlock i.b (fun bl => { bl with epoch := !bl.epoch })
      if s.remote.any (fun e => e.2.b == i.b && decide (e.2.seq < upto) && e.2.counts)
      then s.holdPath i (.rfence upto)
      else s.endPass i)))

/-! ### Responses (R284 to R286) -/

/-- The mark of a destination whose operation failed (R285, R423). -/
def remoteMark (origin : W64) (addr status : Nat) : Mark :=
  if status == 2 then { code := 5, src := 2, origin := origin, tval := BitVec.ofNat 64 (addr / 128 * 128), info := 0 }
  else { code := if status == 4 then 12 else 11, src := 2, origin := origin, tval := BitVec.ofNat 64 addr, info := status }

/-- A pending trap of a remote write: latched, counted as one more of its kind, or unhandled where the thread has exited (R425, R428); where its
block is gone it is discarded with an event (R411). -/
def State.latchRemote (s : State) (b g t : Nat) (r : TrapRec) : State :=
  let k := tkey (gkey b g) t
  match Table.find s.threads k with
  | none => s.event 0 5 0 0 r.code 0
  | some th =>
    if th.exited then s.trapExited b g t r
    else s.setThread k { th with pendRemote := match th.pendRemote with | some p => some { p with more := true } | none => some r }

/-- An operation of a thread completes with a status and data (R284, R285, R289). -/
def State.finishRemote (s : State) (op : RemoteOp) (status x : Nat) : State :=
  op.lanes.foldl (fun s l =>
    match l.into with
    | .nothing =>
      if status == 0 || status == 2 then s
      else s.latchRemote op.b op.g l.t { code := if status == 4 then 12 else 11, tval := BitVec.ofNat 64 l.va, info := BitVec.ofNat 64 status
                                         origin := some op.origin, src := 2 }
    | _ => if status == 0 then s.fillInto op.b op.g l (extendBytes l.ext x) else s.markInto op.b op.g l (remoteMark op.origin l.va status)) s

/-- An operation of a block completes: at once, or, where the block is moving, when it has moved (R286, R411). What is addressed to a frozen core is
discarded and counted (R417). -/
def State.landRemote (s : State) (op : RemoteOp) (status x : Nat) : State :=
  if (s.block op.b).place == .moving then { s with landed := s.landed ++ [{ op := op, status := status, data := x }] }
  else if (s.block op.b).place == .resident && s.coreFrozen (s.block op.b).core then s.discard
  else s.finishRemote op status x

/-- What has landed for a block while it was moving is applied, in the order of arrival (R411). -/
def State.settleLanded (s : State) (b : Nat) : State :=
  (s.landed.filter (fun l => l.op.b == b)).foldl (fun s l => s.landRemote l.op l.status l.data) { s with landed := s.landed.filter (fun l => l.op.b != b) }

/-- REMOTE_TIMEOUT_EXPIRY: operation `tag` has had no response within its context's timeout and completes with status 4; its tag stays taken until the
late response comes, which is discarded (R285, R407). -/
def execRemoteTimeoutExpiry (tag : Nat) (s : State) : Host.Outcome State Fault Refusal :=
  match Table.find s.remote tag with
  | none => .next s
  | some op =>
    let t := (s.context op.ctx).timeout
    if s.time < op.since + 1000 * (if t == 0 then 100000 else t) then .next s
    else .next ({ s with remote := Table.erase s.remote tag, late := Table.put s.late tag () }.landRemote op 4 0)

/-! ### The responder (R282, R284, R290, R291) -/

/-- Sends the response to a request packet: src and dst exchanged, the tag returned (R284); the offset, window and path go back unchanged
(log 19). -/
def State.respond (s : State) (port : Nat) (p : Packet) (type_ status : Nat) (data : List Byte) : State :=
  s.send (decide (64 ≤ port)) (if 64 ≤ port then port - 64 else p.src)
    { hdr := Head.bits { type_ := type_, dst := p.src, src := p.dst, path := p.path, tag := p.tag, offset := p.offset, window := p.window
                         len := if status == 0 then data.length else 0, op := p.op, atype := p.atype, status := status }
      body := if status == 0 then data else [] }

/-- The type of the response to a request: ACK for a store and an atomic without return, RDATA for the others. -/
def Packet.answer (p : Packet) : Nat := if p.type_ == 0 || (p.type_ == 2 && p.ord) then 4 else 5

/-- Bytes a request accesses, and the page permissions it needs. -/
def Packet.width (p : Packet) : Nat := if p.type_ == 2 then atomBytes p.atype else if p.type_ == 3 then 8 else p.len
def Packet.need (p : Packet) : Need := if p.type_ == 0 then Need.write else if p.type_ == 1 then Need.read else Need.atomic
/-- The access code of a fault it raises (R397). -/
def Packet.accessCode (p : Packet) : Nat := if p.type_ == 0 then 1 else if p.type_ == 1 then 0 else 2

/-- Step 4 of R282: the inbound window admits the request. -/
def windowAdmits (e : BitVec 128) (p : Packet) : Bool :=
  iwField e 127 1 == 1 && (iwField e 98 10 &&& p.src) == (iwField e 98 10 &&& iwField e 88 10)
    && iwField e (if p.type_ == 0 then 125 else if p.type_ == 1 then 126 else 124) 1 == 1
    && decide (p.offset + p.len ≤ 2 ^ iwField e 82 6)

/-- The access itself (R282 step 6, R288 to R291, R446): a bounded add, an atomic, a load or a store at bytes `a`. -/
def State.serve (s : State) (port : Nat) (p : Packet) (ctx : Nat) (sp : Space) (a : Nat) : State :=
  let w := p.width
  let body := bytesToNat p.body
  let bad := s.poisoned sp a
  match p.type_ with
  | 0 => (s.setMem sp ((s.memOf sp).writeList a p.body)).respond port p 4 0 []
  | 1 => if bad then s.respond port p 5 2 [] else s.respond port p 5 0 (natToBytes w (s.load sp a w))
  | 2 =>
    if bad then (if p.ord then (s.faultReport 0 ctx 65536 a).respond port p 4 0 [] else s.respond port p 5 2 [])
    else
      let old := s.load sp a w
      let v := if p.op == 1 then body / 2 ^ (8 * w) else body % 2 ^ (8 * w)
      (s.store sp a w (atomicNew p.op p.atype old v (body % 2 ^ (8 * w)))).respond port p p.answer 0 (if p.ord then [] else natToBytes w old)
  | _ =>
    if bad then s.respond port p 5 2 []
    else
      let old := s.load sp a 8
      let sum := old + body % 2 ^ 64
      (if sum ≤ body / 2 ^ 64 then s.store sp a 8 sum else s).respond port p 5 0 (natToBytes 8 old)

/-- Two requests come from one block's operations on one span: from one package, on one path, to one 256-byte span of one window (R283). -/
def Packet.sameSpan (p q : Packet) : Bool := p.src == q.src && p.path == q.path && p.window == q.window && p.offset / 256 == q.offset / 256

/-- The fault that an earlier packet of the same port and span is held for (R283). -/
def State.heldBefore (s : State) (id port : Nat) (p : Packet) : Option Nat :=
  (s.heldPackets.find? (fun h => decide (h.1 < id) && h.2.port == port && h.2.packet.sameSpan p)).map (fun h => h.2.fault)

/-- Holds a packet in its port's pending table under a fault; nothing where the table is full (R282). -/
def State.holdPacket (s : State) (id port ctx fault : Nat) (p : Packet) : Option State :=
  if 64 ≤ (s.heldPackets.filter (fun h => h.2.port == port)).length then none
  else some { s with heldPackets := Table.put s.heldPackets id { port := port, packet := p, fault := fault, ctx := ctx }, nextId := max s.nextId (id + 1) }

/-- What the responder does with request packet number `id` (R282 steps 4 to 6): behind an earlier one of its span that is held it is held too (R283).
Nothing where it must be held and the port's pending table is full. -/
def State.answer (s : State) (id port : Nat) (p : Packet) : Option State :=
  let e := Table.get 0#128 s.inbound p.window
  let ctx := iwField e 108 12
  if !windowAdmits e p || (Table.find s.contexts ctx).isNone || (s.context ctx).ending then some (s.respond port p p.answer 1 [])
  else if s.windowOwner p.window != some (s.context ctx).partition then some (s.isolate 5 3 port ctx p.window)
  else match s.heldBefore id port p with
  | some f => s.holdPacket id port ctx f p
  | none =>
    let va := (iwField e 0 57 + p.offset) % 2 ^ 57
    match s.reachNow ctx none va p.width p.need with
    | .ok sp a _ =>
      if (p.type_ == 2 && s.hostRefuses sp a p.op p.atype) || (p.type_ == 3 && sp == .main && hostBase ≤ a) then some (s.respond port p p.answer 1 [])
      else some (s.serve port p ctx sp a)
    | .fault c =>
      if !serviceable c then some ((s.reportCause c 0 ctx va).respond port p p.answer 1 [])
      else let f := s.raiseFault ctx va c 5 p.accessCode 2; f.2.holdPacket id port ctx f.1 p
    | .miss => none

/-- The responder's turn at the first packet of a channel: it is taken and answered, or stays, its channel stopped (R282). -/
def State.serveHead (s : State) (port vc type_ : Nat) : State :=
  match s.head port vc type_ with
  | none => s
  | some p =>
    match (s.popPacket port vc).answer s.nextId port p with
    | some s' => s'.pulse (iwField (Table.get 0#128 s.inbound p.window) 108 12)
    | none => s

/-- RST_PACKET (R282, R284). -/
def execRstPacket (s : State) : Host.Outcome State Fault Refusal := .next (s.onPort (fun port => s.serveHead port 2 0))
/-- RLD_PACKET (R282, R284). -/
def execRldPacket (s : State) : Host.Outcome State Fault Refusal := .next (s.onPort (fun port => s.serveHead port 0 1))
/-- RATOM_PACKET (R282, R290). -/
def execRatomPacket (s : State) : Host.Outcome State Fault Refusal := .next (s.onPort (fun port => s.serveHead port 0 2))
/-- RFADD_PACKET (R282, R291). -/
def execRfaddPacket (s : State) : Host.Outcome State Fault Refusal := .next (s.onPort (fun port => s.serveHead port 0 3))

end Sys2Proof.Machine
end

