-- ==== Sys2Proof/Machine/Collective.lean ====
section
/-! DEFINITION. Collectives: the header, the hops of a sett, copy out, COLL and its completion; acknowledgements and data responses
(03 R81; 10 R284, R293 to R298). -/

namespace Sys2Proof.Machine

/-! ### The collective header (R295) -/

/-- Flags between their fst positions and bits 53:49. -/
def packFlags (f : BitVec 6) : Nat := f.toNat % 2 + 2 * (f.toNat / 4)
def unpackFlags (x : Nat) : BitVec 6 := BitVec.ofNat 6 (x % 2 + 4 * (x / 2 % 16))

def Hop.ofBits (x : Nat) : Hop := { nslot := fieldOf x 16 3, n := fieldOf x 13 3 + 1, op := fieldOf x 10 3, pkg := fieldOf x 0 10 }
def Hop.bits (h : Hop) : Nat := h.pkg % 1024 + 2 ^ 10 * (h.op % 8) + 2 ^ 13 * ((h.n - 1) % 8) + 2 ^ 16 * (h.nslot % 8)

/-- A collective packet from its 32-byte header, as a number, and its payload. -/
def CollPkt.ofHeader (x : Nat) (pay : List Byte) : CollPkt :=
  { cid := fieldOf x 0 16, step := fieldOf x 16 20, fmt := fieldOf x 36 4, slot := fieldOf x 44 3, last := fieldOf x 47 1 == 1
    mm := fieldOf x 48 1 == 1, flags := unpackFlags (fieldOf x 49 5), k := fieldOf x 54 10 + 1
    hops := (List.range (min 8 (fieldOf x 40 4))).map (fun j => Hop.ofBits (fieldOf x (64 + 24 * j) 24)), pay := pay }

def CollPkt.header (p : CollPkt) : Nat :=
  p.cid % 2 ^ 16 + 2 ^ 16 * (p.step % 2 ^ 20) + 2 ^ 36 * (p.fmt % 16) + 2 ^ 40 * (p.hops.length % 16) + 2 ^ 44 * (p.slot % 8)
    + 2 ^ 47 * p.last.toNat + 2 ^ 48 * p.mm.toNat + 2 ^ 49 * packFlags p.flags
    + 2 ^ 54 * (if p.fmt == 8 then (p.k - 1) % 1024 else 0) + ((List.range 8).map (fun j => match p.hops[j]? with
      | some h => 2 ^ (64 + 24 * j) * h.bits
      | none => 0)).sum

/-- Bytes of an element of a payload format (R298). -/
def fmtBytes (fmt : Nat) : Nat := ([4, 8, 2, 2, 4, 4, 8, 8, 16] : List Nat).getD fmt 16
def fmtFloat (fmt : Nat) : Fmt := if fmt == 1 then .f64 else if fmt == 2 then .bf16 else if fmt == 3 then .f16 else .f32

/-- A descriptor that R295 refuses, or one with a nonzero field that must be zero (R298). -/
def badDescriptor (x : Nat) : Bool :=
  let fmt := fieldOf x 36 4
  let n := fieldOf x 40 4
  decide (9 ≤ fmt) || decide (8 < n) || fieldOf x 16 20 != 0 || fieldOf x 47 7 != 0 || (fmt != 8 && fieldOf x 54 10 != 0)
    || (List.range (min 8 n)).any (fun j =>
      let e := fieldOf x (64 + 24 * j) 24
      let op := fieldOf e 10 3
      fieldOf e 19 5 != 0 || decide (6 ≤ op) || ((op == 1 || op == 2 || op == 3) && fmt == 8) || (op == 4 && fmt != 8))

/-! ### Combining inputs (R81, R296) -/

/-- One more element joins an element of the result. -/
def combineElem (op fmt : Nat) (acc x : Nat) : Nat × Flags :=
  let w := 8 * fmtBytes fmt
  if fmt < 4 then
    let f := fmtFloat fmt
    if op == 1 then f.addBits .rn acc x else (f.minMaxNan (op == 2) acc x, Flags.none)
  else
    let sg := fmt == 4 || fmt == 6
    let a := bitsToInt sg w acc
    let b := bitsToInt sg w x
    if op == 1 then (let r := satInt sg w (a + b); (intToBits w r.1, r.2))
    else (intToBits w (if op == 2 then min a b else max a b), Flags.none)

/-- Element `e` of a payload, if it is there. -/
def elemOf (fmt e : Nat) (bs : List Byte) : Option Nat :=
  let w := fmtBytes fmt
  if (e + 1) * w ≤ bs.length then some (bytesToNat ((bs.drop (e * w)).take w)) else none

/-- An element of the result: the inputs in slot order; one that lacks it is left out; a NaN in any input gives the canonical NaN, with no flag of the
element's own additions (R72, R81; log 119). -/
def reduceElem (op fmt : Nat) (xs : List Nat) : Nat × Flags :=
  match xs with
  | [] => (0, Flags.none)
  | x :: rest =>
    if fmt < 4 && xs.any (fun v => ((fmtFloat fmt).decode v).isNan) then ((fmtFloat fmt).canonNan, Flags.none)
    else rest.foldl (fun acc v => let r := combineElem op fmt acc.1 v; (r.1, acc.2 ||| r.2)) (x, Flags.none)

/-- Combines the inputs of a step: the payload, over the length of slot 0's, and the flags. -/
def reducePay (op fmt : Nat) (ins : List CollPkt) : List Byte × Flags :=
  let w := fmtBytes fmt
  let n := (ins.head?.map (fun p => p.pay.length / w)).getD 0
  (List.range n).foldl (fun acc e =>
    let r := reduceElem op fmt (ins.filterMap (fun p => elemOf fmt e p.pay))
    (acc.1 ++ natToBytes w r.1, acc.2 ||| r.2)) ([], Flags.none)

/-! ### Copy out (R296, R298) -/

/-- Where byte `o` of a side lies. -/
def CopySide.at_ (d : CopySide) (o : Nat) : ChunkEnd :=
  match d with
  | .virt start swz => .virt (swizzle swz ((start + o) % 2 ^ 57))
  | .other sp a => .at_ sp (a + o)

/-- A copy as which a COLL makes its accesses. -/
def Coll.asCopy (c : Coll) : Copy := { b := c.b, g := 0, ctx := c.ctx, core := c.core, src := c.src, dst := c.dst, len := c.len }

/-- Writes the units a copy out has still to write, until one is suspended; a refused one abandons the rest (R238, R298). -/
def State.runOut (s : State) (id fuel : Nat) : State :=
  match fuel with
  | 0 => s
  | k + 1 =>
    match Table.find s.colls id with
    | none => s
    | some c =>
      match c.todo with
      | [] => s
      | (o, bs) :: rest =>
        let next := { c with todo := rest, covered := c.covered + bs.length, stuck := none }
        if c.fc != 0 then { s with colls := Table.put s.colls id next }.runOut id k
        else match s.reachEnd c.asCopy (c.dst.at_ o) bs.length Need.write with
          | .ok sp a =>
            let s' := { s with colls := Table.put s.colls id next }.setMem sp ((s.memOf sp).writeList a bs)
            (if c.bad.contains o then s'.setPoison sp a else s').runOut id k
          | .suspend cause va =>
            let f := s.raiseFault c.ctx va cause 3 1 (unitOfCore c.core)
            { f.2 with colls := Table.put f.2.colls id { c with stuck := some f.1 } }
          | .abandon code cause va =>
            (({ s with colls := Table.put s.colls id { next with fc := code } }.faultReport c.core c.ctx (32768 + c.b) va).reportCause
              cause c.core c.ctx va).runOut id k

/-- Cuts bytes from an offset on into units. -/
def unitsOf (unit fuel o : Nat) (bs : List Byte) : List (Nat × List Byte) :=
  match fuel with
  | 0 => []
  | k + 1 => if bs.isEmpty then [] else (o, bs.take unit) :: unitsOf unit k (o + unit) (bs.drop unit)

/-- A copy out of one step: the bytes below L are written, bytes at or beyond it are dropped and set mm (R298). -/
def State.copyOut (s : State) (id : Nat) (c : Coll) (p : CollPkt) : State :=
  let o := 256 * p.step
  let bs := p.pay.take (c.len - o)
  let c := { c with
    flags := c.flags ||| p.flags, mm := c.mm || p.mm || decide (bs.length < p.pay.length)
    steps := if c.steps.contains p.step then c.steps else c.steps ++ [p.step], last := if p.last then some p.step else c.last
    todo := c.todo ++ unitsOf c.unit (bs.length + 1) o bs }
  { s with colls := Table.put s.colls id c }.runOut id (c.todo.length + 1)

/-! ### Hops (R296, R297) -/

/-- The packet waits at a hop that combines. -/
def CollPkt.combines (p : CollPkt) : Bool :=
  match p.hops with
  | [] => false
  | h :: _ => decide (1 ≤ h.op) && decide (h.op ≤ 4)

/-- Two inputs of a collective meet at one hop: their remaining entries are as many, or differ so that neither is what is left of the other after a hop
of its own (R296; log 120). -/
def CollPkt.meets (p q : CollPkt) : Bool :=
  p.cid == q.cid && (p.hops.length == q.hops.length || !(p.hops.isSuffixOf q.hops || q.hops.isSuffixOf p.hops))

/-- The inputs waiting at the hop of packet `p`, those with as many entries first. -/
def State.inputs (s : State) (p : CollPkt) : List CollPkt :=
  let l := (s.early.filter (fun e => e.pkt.combines && p.meets e.pkt)).map Early.pkt
  l.filter (fun q => q.hops.length == p.hops.length) ++ l.filter (fun q => q.hops.length != p.hops.length)

def State.box (s : State) (cid nh : Nat) : HopBox :=
  (s.boxes.find? (fun b => b.cid == cid && b.hops == nh)).getD { cid := cid, hops := nh, mm := false, gone := [], total := none }
def State.setBox (s : State) (b : HopBox) : State := { s with boxes := b :: s.boxes.filter (fun x => !(x.cid == b.cid && x.hops == b.hops)) }
def State.dropBox (s : State) (cid nh : Nat) : State := { s with boxes := s.boxes.filter (fun x => !(x.cid == cid && x.hops == nh)) }

/-- A step's inputs of slots 0 to n − 1, if all are present (R296). -/
def stepInputs (l : List CollPkt) (n step : Nat) : Option (List CollPkt) :=
  let ins := (List.range n).map (fun j => l.find? (fun p => p.slot == j && p.step == step))
  if ins.all Option.isSome then some (ins.filterMap id) else none

/-- Every step of a slot is present: its last one has arrived with all before it. -/
def slotWhole (ps : List CollPkt) : Bool :=
  match ps.find? CollPkt.last with
  | some p => (List.range (p.step + 1)).all (fun k => ps.any (fun q => q.step == k))
  | none => false

/-- The inputs disagree: remaining entries or lengths differ from slot 0's, or a packet says so already (R296). -/
def disagree (lengths : Bool) (ins : List CollPkt) : Bool :=
  match ins with
  | [] => false
  | a :: rest => a.mm || rest.any (fun p => p.mm || p.hops != a.hops || (lengths && p.pay.length != a.pay.length))

/-- Takes the inputs of the hop of packet `p` out of the store: of one step, or of all. -/
def State.dropInputs (s : State) (p : CollPkt) (step : Option Nat) : State :=
  { s with early := s.early.filter (fun e => !(e.pkt.combines && p.meets e.pkt && step.all (fun k => e.pkt.step == k))) }

/-- Sends a collective packet to another package (R284, R296). -/
def State.sendColl (s : State) (op : RemoteOp) (p : CollPkt) : State :=
  s.request op false { type_ := 6, dst := 0, src := 0, len := p.pay.length } (natToBytes 32 p.header ++ p.pay)

/-- The operation under which a hop sends a packet on. -/
def relayOp (pkg : Nat) : RemoteOp :=
  { b := 0, g := 0, ctx := 0, core := 0, kind := .relay, peer := 0, pkg := pkg, iw := 0, span := 0, path := 0, epoch := false, seq := 0, lanes := []
    origin := 0#64, since := 0 }

/-- What a top-k merge puts out once every step of every slot is there; `first` is slot 0's first packet (R296). -/
def State.mergeOutput (s : State) (first : CollPkt) (h : Hop) : State × List CollPkt :=
  let nh := first.hops.length
  let box := s.box first.cid nh
  let all := s.inputs first
  let slots := (List.range h.n).map (fun j => all.filter (fun q => q.slot == j))
  if !slots.all slotWhole then (s, [])
  else
        let ins := slots.flatten
        let held := ins.foldl (fun l q => (entriesOf 17 q.pay).foldl (offerEntry first.k) l) []
        let flags := ins.foldl (fun f q => f ||| q.flags) Flags.none
        let mm := box.mm || disagree false (first :: ins) || all.any (fun q => h.n ≤ q.slot)
        let n := max 1 ((held.length + 15) / 16)
        let outs := (List.range n).map (fun k =>
          { first with step := k, last := decide (k + 1 = n), flags := flags, mm := mm, pay := ((held.drop (16 * k)).take 16).flatMap (fun e => natToBytes 16 e.bits) })
        ((s.dropInputs first none).dropBox first.cid nh, outs)

/-- What a sum, minimum or maximum puts out once the inputs of a step are there; `first` is slot 0's packet of the step (R296). -/
def State.reduceOutput (s : State) (first : CollPkt) (h : Hop) : State × List CollPkt :=
  let nh := first.hops.length
  let box := s.box first.cid nh
  let all := (s.inputs first).filter (fun q => q.step == first.step)
  match stepInputs all h.n first.step with
  | none => (s, [])
  | some ins =>
    let r := reducePay h.op first.fmt ins
    let more := decide (ins.length < all.length)
    let out := { first with pay := r.1, flags := ins.foldl (fun f q => f ||| q.flags) r.2, mm := box.mm || more || disagree true ins }
    let total := if first.last then some (first.step + 1) else box.total
    let gone := first.step :: box.gone
    let s := s.dropInputs first (some first.step)
    (if total == some gone.length then s.dropBox first.cid nh else s.setBox { box with gone := gone, total := total }, [out])

/-- What the hop that packet `p` has come to puts out, as slot 0's entries have it, and the state without those inputs (R296). -/
def State.hopOutput (s : State) (p : CollPkt) : State × List CollPkt :=
  let zero := fun (merge : Bool) => (s.inputs p).find? (fun q => q.slot == 0 && q.step == (if merge then 0 else p.step))
  match (zero false).orElse (fun _ => zero true) with
  | none => (s, [])
  | some first =>
    match first.hops with
    | [] => (s, [])
    | h :: _ =>
      if h.op == 4 then (match zero true with | some first => s.mergeOutput first h | none => (s, []))
      else if first.step == p.step then s.reduceOutput first h else (s, [])

/-- A packet leaves its hop: the entry is popped, the slot becomes its nslot (R296). -/
def CollPkt.popped (p : CollPkt) : CollPkt :=
  match p.hops with
  | [] => p
  | h :: rest => { p with hops := rest, slot := h.nslot }

/-- Keeps an input for its hop (R297). -/
def State.keepEarly (s : State) (port : Option Nat) (p : CollPkt) : State := { s with early := s.early ++ [{ port := port, pkt := p }] }

/-- A packet whose first entry names this package is processed there; `port` is where it came in. The fuel is the number of entries left. -/
def State.hopArrive (fuel : Nat) (s : State) (port : Option Nat) (p : CollPkt) : State :=
  match fuel with
  | 0 => s
  | k + 1 =>
    let onward := fun (s : State) (q : CollPkt) =>
      match q.popped.hops with
      | [] => s
      | h :: _ => if h.pkg == s.package then s.hopArrive k none q.popped else s.sendColl (relayOp h.pkg) q.popped
    match p.hops with
    | [] => s
    | h :: _ =>
      match h.op with
      | 0 => onward s p
      | 5 =>
        match s.colls.find? (fun e => e.2.cid == p.cid) with
        | none => s.keepEarly port p
        | some e => onward (s.copyOut e.1 e.2 p) p
      | 1 | 2 | 3 | 4 =>
        let nh := p.hops.length
        let box := s.box p.cid nh
        if h.n ≤ p.slot || (s.inputs p).any (fun q => q.hops.length == nh && q.slot == p.slot && q.step == p.step) || box.gone.contains p.step then
          s.setBox { box with mm := true }
        else
          let r := (s.keepEarly port p).hopOutput p
          r.2.foldl onward r.1
      | _ => s

/-- A packet that arrives can be taken: it goes on at once, or its port's store has room (R297); the hop can send what it puts out. -/
def State.canTake (s : State) (port : Nat) (p : CollPkt) : Bool :=
  decide (s.tagsTaken + 128 < 131072) && (match p.hops with
    | [] => true
    | h :: _ =>
      h.op == 0 || (h.op == 5 && s.colls.any (fun e => e.2.cid == p.cid))
        || decide ((s.early.filter (fun e => e.port == some port)).length < 1024)
        || !((s.keepEarly (some port) p).hopOutput p).2.isEmpty)

/-- COLL_PACKET: the first packet of a port's collective channel reaches its hop and is acknowledged; while the port's store is full, one that
must be stored stays and its channel stops (R296, R297, R298). -/
def execCollPacket (s : State) : Host.Outcome State Fault Refusal :=
  .next (s.onPort (fun port => match s.head port 3 6 with
    | none => s
    | some p =>
      let q := CollPkt.ofHeader (bytesToNat (p.body.take 32)) (p.body.drop 32)
      if s.canTake port q then ((s.popPacket port 3).respond port p 4 0 []).hopArrive 9 (some port) q else s))

/-! ### COLL (R298) -/

/-- Where byte `o` of a COLL's source lies, by the translations made at its issue (R298). -/
def Coll.sourceAt (c : Coll) (o : Nat) : Space × Nat :=
  match c.src with
  | .other sp a => (sp, a + o)
  | .virt start swz =>
    let va := swizzle swz ((start + o) % 2 ^ 57)
    match c.pages.find? (fun e => e.1 == va / 65536) with
    | some e => (e.2.1, e.2.2 + va % 65536)
    | none => (.main, va)

/-- A byte of a COLL's source; one of a poisoned sector is a free value (log 117). -/
def State.sourceByte (s : State) (c : Coll) (o : Nat) : Byte :=
  let p := c.sourceAt o
  if s.poisoned p.1 p.2 then Config.poisonByte s.tick p.2 else BitVec.ofNat 8 (s.load p.1 p.2 1)

/-- The `n` bytes of a COLL's source from offset `o`. -/
def State.sideBytes (s : State) (c : Coll) (o n : Nat) : List Byte := (List.range n).map (fun j => s.sourceByte c (o + j))

/-- Piece `k` of a COLL's source (R298). -/
def State.piece (s : State) (c : Coll) (k : Nat) : CollPkt :=
  { c.head with step := k, last := decide (k + 1 = c.pieces), pay := s.sideBytes c (256 * k) (min 256 (c.len - 256 * k)) }

/-- Sends the pieces of a COLL that the outstanding-operation table has room for; the local hop takes them without a packet. -/
def State.pumpColl (s : State) (id fuel : Nat) : State :=
  match fuel with
  | 0 => s
  | k + 1 =>
    match Table.find s.colls id with
    | none => s
    | some c =>
      if c.pieces ≤ c.sent then s
      else
        let p := s.piece c c.sent
        let go := { s with colls := Table.put s.colls id { c with sent := c.sent + 1 } }
        match p.hops with
        | [] => s
        | h :: _ =>
          if 131072 ≤ s.tagsTaken + 128 then s
          else if h.pkg == s.package then (go.hopArrive 9 none p).pumpColl id k
          else
            (go.sendColl { relayOp h.pkg with b := c.b, ctx := c.ctx, core := c.core, kind := .coll id } p).pumpColl id k

/-- The packet waits to be copied out by this package's COLL of a cid. -/
def Early.waitsFor (e : Early) (cid : Nat) : Bool := e.pkt.cid == cid && (match e.pkt.hops with | h :: _ => h.op == 5 | [] => false)

/-- The packets waiting for this package's COLL of a cid are copied out now that it is registered, while what they send on has tags (R297). -/
def State.takeEarly (s : State) (cid : Nat) : State :=
  (s.early.filter (fun e => e.waitsFor cid)).foldl (fun s e =>
    if s.tagsTaken + 128 < 131072 then ({ s with early := s.early.erase e } : State).hopArrive 9 e.port e.pkt else s) s

/-- One side of a COLL: R248 with E in place of 16 (R298). -/
def State.collSide (s : State) (i : Issue) (sel x len unit : Nat) (r : BitVec 128) : Except TrapRec CopySide :=
  if sel == 16 || sel == 17 then
    match (if sel == 16 then s.sharedTarget i.b x len else s.scratchTarget (s.block i.b).ctx x len) with
    | none => .error (boundTrap x 0xFF)
    | some (sp, a) => if x % unit != 0 then .error (alignTrap x) else .ok (.other sp a)
  else
    let e := 2 ^ recLsz r
    if recMalformed r || recStride r != e || len % (max unit e) != 0 || recExtent r * e < x * e + len then .error (boundTrap x sel)
    else
      let start := (recBase r + x * e) % 2 ^ 57
      if start % unit != 0 then .error (alignTrap start) else .ok (.virt start (recSwz r))

/-- The first page of a source that cannot be read, in ascending order: its cause and address (R298). -/
def State.sourceFault (s : State) (ctx b : Nat) (d : CopySide) (len : Nat) : Option (Nat × Nat) :=
  match d with
  | .other _ _ => none
  | .virt start _ =>
    if len == 0 then none
    else
      let first := start / 65536
      let n := (start + len - 1) / 65536 - first + 1
      (List.range n).findSome? (fun k =>
        let va := if k == 0 then start else ((first + k) * 65536) % 2 ^ 57
        match s.reachNow ctx (some b) va 1 Need.read with
        | .fault c => some (c, va)
        | _ => none)

/-- Where the pages of a source lie as translated now, by the page's number (R298). -/
def State.sourcePages (s : State) (ctx b : Nat) (d : CopySide) (len : Nat) : List (Nat × Space × Nat) :=
  match d with
  | .other _ _ => []
  | .virt start _ =>
    (List.range ((start + len + 65535) / 65536 - start / 65536)).filterMap (fun k =>
      let va := if k == 0 then start else ((start / 65536 + k) * 65536) % 2 ^ 57
      match s.reachNow ctx (some b) va 1 Need.read with
      | .ok sp a _ => some (va / 65536, sp, a - va % 65536)
      | _ => none)

/-- Registers a COLL with the translations of its source, and starts it (R298). -/
def State.startColl (s : State) (c : Coll) : State :=
  let id := s.nextId
  let c := { c with pages := s.sourcePages c.ctx c.b c.src c.len }
  let s := { s with colls := Table.put s.colls id c, nextId := id + 1 }
  if c.head.hops.isEmpty then
    let bad := (List.range (c.len / c.unit)).filterMap (fun j =>
      let p := c.sourceAt (j * c.unit)
      if s.poisoned p.1 p.2 then some (j * c.unit) else none)
    { s with colls := Table.put s.colls id { c with todo := unitsOf c.unit (c.len + 1) 0 (s.sideBytes c 0 c.len), bad := bad } }.runOut id (c.len + 1)
  else (s.takeEarly c.cid).pumpColl id (c.pieces + 1)

/-- The checks of COLL after its operands are read: the descriptor, both sides, the BO name, the source pages; then it starts. -/
def State.collBody (s : State) (i : Issue) (f : RForm) (x : Nat) (rs rd : BitVec 128) (sp : Space) (da : Nat) : State :=
  let bl := s.block i.b
  let t := firstLane i.path
  let desc := s.load sp da 32
  let len := (x / 2 ^ 64) % 2 ^ 32
  let name := x / 2 ^ 96
  if badDescriptor desc then s.trapPath i (boundTrap da 0xFF)
  else
    let head := CollPkt.ofHeader desc []
    let unit := fmtBytes head.fmt
    match s.collSide i f.b.toNat (x % 2 ^ 32) len unit rs, s.collSide i f.d.toNat ((x / 2 ^ 32) % 2 ^ 32) len unit rd with
    | .error r, _ => s.trapPath i r
    | _, .error r => s.trapPath i r
    | .ok src, .ok dst =>
      if len % unit != 0 then s.trapPath i (boundTrap len 0xFF)
      else match s.boTarget i.b name with
        | .error c => s.trapPath i (boTrap c name)
        | .ok bo =>
          match s.sourceFault bl.ctx i.b src len with
          | some (cause, va) =>
            if serviceable cause then
              let r := s.raiseFault bl.ctx va cause 0 0 (s.unitOf i)
              ((r.2.parkOnFault i t r.1 (faultTrap va cause 0)).parkAll i t true).closePass i
            else s.trapPath i (faultTrap va cause 0)
          | none =>
            (s.startColl
              { b := i.b, ctx := bl.ctx, core := bl.core, cid := head.cid, src := src, dst := dst, len := len, unit := unit, bo := bo, head := head
                pieces := if head.hops.isEmpty then 0 else max 1 ((len + 255) / 256)
                want := head.hops.any (fun h => h.op == 5 && h.pkg == s.package) }).endPass i

/-- COLL (R233, R298): it reads its source once the group's earlier stores are acknowledged (log 4). -/
def execColl (f : RForm) (s : State) : Host.Outcome State Fault Refusal :=
  .next (s.memoryWord 0xD5 f (fun i sh =>
    s.withPending i f.ext (fun s i =>
      let t := firstLane i.path
      let gr := s.group i.gk
      let hold := s.holdPass i (lanesOf i.path) 0#32 []
      if (s.thread (i.tk t)).role == Role.helper then s.endPass i
      else match s.readUniform i t [(f.a, f.ea, sh.a, none), (extC f.ext, extEc f.ext, sh.c, none)] with
        | .trap r => s.trapPath i r
        | .hold => hold
        | .vals xs =>
          let v := argsOf (xs ++ [0, 0])
          match gr.sideRecord f.b.toNat f.eb, gr.sideRecord f.d.toNat false with
          | .trap r, _ => s.trapPath i r
          | _, .trap r => s.trapPath i r
          | .val rs, .val rd =>
            if v.b % 32 != 0 then s.trapPath i (alignTrap v.b)
            else match s.sharedTarget i.b v.b 32 with
              | none => s.trapPath i (boundTrap v.b 0xFF)
              | some (sp, da) =>
                if s.reqs.any (fun e => e.2.b == i.b && e.2.g == i.g && e.2.kind.writes) then hold
                else s.collBody i f v.a (BitVec.ofNat 128 rs) (BitVec.ofNat 128 rd) sp da
          | _, _ => hold)))

/-- COLL_COMPLETION: COLL `id` copies out and sends what it still has to and there is room for; it completes once its packets are acknowledged, its copy out is written and earlier ones of its block are done; it
counts into its barrier object in one update (R244, R298). -/
def execCollCompletion (id : Nat) (s : State) : Host.Outcome State Fault Refusal :=
  match Table.find s.colls id with
  | none => .next s
  | some c =>
    let acked := decide (c.pieces ≤ c.sent) && !(s.remote.any (fun e => e.2.kind == .coll id))
    let whole := !c.want || (match c.last with
      | some n => (List.range (n + 1)).all c.steps.contains
      | none => false)
    let first := s.colls.all (fun e => !(e.2.b == c.b && decide (e.1 < id)))
    if c.sent < c.pieces || s.early.any (fun e => e.waitsFor c.cid) then .next ((s.takeEarly c.cid).pumpColl id (c.pieces + 1))
    else if acked && whole && first && c.todo.isEmpty then
      .next ({ s with colls := Table.erase s.colls id }.updateBo c.bo.1 c.bo.2 (c.covered : Int) false
        (if c.fc != 0 then c.fc else if c.mm then 7 else 0) c.flags.toNat)
    else .next s

/-! ### Responses (R284) -/

/-- A response is matched by its tag and its source. One that names no outstanding operation is a port error, but that of an operation which has timed
out is only discarded, and frees the tag (R284, R285). -/
def State.response (s : State) (port : Nat) (p : Packet) : State :=
  match Table.find s.remote p.tag with
  | none => if (Table.find s.late p.tag).isSome then { s with late := Table.erase s.late p.tag } else s.portError port p.tag
  | some op =>
    if s.peerPackage op.so op.pkg % 1024 != p.src then s.portError port p.tag
    else
      let s := State.pulse { s with remote := Table.erase s.remote p.tag } op.ctx
      match op.kind with
      | .coll id => s.pumpColl id 1
      | .relay => s
      | _ => s.landRemote op p.status (bytesToNat p.body)

/-- ACK: an acknowledgement at the head of the port's response channel (R284). -/
def execAck (s : State) : Host.Outcome State Fault Refusal :=
  .next (s.onPort (fun port => match s.head port 1 4 with
    | none => s
    | some p => (s.popPacket port 1).response port p))
/-- RDATA: a data response at the head of the port's response channel (R284). -/
def execRdata (s : State) : Host.Outcome State Fault Refusal :=
  .next (s.onPort (fun port => match s.head port 1 5 with
    | none => s
    | some p => (s.popPacket port 1).response port p))

end Sys2Proof.Machine
end

