-- ==== Sys2Proof/Machine/Order.lean ====
section
/-! DEFINITION. Clause headers, fences, numbered barriers, wake-on-write and time (02 R33 to R40; 05 R134; 09 R269 to R271; 10 R299
to R302), and the events of path choice and tracks (11 R307, 12 R352). -/

namespace Sys2Proof.Machine

/-! ### FENCE (R269) -/

/-- FENCE: with release strength it waits for the path's earlier accesses, with acquire strength also for its loads, and discards the near
cache (R263, R268, R269). -/
def execFence (f : RForm) (s : State) : Host.Outcome State Fault Refusal :=
  .next (s.memoryWord 0xC0 f (fun i _ =>
    let ord := extRnd f.ext
    let ts := s.liveOf i
    if !s.uniformGuard i f.ext || ts.isEmpty then s.endPass i
    else if (releases ord && !s.performed i ts) || (acquires ord && !s.loadsBound i ts) then s.holdPath i .fence
    else (if acquires ord then s.clearNear (s.block i.b).core else s).endPass i))

/-! ### Numbered barriers (R134, R270, R271) -/

/-- The trap of a delivered sequencer stop (R134, R471). -/
def Msq.trap (m : Msq) : TrapRec := { code := m.fcode, tval := m.mfa, info := BitVec.ofNat 64 m.fop, src := 3 }

def MState.code : MState → Nat
  | .idle => 0 | .running => 1 | .stopped => 2 | .ended => 3

/-- mst (R119). -/
def Msq.mst (m : Msq) : W64 :=
  BitVec.ofNat 64 (m.fcode * 2 ^ 36 + m.fop * 2 ^ 33 + m.wtd.toNat * 2 ^ 32 + m.state.code * 2 ^ 30 + m.flags.toNat)

/-- Barrier `n` takes no arrival: the sequencer is joined to it and its stop has been delivered (R134). -/
def Block.broken (bl : Block) (n : Nat) : Bool := bl.msq.delivered && bl.mjoin.getLsbD n

/-- The active threads of a pass at a broken barrier trap; the group records mst and mpc (R134, R430). -/
def State.brokenBarrier (s : State) (i : Issue) (act : List Nat) : State :=
  let m := (s.block i.b).msq
  (s.modGroup i.gk (fun gr => { gr with tmst := m.mst, tmpc := m.mpc })).trapActive i act m.trap

/-- What arriving at a barrier comes to. -/
inductive Arrived where
  /-- It waits, for its phase or before it arrives. -/
  | wait (s : State)
  /-- The phase it has arrived in is complete, or nobody arrives. -/
  | past (s : State)
  /-- The barrier is broken. -/
  | broken
  deriving DecidableEq, Repr

/-- The open phase of a barrier. -/
def Block.phase (bl : Block) (n : Nat) : Nat := (Table.get {} bl.nb n).phase

/-- A path arrives at a barrier: threads that have arrived in the open phase wait for it first, then the earlier accesses are performed,
then each live thread arrives (R270, R271). The result is the phase it arrived in, nothing while it waits to arrive. -/
def State.arriveAt (s : State) (i : Issue) (n : Nat) : Option (State × Nat) :=
  let ts := s.liveOf i
  let nb := Table.get {} (s.block i.b).nb n
  if ts.any (fun t => nb.arrived.contains (32 * i.g + t)) || !s.performed i ts then none
  else
    let s := ts.foldl (fun s t => s.modThread (i.tk t) (fun th => { th with arrivals := Table.put th.arrivals n nb.phase })) s
    let s := s.modBlock i.b (fun bl => { bl with nb := Table.set {} bl.nb n { nb with arrived := nb.arrived ++ ts.map (fun t => 32 * i.g + t) } })
    some (s.testBarrier i.b n, nb.phase)

/-- A barrier wait of a path that has arrived in `phase`, or has yet to arrive (R271). `hold` keeps the path. -/
def State.barrier (s : State) (i : Issue) (n : Nat) (phase : Option Nat) (hold : State → Option Nat → State) : Arrived :=
  if (s.liveOf i).isEmpty then .past s
  else
    let bl := s.block i.b
    let done := fun (s : State) (p : Nat) => decide (p < (s.block i.b).phase n)
    let fresh := fun (s : State) => s.clearNear bl.core
    match phase with
    | some p => if done s p then .past (fresh s) else if bl.broken n then .broken else .wait s
    | none =>
      if bl.broken n then .broken
      else match s.arriveAt i n with
        | none => .wait (hold s none)
        | some (s, p) => if done s p then .past (fresh s) else .wait (hold s (some p))

/-- The latest arrivals of a path's threads at barrier `n` are all in completed phases. -/
def State.arrivalsDone (s : State) (i : Issue) (n : Nat) : Bool :=
  (lanesOf i.path).all (fun t => match Table.find (s.thread (i.tk t)).arrivals n with
    | some p => decide (p < (s.block i.b).phase n)
    | none => true)

/-- BAR and BAR.wait (R271). -/
def execBar (f : RForm) (s : State) : Host.Outcome State Fault Refusal :=
  let n := f.d.toNat % 16
  .next (s.memoryWord 0xC1 f (fun i _ =>
    let act := s.active i (extGuard f.ext)
    if !s.uniformGuard i f.ext then s.endPass i
    else if extSub f.ext == 1 then
      (if s.arrivalsDone i n then (s.clearNear (s.block i.b).core).endPass i
       else if (s.block i.b).broken n then s.brokenBarrier i act
       else s.holdPath i .barWait)
    else
      let phase := match s.holdOf i with
        | some (.bar p) => p
        | _ => none
      match s.barrier i n phase (fun s p => s.holdPath i (.bar p)) with
      | .past s => s.endPass i
      | .broken => s.brokenBarrier i act
      | .wait s => s))

/-- BARARV: arrives and goes on (R271). -/
def execBararv (f : RForm) (s : State) : Host.Outcome State Fault Refusal :=
  let n := f.d.toNat % 16
  .next (s.memoryWord 0xC2 f (fun i _ =>
    if !s.uniformGuard i f.ext || (s.liveOf i).isEmpty then s.endPass i
    else if (s.block i.b).broken n then s.brokenBarrier i (s.active i (extGuard f.ext))
    else match s.arriveAt i n with
      | none => s.holdPath i (.bar none)
      | some (s, _) => s.endPass i))

/-! ### Clause headers (R33 to R40) -/

/-- Every load issued by the group before access number `upto` has filled its destination or parked its thread (R37). -/
def State.loadsFilled (s : State) (i : Issue) (upto : Nat) : Bool :=
  s.reqs.all (fun e => !(e.2.b == i.b && e.2.g == i.g && decide (e.1 < upto)) || (match e.2.kind with
    | .store => true
    | .atomic _ _ ret => !ret
    | _ => false))
  && s.remote.all (fun e => !(e.2.b == i.b && e.2.g == i.g && decide (e.2.seq < upto)) || (match e.2.kind with
    | .load => false
    | .fetchAdd => false
    | .atomic ret => !ret
    | _ => true))

/-- The first mark among numbered registers. -/
def markIn (l : Table Cell) : Option (Nat × Mark) :=
  match l with
  | [] => none
  | (n, c) :: rest => match c.mark with
    | some m => some (n, m)
    | none => markIn rest

/-- The trap a thread takes at a wl wait for a register of its own, of s or of b that a failed load left empty (R210, R285). -/
def State.markTrap (s : State) (i : Issue) (t : Nat) : Option TrapRec :=
  match markIn (s.thread (i.tk t)).v, markIn (s.group i.gk).s, (s.group i.gk).b.find? (fun e => e.2.mark.isSome) with
  | some (n, m), _, _ => some (m.trap n)
  | _, some (n, m), _ => some (m.trap (96 + n))
  | _, _, some (n, c) => c.mark.map (fun m => m.trap n)
  | _, _, _ => none

/-- The threads that trap at the end of a wl wait leave the path; the rest of the path remains. -/
def State.takeMarks (s : State) (i : Issue) : State × Issue :=
  s.leavePath i ((s.liveOf i).filterMap (fun t => (s.markTrap i t).map (fun r => (t, r))))

/-- The path enters the clause: traps taken at the header are delivered, and the path takes the first word after it. -/
def State.enterClause (s : State) (i : Issue) : State :=
  let s := (lanesOf i.path).foldl (fun s t => s.jump i t (mkPc (i.hdr + 4#64) 1)) (s.deliverAll i)
  s.modGroup i.gk (fun gr => { gr with holds := gr.holds.filter (fun h => decide (h.mask ≠ i.path)), issuing := i.path })

/-- ILLEGAL_OP at a header (R33, R37). -/
def State.headerIllegal (s : State) (i : Issue) : State :=
  ((s.active i (fun _ => true)).foldl (fun s t => s.raise (i.tk t) { code := 1 }) s).closePass i

/-- The barrier wait of a header, exactly as BAR (R37). -/
def State.headerBarrier (s : State) (i : Issue) (h : Header) (upto : Nat) (phase : Option Nat) : State :=
  let n := h.nb.toNat
  if !h.bv then s.enterClause i
  else match s.barrier i n phase (fun s p => s.holdPath i (.header 3 upto p)) with
    | .past s => s.enterClause i
    | .wait s => s
    | .broken =>
      let m := (s.block i.b).msq
      let act := s.active i (fun _ => true)
      (act.foldl (fun s t => s.raise (i.tk t) m.trap) (s.modGroup i.gk (fun gr => { gr with tmst := m.mst, tmpc := m.mpc }))).closePass i

/-- The tag wait of a header, which acquires (R37, R241). -/
def State.headerTag (s : State) (i : Issue) (h : Header) (upto : Nat) : State :=
  let bl := s.block i.b
  if !h.tv then s.headerBarrier i h upto none
  else if !bl.tgal.getLsbD h.tag.toNat then s.headerIllegal i
  else if !bl.tgm.getLsbD h.tag.toNat then s.holdPath i (.header 2 upto none)
  else (s.clearNear bl.core).headerBarrier i h upto none

/-- The store wait of a header. -/
def State.headerStores (s : State) (i : Issue) (h : Header) (upto : Nat) : State :=
  if h.ws && !s.storesDone i upto then s.holdPath i (.header 1 upto none) else s.headerTag i h upto

/-- The load wait of a header: pending traps and marked registers trap first (R37, R210, R425). -/
def State.headerLoads (s : State) (i : Issue) (h : Header) (upto : Nat) : State :=
  if !h.wl then s.headerStores i h upto
  else
    let p := s.takePending i
    if p.2.path == 0#32 then p.1.closePass p.2
    else if !p.1.loadsFilled p.2 upto then p.1.holdPath p.2 (.header 0 upto none)
    else
      let p := p.1.takeMarks p.2
      if p.2.path == 0#32 then p.1.closePass p.2 else p.1.headerStores p.2 h upto

/-- CLAUSE_HEADER: its rules, then its waits in order; the path then takes the first word (R33, R37). -/
def execClauseHeader (h : Header) (s : State) : Host.Outcome State Fault Refusal :=
  .next (s.onGroup (fun i =>
    if !h.legal then s.headerIllegal i
    else match s.holdOf i with
      | some (.header 0 upto _) => s.headerLoads i h upto
      | some (.header 1 upto _) => s.headerStores i h upto
      | some (.header 2 upto _) => s.headerTag i h upto
      | some (.header _ upto phase) => s.headerBarrier i h upto phase
      | _ => s.headerLoads i h s.nextId))

/-! ### WAITW (R299, R300) -/

/-- The page of an address is wake-enabled for a context (R299). -/
def State.wakeEnabled (s : State) (ctx va : Nat) : Bool :=
  let page := va / 65536 * 65536
  s.inbound.any (fun e =>
    iwField e.2 127 1 == 1 && iwField e.2 123 1 == 1 && iwField e.2 108 12 == ctx
      && decide (iwField e.2 0 57 ≤ page) && decide (page + 65536 ≤ iwField e.2 0 57 + 2 ^ iwField e.2 82 6))

/-- The address of WAITW: every failure of the record or the index takes BUFFER_BOUND, whatever oor holds (R205, R300). -/
def waitAddress (n : Nat) (r : BitVec 128) (x : Nat) : Formed :=
  if recMalformed r || decide (recExtent r ≤ x) then .trap (boundTrap x n) else recAccess n r x 8

/-- Where WAITW's word lies: the word itself must be in main memory on a wake-enabled page (R300). -/
def State.waitReach (s : State) (i : Issue) (a : Nat) : Reach :=
  let ctx := (s.block i.b).ctx
  match s.reachNow ctx (some i.b) a 8 Need.read with
  | .fault c => if serviceable c && !s.wakeEnabled ctx a then .fault 5 else .fault c
  | .ok sp pa ord => if sp == Space.main && s.wakeEnabled ctx a then .ok sp pa ord else .fault 5
  | .miss => .miss

/-- The deadline of WAITW: 2^tmo ns from its first issue (R300). -/
def State.waitLimit (s : State) (i : Issue) (tmo : Nat) : Option Nat :=
  if tmo == 0 then none
  else some (s.firstIssue i + 2 ^ tmo)

/-- Leaves every receiving destination empty with the mark of a poisoned word (R210). -/
def State.markEach (s : State) (i : Issue) (q : Fields) (sh : Shape) (a : Nat) : State :=
  (s.receivers i q sh).foldl (fun s t =>
    match locate (s.thread (i.tk t)) q.d sh.d (if q.xo == 3 then some q.xs else none) with
    | .error r => s.raise (i.tk t) r
    | .ok l => s.markInto i.b i.g { t := t, va := a, addr := a, w := 8, into := l.into sh.d.n } (poisonMark i.pc a)) s

/-- WAITW at its word: it leaves on a different value, with the limit passed, or at once with tmo 31 (R300). -/
def State.waitAt (s : State) (i : Issue) (f : RForm) (sh : Shape) (va pa ord : Nat) (want : Nat) : State :=
  let q := Fields.ofR f
  let tmo := extSub f.ext / 8
  let x := s.load .main pa 8
  let limit := s.waitLimit i tmo
  let waits := match s.holdOf i with
    | some (.waitw _) => true
    | _ => false
  let exceeded := s.holdOf i == some .waitwOver || (!waits && limit.any (fun d => decide (d ≤ s.time)))
  let acq := acquires (extRnd f.ext) || ord == 0
  if s.poisoned .main pa then ((s.waitOver i).markEach i q sh va).endPass i
  else if x != want || tmo == 31 || exceeded then
    (((if acq then s.clearNear (s.block i.b).core else s).waitOver i).putEach i q sh x).endPass i
  else if waits then s
  else s.holdPath i (.waitw limit)

/-- WAITW (R300). -/
def execWaitw (f : RForm) (s : State) : Host.Outcome State Fault Refusal :=
  .next (s.memoryWord 0xC3 f (fun i sh => s.withPending i f.ext (fun s i =>
    let s := s.startWait i
    let q := Fields.ofR f
    let t := firstLane i.path
    let n := f.b.toNat % 16
    let stay := fun (s : State) => s.holdPass i (lanesOf i.path) 0#32 []
    if (s.thread (i.tk t)).role == Role.helper then (if s.eachReady i q sh then ((s.waitOver i).putEach i q sh 0).endPass i else stay s)
    else match s.readUniform i t [(q.a, q.ea, sh.a, if q.xo == 1 then some q.xs else none), (q.c, q.ec, sh.c, none)], (s.group i.gk).record n f.eb with
      | .trap r, _ => s.trapPath i r
      | _, .trap r => s.trapPath i r
      | .hold, _ => stay s
      | _, .hold => stay s
      | .vals xs, .val rec =>
        let x := argsOf (xs ++ [0, 0])
        match waitAddress n (BitVec.ofNat 128 rec) x.a with
        | .trap r => s.trapPath i r
        | .drop => s
        | .addr a =>
          match s.waitReach i a with
          | .miss => s
          | .fault c =>
            if serviceable c then
              let r := s.raiseFault (s.block i.b).ctx a c 0 0 (s.unitOf i)
              ((r.2.parkOnFault i t r.1 (faultTrap a c 0)).parkAll i t true).endPass i
            else s.trapPath i (faultTrap a c 0)
          | .ok sp pa ord =>
            if !s.mayAccess i sp a pa 8 (releases (extRnd f.ext)) (ord == 0) || !s.eachReady i q sh then stay s else s.waitAt i f sh a pa ord x.b)))

/-- WAITW_TIMEOUT: the waits of group `g` of block `b` whose limits the counter has reached are over (R300). -/
def execWaitwTimeout (b g : Nat) (s : State) : Host.Outcome State Fault Refusal :=
  .next (s.modGroup (gkey b g) (fun gr =>
    { gr with holds := gr.holds.map (fun h => match h.why with
        | .waitw (some d) => if d ≤ s.time then { h with why := .waitwOver } else h
        | _ => h) }))

/-! ### Time (R301, R302) -/

/-- The offset as TIME.st reads it: signed and saturating (R302). -/
def clampOff (x : Int) : W32 := BitVec.ofInt 32 (max (-2147483648) (min 2147483647 x))
/-- The status word of TIME.st (R302). -/
def State.timeStatus (s : State) : Nat :=
  s.lock.toNat * 2 ^ 63 + s.master.toNat * 2 ^ 62 + s.ptp.toNat * 2 ^ 61 + (if s.master then 0 else (clampOff s.off).toNat)

/-- TIME (R302). -/
def execTime (f : RForm) (s : State) : Host.Outcome State Fault Refusal :=
  .next (s.aluR 0xC4 f .reg (fun _ _ _ => (if extSub f.ext == 1 then s.timeStatus else s.time, Flags.none)))

/-- An offset lies within 20 ns. -/
def within20 (off : Int) : Bool := decide (-20 ≤ off) && decide (off ≤ 20)

/-- The rate that corrects an offset: up to 200 ppm against it (R301; log 18). -/
def rateFor (off : Int) : Int := max (-200) (min 200 (-off))

/-- One estimate of the own offset from the master's count, corrected by the link delay: it sets the rate, and clears lock where it leaves 20 ns. On
the way to its first lock a counter that is behind takes its one step forward (R301; log 18). -/
def State.estimate (s : State) (count : Nat) : State :=
  let step := !s.stepped && decide ((s.time : Int) - count < -20)
  let time := if step then count else s.time
  let off : Int := (time : Int) - count
  let near := within20 off
  { s with time := time, off := off, stepped := s.stepped || step, rate := rateFor off, syncSeen := true
           lock := s.lock && near, syncGood := if near then s.syncGood else 0 }

/-- The master of the domain: the one management has named, else the lowest package heard within 16 µs (R301). -/
def State.chosenMaster (s : State) : Nat :=
  match s.namedMaster with
  | some p => p
  | none => (s.heard.filter (fun e => decide (s.time < e.2 + 16000))).foldl (fun m e => min m e.1) s.package

/-- SYNC: a synchronisation packet received on a port is taken; that of the domain's master gives an estimate. Its payload is the count, the link delay
and whether the sender is locked to a grandmaster (R301, R302; log 18). -/
def execSync (s : State) : Host.Outcome State Fault Refusal :=
  .next (s.onPort (fun port => match s.head port 4 7 with
    | none => s
    | some p =>
      let s := s.popPacket port 4
      let count := bytesToNat (p.body.take 8) + bytesToNat ((p.body.drop 8).take 4)
      let s := { s with heard := Table.put s.heard p.src s.time }
      if s.master || p.src != s.chosenMaster then s
      else ({ s with syncAt := s.time, ptp := bytesToNat ((p.body.drop 12).take 1) % 2 == 1 } : State).estimate count))

/-- The end of a SYNC interval: lock is set once the estimate has stayed within 20 ns for 16 of them in a row (R301). -/
def State.countInterval (s : State) : State :=
  let good := if s.syncSeen && within20 s.off then s.syncGood + 1 else s.syncGood
  let lock := s.lock || decide (16 ≤ good)
  { s with syncSeen := false, syncGood := good, lock := lock, stepped := s.stepped || lock }

/-- SYNC_INTERVAL: an interval ends, the master is chosen, and every running port sends a SYNC packet (R301). -/
def execSyncInterval (s : State) : Host.Outcome State Fault Refusal :=
  let m := s.chosenMaster == s.package
  let s := if s.master then s else s.countInterval
  let s := if m == s.master then s else { s with master := m, lock := m, off := if m then 0 else s.off, syncGood := 0, ptp := false, rate := 0 }
  let body := natToBytes 8 s.time ++ natToBytes 4 (Config.freeWord s.tick).toNat ++ natToBytes 4 s.ptp.toNat
  .next ((s.ports.map Prod.fst).foldl (fun s n =>
    if (s.port n).stopped.getLsbD 4 then s
    else s.sendFlits n { hdr := Head.bits { type_ := 7, dst := s.package, src := s.package, len := 16 }, body := body }) s)

/-- SYNC_LOSS_TIMEOUT: no SYNC for 16 µs clears lock, but on the master (R301). -/
def execSyncLossTimeout (s : State) : Host.Outcome State Fault Refusal :=
  .next (if !s.master && decide (s.syncAt + 16000 ≤ s.time) then { s with lock := false, syncGood := 0 } else s)

/-- IEEE_1588_MESSAGE: the grandmaster's time disciplines the master's counter, by its one forward step and by rate; the master counts as locked to
it while the two lie within 20 ns (R301, R302; log 18). -/
def execIeee1588Message (t : Nat) (s : State) : Host.Outcome State Fault Refusal :=
  .next (if s.master then
    let time := if s.stepped then s.time else max s.time t
    let off : Int := (time : Int) - t
    { s with time := time, stepped := true, rate := rateFor off, ptp := within20 off }
  else s)

/-! ### Walks (R393, R395) -/

/-- A walk of a page has ended: the passes that asked for it wait no longer, and keep the cause of one that failed (R393). -/
def State.walkEnds (s : State) (page : Nat) (cause : Option Nat) : State :=
  (s.groups.map Prod.fst).foldl (fun s gk => s.modGroup gk (fun gr => { gr with pass := gr.pass.map (fun p =>
    if p.asked == some page then { p with asked := none, failed := (cause.map (fun c => (page, c))).toList ++ p.failed } else p) })) s

/-- PAGE_WALK_COMPLETE: the walk of a page ends with a leaf, which the caches keep, or with a cause (R393). -/
def execPageWalkComplete (ctx page : Nat) (s : State) : Host.Outcome State Fault Refusal :=
  let va := page * 65536
  let key := pageKey ctx va
  .next (match Table.find s.walks key with
    | none => s
    | some _ =>
      let s := { s with walks := Table.erase s.walks key }
      match s.walk ctx va with
      | .ok l => { s.walkEnds key none with tlb := Table.put s.tlb key l }
      | .error c => s.walkEnds key (some c))

/-! ### Path choice and tracks (R307, R352) -/

/-- A path that no hold keeps, other than the issuing one, is runnable; of held ones the group's turn asks itself (R307). -/
def State.otherPaths (s : State) (gk : Nat) : Bool :=
  (s.freeLanes gk).any (fun t => !(s.group gk).issuing.getLsbD t)

/-- With 128 passes counted and another path runnable, the next choice is by age (R307). -/
def State.quantum (s : State) (gk : Nat) : State :=
  if 128 ≤ (s.group gk).rotation && s.otherPaths gk then s.modGroup gk (fun gr => { gr with pick := .age }) else s

/-- ROTATION_QUANTUM_EXPIRY (R307). -/
def execRotationQuantumExpiry (b g : Nat) (s : State) : Host.Outcome State Fault Refusal := .next (s.quantum (gkey b g))

/-- The tracks of a core that no group holds. -/
def State.freeTracks (s : State) (core : Nat) : List Nat :=
  (List.range (s.core core).trk).filter (fun n => !(s.groupsOn core).any (fun k => (s.group k).track == some n))

/-- The group has claimed a track (R352). -/
def State.hasClaim (s : State) (core gk : Nat) : Bool := (s.groupsOn core).any (fun k => (s.group k).claimedBy == some gk)

/-- No other group of the core that has still to claim a track has waited longer (R352). -/
def State.longestWait (s : State) (core gk w : Nat) : Bool :=
  (s.groupsOn core).all (fun k => match (s.group k).track, (s.group k).waitSince with
    | none, some v => k == gk || s.hasClaim core k || decide (w ≤ v)
    | _, _ => true)

/-- The group of a core that has held its track longest among those unclaimed. -/
def State.claimTarget (s : State) (core : Nat) : Option Nat :=
  (s.groupsOn core).foldl (fun m k =>
    let gr := s.group k
    if gr.track.isNone || gr.claimedBy.isSome then m
    else match m with
      | none => some k
      | some j => if gr.trackSince < (s.group j).trackSince then some k else m) none

/-- TRACK_CLAIM: where no track of the core is free, the group that has waited longest, for 4,096 cycles, claims the track whose holder has held it
longest (R3, R352). -/
def execTrackClaim (b g : Nat) (s : State) : Host.Outcome State Fault Refusal :=
  let gk := gkey b g
  let bl := s.block b
  let waited := match (s.group gk).waitSince with
    | some w => decide (4096 ≤ s.cyclesSince bl.core w) && s.longestWait bl.core gk w
    | none => false
  .next (if waited && (s.group gk).track.isNone && bl.place == Place.resident && (s.freeTracks bl.core).isEmpty && !s.hasClaim bl.core gk then
    match s.claimTarget bl.core with
    | some k => s.modGroup k (fun gr => { gr with claimedBy := some gk })
    | none => s
  else s)

/-- TRACK_PASS_LIMIT: after 512 passes, with no pass under way, the group gives its track up to another that waits (R29, R305, R352). -/
def execTrackPassLimit (b g : Nat) (s : State) : Host.Outcome State Fault Refusal :=
  .next (if (s.group (gkey b g)).pass.isNone && decide (512 ≤ (s.group (gkey b g)).trackPasses) && s.othersWait (gkey b g) then s.dropTrack (gkey b g) else s)

end Sys2Proof.Machine
end

