-- ==== Sys2Proof/Machine/Matrix.lean ====
section
/-! DEFINITION. The matrix sequencer and the matrix engine: control words, engine words band by band, faults and their delivery
(05 R114 to R137, R141 to R157). -/

namespace Sys2Proof.Machine

/-! ### The sequencer -/

/-- Runs `f` for the block whose sequencer executes (log 10). -/
def State.onMsq (s : State) (f : Nat → Msq → State) : State :=
  match s.cur with
  | .msq b => f b (s.block b).msq
  | _ => s

def State.modMsq (s : State) (b : Nat) (f : Msq → Msq) : State := s.modBlock b (fun bl => { bl with msq := f bl.msq })

/-- The word after the current one (R120). -/
def Msq.next (m : Msq) : Msq := { m with mpc := (m.mpc + 8#64) &&& 0x1FFFFFFFFFFFFF8#64, job := none, fetched := none, mrow := 0 }
def State.msqNext (s : State) (b : Nat) : State := s.modMsq b Msq.next

/-- The sequencer waits in a word, which is not fetched again (R116). -/
def State.msqStay (s : State) (b : Nat) (e : Instr) : State := s.modMsq b (fun m => { m with fetched := some e })

def Msq.reg (m : Msq) (n : Nat) : W64 := Table.get 0#64 m.q n
def Msq.setReg (m : Msq) (n : Nat) (x : W64) : Msq := { m with q := Table.set 0#64 m.q n x }

/-- Why the sequencer stops: code, operand, the address mfa holds, and, for a translation failure, the byte that failed, its cause
and the access (R119, R130, R397). -/
structure Stop where
  code : Nat
  fop : Nat := 0
  mfa : Option Nat := none
  va : Nat := 0
  cause : Nat := 0
  access : Nat := 0
  deriving DecidableEq, Repr

/-- Delivers the stop of a block's sequencer: a fault report names it, and joined barriers trap from now on (R134). -/
def State.deliverMsq (s : State) (b : Nat) : State :=
  let bl := s.block b
  (s.modMsq b (fun m => { m with delivered := true, fault := none })).faultReport bl.core bl.ctx (2 * 2 ^ 16 + bl.msq.fcode) bl.msq.mfa.toNat

/-- Stops a block's sequencer: PAGE_FAULT and HANDOVER go to the fault service, any other stop is delivered (R130, R131, R134). -/
def State.msqStop (s : State) (b : Nat) (p : Stop) : State :=
  let bl := s.block b
  let s := s.modMsq b (fun m =>
    { m with state := .stopped, fcode := p.code, fop := p.fop, job := none, fetched := none
             mfa := match p.mfa with
               | some a => BitVec.ofNat 64 (a % 2 ^ 57)
               | none => m.mfa })
  if p.code == 2 || p.code == 4 then
    let f := s.raiseFault bl.ctx p.va p.cause 2 p.access (unitOfCore bl.core)
    f.2.modMsq b (fun m => { m with fault := some f.1 })
  else (s.reportCause p.cause bl.core bl.ctx p.va).deliverMsq b

/-- ILLEGAL_OP with operand code 0 (R130, R141). -/
def illegalStop : Stop := { code := 1 }
def alignStop (fop a : Nat) : Stop := { code := 6, fop := fop, mfa := some a }

/-- ILLEGAL_MATRIX_WORD (R6, R141). -/
def execIllegalMatrixWord (s : State) : Host.Outcome State Fault Refusal := .next (s.onMsq (fun b _ => s.msqStop b illegalStop))

/-! ### Memory of the sequencer (R116, R130, R383) -/

/-- The first poisoned byte of a piece of at most a page. -/
def State.firstPoison (s : State) (sp : Space) (a n : Nat) : Option Nat :=
  (List.range ((a % 128 + n + 127) / 128)).findSome? (fun k =>
    let x := if k == 0 then a else a / 128 * 128 + 128 * k
    if s.poisoned sp x then some (x - a) else none)

/-- Where `n` bytes from a virtual address lie, piece by piece, or the stop of the first byte that fails (R130). A piece is at most 1 KiB, the unit in
which shared memory and scratch windows are allocated, so that it fails at its first byte or not at all. -/
def State.span (s : State) (b : Nat) (fuel va n : Nat) (need : Need) (fop : Nat) : Except Stop (List (Space × Nat × Nat)) :=
  match fuel with
  | 0 => .ok []
  | k + 1 =>
    if n == 0 then .ok []
    else
      let va := va % 2 ^ 57
      let w := min n (1024 - va % 1024)
      match s.reachNow (s.block b).ctx (some b) va w need with
      | .fault c => .error { code := causeTrap c, fop := fop, mfa := some va, va := va, cause := c, access := if need.w then 1 else 0 }
      | .miss => .error { code := 2, fop := fop, mfa := some va, va := va, cause := 1 }
      | .ok sp a _ =>
        match (if need.w then none else s.firstPoison sp a w) with
        | some d => .error { code := 5, fop := fop, mfa := some (va + d) }
        | none => match s.span b k (va + w) (n - w) need fop with
          | .ok rest => .ok ((sp, a, w) :: rest)
          | .error e => .error e

def spanFuel (n : Nat) : Nat := n / 1024 + 2

/-- Reads `n` bytes as a little-endian number. -/
def State.msqRead (s : State) (b va n fop : Nat) : Except Stop Nat :=
  match s.span b (spanFuel n) va n Need.read fop with
  | .ok ps => .ok (bytesToNat (ps.flatMap (fun p => (s.memOf p.1).readList p.2.1 p.2.2)))
  | .error e => .error e

/-- mfa names the first byte of the element of `w` bits that failed, counted from `va` (R130). -/
def Stop.atElement (p : Stop) (va w : Nat) : Stop :=
  { p with mfa := p.mfa.map (fun a => va + (8 * ((a + 2 ^ 57 - va % 2 ^ 57) % 2 ^ 57)) / w * w / 8) }

/-- Reads a run of elements of `w` bits. -/
def State.msqElements (s : State) (b va k w fop : Nat) : Except Stop Nat :=
  match s.msqRead b va ((k * w + 7) / 8) fop with
  | .ok x => .ok x
  | .error e => .error (e.atElement va w)

/-! ### Control words (R143 to R151) -/

/-- MNOP (R143). -/
def execMnop (s : State) : Host.Outcome State Fault Refusal := .next (s.onMsq (fun b _ => s.msqNext b))

/-- MEND: earlier engine work is complete when it issues; mjoin becomes 0, which completes phases, and the sequencer has ended
(R135, R143). -/
def execMend (s : State) : Host.Outcome State Fault Refusal :=
  .next (s.onMsq (fun b _ =>
    (s.modBlock b (fun bl => { bl with mjoin := 0#16, msq := { bl.msq with state := .ended } })).testBarriers b))

/-- MBR (R144). -/
def execMbr (cond : BitVec 3) (qa : BitVec 5) (off : BitVec 24) (s : State) : Host.Outcome State Fault Refusal :=
  .next (s.onMsq (fun b m =>
    if decide (5 < cond.toNat) || (cond == 0#3 && qa != 0#5) then s.msqStop b illegalStop
    else
      let x := if cond == 5#3 then m.reg qa.toNat - 1#64 else m.reg qa.toNat
      let take := match cond.toNat with
        | 0 => true
        | 1 => x == 0#64
        | 2 => x != 0#64
        | 3 => x.msb
        | 4 => !x.msb
        | _ => x != 0#64
      s.modMsq b (fun m =>
        let m := if cond == 5#3 then m.setReg qa.toNat x else m
        if take then { m.next with mpc := (m.mpc + 8#64 * off.signExtend 64) &&& 0x1FFFFFFFFFFFFF8#64 } else m.next)))

/-- MLI (R145). -/
def execMli (qd : BitVec 5) (mode : BitVec 2) (imm : BitVec 32) (s : State) : Host.Outcome State Fault Refusal :=
  .next (s.onMsq (fun b m =>
    let put := fun (x : W64) => s.modMsq b (fun m => (m.setReg qd.toNat x).next)
    match mode.toNat with
    | 0 => put (imm.signExtend 64)
    | 1 => put (imm.setWidth 64)
    | 2 => put ((m.reg qd.toNat &&& 0xFFFFFFFF#64) ||| (imm.setWidth 64 <<< 32))
    | _ => s.msqStop b illegalStop))

/-- The operations of MALU (R146). -/
def maluValue (op : Nat) (x y : W64) : W64 :=
  match op with
  | 0 => x + y
  | 1 => x - y
  | 2 => x * y
  | 3 => x &&& y
  | 4 => x ||| y
  | 5 => x ^^^ y
  | 6 => if 64 ≤ y.toNat then 0#64 else x <<< y.toNat
  | 7 => if 64 ≤ y.toNat then 0#64 else x >>> y.toNat
  | 8 => if x.slt y then x else y
  | _ => if x.slt y then y else x

/-- MALU (R146). -/
def execMalu (qd qa qb : BitVec 5) (op : BitVec 4) (bimm : Bool) (imm : BitVec 32) (s : State) : Host.Outcome State Fault Refusal :=
  .next (s.onMsq (fun b m =>
    if decide (9 < op.toNat) || (bimm && qb != 0#5) || (!bimm && imm != 0#32) then s.msqStop b illegalStop
    else
      let y := if bimm then imm.signExtend 64 else m.reg qb.toNat
      s.modMsq b (fun m => (m.setReg qd.toNat (maluValue op.toNat (m.reg qa.toNat) y)).next)))

/-- The address of MLDQ and MSTQ (R147). -/
def mqAddress (m : Msq) (qa : BitVec 5) (off : BitVec 32) : Nat := ((m.reg qa.toNat) + off.signExtend 64).toNat % 2 ^ 57

/-- MLDQ: every word is read before a register is written (R132, R147). -/
def execMldq (qd qa : BitVec 5) (n : BitVec 3) (off : BitVec 32) (s : State) : Host.Outcome State Fault Refusal :=
  .next (s.onMsq (fun b m =>
    let a := mqAddress m qa off
    let k := n.toNat + 1
    if 32 < qd.toNat + k then s.msqStop b illegalStop
    else if a % 8 != 0 then s.msqStop b (alignStop 6 a)
    else match s.msqElements b a k 64 6 with
      | .error p => s.msqStop b p
      | .ok x => s.modMsq b (fun m =>
          ((List.range k).foldl (fun m j => m.setReg (qd.toNat + j) (BitVec.ofNat 64 (x / 2 ^ (64 * j)))) m).next)))

/-- Stores a run of bytes over the pieces of a span; a piece that fills a sector clears its poison (R447). -/
def State.putPieces (s : State) (ps : List (Space × Nat × Nat)) (bs : List Byte) : State :=
  match ps with
  | [] => s
  | (sp, a, w) :: rest =>
    let s := s.setMem sp ((s.memOf sp).writeList a (bs.take w))
    let whole := (List.range (w / 128)).map (fun k => (a + 127) / 128 * 128 + 128 * k)
    let s := (whole.filter (fun x => decide (x + 128 ≤ a + w))).foldl (fun s x => s.clearPoison sp x) s
    State.putPieces s rest (bs.drop w)

/-- MSTQ: every byte is translated before one is written (R132, R147). -/
def execMstq (qd qa : BitVec 5) (n : BitVec 3) (off : BitVec 32) (s : State) : Host.Outcome State Fault Refusal :=
  .next (s.onMsq (fun b m =>
    let a := mqAddress m qa off
    let k := n.toNat + 1
    if 32 < qd.toNat + k then s.msqStop b illegalStop
    else if a % 8 != 0 then s.msqStop b (alignStop 6 a)
    else match s.span b (spanFuel (8 * k)) a (8 * k) Need.write 6 with
      | .error p => s.msqStop b (p.atElement a 64)
      | .ok ps =>
        let bs := (List.range k).flatMap (fun j => natToBytes 8 (m.reg (qd.toNat + j)).toNat)
        (s.putPieces ps bs).msqNext b))

/-- The lowest `c` bits of a predicate set. -/
def lowMask (c : Nat) : BitVec 128 := BitVec.ofNat 128 (2 ^ c - 1)

/-- MPRED (R148). -/
def execMpred (sel : BitVec 2) (qa : BitVec 5) (useq : Bool) (count : BitVec 8) (s : State) : Host.Outcome State Fault Refusal :=
  .next (s.onMsq (fun b m =>
    let put := fun (rows : Bool) (x : BitVec 128) => s.modMsq b (fun m => (if rows then { m with mrp := x } else { m with mcp := x }).next)
    if sel.toNat < 2 then
      let c := if useq then (m.reg qa.toNat).toNat else count.toNat
      if (!useq && qa != 0#5) || decide (128 < c) then s.msqStop b illegalStop else put (sel == 0#2) (lowMask c)
    else if qa.toNat % 2 != 0 || useq || count != 0#8 then s.msqStop b illegalStop
    else put (sel == 2#2) ((m.reg qa.toNat).setWidth 128 ||| ((m.reg (qa.toNat + 1)).setWidth 128 <<< 64))))

/-- The sequencer arrives in the open phase of a barrier; nothing while it has arrived there already (R136, R149). -/
def State.msqArrive (s : State) (b n : Nat) : Option State :=
  let nb := Table.get {} (s.block b).nb n
  if nb.msq then none
  else some ((s.modBlock b (fun bl =>
    { bl with nb := Table.set {} bl.nb n { nb with msq := true }
              msq := { bl.msq with arrivals := Table.put bl.msq.arrivals n nb.phase } })).testBarrier b n)

/-- The phase of the sequencer's latest arrival at a barrier is complete (R149). -/
def Block.msqPast (bl : Block) (n : Nat) : Bool :=
  match Table.find bl.msq.arrivals n with
  | some p => decide (p < bl.phase n)
  | none => true

/-- Waits for that phase: wtd goes at its end; until then the sequencer stays where it is. -/
def State.msqWait (s : State) (b n : Nat) (e : Instr) : State :=
  if (s.block b).msqPast n then s.modMsq b (fun m => { m.next with wtd := false }) else s.msqStay b e

/-- MBAR (R149). An arrival waits while the sequencer's own earlier phase is open. -/
def execMbar (op : BitVec 2) (nb : BitVec 4) (mask : BitVec 16) (s : State) : Host.Outcome State Fault Refusal :=
  let n := nb.toNat
  let e : Instr := .mbar op nb mask
  .next (s.onMsq (fun b m =>
    if op == 3#2 then
      (if nb != 0#4 then s.msqStop b illegalStop
       else ((s.modBlock b (fun bl => { bl with mjoin := mask })).testBarriers b).msqNext b)
    else if mask != 0#16 || !(s.block b).mjoin.getLsbD n then s.msqStop b illegalStop
    else match op.toNat with
      | 0 => match s.msqArrive b n with
        | none => s.msqStay b e
        | some s => s.msqNext b
      | 1 => s.msqWait b n e
      | _ =>
        if m.wtd then s.msqWait b n e
        else match s.msqArrive b n with
          | none => s.msqStay b e
          | some s => (s.modMsq b (fun m => { m with wtd := true })).msqWait b n e))

/-- MWAIT: the engine's work and the sequencer's stores are complete when it issues (R150). -/
def execMwait (s : State) : Host.Outcome State Fault Refusal := .next (s.onMsq (fun b _ => s.msqNext b))

/-- MRDS (R151). -/
def execMrds (qd : BitVec 5) (sel : BitVec 3) (clr : Bool) (s : State) : Host.Outcome State Fault Refusal :=
  .next (s.onMsq (fun b m =>
    let x : Option W64 := match sel.toNat with
      | 0 => some m.mst
      | 1 => some (BitVec.ofNat 64 m.mrow)
      | 2 => some m.mpc
      | 3 => some (BitVec.ofNat 64 s.time)
      | 4 => some m.mfa
      | 5 => some ((s.block b).mjoin.setWidth 64)
      | _ => none
    match x with
    | none => s.msqStop b illegalStop
    | some x =>
      if clr && sel != 0#3 then s.msqStop b illegalStop
      else s.modMsq b (fun m => ({ m with flags := if clr then 0#7 else m.flags }.setReg qd.toNat x).next)))

/-! ### Tiles (R125, R126) -/

def Block.tileRow (bl : Block) (t i : Nat) : List W32 := Table.get (List.replicate 128 0#32) bl.tiles (128 * t + i)
def State.setTileRow (s : State) (b t i : Nat) (r : List W32) : State :=
  s.modBlock b (fun bl => { bl with tiles := Table.put bl.tiles (128 * t + i) r })

/-- The enabled rows of a band. -/
def Msq.bandRows (m : Msq) (band : Nat) : List Nat := ((List.range 16).map (fun k => 16 * band + k)).filter (fun i => m.mrp.getLsbD i)
/-- The enabled columns. -/
def Msq.cols (m : Msq) : List Nat := (List.range 128).filter (fun j => m.mcp.getLsbD j)

/-- A row with its enabled columns replaced by values in column order. -/
def mergeRow (mask : BitVec 128) (row new : List W32) (j : Nat) : List W32 :=
  match row with
  | [] => []
  | x :: rest =>
    if mask.getLsbD j then match new with
      | [] => x :: rest
      | y :: ys => y :: mergeRow mask rest ys (j + 1)
    else x :: mergeRow mask rest new (j + 1)

/-- A tile row is written: each sector of it whose 32 columns are enabled loses its poison (R447). -/
def clearTileRow (bad : Table Unit) (mask : BitVec 128) (t i : Nat) : Table Unit :=
  (List.range 4).foldl (fun tb k => if mask.extractLsb' (32 * k) 32 == BitVec.allOnes 32 then Table.erase tb (512 * t + 4 * i + k) else tb) bad

/-- The first enabled element of a tile row that lies in a poisoned sector (R446). -/
def Block.badColumn (bl : Block) (t i : Nat) : Option Nat :=
  bl.msq.cols.find? (fun j => (Table.find bl.tileBad (512 * t + 4 * i + j / 32)).isSome)

/-- Writes the enabled elements of a row. -/
def State.putRow (s : State) (b t i : Nat) (new : List W32) : State :=
  let bl := s.block b
  (s.setTileRow b t i (mergeRow bl.msq.mcp (bl.tileRow t i) new 0)).modBlock b (fun bl => { bl with tileBad := clearTileRow bl.tileBad bl.msq.mcp t i })

/-- MZERO (R152). -/
def execMzero (t : BitVec 2) (fill : Bool) (qa : BitVec 5) (s : State) : Host.Outcome State Fault Refusal :=
  .next (s.onMsq (fun b m =>
    if !fill && qa != 0#5 then s.msqStop b illegalStop
    else
      let x := if fill then (m.reg qa.toNat).setWidth 32 else 0#32
      let rows := (List.range 128).filter (fun i => m.mrp.getLsbD i)
      (rows.foldl (fun s i => s.putRow b t.toNat i (m.cols.map (fun _ => x))) s).msqNext b))

/-! ### Descriptors and elements (R121 to R124) -/

/-- A descriptor: base and stride, or the stop of a malformed one (R121). -/
def Msq.desc (m : Msq) (n : Nat) : Except Stop (Nat × Nat) :=
  if n % 2 != 0 || decide (2 ^ 57 ≤ (m.reg n).toNat) || decide (2 ^ 32 ≤ (m.reg (n + 1)).toNat) then .error illegalStop
  else .ok ((m.reg n).toNat, (m.reg (n + 1)).toNat)

/-- A descriptor whose base and stride are multiples of `k` (R122, R124, R155). DESIGN CHOICE (log 121): mfa names the base, where only the stride is
misaligned too. -/
def Msq.alignedDesc (m : Msq) (n k fop : Nat) : Except Stop (Nat × Nat) :=
  match m.desc n with
  | .error e => .error e
  | .ok d => if d.1 % k != 0 || d.2 % k != 0 then .error (alignStop fop d.1) else .ok d

/-- The formats of R122 that are floating, and the widths of all. -/
def mmaFmt (code : Nat) : Option Fmt :=
  match code with
  | 0 => some .bf16 | 1 => some .f16 | 2 => some .e4m3 | 3 => some .e5m2 | 4 => some .e3m2 | 5 => some .e2m3 | 6 => some .e2m1
  | _ => none
def mmaWidth (code : Nat) : Nat := if code < 2 then 16 else if code == 4 || code == 5 then 6 else if code == 6 then 4 else 8

/-- The operands of an MMA or MMAS, checked: descriptors of A, of B, of the bitmaps, and the scale quad (R121 to R124). -/
structure MmaPlan where
  a : Nat × Nat
  b : Nat × Nat
  bitmaps : Option (Nat × Nat)
  scales : Option ((Nat × Nat) × (Nat × Nat))
  deriving DecidableEq, Repr

/-- The fields of an MMA or MMAS are legal (R122, R123, R153, R154). -/
def mmaLegal (f : MmaForm) (sparse : Option (Nat × Nat)) : Bool :=
  let fa := f.fa.toNat
  let fb := f.fb.toNat
  let k := f.k.toNat
  decide (fa ≤ 8) && decide (fb ≤ 8) && (decide (fa < 7) == decide (fb < 7)) && f.qa.toNat % 2 == 0 && f.qb.toNat % 2 == 0
    && decide (1 ≤ k) && decide (k ≤ 4096)
    && (if f.sc then f.qs.toNat % 4 == 0 && decide (2 ≤ fa) && decide (fa ≤ 6) && decide (2 ≤ fb) && decide (fb ≤ 6) else f.qs == 0#5)
    && (match sparse with
      | some (_, qm) => k % 32 == 0 && qm % 2 == 0
      | none => true)

/-- Checks the fields and the descriptors (R153). The bitmaps' stop is that of fop 4, the operands' of fop 1 and 2. -/
def Msq.plan (m : Msq) (f : MmaForm) (sparse : Option (Nat × Nat)) : Except Stop MmaPlan :=
  if !mmaLegal f sparse then .error illegalStop
  else
    let scales := if f.sc then
        match m.desc f.qs.toNat, m.desc (f.qs.toNat + 2) with
        | .ok x, .ok y => Except.ok (some (x, y))
        | .error e, _ => .error e
        | _, .error e => .error e
      else .ok none
    let bitmaps := match sparse with
      | some (_, qm) => (m.alignedDesc qm 4 4).map some
      | none => .ok none
    -- an ill-formed descriptor is illegal before any misaligned one counts
    match m.desc f.qa.toNat, m.desc f.qb.toNat, scales with
    | .error e, _, _ => .error e
    | _, .error e, _ => .error e
    | _, _, .error e => .error e
    | .ok _, .ok _, .ok sc =>
      match bitmaps, m.alignedDesc f.qa.toNat 4 1, m.alignedDesc f.qb.toNat 4 2 with
      | .error e, _, _ => .error e
      | _, .error e, _ => .error e
      | _, _, .error e => .error e
      | .ok bm, .ok a, .ok b => .ok { a := a, b := b, bitmaps := bm, scales := sc }

/-- Reads one line of elements or bytes for each index, in order; the first failure ends it. -/
def readLines (rd : Nat → Except Stop Nat) (is : List Nat) : Except Stop (List Nat) :=
  match is with
  | [] => .ok []
  | i :: rest => match rd i with
    | .error e => .error e
    | .ok x => match readLines rd rest with
      | .ok xs => .ok (x :: xs)
      | .error e => .error e

/-- The bits of a bitmap that are used: its lowest `n` set bits, and whether it held more (R124). -/
def usedBits (n w : Nat) : List (Option Nat) × Bool :=
  let r := (List.range 32).foldl (fun (acc : List (Option Nat) × Nat) b =>
    if bitAt w b == 1 && decide (acc.2 < n) then (acc.1 ++ [some acc.2], acc.2 + 1)
    else (acc.1 ++ [none], if bitAt w b == 1 then acc.2 + 1 else acc.2)) ([], 0)
  (r.1, decide (n < r.2))

/-- The K element codes of a row of A, decompressed where it is sparse (R124), with the SPX of its bitmaps. -/
def rowCodes (w k : Nat) (sparse : Option Nat) (bitmaps line : Nat) : List (Option Nat) × Bool :=
  match sparse with
  | none => ((List.range k).map (fun i => some (elemAt w line i)), false)
  | some n =>
    let cs := (List.range (k / 32)).map (fun c => (usedBits n ((bitmaps / 2 ^ (32 * c)) % 2 ^ 32), c))
    (cs.flatMap (fun x => x.1.1.map (fun slot => slot.map (fun s => elemAt w line (x.2 * n + s)))), cs.any (fun x => x.1.2))

/-- The element of an enabled row and column: the sum of R127 over the terms, with the flags. DESIGN CHOICE (log 122): a position whose bitmap bit is
clear is a zero element (R124), so that its product with an infinite element of B is a NaN and not a zero term (R127). -/
def mmaElement (fa fb : Nat) (c : W32) (as bs : List (Option Nat)) (scales : Option (Nat × Nat)) : W32 × Flags :=
  match mmaFmt fa, mmaFmt fb with
  | some ta, some tb =>
    let terms := (as.zip bs).mapIdx (fun k p =>
      let x := match p.1 with | some a => ta.decode a | none => ta.decode 0
      let y := match p.2 with | some b => tb.decode b | none => tb.decode 0
      let t := FVal.mul x y
      match scales with
      | none => t
      | some (sa, sb) =>
        ((FVal.mul (FVal.mul t.1 (e8m0Value (sa / 2 ^ (8 * (k / 32)) % 256))).1 (e8m0Value (sb / 2 ^ (8 * (k / 32)) % 256))).1, t.2))
    let r := sumChunks .f32 c.toNat (chunks32 (terms.length / 32 + 1) terms)
    (BitVec.ofNat 32 r.1, r.2)
  | _, _ =>
    let val := fun (code : Nat) (x : Option Nat) => bitsToInt (code == 7) 8 (x.getD 0)
    let prods := (as.zip bs).map (fun p => val fa p.1 * val fb p.2)
    let r := intSumChunks c.toInt ((chunks32 (prods.length / 32 + 1) prods).map (fun l => l.foldl (· + ·) 0))
    (BitVec.ofInt 32 r.1, r.2)

/-- One band of an MMA or MMAS: everything it needs is read in the order of R130, then its rows (R127, R153, R154). The result is the new
rows and the flags, SPX among them. -/
def State.mmaBand (s : State) (b band : Nat) (f : MmaForm) (sparse : Option Nat) (p : MmaPlan) : Except Stop (List (Nat × List W32) × BitVec 7) :=
  let bl := s.block b
  let m := bl.msq
  let rows := m.bandRows band
  let cols := m.cols
  let k := f.k.toNat
  let wa := mmaWidth f.fa.toNat
  let wb := mmaWidth f.fb.toNat
  let chunks := (k + 31) / 32
  let lineA := match sparse with | some n => k / 32 * n | none => k
  if cols.isEmpty then .ok (rows.map (fun i => (i, [])), 0#7)
  else do
    let maps ← match p.bitmaps with
      | some d => readLines (fun i => s.msqElements b (d.1 + i * d.2) chunks 32 4) rows
      | none => .ok (rows.map (fun _ => 0))
    let as ← readLines (fun i => s.msqElements b (p.a.1 + i * p.a.2) lineA wa 1) rows
    let bs ← readLines (fun j => s.msqElements b (p.b.1 + j * p.b.2) k wb 2) cols
    let sa ← match p.scales with
      | some d => readLines (fun i => s.msqElements b (d.1.1 + i * d.1.2) chunks 8 3) rows
      | none => .ok (rows.map (fun _ => 0))
    let sb ← match p.scales with
      | some d => readLines (fun j => s.msqElements b (d.2.1 + j * d.2.2) chunks 8 3) cols
      | none => .ok (cols.map (fun _ => 0))
    -- R446: a poisoned tile element read stops with fop 5
    if !f.z && rows.any (fun i => (bl.badColumn f.t.toNat i).isSome) then .error { code := 5, fop := 5 }
    let colCodes := (bs.map (fun x => (List.range k).map (fun i => some (elemAt wb x i)))).zip sb
    let out := ((rows.zip maps).zip (as.zip sa)).map (fun r =>
      let codes := rowCodes wa k sparse r.1.2 r.2.1
      let old := bl.tileRow f.t.toNat r.1.1
      let es := (cols.zip colCodes).map (fun c =>
        mmaElement f.fa.toNat f.fb.toNat (if f.z then 0#32 else old.getD c.1 0#32) codes.1 c.2.1 (p.scales.map (fun _ => (r.2.2, c.2.2))))
      ((r.1.1, es.map Prod.fst), es.foldl (fun fl e => fl ||| e.2) Flags.none, codes.2))
    let flags := out.foldl (fun (acc : BitVec 7) o => acc ||| o.2.1.setWidth 7 ||| (if o.2.2 then 0x40#7 else 0#7)) 0#7
    .ok (out.map Prod.fst, flags)

/-! ### Tile memory (R155 to R157) -/

def tileBytes (fmt : Nat) : Nat := if fmt == 0 then 4 else if fmt == 1 || fmt == 2 || fmt == 7 then 2 else 1

/-- An element loaded by MLDT (R156). -/
def tileLoad (fmt x : Nat) : W32 :=
  match fmt with
  | 0 => BitVec.ofNat 32 x
  | 1 => BitVec.ofNat 32 (Fmt.convert .f32 .rn (Fmt.decode .bf16 x)).1
  | 2 => BitVec.ofNat 32 (Fmt.convert .f32 .rn (Fmt.decode .f16 x)).1
  | 5 => BitVec.ofInt 32 (bitsToInt true 8 x)
  | 7 => BitVec.ofInt 32 (bitsToInt true 16 x)
  | _ => BitVec.ofNat 32 x

/-- An element stored by MSTT, with the flags of its conversion (R75, R157). -/
def tileStore (fmt rnd : Nat) (x : W32) : Nat × Flags :=
  let flt := fun (t : Fmt) => t.convert (RMode.ofRmd rnd) (Fmt.decode .f32 x.toNat)
  let int := fun (sg : Bool) (w : Nat) => let r := satInt sg w x.toInt; (intToBits w r.1, r.2)
  match fmt with
  | 0 => (x.toNat, Flags.none)
  | 1 => flt .bf16
  | 2 => flt .f16
  | 3 => flt .e4m3
  | 4 => flt .e5m2
  | 5 => int true 8
  | 6 => int false 8
  | _ => int true 16

/-- One band of MLDT. -/
def State.mldtBand (s : State) (b band fmt : Nat) (d : Nat × Nat) : Except Stop (List (Nat × List W32)) :=
  let m := (s.block b).msq
  let w := tileBytes fmt
  let row := fun (i : Nat) => readLines (fun j => s.msqRead b (d.1 + i * d.2 + j * w) w 5) m.cols
  (m.bandRows band).foldl (fun acc i => match acc with
    | .error e => .error e
    | .ok l => match row i with
      | .error e => .error e
      | .ok xs => .ok (l ++ [(i, xs.map (tileLoad fmt))])) (.ok [])

/-- The places of a band's stores: every element is translated before one is written (R130, R157). -/
def State.msttPlaces (s : State) (b band w : Nat) (d : Nat × Nat) : Except Stop (List (Nat × List (Space × Nat × Nat))) :=
  let m := (s.block b).msq
  (m.bandRows band).foldl (fun acc i => match acc with
    | .error e => .error e
    | .ok l =>
      match m.cols.foldl (fun (acc : Except Stop (List (Space × Nat × Nat))) j => match acc with
          | .error e => .error e
          | .ok ps => match s.span b 2 (d.1 + i * d.2 + j * w) w Need.write 5 with
            | .error e => .error e
            | .ok p => .ok (ps ++ p)) (.ok []) with
      | .error e => .error e
      | .ok ps => .ok (l ++ [(i, ps)])) (.ok [])

/-- Puts stores into sector groups, keeping their order. -/
def sectorGroups (l : List (Space × LaneReq)) : List (Space × List LaneReq) :=
  l.foldl (fun (acc : List (Space × List LaneReq)) x =>
    match acc.find? (fun e => e.1 == x.1 && e.2.any (fun y => sectorOf y.addr == sectorOf x.2.addr)) with
    | none => acc ++ [(x.1, [x.2])]
    | some _ => acc.map (fun e =>
        if e.1 == x.1 && e.2.any (fun y => sectorOf y.addr == sectorOf x.2.addr) then (e.1, e.2 ++ [x.2]) else e)) []

/-- Writes one row of a tile to its places; the flags of the conversions. DESIGN CHOICE (log 123): a row that covers a whole sector clears its poison,
as the whole-sector writes that R447 lists do. -/
def State.storeRow (s : State) (b : Nat) (f : MsttForm) (i : Nat) (ps : List (Space × Nat × Nat)) : State × Flags :=
  let bl := s.block b
  let row := bl.tileRow f.t.toNat i
  let xs := bl.msq.cols.map (fun j => tileStore f.fmt.toNat f.rnd.toNat (row.getD j 0#32))
  let reqs := (ps.zip xs).map (fun p => (p.1.1, ({ t := 0, va := 0, addr := p.1.2.1, w := tileBytes f.fmt.toNat, data := p.2.1 } : LaneReq)))
  ((sectorGroups reqs).foldl (fun s g => s.applyWrites g.1 g.2) s, xs.foldl (fun fl x => fl ||| x.2) Flags.none)

/-! ### Engine words -/

/-- Starts an engine word after its checks: its bands then commit one by one (R129, R153). -/
def State.startJob (s : State) (b : Nat) (e : Instr) (check : Option Stop) : State :=
  match check with
  | some p => s.msqStop b p
  | none => s.modMsq b (fun m => { m with job := some e })

def stopOf {α : Type} (x : Except Stop α) : Option Stop :=
  match x with
  | .ok _ => none
  | .error e => some e

def sparseOf (n qm : BitVec 5) : Option (Nat × Nat) := some (n.toNat + 1, qm.toNat)

/-- MMA (R153). -/
def execMma (f : MmaForm) (s : State) : Host.Outcome State Fault Refusal :=
  .next (s.onMsq (fun b m => s.startJob b (.mma f) (stopOf (m.plan f none))))

/-- MMAS (R154). -/
def execMmas (f : MmaForm) (n qm : BitVec 5) (s : State) : Host.Outcome State Fault Refusal :=
  .next (s.onMsq (fun b m => s.startJob b (.mmas f n qm) (stopOf (m.plan f (sparseOf n qm)))))

/-- The checks of MLDT (R155, R156). -/
def Msq.mldtPlan (m : Msq) (fmt qa : Nat) : Except Stop (Nat × Nat) :=
  if 7 < fmt || fmt == 3 || fmt == 4 then .error illegalStop else m.alignedDesc qa (tileBytes fmt) 5

/-- MLDT (R156). -/
def execMldt (t : BitVec 2) (fmt : BitVec 4) (qa : BitVec 5) (s : State) : Host.Outcome State Fault Refusal :=
  .next (s.onMsq (fun b m => s.startJob b (.mldt t fmt qa) (stopOf (m.mldtPlan fmt.toNat qa.toNat))))

/-- The checks of MSTT (R155, R157). -/
def Msq.msttPlan (m : Msq) (f : MsttForm) : Except Stop (Nat × Nat) :=
  let fmt := f.fmt.toNat
  if 7 < fmt || 3 < f.rnd.toNat || ((fmt == 0 || 5 ≤ fmt) && f.rnd != 0#3) || (!f.bo && f.qbo != 0#5) then .error illegalStop
  else m.alignedDesc f.qa.toNat (tileBytes fmt) 5

/-- MSTT (R157). -/
def execMstt (f : MsttForm) (s : State) : Host.Outcome State Fault Refusal :=
  .next (s.onMsq (fun b m => s.startJob b (.mstt f) (stopOf (m.msttPlan f))))

def bitCount (x : BitVec 128) : Nat := ((List.range 128).filter x.getLsbD).length

/-- The count that MSTT sends to its barrier object (R157). DESIGN CHOICE (log 124): a name that leads nowhere is reported and counts nothing. -/
def State.msttCount (s : State) (b : Nat) (f : MsttForm) : State :=
  let bl := s.block b
  let m := bl.msq
  if !f.bo then s
  else match s.boTarget b (m.reg f.qbo.toNat).toNat with
    | .ok (sp, a) => s.sendCount { space := sp, addr := a, n := bitCount m.mrp * bitCount m.mcp * tileBytes f.fmt.toNat }
    | .error c => s.faultReport bl.core bl.ctx (2 * 2 ^ 16 + c) (m.reg f.qbo.toNat).toNat

/-- Commits one band of the engine word under way: the new state, or the stop before it (R129, R130). DESIGN CHOICE (log 125): where MSTT stops on a
poisoned element of a tile, which has no address, mfa holds the address the element would be stored at. -/
def State.commitBand (s : State) (b band : Nat) (e : Instr) : Except Stop State :=
  let m := (s.block b).msq
  let rows := fun (t : Nat) (r : Except Stop (List (Nat × List W32) × BitVec 7)) => r.map (fun r =>
    (r.1.foldl (fun s x => s.putRow b t x.1 x.2) s).modMsq b (fun m => { m with flags := m.flags ||| r.2 }))
  match e with
  | .mma f => rows f.t.toNat (do let p ← m.plan f none; s.mmaBand b band f none p)
  | .mmas f n qm => rows f.t.toNat (do let p ← m.plan f (sparseOf n qm); s.mmaBand b band f (some (n.toNat + 1)) p)
  | .mldt t fmt qa => rows t.toNat (do
      let d ← m.mldtPlan fmt.toNat qa.toNat
      let l ← s.mldtBand b band fmt.toNat d
      .ok (l, 0#7))
  | .mstt f => do
      let d ← m.msttPlan f
      let ps ← s.msttPlaces b band (tileBytes f.fmt.toNat) d
      match (m.bandRows band).findSome? (fun i => ((s.block b).badColumn f.t.toNat i).map (fun j => (i, j))) with
      | some (i, j) => .error { code := 5, fop := 5, mfa := some (d.1 + i * d.2 + j * tileBytes f.fmt.toNat) }
      | none => pure ()
      let r := ps.foldl (fun (acc : State × Flags) p => let x := acc.1.storeRow b f p.1 p.2; (x.1, acc.2 ||| x.2)) (s, Flags.none)
      .ok (r.1.modMsq b (fun m => { m with flags := m.flags ||| r.2.setWidth 7 }))
  | _ => .ok s

/-- The end of an engine word. -/
def State.endJob (s : State) (b : Nat) (e : Instr) : State :=
  match e with
  | .mstt f => (s.msttCount b f).msqNext b
  | _ => s.msqNext b

/-- The bands from mrow on that have an enabled row. -/
def Msq.bandsLeft (m : Msq) : List Nat := ((List.range 8).filter (fun k => decide (m.mrow ≤ 16 * k))).filter (fun k => !(m.bandRows k).isEmpty)

/-- MMA_BAND_COMMIT: the engine word of block `b` commits its next band and advances mrow, and ends after the last; or the sequencer
stops before the band (R129, R130). -/
def execMmaBandCommit (b : Nat) (s : State) : Host.Outcome State Fault Refusal :=
  let m := (s.block b).msq
  .next (match m.job with
    | none => s
    | some e =>
      if (s.block b).place != Place.resident || m.state != .running then s
      else match m.bandsLeft with
        | [] => s.endJob b e
        | band :: rest =>
          match s.commitBand b band e with
          | .error p => s.msqStop b p
          | .ok s =>
            let s := s.pulse (s.block b).ctx
            if rest.isEmpty then s.endJob b e else s.modMsq b (fun m => { m with mrow := 16 * band + 16 }))

end Sys2Proof.Machine
end

