-- ==== Sys2Proof/Machine/BankEngine.lean ====
section
/-! DEFINITION. Bank-engine contexts: their slice, window and heaps, stops and their reports, the end of a context, of a near grid and of a
walker (06 R158 to R175; 13 R359 to R368, R378). -/

namespace Sys2Proof.Machine

/-! ### Contexts -/

def beKey (stack be c : Nat) : Nat := 256 * stack + 4 * be + c
def beStack (key : Nat) : Nat := key / 256
/-- The engine of a context, 64 × stack + bank engine. -/
def beEngine (key : Nat) : Nat := key / 4

def BeCtx.reg (c : BeCtx) (r : BitVec 4) : W64 := Table.get 0#64 c.g r.toNat
def BeCtx.setReg (c : BeCtx) (r : BitVec 4) (x : W64) : BeCtx := { c with g := Table.set 0#64 c.g r.toNat x }
def BeCtx.isWalker (c : BeCtx) : Bool := match c.who with | .walker _ _ => true | _ => false
def BeCtx.isStreamed (c : BeCtx) : Bool := match c.who with | .streamed _ => true | _ => false
/-- The near work or search a context belongs to. -/
def BeCtx.work (c : BeCtx) : Nat :=
  match c.who with
  | .block w _ => w
  | .streamed w => w
  | .walker q _ => q

def BeState.code : BeState → Nat
  | .ready => 0 | .waiting => 1 | .stopped => 2 | .ended => 3
/-- bst (R172). -/
def BeCtx.bst (c : BeCtx) : W64 := BitVec.ofNat 64 (c.state.code * 2 ^ 62 + c.flags.toNat)

def State.engine (s : State) (key : Nat) : BeCtx := Table.get { who := .block 0 0 } s.engines key
def State.modEngine (s : State) (key : Nat) (f : BeCtx → BeCtx) : State := { s with engines := Table.modify s.engines key f }

/-- The code image a context runs (R361). -/
def State.imageOf (s : State) (key : Nat) (c : BeCtx) : List W32 := Table.get [] s.images (16 * c.work + beStack key)

/-- Runs `f` for the context whose word is executed, unless it is not there (log 10). -/
def State.onBe (s : State) (f : Nat → BeCtx → State) : State :=
  match s.cur with
  | .engine st be c =>
    match Table.find s.engines (beKey st be c) with
    | some x => f (beKey st be c) x
    | none => s
  | _ => s

/-- The context number that a bank-engine context works for. -/
def State.beContext (s : State) (c : BeCtx) : Nat :=
  match c.who with
  | .walker q _ => (Table.find s.searches q).elim 0 Search.ctx
  | _ => (Table.find s.nearWork c.work).elim 0 NearWork.ctx

/-- The context has completed a word (R357): changed by `f`, it goes on at word `upc`, of which a context holds 14 bits (R158; log 129). -/
def State.beGo (s : State) (key upc : Nat) (f : BeCtx → BeCtx) : State :=
  let t := s.modEngine key (fun c => { f c with upc := upc % 16384, state := .ready })
  match Table.find s.engines key with
  | none => t
  | some c => t.pulse (s.beContext c)

/-- The context takes the next word, changed by `f`. -/
def State.beNext (s : State) (key : Nat) (f : BeCtx → BeCtx) : State := s.beGo key ((s.engine key).upc + 1) f

/-! ### Physical addresses held from issue (R365) -/

/-- The physical address of a virtual address whose page was translated at issue. -/
def heldAddr (pages : List (Nat × Nat)) (va : Nat) : Nat :=
  match pages.find? (fun p => p.1 == va / 65536) with
  | some p => p.2 + va % 65536
  | none => 0

/-- The bytes of a range of held pages. -/
def State.heldBytes (s : State) (pages : List (Nat × Nat)) (va n : Nat) : List Byte :=
  (List.range n).map (fun k => s.mem.byte (heldAddr pages (va + k)))

/-- Writes a list of bytes over held pages. -/
def State.putHeld (s : State) (pages : List (Nat × Nat)) (va : Nat) (bs : List Byte) : State :=
  match bs with
  | [] => s
  | b :: rest => State.putHeld { s with mem := s.mem.setByte (heldAddr pages va) b } pages (va + 1) rest

/-! ### Column commands (R367, R368, R370) -/

def handleOf (serial key : Nat) : Nat := (serial % 2 ^ 19) * 4096 + (key % 4) * 1024 + (key / 4 % 64) * 16 + key / 256
def handleSerial (h : Nat) : Nat := h / 4096

/-- Answers a column command. -/
def State.answerCommand (s : State) (id : Nat) (x : W64) (ok : Bool) : State :=
  { s with commands := Table.modify s.commands id (fun c => { c with answer := some (x, ok) }) }

/-- Answers every command that has reached a context and has no answer. -/
def State.answerAll (s : State) (serial : Nat) (status : Nat) : State :=
  { s with commands := s.commands.map (fun e =>
      if e.2.arrived && e.2.answer.isNone && handleSerial e.2.handle == serial then (e.1, { e.2 with answer := some (BitVec.ofNat 64 status, false) }) else e) }

/-- The reply 0 that a context gives to a command it has not replied to (R198). -/
def State.replyZero (s : State) (key : Nat) (c : BeCtx) : State :=
  match c.cmd with
  | some id => (s.answerCommand id 0#64 true).modEngine key (fun c => { c with cmd := none })
  | none => s

/-! ### The end of near work (R366) -/

/-- The 32-byte status record (R366). -/
def NearWork.record (w : NearWork) : List Byte :=
  let low := w.low.getD (0xFFFFFFFF, 0#64, 0#64)
  natToBytes 4 w.ended ++ natToBytes 4 w.stopped ++ natToBytes 4 low.1 ++ natToBytes 4 0 ++ natToBytes 8 low.2.1.toNat ++ natToBytes 8 low.2.2.toNat

/-- After the last block the status record is written and 32 bytes are counted (R366). -/
def State.testWork (s : State) (id : Nat) : State :=
  match Table.find s.nearWork id with
  | none => s
  | some w =>
    if w.ended + w.stopped == w.blocks then
      { (s.putHeld w.pages w.status w.record).sendCount { space := w.bo.1, addr := w.bo.2, n := 32, near := some w.b } with nearWork := Table.erase s.nearWork id }
    else s

/-- A block of the work has ended, or has been reported with nfr and bst. -/
def NearWork.count (w : NearWork) (j : Nat) (stop : Option (W64 × W64)) : NearWork :=
  match stop with
  | none => { w with ended := w.ended + 1 }
  | some (nfr, bst) =>
    { w with stopped := w.stopped + 1
             low := match w.low with
               | some l => if j < l.1 then some (j, nfr, bst) else some l
               | none => some (j, nfr, bst) }

/-- Frees the code image of near work on a stack when nothing there runs or waits under it (R361). -/
def State.freeImage (s : State) (work stack : Nat) : State :=
  if s.engines.any (fun e => beStack e.1 == stack && e.2.work == work) || (Table.get [] s.nearQueue stack).any (fun x => x.1 == work)
    || s.nearPackets.any (fun e => e.2 == (work, stack)) then s
  else { s with images := Table.erase s.images (16 * work + stack) }

/-- The keys of the heaps a context has allocated itself. -/
def heapKey (key n : Nat) : Nat := 8 * key + n
/-- The key of a query's heap on a stack (R374). -/
def queryHeap (search q stack : Nat) : Nat := 2 ^ 16 + (4096 * search + q) * 16 + stack

def State.freeHeaps (s : State) (key : Nat) : State :=
  { s with heaps := (List.range 8).foldl (fun h n => Table.erase h (heapKey key n)) s.heaps }

/-- Sends the end of a walker to its query's home (R378). -/
def State.sendEnd (s : State) (search q : Nat) (stopped : Bool) : State :=
  { s with endNotices := Table.put s.endNotices s.nextId (search, q, stopped), nextId := s.nextId + 1 }

/-- What the end of a streamed context does to its open: commands are answered CLOSED, or STOPPED where the stop was reported (R370). -/
def State.closeOpen (s : State) (work : Nat) (stopped : Bool) : State :=
  match s.opens.find? (fun e => e.2.work == work) with
  | none => s
  | some e =>
    let s := s.answerAll e.1 (if stopped then 3 else 2)
    if stopped && !e.2.closing then { s with opens := Table.put s.opens e.1 { e.2 with stopped := true } }
    else { s with opens := Table.erase s.opens e.1 }

/-- The end of a context, by its own end or after its stop was reported (R175, R178, R366, R378). -/
def State.endContext (s : State) (key : Nat) (stop : Option (W64 × W64)) : State :=
  match Table.find s.engines key with
  | none => s
  | some c =>
    let s := if stop.isNone then s.replyZero key c else s
    let s := { s with engines := Table.erase s.engines key }
    match c.who with
    | .walker q k => s.sendEnd q k stop.isSome
    | .block w j => (({ s.freeHeaps key with nearWork := Table.modify s.nearWork w (fun x => x.count j stop) }).freeImage w (beStack key)).testWork w
    | .streamed w =>
      ((({ s.freeHeaps key with nearWork := Table.modify s.nearWork w (fun x => x.count 0 stop) }).closeOpen w stop.isSome).freeImage w (beStack key)).testWork w

/-! ### Stops (R173 to R175, R425) -/

/-- Latches NEAR_FAULT on a thread; a second one sets more; a thread that has exited leaves it unhandled, and a frozen core discards it (R417, R425). -/
def State.latchNear (s : State) (b g t : Nat) (origin nfr bst : W64) : State :=
  let k := tkey (gkey b g) t
  let trap : TrapRec := { code := 14, tval := nfr, info := bst, origin := some origin, src := 4 }
  if s.inert b then s.discard
  else if (s.thread k).exited then s.trapExited b g t trap
  else s.modThread k (fun th =>
    { th with pendNear := match th.pendNear with
        | some r => some { r with more := true }
        | none => some trap })

/-- Whose near work a context runs: block, group, thread, context and the issuing word. -/
def State.launcher (s : State) (c : BeCtx) : Option (Nat × Nat × Nat × Nat × W64) :=
  match c.who with
  | .walker q _ => (Table.find s.searches q).map (fun w => (w.b, w.g, w.t, w.ctx, w.origin))
  | _ => (Table.find s.nearWork c.work).map (fun w => (w.b, w.g, w.t, w.ctx, w.origin))

/-- The stack controller reports a stop as NEAR_FAULT and ends the context (R175). -/
def State.reportStop (s : State) (key : Nat) : State :=
  let c := s.engine key
  let s := match s.launcher c with
    | some (b, g, t, ctx, origin) => (s.latchNear b g t origin c.nfr c.bst).faultReport (beStack key) ctx (4 * 2 ^ 16 + 14) c.nfr.toNat
    | none => s
  s.endContext key (some (c.nfr, c.bst))

/-- The fields of nfr beside fcode and fupc (R173). -/
structure Where where
  bank : Nat := 0
  col : Nat := 0
  row : Nat := 0
  deriving DecidableEq, Repr

def nfrBits (code upc : Nat) (w : Where) : W64 :=
  BitVec.ofNat 64 (code % 16 * 2 ^ 60 + upc % 2 ^ 14 * 2 ^ 46 + w.bank % 64 * 2 ^ 40 + w.col % 8 * 2 ^ 37 + w.row % 2 ^ 20 * 2 ^ 17)

/-- Stops a context at its word and reports the stop (R174, R175). -/
def State.beStop (s : State) (key code : Nat) (w : Where) : State :=
  (s.modEngine key (fun c => { c with state := .stopped, nfr := nfrBits code c.upc w })).reportStop key

/-- A page fault or a handover of POST waits for the fault service of the launching context (R175, R396, R397). -/
def State.beFault (s : State) (key code ctx va cause : Nat) : State :=
  let f := s.raiseFault ctx va cause 4 1 (4 * beStack key)
  f.2.modEngine key (fun c => { c with state := .stopped, nfr := nfrBits code c.upc {}, fault := some f.1 })

def illegalBe (s : State) (key : Nat) : State := s.beStop key 1 {}

/-! ### Slice, window and heaps -/

/-- Rows of a context's slice (R360). -/
def BeCtx.rows (c : BeCtx) : Nat := 64 * c.frames.length
/-- The physical address of a slice byte (R360). -/
def BeCtx.sliceAddr (c : BeCtx) (a : Nat) : Nat := c.frames.getD (a / 65536) 0 + a % 65536
/-- `n` bytes from `a` lie in the slice. -/
def BeCtx.inSlice (c : BeCtx) (a n : Nat) : Bool := decide (a + n ≤ 65536 * c.frames.length)
/-- A poisoned sector of the window among `n` bytes from `a` (R446). -/
def BeCtx.windowBad (c : BeCtx) (a n : Nat) : Bool := (List.range ((a % 128 + n + 127) / 128)).any (fun k => (Table.find c.winBad (a / 128 + k)).isSome)
/-- Writes whole atoms to the window: each sector covered by one atom loses its poison (R447). -/
def BeCtx.putWindow (c : BeCtx) (a : Nat) (bs : List Byte) : BeCtx :=
  { c with win := c.win.writeList a bs
           winBad := if a % 128 == 0 then (List.range (bs.length / 128)).foldl (fun t k => Table.erase t (a / 128 + k)) c.winBad else c.winBad }
/-- `n` bytes from `a` lie in the window; no bytes lie nowhere. -/
def BeCtx.inWindow (c : BeCtx) (a n : Nat) : Bool := n == 0 || decide (a + n ≤ c.winSize)

/-- The first atom from slice byte `a` that lies outside the slice, as nfr names it for RANGE: no bank (R173). -/
def BeCtx.outside (c : BeCtx) (a : Nat) : Where :=
  let x := max a (65536 * c.frames.length)
  { col := x / 128 % 8, row := x / 1024 }

/-- The place of a slice byte as nfr names it for POISON (R173). -/
def State.wherePoison (s : State) (c : BeCtx) (a : Nat) : Where :=
  { bank := (rowOf s.lsplit (c.sliceAddr a)).2.2 % 48, col := a / 128 % 8, row := a / 1024 }

/-- The first poisoned atom of `n` atoms from slice byte `a` (R446). -/
def State.poisonedAtom (s : State) (c : BeCtx) (a n : Nat) : Option Nat :=
  ((List.range n).map (fun k => a + 128 * k)).find? (fun x => s.poisoned .main (c.sliceAddr x))

/-- The bytes of `n` atoms of the slice. -/
def State.atoms (s : State) (c : BeCtx) (a n : Nat) : List Byte := (List.range n).flatMap (fun k => s.mem.readList (c.sliceAddr (a + 128 * k)) 128)

/-- Writes whole atoms; each clears the poison of its sector (R183, R184). -/
def State.putAtoms (s : State) (c : BeCtx) (a : Nat) (n : Nat) (bs : List Byte) : State :=
  match n with
  | 0 => s
  | k + 1 =>
    State.putAtoms ({ s with mem := s.mem.writeList (c.sliceAddr a) (bs.take 128) }.clearPoison .main (c.sliceAddr a)) c (a + 128) k (bs.drop 128)

def zeroRow : List Byte := List.replicate 1024 0#8
def BeCtx.row (c : BeCtx) (h : BitVec 2) : List Byte := Table.get zeroRow c.h h.toNat
def BeCtx.setRow (c : BeCtx) (h : BitVec 2) (r : List Byte) : BeCtx := { c with h := Table.put c.h h.toNat r }

/-- The key of a heap a context names, if it is allocated: a walker's heap 0 is its query's (R167). -/
def State.heapOf (s : State) (key : Nat) (c : BeCtx) (n : Nat) : Option Nat :=
  let k := match c.who with
    | .walker q i => if n == 0 then queryHeap q i (beStack key) else 2 ^ 16 - 1
    | _ => if n < 8 then heapKey key n else 2 ^ 16 - 1
  if (Table.find s.heaps k).isSome then some k else none

/-- Free heap entries of an engine (R167). -/
def State.heapRoom (s : State) (engine : Nat) : Nat := 2048 - ((s.heaps.filter (fun e => e.2.engine == engine)).map (fun e => e.2.cap)).sum

/-- Offers an entry to a heap (R168). -/
def BeHeap.offer (h : BeHeap) (e : Entry) : BeHeap :=
  if e.isNan then { h with nan := min (h.nan + 1) (2 ^ 32 - 1) } else { h with entries := offerEntry h.cap h.entries e }

def State.modHeap (s : State) (k : Nat) (f : BeHeap → BeHeap) : State := { s with heaps := Table.modify s.heaps k f }

end Sys2Proof.Machine
end

