-- ==== Sys2Proof/Machine/Burrow.lean ====
section
/-! DEFINITION. Burrow words: control, registers, window and slice, row buffers, the associative row processor, the distance unit, heaps,
posting and walkers (06 R161 to R199). -/

namespace Sys2Proof.Machine

/-- Runs a word of a context if its fields are legal (R170). -/
def State.beWord (s : State) (legal : Bool) (f : Nat → BeCtx → State) : State :=
  s.onBe (fun key c => if legal then f key c else illegalBe s key)

/-- ILLEGAL_BURROW_WORD (R170). -/
def execIllegalBurrowWord (s : State) : Host.Outcome State Fault Refusal := .next (s.onBe (fun key _ => illegalBe s key))

/-! ### Control words (R178) -/

/-- BNOP. -/
def execBnop (f : BrForm) (s : State) : Host.Outcome State Fault Refusal := .next (s.beWord (brLegal 0x01 f) (fun key _ => s.beNext key id))

/-- The target of a branch, nothing where it lies outside the image. -/
def beTarget (c : BeCtx) (len : Nat) (off : BitVec 15) : Option Nat :=
  let t := (c.upc : Int) + off.toInt
  if 0 ≤ t ∧ t < len then some t.toNat else none

/-- The conditions of BR. -/
def beCond (n : Nat) (a b : W64) : Bool :=
  match n with
  | 0 => true
  | 1 => a == b
  | 2 => a != b
  | 3 => a.slt b
  | 4 => !a.slt b
  | 5 => a.ult b
  | _ => !a.ult b

/-- BR: a target outside the image is illegal whether or not the branch is taken (R170, R178). -/
def execBr (f : BjForm) (s : State) : Host.Outcome State Fault Refusal :=
  .next (s.beWord (bjLegal 0x02 f) (fun key c =>
    match beTarget c (s.imageOf key c).length f.off with
    | none => illegalBe s key
    | some t => if beCond f.cond.toNat (c.reg f.a) (c.reg f.b) then s.beGo key t id else s.beNext key id))

/-- BCALL. -/
def execBcall (f : BjForm) (s : State) : Host.Outcome State Fault Refusal :=
  .next (s.beWord (bjLegal 0x03 f) (fun key c =>
    match beTarget c (s.imageOf key c).length f.off with
    | some t => s.beGo key t (fun c => c.setReg f.a (BitVec.ofNat 64 (c.upc + 1)))
    | none => illegalBe s key))

/-- BJR. -/
def execBjr (f : BrForm) (s : State) : Host.Outcome State Fault Refusal :=
  .next (s.beWord (brLegal 0x04 f) (fun key c =>
    if (c.reg f.a).toNat < (s.imageOf key c).length then s.beGo key (c.reg f.a).toNat id else illegalBe s key))

/-- BEND: the context's writes are applied when it issues; the context ends (R178, R366). -/
def execBend (f : BrForm) (s : State) : Host.Outcome State Fault Refusal :=
  .next (s.beWord (brLegal 0x05 f) (fun key _ => s.endContext key none))

/-- BTRAP: its code goes to frow (R173). -/
def execBtrap (f : BiForm) (s : State) : Host.Outcome State Fault Refusal :=
  .next (s.beWord (biLegal 0x06 f) (fun key _ => s.beStop key 10 { row := f.imm.toNat }))

/-! ### Register arithmetic (R179 to R181) -/

/-- The operations of GALU. -/
def galuValue (op : Nat) (x y : W64) : W64 :=
  match op with
  | 0 => x + y
  | 1 => x - y
  | 2 => x * y
  | 3 => BitVec.ofNat 64 (x.toNat * y.toNat / 2 ^ 64)
  | 4 => x &&& y
  | 5 => x ||| y
  | 6 => x ^^^ y
  | 7 => if 64 ≤ y.toNat then 0#64 else x <<< y.toNat
  | 8 => if 64 ≤ y.toNat then 0#64 else x >>> y.toNat
  | 9 => if 64 ≤ y.toNat then (if x.msb then BitVec.allOnes 64 else 0#64) else x.sshiftRight y.toNat
  | 10 => if x.slt y then x else y
  | 11 => if x.slt y then y else x
  | 12 => if x.ult y then x else y
  | 13 => if x.ult y then y else x
  | 14 => BitVec.ofNat 64 (popCount 64 x.toNat)
  | _ => BitVec.ofNat 64 (leadingZeros 64 x.toNat)

/-- GALU. -/
def execGalu (f : BrForm) (s : State) : Host.Outcome State Fault Refusal :=
  .next (s.beWord (brLegal 0x08 f) (fun key _ =>
    s.beNext key (fun c => c.setReg f.d (galuValue f.sub.toNat (c.reg f.a) (c.reg f.b)))))

/-- GALUI. -/
def execGalui (f : BiForm) (s : State) : Host.Outcome State Fault Refusal :=
  .next (s.beWord (biLegal 0x09 f) (fun key _ =>
    s.beNext key (fun c => c.setReg f.d (galuValue f.sub.toNat (c.reg f.a) (f.imm.signExtend 64)))))

/-- GSET. -/
def execGset (f : BsForm) (s : State) : Host.Outcome State Fault Refusal :=
  .next (s.beWord true (fun key _ =>
    let x := f.imm.setWidth 64 <<< (16 * f.hw.toNat)
    s.beNext key (fun c => c.setReg f.d (if f.keep then (c.reg f.d &&& ~~~(0xFFFF#64 <<< (16 * f.hw.toNat))) ||| x else x))))

/-- The conditions of GCMP. -/
def gcmpHolds (n : Nat) (a b : W64) : Bool :=
  match n with
  | 0 => a == b
  | 1 => a != b
  | 2 => a.slt b
  | 3 => a.sle b
  | 4 => a.ult b
  | _ => a.ule b

/-- GCMP. -/
def execGcmp (f : BrForm) (s : State) : Host.Outcome State Fault Refusal :=
  .next (s.beWord (brLegal 0x0B f) (fun key _ =>
    s.beNext key (fun c => c.setReg f.d (if gcmpHolds f.sub.toNat (c.reg f.a) (c.reg f.b) then 1#64 else 0#64))))

/-! ### Window and slice (R182, R183) -/

/-- The address of WLD and WST. -/
def windowAddress (c : BeCtx) (f : BmForm) : Nat := (c.reg f.a + f.imm.signExtend 64).toNat

/-- WLD. -/
def execWld (f : BmForm) (s : State) : Host.Outcome State Fault Refusal :=
  .next (s.beWord true (fun key c =>
    let a := windowAddress c f
    let n := 2 ^ f.size.toNat
    if a % n != 0 then s.beStop key 4 {}
    else if !c.inWindow a n then s.beStop key 3 {}
    else if c.windowBad a n then s.beStop key 6 {}
    else s.beNext key (fun c => c.setReg f.d (BitVec.ofNat 64 (c.win.readNat a n)))))

/-- WST. -/
def execWst (f : BmForm) (s : State) : Host.Outcome State Fault Refusal :=
  .next (s.beWord true (fun key c =>
    let a := windowAddress c f
    let n := 2 ^ f.size.toNat
    if a % n != 0 then s.beStop key 4 {}
    else if c.isWalker || !c.inWindow a n then s.beStop key 3 {}
    else s.beNext key (fun c => { c with win := c.win.writeNat a n (c.reg f.d).toNat })))

/-- The checks of ALD and AST: alignment, the slice, the window. -/
def atomCheck (c : BeCtx) (f : BrForm) (store : Bool) : Option (Nat × Where) :=
  let w := (c.reg f.a).toNat
  let a := (c.reg f.b).toNat
  let n := 128 * (f.sub.toNat + 1)
  if w % 8 != 0 || a % 128 != 0 then some (4, {})
  else if !c.inSlice a n then some (2, c.outside a)
  else if !c.inWindow w n || (store && c.isWalker) then some (3, {})
  else none

/-- ALD: the window is written after every atom has been read. -/
def execAld (f : BrForm) (s : State) : Host.Outcome State Fault Refusal :=
  .next (s.beWord (brLegal 0x12 f) (fun key c =>
    let a := (c.reg f.b).toNat
    let n := f.sub.toNat + 1
    match atomCheck c f c.isWalker with
    | some e => s.beStop key e.1 e.2
    | none => match s.poisonedAtom c a n with
      | some x => s.beStop key 6 (s.wherePoison c x)
      | none => s.beNext key (fun c => c.putWindow (c.reg f.a).toNat (s.atoms c a n))))

/-- AST. -/
def execAst (f : BrForm) (s : State) : Host.Outcome State Fault Refusal :=
  .next (s.beWord (brLegal 0x13 f) (fun key c =>
    let n := f.sub.toNat + 1
    match atomCheck c f true with
    | some e => s.beStop key e.1 e.2
    | none =>
      if c.windowBad (c.reg f.a).toNat (128 * n) then s.beStop key 6 {}
      else (s.putAtoms c (c.reg f.b).toNat n (c.win.readList (c.reg f.a).toNat (128 * n))).beNext key id))

/-! ### Row buffers (R184) -/

/-- Bits of a word under the width wd, words of a row (R158, R161). -/
def BeCtx.width (c : BeCtx) : Nat := 8 * 2 ^ c.wd
def BeCtx.words (c : BeCtx) : Nat := 1024 / 2 ^ c.wd

/-- The words of a row (R161). -/
def rowWords (fuel n : Nat) (bs : List Byte) : List Nat :=
  match fuel with
  | 0 => []
  | k + 1 => bytesToNat (bs.take n) :: rowWords k n (bs.drop n)
def BeCtx.wordsOf (c : BeCtx) (h : BitVec 2) : List Nat := rowWords c.words (2 ^ c.wd) (c.row h)
/-- A row of words. -/
def BeCtx.ofWords (c : BeCtx) (ws : List Nat) : List Byte := ws.flatMap (natToBytes (2 ^ c.wd))

/-- HRD. -/
def execHrd (f : BhForm) (s : State) : Host.Outcome State Fault Refusal :=
  .next (s.beWord (bhLegal 0x14 f) (fun key c =>
    let r := (c.reg f.a).toNat
    if c.rows ≤ r then s.beStop key 2 (c.outside (1024 * r))
    else match s.poisonedAtom c (1024 * r) 8 with
      | some x => s.beStop key 6 (s.wherePoison c x)
      | none => s.beNext key (fun c => c.setRow f.h (s.atoms c (1024 * r) 8))))

/-- HWR. -/
def execHwr (f : BhForm) (s : State) : Host.Outcome State Fault Refusal :=
  .next (s.beWord (bhLegal 0x15 f) (fun key c =>
    let r := (c.reg f.a).toNat
    if c.rows ≤ r then s.beStop key 2 (c.outside (1024 * r)) else (s.putAtoms c (1024 * r) 8 (c.row f.h)).beNext key id))

/-- HMOV, HMOV.k and HMOV.z. -/
def execHmov (f : BhForm) (s : State) : Host.Outcome State Fault Refusal :=
  .next (s.beWord (bhLegal 0x16 f) (fun key _ =>
    s.beNext key (fun c => c.setRow f.h (match f.sub.toNat with
      | 0 => c.row f.h2
      | 1 => c.ofWords (List.replicate c.words c.key.toNat)
      | _ => zeroRow))))

/-- HWIN.in and HWIN.out. -/
def execHwin (f : BhForm) (s : State) : Host.Outcome State Fault Refusal :=
  .next (s.beWord (bhLegal 0x17 f) (fun key c =>
    let a := (c.reg f.a).toNat
    if a % 8 != 0 then s.beStop key 4 {}
    else if !c.inWindow a 1024 || (f.sub == 1#8 && c.isWalker) then s.beStop key 3 {}
    else if f.sub == 0#8 && c.windowBad a 1024 then s.beStop key 6 {}
    else s.beNext key (fun c =>
      if f.sub == 0#8 then c.setRow f.h (c.win.readList a 1024) else c.putWindow a (c.row f.h))))

/-- HGET. -/
def execHget (f : BhForm) (s : State) : Host.Outcome State Fault Refusal :=
  .next (s.beWord (bhLegal 0x18 f) (fun key _ =>
    s.beNext key (fun c => c.setReg f.b (BitVec.ofNat 64 ((c.wordsOf f.h).getD ((c.reg f.a).toNat % c.words) 0)))))

/-- HPUT. -/
def execHput (f : BhForm) (s : State) : Host.Outcome State Fault Refusal :=
  .next (s.beWord (bhLegal 0x19 f) (fun key _ =>
    s.beNext key (fun c => c.setRow f.h (c.ofWords ((c.wordsOf f.h).set ((c.reg f.a).toNat % c.words) (c.reg f.b).toNat)))))

/-! ### The associative row processor (R161 to R164, R185 to R189) -/

/-- KSET: a change of width clears T. -/
def execKset (f : BrForm) (s : State) : Host.Outcome State Fault Refusal :=
  .next (s.beWord (brLegal 0x1A f) (fun key _ =>
    s.beNext key (fun c => { c with
      key := c.reg f.a, mask := c.reg f.b, wd := f.sub.toNat % 4
      tags := if f.sub.toNat % 4 == c.wd then c.tags else 0#1024 })))

/-- A tag register from one bit per word. -/
def tagsOf (bs : List Bool) : BitVec 1024 :=
  BitVec.ofNat 1024 (bs.foldr (fun b acc => b.toNat + 2 * acc) 0)

/-- The low `w` bits of a masked replacement (R162). -/
def maskedWrite (w x d m : Nat) : Nat := lutBits w 0xE2 x m d

/-- One glint step (R162): the new tags and the words. -/
def glintStep (c : BeCtx) (op : Nat) (wr : Bool) (d m : Nat) (ws : List Nat) : List Bool × List Nat :=
  let w := c.width
  let r := ws.mapIdx (fun i x =>
    let hit := lutBits w 0x60 x c.key.toNat c.mask.toNat == 0
    let old := c.tags.getLsbD i
    let t := match op with
      | 0 => hit
      | 1 => old && hit
      | 2 => old || hit
      | _ => old && !hit
    (t, if wr && t then maskedWrite w x d m else x))
  (r.map Prod.fst, r.map Prod.snd)

/-- GLINT. -/
def execGlint (f : BhForm) (s : State) : Host.Outcome State Fault Refusal :=
  .next (s.beWord (bhLegal 0x1B f) (fun key _ =>
    s.beNext key (fun c =>
      let r := glintStep c (f.sub.toNat % 4) (decide (4 ≤ f.sub.toNat)) (c.reg f.a).toNat (c.reg f.b).toNat (c.wordsOf f.h)
      { c.setRow f.h (c.ofWords r.2) with tags := tagsOf r.1 })))

/-- The set bits of T. -/
def BeCtx.tagBits (c : BeCtx) : List Nat := (List.range c.words).filter c.tags.getLsbD
/-- T with every bit of a word that exists. -/
def BeCtx.allTags (c : BeCtx) : BitVec 1024 := BitVec.ofNat 1024 (2 ^ c.words - 1)
/-- The 64-bit piece of T that a register selects. -/
def BeCtx.tagPiece (c : BeCtx) (x : W64) : Nat := 64 * (x.toNat % (c.words / 64))

/-- TOP. -/
def execTop (f : BhForm) (s : State) : Host.Outcome State Fault Refusal :=
  .next (s.beWord (bhLegal 0x1C f) (fun key _ =>
    s.beNext key (fun c => match f.sub.toNat with
      | 0 => { c with tags := c.allTags }
      | 1 => { c with tags := 0#1024 }
      | 2 => { c with tags := ~~~c.tags &&& c.allTags }
      | 3 => c.setReg f.c (BitVec.ofNat 64 c.tagBits.length)
      | 4 => c.setReg f.c (match c.tagBits with
          | [] => BitVec.allOnes 64
          | n :: _ => BitVec.ofNat 64 n)
      | 5 => c.setReg f.c ((c.tags >>> c.tagPiece (c.reg f.a)).setWidth 64)
      | 6 =>
        let p := c.tagPiece (c.reg f.a)
        { c with tags := (c.tags &&& ~~~((0xFFFFFFFFFFFFFFFF#1024) <<< p)) ||| ((c.reg f.b).setWidth 1024 <<< p) }
      | _ => { c with tags := match c.tagBits with
          | [] => c.tags
          | n :: _ => c.tags &&& ~~~(1#1024 <<< n) })))

/-- TTLD. -/
def execTtld (f : BrForm) (s : State) : Host.Outcome State Fault Refusal :=
  .next (s.beWord (brLegal 0x1D f) (fun key c =>
    if (c.reg f.a &&& 0xF000F000F000F000#64) != 0#64 || (c.reg f.b &&& 0xF000F000F000F000#64) != 0#64 then illegalBe s key
    else s.beNext key (fun c => { c with
      tables := Table.set 0#128 c.tables f.c.toNat ((c.reg f.a).setWidth 128 ||| ((c.reg f.b).setWidth 128 <<< 64)) })))

/-- Row `k` of a truth table (R163). -/
def tableRow (t : BitVec 128) (k : Nat) : Nat := (t.toNat / 2 ^ (16 * k)) % 65536
/-- The rows of a table before its first all-zero row. -/
def tableRows (t : BitVec 128) : List Nat := ((List.range 8).map (tableRow t)).takeWhile (fun r => r != 0)

/-- A position byte at step `j` (R164). -/
def stepPos (pos : Nat) (k n j : Nat) (down : Bool) : Nat :=
  let b := pos / 256 ^ k % 256
  if bitAt b 6 == 1 then b % 64 + (if down then n - 1 - j else j) else b % 64

def putBit (x p v : Nat) : Nat := x - bitAt x p * 2 ^ p + v % 2 * 2 ^ p

/-- One bit step on one word: the first row that matches writes (R164). -/
def truthStep (rows : List Nat) (pos n j : Nat) (down : Bool) (x : Nat) : Nat :=
  let inp := bitAt x (stepPos pos 0 n j down) + 2 * bitAt x (stepPos pos 1 n j down) + 4 * bitAt x (stepPos pos 2 n j down)
    + 8 * bitAt x (stepPos pos 3 n j down)
  match rows.find? (fun r => lutBits 4 0x60 inp (r % 16) (r / 16 % 16) == 0) with
  | none => x
  | some r =>
    let x := if bitAt r 10 == 1 then putBit x (stepPos pos 4 n j down) (bitAt r 8) else x
    if bitAt r 11 == 1 then putBit x (stepPos pos 5 n j down) (bitAt r 9) else x

/-- The positions of a pass are legal for a width (R189). -/
def positionsOk (pos n w : Nat) : Bool :=
  pos / 2 ^ 48 == 0 && (List.range 6).all (fun k =>
    let b := pos / 256 ^ k % 256
    decide (b < 128) && (if bitAt b 6 == 1 then decide (b % 64 + n - 1 < w) else decide (b % 64 < w)))

/-- TTP. -/
def execTtp (f : BhForm) (s : State) : Host.Outcome State Fault Refusal :=
  .next (s.beWord (bhLegal 0x1E f) (fun key c =>
    let n := f.sub.toNat % 64 + 1
    let down := decide (64 ≤ f.sub.toNat)
    let pos := (c.reg f.a).toNat
    if !positionsOk pos n c.width then illegalBe s key
    else s.beNext key (fun c =>
      let rows := tableRows (Table.get 0#128 c.tables f.c.toNat)
      c.setRow f.h (c.ofWords ((c.wordsOf f.h).mapIdx (fun i x =>
        if c.tags.getLsbD i then (List.range n).foldl (fun x j => truthStep rows pos n j down x) x else x))))))

/-! ### The distance unit (R165, R166, R190, R191) -/

def distBits (etype : Nat) : Nat := if etype == 2 then 16 else if etype == 4 then 1 else 8
def distFmt (etype : Nat) : Fmt := if etype == 0 then .e4m3 else if etype == 1 then .e5m2 else .bf16
def distMax (etype : Nat) : Nat := if etype == 4 then 32768 else 4096

/-- The distance of two vectors given as little-endian numbers, with its flags (R166). -/
def distance (etype metric dim x y : Nat) : BitVec 32 × Flags :=
  let w := distBits etype
  let is := List.range dim
  if etype == 4 then (BitVec.ofNat 32 (Fmt.round .f32 .rn (FVal.ofInteger (popCount dim (Nat.xor (x % 2 ^ dim) (y % 2 ^ dim))))).1, Flags.none)
  else if etype == 3 then
    let at_ := fun (v i : Nat) => bitsToInt true 8 (elemAt 8 v i)
    let terms := is.map (fun i => if metric == 0 then at_ x i * at_ y i else (at_ x i - at_ y i) * (at_ x i - at_ y i))
    let r := intSumChunks 0 ((chunks32 (dim / 32 + 1) terms).map (fun l => l.foldl (· + ·) 0))
    let d := Fmt.round .f32 .rn (FVal.ofInteger (if metric == 0 then -r.1 else r.1))
    (BitVec.ofNat 32 d.1, r.2 ||| d.2)
  else
    let t := distFmt etype
    let terms := is.map (fun i =>
      let a := t.decode (elemAt w x i)
      let b := t.decode (elemAt w y i)
      if metric == 0 then FVal.mul a b
      else
        let d := FVal.add .rn a b.neg
        ((FVal.mul d.1 d.1).1, d.2))
    let r := sumChunks .f32 0 (chunks32 (dim / 32 + 1) terms)
    let d := BitVec.ofNat 32 r.1
    (if metric == 0 && !(Fmt.decode .f32 r.1).isNan then d ^^^ 0x80000000#32 else d, r.2)

/-- What DIST and DISTG read from their registers. -/
structure DistPlan where
  etype : Nat
  metric : Nat
  window : Nat
  dim : Nat
  bytes : Nat
  deriving DecidableEq, Repr

/-- The query of a distance word: its fields, or a stop code (R190). -/
def distPlan (c : BeCtx) (f : BrForm) : Except Nat DistPlan :=
  let e := f.sub.toNat % 8
  let q := (c.reg f.a).toNat
  let dim := q / 2 ^ 32 % 2 ^ 16
  let p : DistPlan := { etype := e, metric := f.sub.toNat / 8 % 4, window := q % 2 ^ 32, dim := dim, bytes := (dim * distBits e + 7) / 8 }
  if 2 ^ 48 ≤ q || dim == 0 || distMax e < dim then .error 1
  else if p.window % 8 != 0 || (c.reg f.b).toNat % 128 != 0 then .error 4
  else .ok p

/-- The distance of the query to the vector at slice byte `a`, or the stop (R190). -/
def State.vectorDistance (s : State) (c : BeCtx) (p : DistPlan) (a : Nat) : Except (Nat × Where) (BitVec 32 × Flags) :=
  let n := (p.bytes + 127) / 128
  if !c.inSlice a (128 * n) then .error (2, c.outside a)
  else if c.windowBad p.window p.bytes then .error (6, {})
  else match s.poisonedAtom c a n with
    | some x => .error (6, s.wherePoison c x)
    | none => .ok (distance p.etype p.metric p.dim (c.win.readNat p.window p.bytes) (bytesToNat (s.atoms c a n)))

/-- The vectors of DIST from vpr on: each is offered before the next is read (R190). DESIGN CHOICE (log 128): the flags of the vectors it has offered stay
where it then stops. -/
def State.distFrom (s : State) (key heap : Nat) (p : DistPlan) (base stride : Nat) (ident : W64) (k : Nat) : State :=
  match k with
  | 0 => s.beNext key (fun c => { c with vpr := 0 })
  | k + 1 =>
    let c := s.engine key
    let v := c.vpr
    match s.vectorDistance c p (base + 128 * stride * v) with
    | .error e => s.beStop key e.1 e.2
    | .ok d =>
      let s := s.modHeap heap (fun h => h.offer { dist := d.1, tag := BitVec.ofNat 32 v, id := ident + BitVec.ofNat 64 v })
      State.distFrom (s.modEngine key (fun c => { c with vpr := v + 1, flags := c.flags ||| d.2 })) key heap p base stride ident k

/-- DIST: an illegal limit comes before a misaligned address (log 115). -/
def execDist (f : BrForm) (s : State) : Host.Outcome State Fault Refusal :=
  .next (s.beWord (brLegal 0x20 f) (fun key c =>
    let g := (c.reg f.c).toNat
    let count := g % 2 ^ 32
    let stride := g / 2 ^ 32 % 256
    let bytes := ((c.reg f.a).toNat / 2 ^ 32 % 2 ^ 16 * distBits (f.sub.toNat % 8) + 7) / 8
    match distPlan c f with
    | .error code =>
      if count == 0 || 2 ^ 20 < count || stride == 0 || 64 < stride || 2 ^ 40 ≤ g || 128 * stride < bytes then illegalBe s key else s.beStop key code {}
    | .ok p =>
      if count == 0 || 2 ^ 20 < count || stride == 0 || 64 < stride || 2 ^ 40 ≤ g || 128 * stride < p.bytes then illegalBe s key
      else match s.heapOf key c (f.sub.toNat / 32) with
        | none => s.beStop key 5 {}
        | some h =>
          if !c.inWindow p.window p.bytes then s.beStop key 3 {}
          else s.distFrom key h p (c.reg f.b).toNat stride (c.reg f.d) (count - c.vpr)))

/-- DISTG. -/
def execDistg (f : BrForm) (s : State) : Host.Outcome State Fault Refusal :=
  .next (s.beWord (brLegal 0x21 f) (fun key c =>
    match distPlan c f with
    | .error code => s.beStop key code {}
    | .ok p =>
      if !c.inWindow p.window p.bytes then s.beStop key 3 {}
      else match s.vectorDistance c p (c.reg f.b).toNat with
        | .error e => s.beStop key e.1 e.2
        | .ok d => s.beNext key (fun c => { c.setReg f.d (d.1.setWidth 64) with flags := c.flags ||| d.2 })))

/-! ### Heaps (R167, R168, R192 to R194) -/

/-- HEAP.init: the heap is freed, then allocated if its engine has room (R192). -/
def State.heapInit (s : State) (key n cap : Nat) : State × Bool :=
  let s := { s with heaps := Table.erase s.heaps (heapKey key n) }
  if cap ≤ s.heapRoom (beEngine key) then ({ s with heaps := Table.put s.heaps (heapKey key n) { engine := beEngine key, cap := cap } }, true)
  else (s, false)

/-- The worst distance a full heap holds, else infinity (R192). -/
def BeHeap.bound (h : BeHeap) : W64 :=
  if h.entries.length < h.cap then 0x7F800000#64
  else match h.entries.getLast? with
    | some e => e.dist.setWidth 64
    | none => 0x7F800000#64

/-- HEAP. -/
def execHeap (f : BrForm) (s : State) : Host.Outcome State Fault Refusal :=
  .next (s.beWord (brLegal 0x22 f) (fun key c =>
    let n := f.c.toNat
    let sub := f.sub.toNat
    if sub == 0 then
      let cap := (c.reg f.a).toNat
      if c.isWalker || cap == 0 || 1024 < cap then illegalBe s key
      else
        let r := s.heapInit key n cap
        r.1.beNext key (fun c => c.setReg f.d (if r.2 then 0#64 else 1#64))
    else if sub == 1 && c.isWalker then illegalBe s key
    else match s.heapOf key c n with
      | none => s.beStop key 5 {}
      | some k =>
        let h := Table.get ({ engine := 0, cap := 0 } : BeHeap) s.heaps k
        match sub with
        | 1 => { s with heaps := Table.erase s.heaps k }.beNext key id
        | 2 => (s.modHeap k (fun h => { h with entries := [], nan := 0 })).beNext key id
        | 3 => s.beNext key (fun c => c.setReg f.d (BitVec.ofNat 64 h.entries.length))
        | 4 => s.beNext key (fun c => c.setReg f.d (BitVec.ofNat 64 h.nan))
        | 5 => s.beNext key (fun c => c.setReg f.d h.bound)
        | _ => match s.heapOf key c f.b.toNat with
          | none => s.beStop key 5 {}
          | some j =>
            let o := Table.get ({ engine := 0, cap := 0 } : BeHeap) s.heaps j
            (s.modHeap k (fun h =>
              let h := o.entries.foldl BeHeap.offer h
              { h with nan := min (h.nan + o.nan) (2 ^ 32 - 1) })).beNext key id))

/-- HOFFER. -/
def execHoffer (f : BrForm) (s : State) : Host.Outcome State Fault Refusal :=
  .next (s.beWord (brLegal 0x23 f) (fun key c =>
    match s.heapOf key c f.c.toNat with
    | none => s.beStop key 5 {}
    | some k =>
      (s.modHeap k (fun h => h.offer { dist := (c.reg f.a).setWidth 32, id := c.reg f.b, tag := (c.reg f.d).setWidth 32 })).beNext key id))

/-- HOUT. -/
def execHout (f : BrForm) (s : State) : Host.Outcome State Fault Refusal :=
  .next (s.beWord (brLegal 0x24 f) (fun key c =>
    match s.heapOf key c f.c.toNat with
    | none => s.beStop key 5 {}
    | some k =>
      let es := (Table.get ({ engine := 0, cap := 0 } : BeHeap) s.heaps k).entries
      let a := (c.reg f.a).toNat
      if a % 8 != 0 then s.beStop key 4 {}
      else if c.isWalker || !c.inWindow a (16 * es.length) then s.beStop key 3 {}
      else s.beNext key (fun c =>
        { c.setReg f.d (BitVec.ofNat 64 es.length) with win := c.win.writeList a (es.flatMap (fun e => natToBytes 16 e.bits)) })))

/-! ### POST (R176, R195) -/

/-- The physical pieces of a destination, or the page and the cause for which it fails. DESIGN CHOICE (log 127): bits 63:57 of its address are dropped. -/
def State.postPieces (s : State) (ctx : Nat) (fuel va n : Nat) : Except (Nat × Nat) (List (Space × Nat × Nat)) :=
  match fuel with
  | 0 => .ok []
  | k + 1 =>
    if n == 0 then .ok []
    else
      let va := va % 2 ^ 57
      let w := min n (65536 - va % 65536)
      match s.reachNow ctx none va w Need.write with
      | .ok sp a _ => match s.postPieces ctx k (va + w) (n - w) with
        | .ok rest => .ok ((sp, a, w) :: rest)
        | .error e => .error e
      | .fault c => .error (va, c)
      | .miss => .error (va, 1)

/-- POST: its destination translates whole, its bytes are written, then they are counted (R195). DESIGN CHOICE (log 126): a BO name in g(d) that is
malformed, misaligned or out of bounds is reported and counts nothing. -/
def execPost (f : BrForm) (s : State) : Host.Outcome State Fault Refusal :=
  .next (s.beWord (brLegal 0x28 f) (fun key c =>
    let src := (c.reg f.a).toNat
    let n := (c.reg f.b).toNat
    let va := (c.reg f.c).toNat
    match s.launcher c with
    | none => s
    | some (b, _, _, ctx, _) =>
      if src % 8 != 0 || n % 8 != 0 || va % 8 != 0 then s.beStop key 4 {}
      else if !c.inWindow src n then s.beStop key 3 {}
      else if c.windowBad src n then s.beStop key 6 {}
      else match s.postPieces ctx (spanFuel n) va n with
        | .error (a, cause) =>
          if serviceable cause then s.beFault key (if cause == 4 then 9 else 7) ctx a cause
          else (s.reportCause cause (beStack key) ctx a).beStop key 8 {}
        | .ok ps =>
          let s1 := s.putPieces ps (c.win.readList src n)
          if f.sub == 0#8 then s1.beNext key id
          else match s.boTarget b (c.reg f.d).toNat with
            | .ok (sp, a) => (s1.sendCount { space := sp, addr := a, n := n }).beNext key id
            | .error _ => (s1.faultReport (beStack key) ctx (4 * 2 ^ 16 + 7) (c.reg f.d).toNat).beNext key id))

/-! ### Walkers (R196, R197, R375, R377) -/

def State.search (s : State) (id : Nat) : Option Search := Table.find s.searches id

/-- g8 as the device writes it into a message (R377). -/
def walkerWord (home slot q : Nat) : Nat := home % 16 * 2 ^ 28 + slot % 4096 * 2 ^ 12 + q % 4096

/-- The mask stacks in ascending order, and the home of query `q` (R372). -/
def Search.stackList (w : Search) : List Nat := (List.range 12).filter (fun k => bitAt w.stackSet k == 1)
def Search.home (w : Search) (q : Nat) : Nat := w.stackList.getD (q % w.stackList.length) 0

/-- The walker a context sends: g8 to g15 with the device's own bits in g8 (R377). -/
def BeCtx.message (c : BeCtx) (w : Search) (id q : Nat) : Walker :=
  let own : W64 := BitVec.ofNat 64 (walkerWord (w.home q) w.slot q)
  let g := fun (n : Nat) => Table.get 0#64 c.g n
  { search := id, q := q, g := ((g 8 &&& 0xFFFFFFFF00000000#64) ||| own) :: (List.range 7).map (fun n => g (9 + n)) }

/-- WHOP and WSPAWN: the walker registers with its home and waits (R196, R378). A word met again while it waits stays. -/
def State.sendWalker (s : State) (op : Nat) (f : BrForm) (hop : Bool) : State :=
  s.beWord (brLegal op f) (fun key c =>
    let x := (c.reg f.a).toNat
    match c.who with
    | .walker id q =>
      match s.search id with
      | none => s
      | some w =>
        if c.registration.isSome then s
        else if 1024 ≤ x || bitAt w.stackSet (x % 16) == 0 || 12 ≤ x % 16 then illegalBe s key
        else
          let r : Registration := { sender := key, hop := hop, walker := c.message w id q, target := 64 * (x % 16) + x / 16 }
          { s.modEngine key (fun c => { c with registration := some s.nextId, state := .waiting }) with
            registrations := Table.put s.registrations s.nextId r, nextId := s.nextId + 1 }
    | _ => illegalBe s key)

/-- WHOP. -/
def execWhop (f : BrForm) (s : State) : Host.Outcome State Fault Refusal := .next (s.sendWalker 0x29 f true)
/-- WSPAWN. -/
def execWspawn (f : BrForm) (s : State) : Host.Outcome State Fault Refusal := .next (s.sendWalker 0x2A f false)

/-- The visited sets of a search: query, stack, bank engine and local index in one number (R375). -/
def visitKey (q stack be idx : Nat) : Nat := ((q * 16 + stack) * 64 + be) * 2 ^ 24 + idx

/-- VISIT. -/
def execVisit (f : BrForm) (s : State) : Host.Outcome State Fault Refusal :=
  .next (s.beWord (brLegal 0x2B f) (fun key c =>
    let n := (c.reg f.a).toNat
    match c.who with
    | .walker id q =>
      match s.search id with
      | none => s
      | some w =>
        if n / 2 ^ 60 != beStack key || w.nmax ≤ n % 2 ^ 54 then illegalBe s key
        else
          let k := visitKey q (beStack key) (n / 2 ^ 54 % 64) (n % 2 ^ 54)
          { s with searches := Table.put s.searches id { w with visited := Table.put w.visited k () } }.beNext key
            (fun c => c.setReg f.d (if (Table.find w.visited k).isSome then 1#64 else 0#64))
    | _ => illegalBe s key))

/-! ### Streamed mode (R198) -/

/-- The serial under which a streamed context is open. -/
def State.serialOf (s : State) (c : BeCtx) : Option Nat := (s.opens.find? (fun e => e.2.work == c.work)).map Prod.fst

/-- The next command that has reached an open context. -/
def State.nextCommand (s : State) (serial : Nat) : Option (Nat × Command) :=
  s.commands.find? (fun e => e.2.arrived && e.2.answer.isNone && handleSerial e.2.handle == serial)

/-- CWAIT: the previous command is answered 0 if it has no reply; the next one is taken, or the context ends where it is being closed, or
waits. -/
def execCwait (f : BrForm) (s : State) : Host.Outcome State Fault Refusal :=
  .next (s.beWord (brLegal 0x2C f) (fun key c =>
    if !c.isStreamed then illegalBe s key
    else
      let s := s.replyZero key c
      match s.serialOf c with
      | none => s
      | some n => match s.nextCommand n with
        | some (id, m) =>
          s.beNext key (fun c => { (c.setReg f.d m.operand).setReg f.a (BitVec.ofNat 64 m.code) with cmd := some id })
        | none =>
          if (Table.find s.opens n).any (fun o => o.closing) then s.endContext key none
          else s.modEngine key (fun c => { c with state := .waiting })))

/-- CREPLY. -/
def execCreply (f : BrForm) (s : State) : Host.Outcome State Fault Refusal :=
  .next (s.beWord (brLegal 0x2D f) (fun key c =>
    match c.cmd with
    | none => illegalBe s key
    | some id => (s.answerCommand id (c.reg f.a) true).beNext key (fun c => { c with cmd := none })))

/-! ### Status (R199) -/

/-- What RDS reads, nothing for a selector that is illegal here. -/
def State.beStatus (s : State) (key : Nat) (c : BeCtx) (sel : Nat) : Option W64 :=
  let query := match c.who with
    | .walker id q => (s.search id).map (fun w => (w, q))
    | _ => none
  match sel with
  | 0 => some c.bst
  | 1 => some c.nfr
  | 2 => some (BitVec.ofNat 64 c.vpr)
  | 3 => some (BitVec.ofNat 64 s.time)
  | 4 => some (BitVec.ofNat 64 (beStack key + 16 * (key / 4 % 64) + 1024 * (key % 4) + 4096 * c.isWalker.toNat))
  | 5 => some (BitVec.ofNat 64 c.rows)
  | 6 => some (BitVec.ofNat 64 c.winSize)
  | 7 => query.map (fun w => BitVec.ofNat 64 (walkerWord (w.1.home w.2) w.1.slot w.2 % 2 ^ 24))
  | _ => query.map (fun w => w.1.snapshot)

/-- RDS. -/
def execRds (f : BrForm) (s : State) : Host.Outcome State Fault Refusal :=
  .next (s.beWord (brLegal 0x2E f) (fun key c =>
    match s.beStatus key { c with state := .ready } (f.sub.toNat % 16) with
    | none => illegalBe s key
    | some x => s.beNext key (fun c => { c.setReg f.d x with flags := if 128 ≤ f.sub.toNat then 0#6 else c.flags })))

end Sys2Proof.Machine
end

