-- ==== Sys2Proof/Machine/Near.lean ====
section
/-! DEFINITION. Near grids, streamed mode and searches: the launching instructions, and the events of stack controllers and homes (13 R359 to
R379). -/

namespace Sys2Proof.Machine

/-! ### Pages translated at issue (R365, R373) -/

/-- A page a launch names: its first named byte, whether it is written, and, for a page of a slice, the slice's first byte with the engine it
must belong to, if one is given. -/
structure PagePlan where
  va : Nat
  write : Bool := false
  slice : Option (Nat × Option Nat) := none
  deriving DecidableEq, Repr

/-- The pages of a range. -/
def rangePages (va n : Nat) (write : Bool) : List PagePlan :=
  if n == 0 then []
  else (List.range ((va + n - 1) / 65536 + 1 - va / 65536)).map (fun k =>
    { va := if k == 0 then va else (va / 65536 + k) * 65536, write := write })

/-- The leaf of a page for the launching context, or the cause for which it fails; the window region is closed to it (R383). -/
def State.nearLeaf (s : State) (ctx va : Nat) (n : Need) : Except Nat Leaf :=
  if windowBase ≤ va then .error 8
  else
    let l : Except Nat Leaf := match Table.find s.tlb (pageKey ctx va) with
      | some l => .ok l
      | none => s.walk ctx va
    match l with
    | .error c => .error c
    | .ok l => match s.leafCause ctx l n with
      | some c => .error c
      | none => .ok l

/-- The frame of the 64 KiB page of an address. -/
def Leaf.page (l : Leaf) (va : Nat) : Nat := l.frame + va % 2 ^ l.shift / 65536 * 65536

/-- The engine, 64 × stack + pseudo-channel, whose pseudo-channel holds a physical address (R360, R387). -/
def engineOf (lsplit pa : Nat) : Nat := 64 * (rowOf lsplit pa).1 + (rowOf lsplit pa).2.1

/-- A page of a slice is stack-local, in the slice's first pseudo-channel, and in that of the given engine (R360, R365, R372). -/
def State.sliceOk (s : State) (ctx : Nat) (l : Leaf) (va : Nat) (slice : Option (Nat × Option Nat)) : Bool :=
  match slice with
  | none => true
  | some (first, want) =>
    match s.nearLeaf ctx first Need.read with
    | .error _ => false
    | .ok f =>
      let e := engineOf s.lsplit (f.page first)
      l.near && f.near && engineOf s.lsplit (l.page va) == e && (match want with
        | some w => w == e
        | none => true)

/-- What the page loop comes to. -/
inductive PagesGot where
  | held (pages : List (Nat × Nat))
  /-- Page `k` fails with a cause. -/
  | fault (k va cause access : Nat)
  /-- Page `k` of a slice lies where it may not. -/
  | bound (k va : Nat)
  deriving DecidableEq, Repr

/-- The page loop from page `pix` on (R365). -/
def State.pageLoop (s : State) (ctx : Nat) (plans : List PagePlan) (k pix : Nat) (acc : List (Nat × Nat)) : PagesGot :=
  match plans with
  | [] => .held acc.reverse
  | p :: rest =>
    if k < pix then s.pageLoop ctx rest (k + 1) pix acc
    else match s.nearLeaf ctx p.va (if p.write then Need.write else Need.read) with
      | .error c => .fault k p.va c (if p.write then 1 else 0)
      | .ok l =>
        if s.sliceOk ctx l p.va p.slice then s.pageLoop ctx rest (k + 1) pix ((p.va / 65536, l.page p.va) :: acc) else .bound k p.va

/-- The failure of a page loop at page `k`: a serviceable fault parks every thread, anything else traps it; pix stands at the page (R365). The record
names a stack controller, which translates for the launch (R393, R397); which one is open (log 130). -/
def State.pageFail (s : State) (i : Issue) (k va cause access : Nat) : State :=
  let s := s.setPix i k
  if serviceable cause then
    let t := firstLane i.path
    let f := s.raiseFault (s.block i.b).ctx va cause 4 access (4 * (Config.pageStack (va / 65536) % 12))
    ((f.2.parkOnFault i t f.1 (faultTrap va cause access)).parkAll i t true).endPass i
  else s.trapPath i (faultTrap va cause access)

/-- The loop from pix, then every page again from the first, so that each one is held; after that the release of the whole group, then
`go` with the pages (R272, R365). A handler's pix at or above the page count starts at the end. -/
def State.launchPages (s : State) (i : Issue) (plans : List PagePlan) (go : State → List (Nat × Nat) → State) : State :=
  let ctx := (s.block i.b).ctx
  let s := s.takePix i
  if s.pixTaken i then s.holdPath i .pix
  else
    let fail := fun (k va c a : Nat) => s.pageFail i k va c a
    let bound := fun (k va : Nat) => (s.setPix i k).trapPath i (boundTrap va 0xFF)
    match s.pageLoop ctx plans 0 (s.group i.gk).pix.toNat [] with
    | .fault k va c a => fail k va c a
    | .bound k va => bound k va
    | .held _ => match s.pageLoop ctx plans 0 0 [] with
      | .fault _ va c a => fail plans.length va c a
      | .bound _ va => bound plans.length va
      | .held pages =>
        if s.storesDone i s.nextId then go (s.setPix i 0) pages else (s.setPix i plans.length).holdPath i .fence

/-! ### The near launch record (R363, R364) -/

/-- Field of a record held as a number. -/
def byteField (x lo n : Nat) : Nat := x / 256 ^ lo % 256 ^ n

/-- The limits of R363 that fail as BUFFER_BOUND. -/
def recordBound (x : Nat) (streamed : Bool) : Bool :=
  let len := byteField x 8 2
  let size := byteField x 12 4
  decide (len < 1) || decide (16384 < len) || decide (1024 < byteField x 10 2) || decide (size < 1) || decide (16384 < size)
    || byteField x 36 1 != streamed.toNat || byteField x 37 3 != 0
    || decide (2 ^ 57 ≤ byteField x 0 8) || decide (2 ^ 57 ≤ byteField x 16 8) || decide (2 ^ 57 ≤ byteField x 24 8)
/-- Those that fail as ALIGN: the first misaligned address. -/
def recordAlign (x : Nat) : Option Nat :=
  if byteField x 0 8 % 4 != 0 then some (byteField x 0 8)
  else if byteField x 16 8 % 8 != 0 then some (byteField x 16 8)
  else if byteField x 24 8 % 32 != 0 then some (byteField x 24 8)
  else none

/-- The range of an affinity record in bytes. -/
def affinityRange (r : BitVec 128) : Nat := recExtent r * 2 ^ recLsz r
/-- The affinity record fails a rule other than alignment (R364). -/
def affinityBound (r : BitVec 128) (slice : Nat) (streamed : Bool) : Bool :=
  let unit := slice * 65536
  let n := affinityRange r / unit
  recMalformed r || recSwz r != 0 || !(recField r 96 24 == 0 || recField r 96 24 == 2 ^ recLsz r) || affinityRange r % unit != 0
    || n == 0 || decide (65536 < n) || (streamed && n != 1)

/-- The checks of a launch before its pages, in the order of R208: bounds, then alignment, then the BO name. -/
def State.launchCheck (s : State) (i : Issue) (a x n : Nat) (r : BitVec 128) (streamed : Bool) : Except TrapRec (Space × Nat) :=
  if recordBound x streamed then .error (boundTrap a 0xFF)
  else if affinityBound r (byteField x 12 4) streamed then .error (boundTrap (recBase r) n)
  else match recordAlign x with
    | some y => .error (alignTrap y)
    | none =>
      if recBase r % 65536 != 0 then .error (alignTrap (recBase r))
      else match s.boTarget i.b (byteField x 32 4) with
        | .error c => .error (boTrap c (byteField x 32 4))
        | .ok bo => .ok bo

/-- The pages a near launch names, in order: code, window image, status record, slices (R365). -/
def launchPlan (x : Nat) (base blocks : Nat) : List PagePlan :=
  let size := byteField x 12 4
  let win := byteField x 16 8
  rangePages (byteField x 0 8) (4 * byteField x 8 2) false
    ++ (if win == 0 then [] else rangePages win (1024 * byteField x 10 2) false)
    ++ rangePages (byteField x 24 8) 32 true
    ++ (List.range (blocks * size)).map (fun k =>
        { va := base + 65536 * k, slice := some (base + k / size * size * 65536, none) })

/-- The near work of a record (R363). -/
def nearWorkOf (i : Issue) (ctx t x base blocks : Nat) (bo : Space × Nat) (streamed : Bool) (pages : List (Nat × Nat)) : NearWork :=
  { b := i.b, g := i.g, t := t, ctx := ctx, origin := mkPc (i.hdr + BitVec.ofNat 64 (4 * i.widx)) i.widx, streamed := streamed
    pages := pages, code := (byteField x 0 8, byteField x 8 2), winSize := 1024 * byteField x 10 2, winImage := byteField x 16 8
    status := byteField x 24 8, bo := bo
    init := [BitVec.ofNat 64 (byteField x 40 8), BitVec.ofNat 64 (byteField x 48 8), BitVec.ofNat 64 (byteField x 56 8)]
    slice := byteField x 12 4, base := base, blocks := blocks }

/-- The engine of block `j`, by its first page. -/
def NearWork.engine (w : NearWork) (lsplit j : Nat) : Nat := engineOf lsplit (heldAddr w.pages (w.base + j * w.slice * 65536))
/-- The frames of block `j`'s slice. -/
def NearWork.frames (w : NearWork) (j : Nat) : List Nat := (List.range w.slice).map (fun k => heldAddr w.pages (w.base + (j * w.slice + k) * 65536))

/-- Sends one launch packet to each stack controller that holds a slice (R365). -/
def State.sendLaunch (s : State) (w : NearWork) : State × Nat :=
  let id := s.nextId
  let stackSet := (List.range 12).filter (fun k => (List.range w.blocks).any (fun j => w.engine s.lsplit j / 64 == k))
  let s := { s with nearWork := Table.put s.nearWork id w, nextId := id + 1 }
  (stackSet.foldl (fun s k => { s with nearPackets := Table.put s.nearPackets s.nextId (id, k), nextId := s.nextId + 1 }) s, id)

/-- NLAUNCH and NOPEN up to the packet (R365, R369). -/
def State.nearLaunch (s : State) (i : Issue) (f : RForm) (streamed : Bool) (go : State → NearWork → State) : State :=
  let q := Fields.ofR f
  let t := firstLane i.path
  let n := f.b.toNat % 16
  match s.readUniform i t [(q.a, q.ea, Opd.one, none)], (s.group i.gk).record n f.eb with
  | .trap r, _ => s.trapPath i r
  | _, .trap r => s.trapPath i r
  | .hold, _ => s.holdPass i (lanesOf i.path) 0#32 []
  | _, .hold => s.holdPass i (lanesOf i.path) 0#32 []
  | .vals xs, .val rec =>
    let a := xs.headD 0
    let r := BitVec.ofNat 128 rec
    if a % 64 != 0 then s.trapPath i (alignTrap a)
    else match s.sharedTarget i.b a 64 with
      | none => s.trapPath i (boundTrap a 0xFF)
      | some (sp, pa) =>
        let x := s.load sp pa 64
        match s.launchCheck i a x n r streamed with
        | .error e => s.trapPath i e
        | .ok bo =>
          let blocks := affinityRange r / (byteField x 12 4 * 65536)
          s.launchPages i (launchPlan x (recBase r) blocks) (fun s pages =>
            go s (nearWorkOf i (s.block i.b).ctx t x (recBase r) blocks bo streamed pages))

/-- NLAUNCH (R365). -/
def execNlaunch (f : RForm) (s : State) : Host.Outcome State Fault Refusal :=
  .next (s.memoryWord 0xD9 f (fun i _ => s.withPending i f.ext (fun s i =>
    if (s.thread (i.tk (firstLane i.path))).role == Role.helper then s.endPass i
    else s.nearLaunch i f false (fun s w => (s.sendLaunch w).1.endPass i))))

/-- NOPEN: the path is held until the handle or the refusal has come (R369). -/
def execNopen (f : RForm) (s : State) : Host.Outcome State Fault Refusal :=
  .next (s.memoryWord 0xDA f (fun i sh => s.withPending i f.ext (fun s i =>
    let q := Fields.ofR f
    let stay := fun (s : State) => s.holdPass i (lanesOf i.path) 0#32 []
    let put := fun (s : State) (x : Nat) => (s.putEach i q sh x).endPass i
    if (s.thread (i.tk (firstLane i.path))).role == Role.helper then (if s.eachReady i q sh then put s 0x80000002 else stay s)
    else match s.holdOf i with
      | some (.opened x) => put s x
      | some (.nopen _) => s
      | _ =>
        if !s.eachReady i q sh then stay s
        else s.nearLaunch i f true (fun s w =>
          let r := s.sendLaunch w
          r.1.holdPath i (.nopen r.2)))))

/-! ### Stack controllers (R361, R362, R364) -/

def codeSlots (s : State) (stack : Nat) : Nat := (s.images.filter (fun e => e.1 % 16 == stack)).length
def engineBusy (s : State) (key : Nat) : Bool := (Table.find s.engines key).isSome

/-- The words of a code image read from held pages. -/
def State.imageWords (s : State) (pages : List (Nat × Nat)) (code : Nat × Nat) : List W32 :=
  (List.range code.2).map (fun k => BitVec.ofNat 32 (bytesToNat (s.heldBytes pages (code.1 + 4 * k) 4)))

/-- Tells a held NOPEN its handle or refusal; a frozen core discards it (R369, R417). -/
def State.tellOpen (s : State) (w : NearWork) (id value : Nat) : State :=
  if s.inert w.b then s.discard
  else s.modGroup (gkey w.b w.g) (fun gr => { gr with holds := gr.holds.map (fun h => if h.why = .nopen id then { h with why := .opened value } else h) })

/-- An engine has a streamed context, open or waiting (R367). -/
def State.streamedOn (s : State) (engine : Nat) : Bool :=
  s.opens.any (fun e => beEngine e.2.key == engine && !e.2.stopped)
    || (Table.get [] s.nearQueue (engine / 64)).any (fun x => match Table.find s.nearWork x.1 with
      | some w => w.streamed && w.engine s.lsplit x.2 == engine
      | none => false)

/-- NEAR_LAUNCH_PACKET: the blocks of the packet wait for their engines; a second streamed context of an engine is refused, a slice outside
the partition's memory is an isolation violation. Without a code-store slot the packet waits (R361, R362, R365, R369). -/
def execNearLaunchPacket (id : Nat) (s : State) : Host.Outcome State Fault Refusal :=
  .next (match Table.find s.nearPackets id with
    | none => s
    | some (work, stack) => match Table.find s.nearWork work with
      | none => { s with nearPackets := Table.erase s.nearPackets id }
      | some w =>
        let js := (List.range w.blocks).filter (fun j => w.engine s.lsplit j / 64 == stack)
        let p := s.partition (s.context w.ctx).partition
        let gone := { s with nearPackets := Table.erase s.nearPackets id }
        if js.any (fun j => (w.frames j).any (fun a => !p.owns s.lsplit a)) then gone.isolate 3 0 (s.block w.b).core w.ctx (w.base)
        else if w.streamed && s.streamedOn (w.engine s.lsplit 0) then
          { gone.tellOpen w work 0x80000001 with nearWork := Table.erase s.nearWork work }
        else if 16 ≤ codeSlots s stack then s
        else
          { gone with
            images := Table.put s.images (16 * work + stack) (s.imageWords w.pages w.code)
            nearQueue := Table.put s.nearQueue stack (Table.get [] s.nearQueue stack ++ js.map (fun j => (work, j))) })

/-- The first block or open waiting for an engine. -/
def State.nearWaiter (s : State) (stack be : Nat) : Option (Nat × Nat × NearWork) :=
  (Table.get [] s.nearQueue stack).findSome? (fun x => match Table.find s.nearWork x.1 with
    | some w => if w.engine s.lsplit x.2 == 64 * stack + be then some (x.1, x.2, w) else none
    | none => none)

/-- Near-window bytes in use on a stack (R361). -/
def State.windowUse (s : State) (stack : Nat) : Nat :=
  ((s.engines.filter (fun e => beStack e.1 == stack && !e.2.isWalker)).map (fun e => e.2.winSize)).sum

/-- A context as it starts for a block (R159, R364). -/
def State.freshContext (s : State) (w : NearWork) (work j : Nat) : BeCtx :=
  let frames := w.frames j
  let regs := w.init ++ [BitVec.ofNat 64 j, BitVec.ofNat 64 w.blocks, BitVec.ofNat 64 (64 * frames.length)]
  { who := if w.streamed then .streamed work else .block work j
    g := (regs.foldl (fun (acc : Table W64 × Nat) x => (Table.set 0#64 acc.1 acc.2 x, acc.2 + 1)) ([], 0)).1
    frames := frames, winSize := w.winSize
    win := if w.winImage == 0 then [] else Memory.writeList [] 0 (s.heldBytes w.pages w.winImage w.winSize) }

/-- Starts the first waiter of an engine on a free context from 1 to 3, if it is of the given kind and there is window space. -/
def State.startNear (s : State) (stack be c : Nat) (streamed : Bool) : Option (State × Nat × NearWork) :=
  let key := beKey stack be c
  match s.nearWaiter stack be with
  | none => none
  | some (work, j, w) =>
    if w.streamed != streamed || c == 0 || 3 < c || engineBusy s key || 14 * 2 ^ 20 < s.windowUse stack + w.winSize then none
    else
      some ({ s with
        nearQueue := Table.put s.nearQueue stack ((Table.get [] s.nearQueue stack).filter (fun x => x != (work, j)))
        engines := Table.put s.engines key (s.freshContext w work j) }, work, w)

/-- NEAR_BLOCK_START (R362, R364). -/
def execNearBlockStart (stack be c : Nat) (s : State) : Host.Outcome State Fault Refusal :=
  .next (match s.startNear stack be c false with
    | none => s
    | some r => r.1)

/-- STREAMED_CONTEXT_START: the context starts and the held NOPEN receives its handle (R367 to R369). -/
def execStreamedContextStart (stack be c : Nat) (s : State) : Host.Outcome State Fault Refusal :=
  .next (match s.startNear stack be c true with
    | none => s
    | some (s, work, w) =>
      let n := s.openSerial % 2 ^ 19
      let key := beKey stack be c
      { s.tellOpen w work (handleOf n key) with
        opens := Table.put s.opens n { b := w.b, g := w.g, key := key, work := work }, openSerial := s.openSerial + 1 })

/-! ### Column commands (R367 to R371) -/

/-- One thread's turn of NCMD: a command is sent, or a helper receives zeros (R370). -/
def ncmdTurn (i : Issue) (f : RForm) (sh : Shape) (s : State) (t : Nat) (acc : List Nat) : Turned :=
  let q := Fields.ofR f
  let pn := extRnd f.ext % 8
  match (s.thread (i.tk t)).pending with
  | some r => .trap r
  | none =>
    match s.read i t q.a q.ea sh.a (if q.xo == 1 then some q.xs else none), s.read i t q.b q.eb sh.b (if q.xo == 2 then some q.xs else none),
        locate (s.thread (i.tk t)) q.d sh.d (if q.xo == 3 then some q.xs else none) with
    | .trap r, _, _ => .trap r
    | _, .trap r, _ => .trap r
    | _, _, .error r => .trap r
    | .hold, _, _ => .hold
    | _, .hold, _ => .hold
    | .val a, .val b, .ok l =>
      if !s.destReady i t l 2 then .hold
      else if (s.thread (i.tk t)).role == Role.helper then
        .done ((s.writeCells i t l 2 0).modThread (i.tk t) (fun th => { th with p := th.p &&& ~~~(1#8 <<< pn) })) acc
      else
        let c : Command := { b := i.b, g := i.g, t := t, reg := (match l with | .v r => r | .s r => r), pn := pn, handle := a
                             operand := BitVec.ofNat 64 b, code := extSub f.ext }
        .done { s with commands := Table.put s.commands s.nextId c, nextId := s.nextId + 1 } acc

/-- Commands of a path that are not yet answered and written back. -/
def State.commandsOf (s : State) (i : Issue) : Bool := s.commands.any (fun e => e.2.b == i.b && e.2.g == i.g && i.path.getLsbD e.2.t)

/-- NCMD: after the group's release the pass sends its commands, then the path is held until every one is answered (R272, R370). -/
def execNcmd (f : RForm) (s : State) : Host.Outcome State Fault Refusal :=
  .next (s.memoryWord 0xDB f (fun i sh =>
    if s.holdOf i == some .ncmd then (if s.commandsOf i then s else s.endPass i)
    else if (s.group i.gk).pass.isNone && !s.storesDone i s.nextId then s.holdPath i .fence
    else
      let st := s.passStart i (extGuard f.ext)
      let r := runLanes i (ncmdTurn i f sh) st.1 s st.2.1 st.2.2
      match r.2.1 with
      | [] =>
        if r.1.commandsOf i then (r.1.modGroup i.gk (fun gr => { gr with pass := none })).holdPath i .ncmd else r.1.endPass i
      | rest => r.1.holdPass i rest r.2.2.1 r.2.2.2))

/-- The open a handle names. -/
def State.openOf (s : State) (handle : Nat) : Option Open :=
  match Table.find s.opens (handleSerial handle) with
  | some o => if handleOf (handleSerial handle) o.key == handle then some o else none
  | none => none

/-- COLUMN_COMMAND: commands of one owner reach the engine in issue order; a command of another owner, to no open context or to a reported
stop is refused, any other waits for the context's next CWAIT (R367, R370). -/
def execColumnCommand (id : Nat) (s : State) : Host.Outcome State Fault Refusal :=
  .next (match Table.find s.commands id with
    | none => s
    | some c =>
      if c.arrived || s.commands.any (fun e => decide (e.1 < id) && !e.2.arrived && e.2.b == c.b && e.2.g == c.g && e.2.handle == c.handle) then s
      else
        let refuse := fun (x : Nat) =>
          { s with commands := Table.put s.commands id { c with arrived := true, answer := some (BitVec.ofNat 64 x, false) } }
        match s.openOf c.handle with
        | none => refuse 2
        | some o =>
          if o.b != c.b || o.g != c.g then refuse 1
          else if o.stopped then refuse 3
          else if o.closing then refuse 2
          else { s with commands := Table.put s.commands id { c with arrived := true } })

/-- NCMD_ANSWER: d and pn of the command's thread are written; the answer is held while the block is moving, and a frozen core discards it (R370, R411,
R417). -/
def execNcmdAnswer (id : Nat) (s : State) : Host.Outcome State Fault Refusal :=
  .next (match Table.find s.commands id with
    | none => s
    | some c => match c.answer with
      | none => s
      | some (x, ok) =>
        let i := groupOnly c.b c.g
        if (s.block c.b).place == .moving then s
        else if s.inert c.b then { s with commands := Table.erase s.commands id }.discard
        else
        let s := s.writeCells i c.t (.v c.reg) 2 x.toNat
        let s := s.modThread (i.tk c.t) (fun th => { th with p := if ok then th.p ||| (1#8 <<< c.pn) else th.p &&& ~~~(1#8 <<< c.pn) })
        { s with commands := Table.erase s.commands id })

/-- NCLOSE: not open, not the owner, or stopped is answered at once; else the context ends at its next CWAIT, after the owner's earlier
commands are answered, and the path waits for that end (R371). -/
def execNclose (f : RForm) (s : State) : Host.Outcome State Fault Refusal :=
  .next (s.memoryWord 0xDC f (fun i sh => s.withPending i f.ext (fun s i =>
    let q := Fields.ofR f
    let t := firstLane i.path
    let stay := fun (s : State) => s.holdPass i (lanesOf i.path) 0#32 []
    let put := fun (s : State) (x : Nat) => (s.putEach i q sh x).endPass i
    match s.holdOf i with
    | some (.nclose n) => if (Table.find s.opens n).isSome then s else put s 0
    | _ =>
      match s.readUniform i t [(q.a, q.ea, sh.a, none)] with
      | .trap r => s.trapPath i r
      | .hold => stay s
      | .vals xs =>
        let h := xs.headD 0
        let n := handleSerial h
        if !s.eachReady i q sh then stay s
        else match s.openOf h with
          | none => put s 2
          | some o =>
            if o.b != i.b || o.g != i.g then put s 1
            else if o.stopped then put { s with opens := Table.erase s.opens n } 3
            else if s.commands.any (fun e => e.2.handle == h && e.2.answer.isNone) then s.holdPath i .fence
            else { s with opens := Table.put s.opens n { o with closing := true } }.holdPath i (.nclose n))))

/-! ### SEARCH (R372, R373) -/

/-- Bytes of a query in its buffer (R372). -/
def querySize (dim etype : Nat) : Nat := ((dim * distBits etype + 7) / 8 + 7) / 8 * 8

/-- A search command fails a limit of R372 or R373, a multiple that an address or stride must be among them: BUFFER_BOUND (R373). -/
def searchBound (x : Nat) : Bool :=
  let size := byteField x 8 4
  let mask := byteField x 12 2
  let ty := byteField x 14 1
  let e := byteField x 15 1
  let nmax := byteField x 16 4
  let dim := byteField x 20 2
  let k := byteField x 22 2
  let nq := byteField x 24 2
  let wq := byteField x 26 2
  let qb := querySize dim (ty % 8)
  decide (size < 1) || decide (16384 < size) || mask == 0 || decide (4096 ≤ mask) || decide (32 ≤ ty) || !distOk ty
    || decide (e < 1) || decide (16 < e) || decide (nmax < 1) || decide (2 ^ 24 < nmax) || decide (dim < 1) || decide (distMax (ty % 8) < dim)
    || decide (k < 1) || decide (1024 < k) || decide (nq < 1) || decide (4096 < nq) || decide (wq < 1) || decide (16384 < wq)
    || decide (byteField x 48 4 < qb) || decide (byteField x 80 2 < 1) || decide (16384 < byteField x 80 2) || byteField x 82 46 != 0
    || [0, 40, 56, 64, 72].any (fun o => decide (2 ^ 57 ≤ byteField x o 8))
    || [(0, 8, 65536), (40, 8, 8), (48, 4, 8), (56, 8, 8), (64, 8, 16), (72, 8, 4)].any (fun (f : Nat × Nat × Nat) => byteField x f.1 f.2.1 % f.2.2 != 0)
    || decide (16384 < nq * wq) || decide (48 * 2 ^ 20 < nq * (qb + 8 * nmax)) || decide (2048 < k * ((nq + 63) / 64))

/-- The search of a command (R372). -/
def searchOf (i : Issue) (ctx t x : Nat) (bo : Space × Nat) : Search :=
  let dim := byteField x 20 2
  let ty := byteField x 14 1
  { b := i.b, g := i.g, t := t, ctx := ctx, origin := mkPc (i.hdr + BitVec.ofNat 64 (4 * i.widx)) i.widx, pages := []
    base := byteField x 0 8, slice := byteField x 8 4, stackSet := byteField x 12 2, etype := ty % 8, perQuery := byteField x 15 1
    nmax := byteField x 16 4, dim := dim, k := byteField x 22 2, nq := byteField x 24 2, wq := byteField x 26 2, budget := byteField x 28 4
    snapshot := BitVec.ofNat 64 (byteField x 32 8), qbase := byteField x 40 8, qstride := byteField x 48 4, qsize := querySize dim (ty % 8)
    bo := bo, entries := [], result := byteField x 64 8, code := (byteField x 72 8, byteField x 80 2) }

/-- Bytes of a result block (R372). -/
def Search.block (w : Search) : Nat := 16 + 16 * w.k

/-- The pages of a search: slices, queries, entry list, code image, result range (R373). -/
def Search.plan (w : Search) (list : Nat) : List PagePlan :=
  let stackSet := w.stackList
  ((List.range (64 * stackSet.length * w.slice)).map (fun k =>
      { va := w.base + 65536 * k
        slice := some (w.base + k / w.slice * w.slice * 65536, some (64 * stackSet.getD (k / w.slice / 64) 0 + k / w.slice % 64)) }))
    ++ (List.range w.nq).flatMap (fun q => rangePages (w.qbase + q * w.qstride) w.qsize false)
    ++ rangePages list (8 * w.nq * w.perQuery) false
    ++ rangePages w.code.1 (4 * w.code.2) false
    ++ rangePages w.result (w.nq * w.block) true

/-- SEARCH (R373). -/
def execSearch (f : RForm) (s : State) : Host.Outcome State Fault Refusal :=
  .next (s.memoryWord 0xD8 f (fun i _ => s.withPending i f.ext (fun s i =>
    let q := Fields.ofR f
    let t := firstLane i.path
    if (s.thread (i.tk t)).role == Role.helper then s.endPass i
    else match s.readUniform i t [(q.a, q.ea, Opd.one, none)] with
      | .trap r => s.trapPath i r
      | .hold => s.holdPass i (lanesOf i.path) 0#32 []
      | .vals xs =>
        let a := xs.headD 0
        if a % 128 != 0 then s.trapPath i (alignTrap a)
        else match s.sharedTarget i.b a 128 with
          | none => s.trapPath i (boundTrap a 0xFF)
          | some (sp, pa) =>
            let x := s.load sp pa 128
            if searchBound x then s.trapPath i (boundTrap a 0xFF)
            else match s.boTarget i.b (byteField x 52 4) with
              | .error _ => s.trapPath i (boTrap 7 (byteField x 52 4))
              | .ok bo =>
                let w := searchOf i (s.block i.b).ctx t x bo
                let list := byteField x 56 8
                s.launchPages i (w.plan list) (fun s pages =>
                  let entries := (List.range (w.nq * w.perQuery)).map (fun k => BitVec.ofNat 64 (bytesToNat (s.heldBytes pages (list + 8 * k) 8)))
                  if entries.any (fun e => bitAt w.stackSet (e.toNat / 2 ^ 60) == 0) then s.trapPath i (boundTrap list 0xFF)
                  else { s with searches := Table.put s.searches s.nextId { w with pages := pages, entries := entries }
                                nextId := s.nextId + 1 }.endPass i))))

/-! ### Admission and walkers (R374 to R379) -/

/-- Search-region bytes of a search on each of its stacks (R374). -/
def Search.region (w : Search) : Nat := w.nq * (w.qsize + 8 * w.nmax)
/-- Heap entries of a search on engine `e` of each of its stacks (R374). -/
def Search.heapNeed (w : Search) (e : Nat) : Nat := w.k * ((w.nq + 63 - e) / 64)

/-- Every resource of a search is free (R374). -/
def State.searchFits (s : State) (w : Search) : Bool :=
  let run := (s.searches.map Prod.snd).filter (fun x => x.admitted)
  decide ((run.map (fun x => x.nq * x.wq)).sum + w.nq * w.wq ≤ 16384)
    && w.stackList.all (fun k =>
      decide (((run.filter (fun x => bitAt x.stackSet k == 1)).map Search.region).sum + w.region ≤ 48 * 2 ^ 20 - 65536 * (s.stack k).sramLost)
        && decide (codeSlots s k < 16)
        && (List.range 64).all (fun e => decide (w.heapNeed e ≤ s.heapRoom (64 * k + e))))

/-- The lowest search slot not in use (R377). -/
def State.freeSlot (s : State) : Nat :=
  ((List.range 4096).find? (fun n => !s.searches.any (fun e => e.2.admitted && e.2.slot == n))).getD 0

/-- Stores a walker behind the others of its engine (R378). -/
def State.storeWalker (s : State) (engine : Nat) (w : Walker) : State :=
  { s with walkers := Table.put s.walkers engine (Table.get [] s.walkers engine ++ [w]) }

/-- The engine a node identifier names (R375). -/
def nodeEngine (e : W64) : Nat := 64 * (e.toNat / 2 ^ 60) + e.toNat / 2 ^ 54 % 64

/-- What admission creates: query buffers, heaps, live counts, code images and one walker per entry (R374, R377). -/
def State.takeIn (s : State) (id : Nat) (w : Search) : State :=
  let w := { w with
    admitted := true, slot := s.freeSlot
    queries := (List.range w.nq).map (fun q =>
      { live := w.perQuery, buffer := s.heldBytes w.pages (w.qbase + q * w.qstride) w.qsize }) }
  let image := s.imageWords w.pages w.code
  let s := { s with searches := Table.put s.searches id w }
  let s := w.stackList.foldl (fun s k =>
    { s with
      images := Table.put s.images (16 * id + k) image
      heaps := (List.range w.nq).foldl (fun h q => Table.put h (queryHeap id q k) { engine := 64 * k + q % 64, cap := w.k }) s.heaps }) s
  (List.range w.entries.length).foldl (fun s n =>
    let e := w.entries.getD n 0#64
    let q := n / w.perQuery
    s.storeWalker (nodeEngine e) { search := id, q := q, g := BitVec.ofNat 64 (walkerWord (w.home q) w.slot q) :: e :: List.replicate 6 0#64 }) s

/-- A page of a search's slices lies outside the memory of its context's partition (R416). -/
def State.searchViolates (s : State) (w : Search) : Bool :=
  (List.range (64 * w.stackList.length * w.slice)).any (fun k =>
    !(s.partition (s.context w.ctx).partition).owns s.lsplit (heldAddr w.pages (w.base + 65536 * k)))

/-- SEARCH_ADMISSION: the first search not yet admitted, once everything it needs is free (R374); one with a slice outside the partition's memory is an
isolation violation (R416). -/
def execSearchAdmission (s : State) : Host.Outcome State Fault Refusal :=
  .next (match s.searches.find? (fun e => !e.2.admitted) with
    | none => s
    | some (id, w) =>
      if s.searchViolates w then { s with searches := Table.erase s.searches id }.isolate 3 0 (s.block w.b).core w.ctx w.base
      else if s.searchFits w then s.takeIn id w else s)

/-- Changes one query of a search. -/
def Search.modQuery (w : Search) (q : Nat) (f : Query → Query) : Search := { w with queries := w.queries.modify q f }
def State.modSearch (s : State) (id : Nat) (f : Search → Search) : State := { s with searches := Table.modify s.searches id f }

/-- The dispatch count of a query has reached the budget (R378). -/
def Search.spent (w : Search) (x : Query) : Bool := w.budget != 0 && decide (w.budget ≤ x.dispatches)

/-- The frames of the slice of an engine in a search (R372). -/
def Search.frames (w : Search) (engine : Nat) : List Nat :=
  let r := (w.stackList.filter (fun k => decide (k < engine / 64))).length
  (List.range w.slice).map (fun k => heldAddr w.pages (w.base + ((64 * r + engine % 64) * w.slice + k) * 65536))

/-- WALKER_DISPATCH: the head walker of the engine runs on context `c`, which is 0, or another one while nothing else waits for the engine
(R362, R378). A walker that would be dispatched past its query's budget is discarded as R378 discards a message (R380; log 131). -/
def execWalkerDispatch (stack be c : Nat) (s : State) : Host.Outcome State Fault Refusal :=
  let engine := 64 * stack + be
  let key := beKey stack be c
  .next (match Table.get [] s.walkers engine with
    | [] => s
    | w :: rest =>
      if 3 < c || engineBusy s key || (c != 0 && (s.nearWaiter stack be).isSome) then s
      else match s.search w.search with
        | none => { s with walkers := Table.put s.walkers engine rest }
        | some q =>
          let x := (q.queries[w.q]?).getD { live := 0 }
          if q.spent x then
            { s with walkers := Table.set [] s.walkers engine rest }.modSearch w.search (fun q => q.modQuery w.q (fun x =>
              { x with truncated := true, live := x.live - 1 }))
          else
          let ctx : BeCtx :=
            { who := .walker w.search w.q
              g := (w.g.foldl (fun (acc : Table W64 × Nat) x => (Table.set 0#64 acc.1 acc.2 x, acc.2 + 1)) ([], 8)).1
              frames := q.frames engine, winSize := q.qsize, win := Memory.writeList [] 0 x.buffer }
          { s with
            walkers := Table.set [] s.walkers engine rest
            engines := Table.put s.engines key ctx
            searches := Table.put s.searches w.search (q.modQuery w.q (fun x => { x with dispatches := x.dispatches + 1 })) })

/-- The sender of a hop or spawn goes on: a hop ends its walker without lowering the live count again, a spawn takes the next word (R196). -/
def State.sendDone (s : State) (r : Registration) : State :=
  if r.hop then { s with engines := Table.erase s.engines r.sender }
  else s.beNext r.sender (fun c => { c with registration := none })

/-- WALKER_REGISTRATION: the home grants a hop or spawn, or discards it for the budget or the live limit (R378). -/
def execWalkerRegistration (id : Nat) (s : State) : Host.Outcome State Fault Refusal :=
  .next (match Table.find s.registrations id with
    | none => s
    | some r => match s.search r.walker.search with
      | none => s
      | some w => match w.queries[r.walker.q]? with
        | none => s
        | some x =>
          if r.granted then s
          else if w.spent x || (!r.hop && decide (w.wq ≤ x.live)) then
            let s := s.modSearch r.walker.search (fun w => w.modQuery r.walker.q (fun x =>
              { x with truncated := true, live := if r.hop then x.live - 1 else x.live }))
            { s with registrations := Table.erase s.registrations id }.sendDone r
          else
            let s := s.modSearch r.walker.search (fun w => w.modQuery r.walker.q (fun x =>
              { x with live := if r.hop then x.live else x.live + 1 }))
            { s with registrations := Table.put s.registrations id { r with granted := true } })

/-- WALKER_MESSAGE: a granted message enters the walker store of its target, and its sender goes on (R377, R378). -/
def execWalkerMessage (id : Nat) (s : State) : Host.Outcome State Fault Refusal :=
  .next (match Table.find s.registrations id with
    | none => s
    | some r =>
      if r.granted then ({ s with registrations := Table.erase s.registrations id }.storeWalker r.target r.walker).sendDone r else s)

/-- WALKER_END_NOTICE: the live count falls; a reported walker sets the stopped flag (R378). -/
def execWalkerEndNotice (id : Nat) (s : State) : Host.Outcome State Fault Refusal :=
  .next (match Table.find s.endNotices id with
    | none => s
    | some (search, q, stopped) =>
      { s with endNotices := Table.erase s.endNotices id }.modSearch search (fun w => w.modQuery q (fun x =>
        { x with live := x.live - 1, stopped := x.stopped || stopped })))

/-- The result block of a query (R379). -/
def resultBlock (k : Nat) (es : List Entry) (nan : Nat) (x : Query) : List Byte :=
  natToBytes 4 es.length ++ natToBytes 4 (min nan (2 ^ 32 - 1)) ++ natToBytes 1 (x.truncated.toNat + 2 * x.stopped.toNat) ++ natToBytes 3 0
    ++ natToBytes 4 (min x.dispatches (2 ^ 32 - 1)) ++ es.flatMap (fun e => natToBytes 16 e.bits) ++ List.replicate (16 * (k - es.length)) 0#8

/-- Frees what admission reserved, once every query is merged (R374). -/
def State.freeSearch (s : State) (id : Nat) (w : Search) : State :=
  if w.queries.all (fun x => x.merged) then
    { s with
      searches := Table.erase s.searches id
      images := s.images.filter (fun e => e.1 / 16 != id)
      heaps := s.heaps.filter (fun e => !(decide (queryHeap id 0 0 ≤ e.1) && decide (e.1 < queryHeap (id + 1) 0 0))) }
  else s

/-- QUERY_MERGE: with no walker left, the home merges the heaps of every mask stack, writes the result block and counts it (R379). -/
def execQueryMerge (search q : Nat) (s : State) : Host.Outcome State Fault Refusal :=
  .next (match s.search search with
    | none => s
    | some w => match w.queries[q]? with
      | none => s
      | some x =>
        if !w.admitted || x.merged || x.live != 0 then s
        else
          let hs := w.stackList.map (fun k => Table.get ({ engine := 0, cap := 0 } : BeHeap) s.heaps (queryHeap search q k))
          let es := hs.foldl (fun l h => h.entries.foldl (offerEntry w.k) l) []
          let s := s.putHeld w.pages (w.result + q * w.block) (resultBlock w.k es ((hs.map BeHeap.nan).sum) x)
          let s := s.sendCount { space := w.bo.1, addr := w.bo.2, n := w.block, near := some w.b }
          let w := w.modQuery q (fun x => { x with merged := true })
          { s with searches := Table.put s.searches search w }.freeSearch search w)

end Sys2Proof.Machine
end

