-- ==== Sys2Proof/Machine/Queue.lean ====
section
/-! DEFINITION. Command queues and their packets but for GRID and CGRID: queue records, tail writes, parsing, completion, stops, and LAUNCH
(12 R332 to R337, R348). -/

namespace Sys2Proof.Machine

def State.queue (s : State) (n : Nat) : Queue := Table.get {} s.queues n
def State.setQueue (s : State) (n : Nat) (q : Queue) : State := { s with queues := Table.put s.queues n q }
def State.modQueue (s : State) (n : Nat) (f : Queue → Queue) : State := { s with queues := Table.modify s.queues n f }

/-! ### Queue records (R332, R334) -/

/-- The 64 bytes of a queue's record. -/
def Queue.record64 (q : Queue) : Nat :=
  q.base + 2 ^ 64 * q.n + 2 ^ 72 * (q.prio + (if q.fed then 4 else 0) + (if q.enabled then 8 else 0)) + 2 ^ 80 * q.ctx + 2 ^ 96 * q.err
    + 2 ^ 128 * q.head + 2 ^ 192 * q.tail + 2 ^ 256 * q.prog + 2 ^ 320 * q.captured.getD 0 + (if q.captured.isSome then 2 ^ 384 else 0)

/-- The queue that 64 bytes describe. -/
def Queue.ofRecord (x : Nat) : Queue :=
  { base := fieldOf x 0 64, n := fieldOf x 64 8, prio := fieldOf x 72 2, fed := fieldOf x 74 1 == 1, enabled := fieldOf x 75 1 == 1
    ctx := fieldOf x 80 12, err := fieldOf x 96 32, head := fieldOf x 128 64, tail := fieldOf x 192 64, prog := fieldOf x 256 64
    captured := if fieldOf x 384 1 == 1 then some (fieldOf x 320 64) else none }

/-- Limits of R332: the ring's base and size, the fields shown as zero, offsets that are multiples of 4. -/
def recordLegal (x : Nat) : Bool :=
  let q := Queue.ofRecord x
  decide (12 ≤ q.n) && decide (q.n ≤ 26) && q.base % 2 ^ q.n == 0 && decide (q.base < 2 ^ 57) && fieldOf x 76 4 == 0 && fieldOf x 92 4 == 0
    && fieldOf x 385 127 == 0 && q.head % 4 == 0 && q.tail % 4 == 0 && q.prog % 4 == 0 && decide (q.head ≤ q.tail)
    && decide (q.tail ≤ q.head + 2 ^ q.n)

/-- Writes the slot's state back to its record. -/
def State.saveQueue (s : State) (slot : Nat) : State :=
  let q := s.queue slot
  { s with mem := s.mem.writeNat q.record 64 q.record64 }

/-- An error stops a queue: state 0b11, err, its MSI-X vector and a context event (R337). -/
def State.stopQueue (s : State) (slot err : Nat) : State :=
  let s := (s.modQueue slot (fun q => { q with state := 3, err := err, held := none })).saveQueue slot
  { s with outbox := s.outbox ++ [Out.msix slot] }.event 0 4 slot (s.queue slot).ctx err (s.queue slot).head

/-! ### Completion (R335) -/

/-- The completions at the front that can be committed: what is left, progress, and how many vectors are raised. -/
def commitFront (l : List Uncommitted) (prog irqs : Nat) : List Uncommitted × Nat × Nat :=
  match l with
  | [] => ([], prog, irqs)
  | u :: rest =>
    match u.grid with
    | some _ => (u :: rest, prog, irqs)
    | none => commitFront rest (u.upTo.getD prog) (irqs + (if u.irq then 1 else 0))

/-- Commits completions in queue order, while the slot is neither out nor switching; what a stopped slot commits stands in its record too (R334, R335). -/
def State.commitQueue (s : State) (slot : Nat) : State :=
  let q := s.queue slot
  if q.state == 0 || q.state == 2 then s
  else
    let r := commitFront q.uncommitted q.prog 0
    let s := s.setQueue slot { q with uncommitted := r.1, prog := r.2.1 }
    let s := if q.state == 3 then s.saveQueue slot else s
    { s with outbox := s.outbox ++ List.replicate r.2.2 (Out.msix slot) }

/-- A grid has ended: its packet is complete (R343). -/
def State.gridComplete (s : State) (slot key : Nat) : State :=
  (s.modQueue slot (fun q => { q with uncommitted := q.uncommitted.map (fun u => if u.grid == some key then { u with grid := none } else u) })).commitQueue slot

/-! ### Packets that take effect -/

/-- Leaves the buffers that have been parsed to their end: each one's packet is then complete (R335, R336). -/
def leaveFrames (fs : List Frame) (u : List Uncommitted) : List Frame × List Uncommitted :=
  match fs with
  | [] => ([], u)
  | f :: rest => if f.left == 0 then leaveFrames rest (u ++ [{ upTo := f.upTo, irq := f.irq, grid := none }]) else (f :: rest, u)

/-- Moves past the packet of `k` words after its header: in the innermost buffer or in the ring. The offset past it counts for progress
only in the ring. -/
def Queue.past (q : Queue) (k : Nat) : Queue × Option Nat :=
  match q.frames with
  | [] => ({ q with head := q.head + 4 * (k + 1) }, some (q.head + 4 * (k + 1)))
  | f :: rest => ({ q with frames := { f with addr := f.addr + 4 * (k + 1), left := f.left - (k + 1) } :: rest }, none)

/-- A packet takes effect: the parser moves past it and its completion waits for `grid`, if it names one (R335). -/
def State.effect (s : State) (slot : Nat) (flags : BitVec 12) (k : Nat) (grid : Option Nat) : State :=
  let r := (s.queue slot).past k
  let fr := leaveFrames r.1.frames (r.1.uncommitted ++ [{ upTo := r.2, irq := flags.getLsbD 1, grid := grid }])
  ((s.setQueue slot { r.1 with frames := fr.1, uncommitted := fr.2, held := none }).commitQueue slot).pulse r.1.ctx

/-- Parses a packet of the queue being executed: its count, its flag bits, SER, then its own effect (R335, R337). -/
def State.packet (s : State) (flags : BitVec 12) (words : List W32) (count : Option Nat) (go : Nat → Queue → State) : State :=
  match s.cur with
  | .queue slot =>
    let q := s.queue slot
    if q.state != 1 || !q.enabled || q.fault.isSome then s
    else if count.isSome && count != some words.length then s.stopQueue slot 3
    else if flags.toNat / 4 != 0 then s.stopQueue slot 10
    else if flags.getLsbD 0 && !q.uncommitted.isEmpty then s
    else go slot q
  | _ => s

/-- Two words of a packet as a 64-bit value. -/
def word64 (ws : List W32) (k : Nat) : Nat := (ws.getD k 0#32).toNat + 2 ^ 32 * (ws.getD (k + 1) 0#32).toNat

/-- An address of a packet is a multiple of `k` with bits 63:57 zero (R335, R337). -/
def packetAddr (a k : Nat) : Bool := a % k == 0 && decide (a < 2 ^ 57)

/-- What a command core's access in a queue's context comes to. -/
inductive QueueReach where
  | ok (sp : Space) (a : Nat)
  /-- The queue waits under a fault record, or has stopped. -/
  | gone (s : State)
  deriving DecidableEq, Repr

/-- Translates an access of a queue: a serviceable fault holds the queue for the fault service, any other one and a poisoned
sector stop it with FETCH (R336, R337, R397). -/
def State.queueReach (s : State) (slot va w : Nat) (n : Need) : QueueReach :=
  let ctx := (s.queue slot).ctx
  match s.reachNow ctx none va w n with
  | .ok sp a _ => if n.r && s.poisoned sp a then .gone (s.stopQueue slot 5) else .ok sp a
  | .fault c =>
    if serviceable c then
      let f := s.raiseFault ctx va c 6 (if n.w then 1 else 0) 2
      .gone (f.2.modQueue slot (fun q => { q with fault := some f.1 }))
    else .gone ((s.reportCause c 0 ctx va).stopQueue slot 5)
  | .miss => .gone s

/-- NOP takes effect at parse and completes at effect (R335). -/
def execNopPacket (flags : BitVec 12) (words : List W32) (s : State) : Host.Outcome State Fault Refusal :=
  .next (s.packet flags words none (fun slot _ => s.effect slot flags words.length none))

/-- IB calls a buffer: its packets are parsed next, and it completes with its last one (R336). -/
def execIb (flags : BitVec 12) (words : List W32) (s : State) : Host.Outcome State Fault Refusal :=
  .next (s.packet flags words (some 3) (fun slot q =>
    let a := word64 words 0
    let n := (words.getD 2 0#32).toNat
    if !packetAddr a 4 || n == 0 || 2 ^ 20 < n then s.stopQueue slot 10
    else if 4 ≤ q.frames.length then s.stopQueue slot 4
    else
      let r := q.past 3
      (s.setQueue slot { r.1 with frames := { addr := a, left := n, upTo := r.2, irq := flags.getLsbD 1 } :: r.1.frames }).pulse q.ctx))

/-- The bits from `i` to `i + n - 1` of a bitmap are all set; read word by word from the one that holds `i`. -/
def State.bitsSet (s : State) (slot va i n fuel : Nat) : Except State Bool :=
  match fuel with
  | 0 => .ok true
  | k + 1 =>
    if n == 0 then .ok true
    else match s.queueReach slot (va + 8 * (i / 64)) 8 Need.read with
      | .gone s' => .error s'
      | .ok sp a =>
        let here := min n (64 - i % 64)
        let w := s.load sp a 8
        if (List.range here).all (fun j => (w / 2 ^ (i % 64 + j)) % 2 == 1) then s.bitsSet slot va (i + here) (n - here) k else .ok false

/-- WAITBIT takes effect when every named bit is set, and holds back every later packet until then (R335). -/
def execWaitbit (flags : BitVec 12) (words : List W32) (s : State) : Host.Outcome State Fault Refusal :=
  .next (s.packet flags words (some 4) (fun slot _ =>
    let a := word64 words 0
    let i := (words.getD 2 0#32).toNat
    let n := (words.getD 3 0#32).toNat
    if !packetAddr a 8 then s.stopQueue slot 10
    else match s.bitsSet slot a i n (n / 64 + 2) with
      | .error s' => s'
      | .ok true => s.effect slot flags words.length none
      | .ok false => s.modQueue slot (fun q => { q with held := some (.waitbit flags words) })))

/-- The condition of a WAITMEM (R335). -/
def waitMet (cond x v : Nat) : Bool := if cond == 0 then x == v else if cond == 1 then x != v else decide (v ≤ x)

/-- Reads the word of a WAITMEM as an acquire at sys scope and lets the packet take effect if the condition is met (R335). -/
def State.tryWaitmem (s : State) (slot : Nat) (flags : BitVec 12) (words : List W32) : State :=
  match s.queueReach slot (word64 words 0) 8 Need.read with
  | .gone s' => s'
  | .ok sp a =>
    if waitMet (words.getD 4 0#32).toNat (s.load sp a 8) (word64 words 2) then s.effect slot flags words.length none
    else s.modQueue slot (fun q => { q with held := some (.waitmem flags words) })

/-- Reading again the word that a queue's WAITMEM waits for would change the queue (R335). -/
def State.waitDue (s : State) (slot : Nat) : Bool :=
  let q := s.queue slot
  match q.held with
  | some (.waitmem flags words) => q.state == 1 && q.fault.isNone && decide ((s.tryWaitmem slot flags words).queue slot ≠ q)
  | _ => false

/-- WAITMEM (R335). -/
def execWaitmem (flags : BitVec 12) (words : List W32) (s : State) : Host.Outcome State Fault Refusal :=
  .next (s.packet flags words (some 5) (fun slot _ =>
    if !packetAddr (word64 words 0) 8 || 2 < (words.getD 4 0#32).toNat then s.stopQueue slot 10 else s.tryWaitmem slot flags words))

/-- WAITMEM_RECHECK: the word of the WAITMEM that holds the queue is read again (R335). -/
def execWaitmemRecheck (s : State) : Host.Outcome State Fault Refusal :=
  match s.cur with
  | .queue slot =>
    let q := s.queue slot
    .next (if q.state != 1 || q.fault.isSome then s
    else match q.held with
      | some (.waitmem flags words) => s.tryWaitmem slot flags words
      | _ => s)
  | _ => .next s

/-- An 8-byte store by a queue, then its packet's effect. -/
def State.queueStore (s : State) (slot : Nat) (flags : BitVec 12) (words : List W32) (x : Nat) : State :=
  match s.queueReach slot (word64 words 0) 8 Need.write with
  | .gone s' => s'
  | .ok sp a => (s.store sp a 8 x).effect slot flags words.length none

/-- WRITE: an 8-byte store, a release at sys scope (R335). -/
def execWrite (flags : BitVec 12) (words : List W32) (s : State) : Host.Outcome State Fault Refusal :=
  .next (s.packet flags words (some 4) (fun slot _ =>
    if !packetAddr (word64 words 0) 8 then s.stopQueue slot 10 else s.queueStore slot flags words (word64 words 2)))

/-- TSTAMP writes the timestamp counter after every earlier packet has completed (R335). -/
def execTstamp (flags : BitVec 12) (words : List W32) (s : State) : Host.Outcome State Fault Refusal :=
  .next (s.packet flags words (some 2) (fun slot q =>
    if !packetAddr (word64 words 0) 8 then s.stopQueue slot 10
    else if !q.uncommitted.isEmpty then s
    else s.queueStore slot flags words s.time))

/-! ### Tail writes (R333, R334) -/

/-- The conditions of R333 on a value written to qtail. -/
def Queue.tailOk (q : Queue) (tail v : Nat) : Bool := v % 4 == 0 && decide (tail ≤ v) && decide (v ≤ q.head + 2 ^ q.n)

/-- QTAIL_WRITE: sets the tail, or the captured tail while the slot is out or switching, with an event for the command cores; a stopped slot keeps it in its
record; a bad value stops the queue with TAIL; the tail of a device-fed queue is not the host's (R333, R334, R338). -/
def execQtailWrite (slot : Nat) (v : W64) (s : State) : Host.Outcome State Fault Refusal :=
  let x := v.toNat
  .next (match Table.find s.queues slot with
  | none => s
  | some q =>
    if q.fed then s.event 0 5 slot q.ctx 0 x
    else
      let tail := max q.tail (q.captured.getD q.tail)
      if !q.tailOk tail x then (if q.state == 3 then s else s.stopQueue slot 1)
      else if q.state == 0 || q.state == 2 then (s.setQueue slot { q with captured := some x }).saveQueue slot
      else
        let s := s.setQueue slot { q with tail := x }
        if q.state == 3 then s.saveQueue slot else s.post (.queue slot))

/-! ### LAUNCH (R348) -/

/-- Writes words to a ring from an offset on, each at its own virtual address; the first one that cannot be written decides. -/
def State.ringWrite (s : State) (q : Queue) (off : Nat) (ws : List Nat) : Except (Nat × Nat) State :=
  match ws with
  | [] => .ok s
  | x :: rest =>
    let va := q.base + off % 2 ^ q.n
    match s.reachNow q.ctx none va 4 Need.write with
    | .ok sp a _ => (s.store sp a 4 x).ringWrite q (off + 4) rest
    | .fault c => .error (va, c)
    | .miss => .error (va, 1)

/-- The queue takes appends of a context's blocks: device-fed, enabled, and of that context. -/
def Queue.feeds (q : Queue) (ctx : Nat) : Bool := q.fed && q.enabled && (q.state == 1 || q.state == 2) && q.ctx == ctx

/-- The append itself, once the pass has released: a ring page that cannot be written stops the pass as an access of its threads would. -/
def State.append (s : State) (i : Issue) (slot : Nat) (ws : List Nat) (done : State → State) : State :=
  let q := s.queue slot
  match s.ringWrite q q.tail ws with
  | .ok s' => done ((s'.setQueue slot { q with tail := q.tail + 4 * ws.length }).post (.queue slot))
  | .error (va, c) =>
    if serviceable c then
      let f := s.raiseFault q.ctx va c 0 1 (s.unitOf i)
      ((f.2.parkOnFault i (firstLane i.path) f.1 (faultTrap va c 1)).parkAll i (firstLane i.path) true).closePass i
    else s.trapPath i (faultTrap va c 1)

/-- LAUNCH: the packet is read once the earlier stores of the group have been performed, as its release has it (R233, R272, R348). -/
def execLaunch (f : RForm) (s : State) : Host.Outcome State Fault Refusal :=
  .next (s.memoryWord 0xD6 f (fun i sh => s.withPending i f.ext (fun s i =>
    let q := Fields.ofR f
    let t := firstLane i.path
    let stay := s.holdPass i (lanesOf i.path) 0#32 []
    let put := fun (x : Nat) (s : State) => (s.putEach i q sh x).endPass i
    match s.readUniform i t (boSources f sh) with
      | .trap r => s.trapPath i r
      | .hold => stay
      | .vals xs =>
        let a := (argsOf (xs ++ [0, 0])).a
        let b := (argsOf (xs ++ [0, 0])).b
        let qu := s.queue a
        if !s.eachReady i q sh then stay
        else if (s.thread (i.tk t)).role == Role.helper then put 2 s
        else if !qu.feeds (s.block i.b).ctx then s.trapPath i { code := 3, tval := BitVec.ofNat 64 a, info := 21#64 }
        else if b % 4 != 0 then s.trapPath i (alignTrap b)
        else match s.sharedTarget i.b b 4 with
          | none => s.trapPath i (boundTrap b 0xFF)
          | some (sp, ha) =>
            let count := fieldOf (s.load sp ha 4) 12 12
            if !s.storesDone i s.nextId then s.holdPath i .fence
            else if 63 < count || (s.sharedTarget i.b b (4 * (count + 1))).isNone then s.trapPath i (boundTrap b 0xFF)
            else if 2 ^ qu.n < qu.tail - qu.head + 4 * (count + 1) then put 1 s
            else s.append i a ((List.range (count + 1)).map (fun k => s.load sp (ha + 4 * k) 4)) (put 0))))

end Sys2Proof.Machine
end

