-- ==== Sys2Proof/Machine/Grids.lean ====
section
/-! DEFINITION. Grids: launch records, acceptance, ready blocks, effective priority, the forming of blocks, their end, continuation pools and
bins (12 R339 to R347, R354; 02 R17, R18, R23; 05 R117; 13 R359). -/

namespace Sys2Proof.Machine

/-! ### Launch records (R339) -/

/-- Bytes `lo` to `lo + n - 1` of a launch record. -/
def lb (x lo n : Nat) : Nat := fieldOf x (8 * lo) (8 * n)

/-- The fields of a launch record. -/
def Launch.ofBits (x : Nat) : Launch :=
  { entry := lb x 0 8, arg := lb x 8 8, stream := lb x 16 8, spill := lb x 24 8, tiles := lb x 32 8, deps := lb x 40 8, image := lb x 48 8
    x := lb x 56 4, y := lb x 60 4, z := lb x 64 4, slots := lb x 68 4, shm := lb x 72 2, mjoin := lb x 74 2, macros := lb x 76 2
    rbmask := lb x 78 2, rboff := lb x 80 2, g := lb x 82 1, live := lb x 83 1, c := lb x 84 1, nreg := 16 * lb x 85 1, tags := lb x 86 1
    w := lb x 87 1, pool := if lb x 89 1 % 2 == 1 then some (lb x 88 1) else none, clear := lb x 89 1 / 2 % 2 == 1
    poolBase := lb x 96 8, capacity := lb x 104 4, timer := lb x 108 2, own := lb x 110 1 }

def Launch.blocks (l : Launch) : Nat := l.x * l.y * l.z

/-- The limits of R339, for GRID or CGRID. -/
def launchLegal (cont : Bool) (x : Nat) : Bool :=
  let l := Launch.ofBits x
  let n := l.blocks
  [l.entry, l.arg, l.stream, l.spill, l.tiles, l.deps, l.image, l.poolBase].all (fun a => decide (a < 2 ^ 57))
    && l.entry % 4 == 0 && l.stream % 8 == 0 && l.spill % 128 == 0 && l.tiles % 8 == 0 && l.deps % 8 == 0 && l.image % 4 == 0
    && decide (l.slots ≤ 65536) && decide (l.shm ≤ 384) && (l.stream != 0 || l.mjoin == 0)
    && decide (l.macros ≤ 256) && (l.image != 0 || l.macros == 0) && l.rboff % 16 == 0
    && decide (1 ≤ l.g) && decide (l.g ≤ 32) && decide (1 ≤ l.live) && decide (l.live ≤ 32) && decide (32 ≤ l.nreg) && decide (l.nreg ≤ 256)
    && decide (l.tags ≤ 64) && (if l.deps == 0 then l.w == 0 else decide (1 ≤ l.w) && decide (l.w ≤ 64))
    && lb x 89 1 / 4 == 0 && lb x 90 6 == 0 && lb x 111 17 == 0
    && (if cont then
          n == 0 && l.x == 0 && l.y == 0 && l.z == 0 && l.g == 1 && l.c == 1 && l.live == 32 && l.tiles == 0 && l.deps == 0
            && l.poolBase % 64 == 0 && decide (1 ≤ l.capacity) && decide (1 ≤ l.timer)
        else
          decide (1 ≤ n) && decide (n < 2 ^ 32) && decide (1 ≤ l.c) && decide (l.c ≤ 8) && n % (if l.c == 0 then 1 else l.c) == 0 && l.poolBase == 0)

/-! ### Capacities (R349, R351) -/

/-- What a block needs of a core: groups, registers, shared KiB, tags, a matrix engine, and its macros. -/
structure Needs where
  g : Nat
  nreg : Nat
  shm : Nat
  tags : Nat
  stream : Bool
  image : Nat
  macros : Nat
  ctx : Nat
  deriving DecidableEq, Repr

def Launch.needs (l : Launch) (ctx : Nat) : Needs :=
  { g := l.g, nreg := l.nreg, shm := l.shm, tags := l.tags, stream := l.stream != 0, image := l.image, macros := l.macros, ctx := ctx }
def Block.needs (b : Block) : Needs :=
  { g := b.gcnt, nreg := b.nreg, shm := b.shm / 1024, tags := b.ntag, stream := b.stream, image := b.macroImage, macros := b.macroCount, ctx := b.ctx }

/-- A frozen core counts as having no tracks (R417). -/
def State.coreUsable (s : State) (n : Nat) : Bool := (s.core n).trk != 0 && (s.core n).reg != 0 && !s.coreFrozen n

/-- The core could hold the block if it held nothing else (R351). -/
def State.couldHold (s : State) (n : Nat) (nd : Needs) : Bool :=
  let c := s.core n
  s.coreUsable n && decide (nd.g ≤ c.gs) && decide (nd.g * 32 * nd.nreg ≤ c.reg * 1024) && decide (nd.shm ≤ 4 * c.shm) && decide (nd.tags ≤ 64)
    && decide (nd.macros ≤ 256) && (!nd.stream || c.me)

/-- The core cluster of a core, as a bit of the partition's mask (R404). -/
def clusterOf (core : Nat) : Nat := core / 8
/-- The partition that owns a core. -/
def State.ownerOfCore (s : State) (core : Nat) : Option Nat :=
  (s.partitions.find? (fun e => e.2.valid && e.2.clusters.getLsbD (clusterOf core))).map Prod.fst
/-- The cores of a context's partition in ascending order. -/
def State.coresOf (s : State) (ctx : Nat) : List Nat :=
  (List.range 256).filter (fun n => (s.partition (s.context ctx).partition).clusters.getLsbD (clusterOf n))

/-- Some core cluster of the context's partition can hold C blocks at once, each on a core of its own (R340, R351). -/
def State.clusterFits (s : State) (l : Launch) (ctx : Nat) : Bool :=
  (List.range 32).any (fun k => (s.partition (s.context ctx).partition).clusters.getLsbD k
    && decide (l.c ≤ ((List.range 8).filter (fun j => s.couldHold (8 * k + j) (l.needs ctx))).length))

/-! ### Acceptance (R340) -/

def gridKey (ctx handle : Nat) : Nat := 1024 * ctx + handle
def State.grid (s : State) (key : Nat) : Grid := Table.get { ctx := 0, queue := 0, order := 0, cont := false, l := {} } s.grids key
def State.modGrid (s : State) (key : Nat) (f : Grid → Grid) : State := { s with grids := Table.modify s.grids key f }

/-- The open pool of a context under a number: its continuation grid (R344). -/
def State.poolGrid (s : State) (ctx pool : Nat) : Option Nat :=
  (s.grids.find? (fun e => e.2.ctx == ctx && e.2.cont && e.2.l.own == pool)).map Prod.fst

/-- The lowest handle that no unfinished grid of the context has. -/
def State.freeHandle (s : State) (ctx : Nat) : Option Nat := (List.range 1024).find? (fun h => (Table.find s.grids (gridKey ctx h)).isNone)

/-- Zeroes `n` words of a tile bitmap. -/
def State.zeroWords (s : State) (slot va n : Nat) : Except State State :=
  match n with
  | 0 => .ok s
  | k + 1 =>
    match s.queueReach slot va 8 Need.write with
    | .gone s' => .error s'
    | .ok sp a => (s.store sp a 8 0).zeroWords slot (va + 8) k

/-- The steps of R340 on a launch record. -/
def State.acceptGrid (s : State) (cont : Bool) (flags : BitVec 12) (words : List W32) : State :=
  s.packet flags words (some 32) (fun slot q =>
    let x := words.foldr (fun w acc => w.toNat + 2 ^ 32 * acc) 0
    let l := Launch.ofBits x
    if !launchLegal cont x then s.stopQueue slot 6
    else if !s.clusterFits l q.ctx then s.stopQueue slot 7
    else if cont && (s.poolGrid q.ctx l.own).isSome then s.stopQueue slot 9
    else match s.freeHandle q.ctx with
      | none => s
      | some h =>
        match (if l.clear && l.tiles != 0 then s.zeroWords slot l.tiles ((l.blocks + 63) / 64) else .ok s) with
        | .error s' => s'
        | .ok s =>
          let key := gridKey q.ctx h
          let s := { s with
            grids := Table.put s.grids key { ctx := q.ctx, queue := slot, order := s.nextId, cont := cont, l := l }
            nextId := s.nextId + 1
            bitmaps := if l.tiles == 0 then s.bitmaps else (q.ctx, l.tiles, l.blocks) :: s.bitmaps }
          s.effect slot flags 32 (some key))

/-- GRID (R340). -/
def execGrid (flags : BitVec 12) (words : List W32) (s : State) : Host.Outcome State Fault Refusal := .next (s.acceptGrid false flags words)
/-- CGRID (R340, R344). -/
def execCgrid (flags : BitVec 12) (words : List W32) (s : State) : Host.Outcome State Fault Refusal := .next (s.acceptGrid true flags words)

/-! ### Readiness and priority (R342, R354) -/

/-- A bit of a bitmap as it stands in memory, nothing where it cannot be read. -/
def State.bitmapBit (s : State) (ctx va k : Nat) : Option Bool :=
  match s.reachNow ctx none (va + 8 * (k / 64)) 8 Need.read with
  | .ok sp a _ => some ((s.load sp a 8 / 2 ^ (k % 64)) % 2 == 1)
  | _ => none

/-- The block count of the grid that registered a bitmap (R342). -/
def State.registered (s : State) (ctx va : Nat) : Option Nat :=
  (s.bitmaps.find? (fun e => e.1 == ctx && e.2.1 == va)).map (fun e => e.2.2)

/-- Block `i` of a grid is ready (R342). -/
def State.blockReady (s : State) (gr : Grid) (i : Nat) : Bool :=
  gr.l.deps == 0 || (List.range gr.l.w).all (fun j =>
    let k := i * gr.l.w + j
    (match s.registered gr.ctx gr.l.deps with | some n => decide (n ≤ k) | none => false) || s.bitmapBit gr.ctx gr.l.deps k == some true)

/-- The grid has a waiting block that is not ready. -/
def State.waitsOnDeps (s : State) (gr : Grid) : Bool :=
  gr.l.deps != 0 && (List.range gr.l.blocks).any (fun i => (Table.find gr.bound i).isNone && !s.blockReady gr i)

/-- The queue's held WAITBIT names the bitmap of a grid. -/
def Queue.waitsOnBits (q : Queue) (gr : Grid) : Bool :=
  match q.held with
  | some (.waitbit _ ws) => q.ctx == gr.ctx && q.state != 3 && gr.l.tiles != 0 && decide (gr.l.tiles ≤ word64 ws 0)
      && decide (word64 ws 0 < gr.l.tiles + 8 * ((gr.l.blocks + 63) / 64))
  | _ => false

/-- Effective priority: the queue's, or that of any dependant, lent transitively (R354). -/
def State.gridPriority (s : State) (fuel key : Nat) : Nat :=
  let gr := s.grid key
  let own := (s.queue gr.queue).prio
  match fuel with
  | 0 => own
  | k + 1 =>
    let byGrids := s.grids.foldl (fun m e =>
      if e.1 != key && e.2.ctx == gr.ctx && gr.l.tiles != 0 && e.2.l.deps == gr.l.tiles && (s.queue e.2.queue).state != 3 && s.waitsOnDeps e.2
      then max m (s.gridPriority k e.1) else m) own
    s.queues.foldl (fun m e => if e.2.waitsOnBits gr then max m e.2.prio else m) byGrids

def State.priority (s : State) (key : Nat) : Nat := s.gridPriority s.grids.length key
/-- The effective priority of a block's grid. -/
def Block.gridKey (bl : Block) : Nat := Machine.gridKey bl.ctx bl.grid
def State.blockPriority (s : State) (b : Nat) : Nat := s.priority (s.block b).gridKey

/-! ### Forming a block (R23, R341, R346) -/

/-- What one group of a block starts with. -/
structure Seed where
  live : Nat
  pc : W64
  payload : List (List W32)
  deriving DecidableEq, Repr

/-- The threads of a group: `live` live ones, helpers up to the end of the last quad (R18), each with its payload (R346). -/
def seedThreads (gk : Nat) (sd : Seed) (tbl : Table Thread) : Table Thread :=
  (List.range (4 * ((sd.live + 3) / 4))).foldl (fun tbl t =>
    let v := ((sd.payload.getD t []).zip (List.range 32)).foldl (fun v p => Table.set ({} : Cell) v p.2 { val := p.1 }) []
    Table.put tbl (tkey gk t) { role := if t < sd.live then .live else .helper, tpc := sd.pc, v := v }) tbl

def maskBelow (n : Nat) : W32 := BitVec.ofNat 32 (2 ^ n - 1)

/-- A group as it is formed; the buffer records that rbmask names are loaded before its first pass (R23, R224, R227, R339, R341). -/
def seedGroup (sd : Seed) (spill cap now : Nat) (loads : List Nat) (base : Nat) : Group :=
  { loads := loads, loadBase := base, live := maskBelow sd.live, help := maskBelow (4 * ((sd.live + 3) / 4)) &&& ~~~maskBelow sd.live
    spillBase := BitVec.ofNat 64 spill, spillCap := cap, waitSince := some now }

/-- Reads `n` bytes for a block about to start, byte by byte: the first failure as (address, cause). -/
def State.readFor (s : State) (ctx va n : Nat) : Except (Nat × Nat) Nat :=
  match n with
  | 0 => .ok 0
  | k + 1 =>
    match s.reachNow ctx none va 1 Need.read with
    | .ok sp a _ => match s.readFor ctx (va + 1) k with
      | .ok x => .ok (s.load sp a 1 + 256 * x)
      | e => e
    | .fault c => .error (va, c)
    | .miss => .error (va, 1)

/-- The macros of an image: each a word count and that many words (R339). A count outside 1 to 32 gives an empty body. -/
def State.readMacros (s : State) (ctx image : Nat) (ms : List Nat) : Except (Nat × Nat) (List (List W32)) :=
  match ms with
  | [] => .ok []
  | m :: rest => do
    let x ← s.readFor ctx (image + 132 * m) 132
    let n := fieldOf x 0 32
    let l ← s.readMacros ctx image rest
    .ok ((if n == 0 || 32 < n then [] else (List.range n).map (fun k => BitVec.ofNat 32 (fieldOf x (32 * (k + 1)) 32))) :: l)

/-- Where a block is to stand: core, first slot, first tag, shared base in KiB, first macro slot. -/
structure Spot where
  core : Nat
  slot : Nat
  tag : Nat
  shm : Nat
  macros : Nat
  deriving DecidableEq, Repr

def tagMask (tag n : Nat) : W64 := BitVec.ofNat 64 ((2 ^ n - 1) * 2 ^ tag)

/-- Forms a block on a core: its groups and threads at their first state, its sequencer running if it has a stream; the near cache of
the core is discarded (R23, R114, R118, R214, R341, R346). -/
def State.formBlock (s : State) (sp : Spot) (key lin vcore : Nat) (fm : Option FormedGroup) : Except (Nat × Nat) State := do
  let gr := s.grid key
  let l := gr.l
  let macros ← s.readMacros gr.ctx l.image (List.range l.macros)
  let loads := (List.range 16).filter (fun n => (l.rbmask / 2 ^ n) % 2 == 1)
  let b := s.nextId
  let idx := match fm with
    | some f => (f.serial, f.die, 0)
    | none => (lin % l.x, lin / l.x % l.y, lin / l.x / l.y)
  let seeds := (List.range l.g).map (fun g => match fm with
    | some f => ({ live := f.recs.length, pc := mkPc f.pc 0, payload := f.recs } : Seed)
    | none => { live := if g + 1 == l.g then l.live else 32, pc := mkPc (BitVec.ofNat 64 l.entry) 0, payload := [] })
  let bl : Block :=
    { ctx := gr.ctx, grid := key % 1024, lin := lin, bx := BitVec.ofNat 32 idx.1, by_ := BitVec.ofNat 32 idx.2.1, bz := BitVec.ofNat 32 idx.2.2
      gcnt := l.g, cbx := vcore % 8, vcore := vcore, nreg := l.nreg, core := sp.core, macros := macros, slot := sp.slot, tag := sp.tag
      ntag := l.tags, shmBase := sp.shm, macroBase := sp.macros, macroImage := l.image, macroCount := l.macros, stream := l.stream != 0
      bindOrder := s.nextId, shm := 1024 * l.shm, cluster := lin / l.c, tgal := tagMask sp.tag l.tags, mjoin := BitVec.ofNat 16 l.mjoin
      msq := if l.stream == 0 then {} else
        { entry := l.stream, q := Table.set 0#64 (Table.set 0#64 [] 30 (BitVec.ofNat 64 windowBase)) 31 (BitVec.ofNat 64 l.arg)
          mpc := BitVec.ofNat 64 l.stream, state := .running } }
  let threads := ((List.range l.g).zip seeds).foldl (fun tbl p => seedThreads (gkey b p.1) p.2 tbl) s.threads
  let groups := ((List.range l.g).zip seeds).foldl (fun tbl p =>
    Table.put tbl (gkey b p.1) (seedGroup p.2 (l.spill + 128 * l.slots * (lin * l.g + p.1)) l.slots s.time loads (l.arg + l.rboff))) s.groups
  let s : State := { s with
    nextId := b + 1, threads := threads, groups := groups, blocks := Table.put s.blocks b bl
    grids := Table.modify s.grids key (fun g => match fm with
      | some f => { g with formed := g.formed.filter (fun x => x.serial != f.serial) }
      | none => { g with bound := Table.put g.bound lin () }) }
  let s := s.clearNear sp.core
  .ok (if l.stream == 0 then s else s.modCore sp.core (fun c => { c with owner := some b }))

/-! ### The end of grids and pools (R343, R346) -/

/-- Records of a pool not yet formed into groups (R344). -/
def State.poolHeld (s : State) (key : Nat) : Nat :=
  (s.posted.filter (fun e => e.2.grid == key)).length + s.bins.foldl (fun n e => if e.2.grid == key then n + e.2.recs.length else n) 0

/-- Blocks of a grid that have begun and not ended. -/
def State.gridBlocks (s : State) (key : Nat) : List Nat := (s.blocks.filter (fun e => e.2.gridKey == key && e.2.place != .ended)).map Prod.fst

/-- A grid ends: its packet is complete, and the continuation grid whose pool it names is tested; `fuel` bounds a chain of such ends (R343,
R346). -/
def State.endGrid (s : State) (fuel key : Nat) : State :=
  let gr := s.grid key
  let s := ({ s with grids := Table.erase s.grids key }.gridComplete gr.queue key).postChange gr.ctx
  match fuel, gr.l.pool with
  | k + 1, some p =>
    match s.poolGrid gr.ctx p with
    | some c =>
      let cg := s.grid c
      if s.poolHeld c == 0 && cg.formed.isEmpty && (s.gridBlocks c).isEmpty
          && !(s.grids.any (fun e => e.1 != c && e.2.ctx == cg.ctx && e.2.l.pool == some cg.l.own))
      then s.endGrid k c else s
    | none => s
  | _, _ => s

/-- The test of R346 on a continuation grid. -/
def State.testPool (s : State) (key : Nat) : State :=
  let cg := s.grid key
  if (Table.find s.grids key).isSome && cg.cont && s.poolHeld key == 0 && cg.formed.isEmpty && (s.gridBlocks key).isEmpty
      && !(s.grids.any (fun e => e.1 != key && e.2.ctx == cg.ctx && e.2.l.pool == some cg.l.own))
  then s.endGrid s.grids.length key else s

/-! ### The end of a block (R117, R239, R343, R359) -/

/-- Every group has exited, the sequencer is at rest, and every access, copy and collective of the block is complete. -/
def State.blockDone (s : State) (b : Nat) : Bool :=
  let bl := s.block b
  (List.range bl.gcnt).all (fun g => (s.group (gkey b g)).ended)
    && (bl.msq.state == .idle || bl.msq.state == .ended || bl.msq.delivered)
    && s.reqs.all (fun e => e.2.b != b) && s.copies.all (fun e => e.2.b != b) && s.colls.all (fun e => e.2.b != b)

/-- No near work of the block is left, no engine it holds open, no count of its near work or into its shared memory on its way (R359). -/
def State.nearDone (s : State) (b : Nat) : Bool :=
  s.counts.all (fun e => e.2.space != .shared b && e.2.near != some b) && s.nearWork.all (fun e => e.2.b != b) && s.searches.all (fun e => e.2.b != b) && s.opens.all (fun e => e.2.b != b)

/-- Removes everything of a block but its shared memory. -/
def State.clearBlock (s : State) (b : Nat) : State :=
  { s with
    threads := s.threads.filter (fun e => e.1 / 1024 != b)
    groups := s.groups.filter (fun e => e.1 / 32 != b)
    fills := s.fills.filter (fun e => e.2.g / 32 != b)
    cores := s.cores.map (fun e => if e.2.owner == some b then (e.1, { e.2 with owner := none }) else e) }

/-- Frees the blocks of a cluster once all of them have ended: their shared memory goes (R201, R203). -/
def State.freeCluster (s : State) (bl : Block) : State :=
  let mine := s.blocks.filter (fun e => e.2.ctx == bl.ctx && e.2.grid == bl.grid && e.2.cluster == bl.cluster)
  if mine.all (fun e => e.2.place == .ended) then
    mine.foldl (fun s e => { s with
      blocks := Table.erase s.blocks e.1
      spaces := Table.erase s.spaces (Space.key (.shared e.1))
      poison := s.poison.filter (fun p => p.1 / 2 ^ 48 != Space.key (.shared e.1)) }) s
  else s

/-- Sets the block's bit of its grid's tile bitmap with an indivisible OR, an event for the queues that may wait for it (R338, R343). Nothing where the page waits for the fault service; a page
that cannot be written is reported. -/
def State.setTileBit (s : State) (bl : Block) : Except State State :=
  let l := (s.grid bl.gridKey).l
  if l.tiles == 0 then .ok s
  else
    let va := l.tiles + 8 * (bl.lin / 64)
    match s.reachNow bl.ctx none va 8 { r := true, w := true } with
    | .ok sp a _ => .ok ((s.store sp a 8 (s.load sp a 8 ||| 2 ^ (bl.lin % 64))).postChange bl.ctx)
    | .fault c => if serviceable c then .error (s.raiseFault bl.ctx va c 6 2 2).2 else .ok ((s.reportCause c bl.core bl.ctx va).event 0 4 0 bl.ctx c va)
    | .miss => .ok s

/-- BLOCK_END: a block whose groups, sequencer, copies and near work are done ends: its bit is set, its core is freed, its grid may end (R117,
R239, R343). Engines it still holds open are closed first (R371). -/
def execBlockEnd (b : Nat) (s : State) : Host.Outcome State Fault Refusal :=
  match Table.find s.blocks b with
  | none => .next s
  | some bl =>
    .next (if bl.place != .resident || !s.blockDone b then s
    else if !s.nearDone b then
      { s with opens := (s.opens.filter (fun e => !(e.2.b == b && e.2.stopped))).map (fun e => if e.2.b == b then (e.1, { e.2 with closing := true }) else e) }
    else match s.setTileBit bl with
      | .error s' => s'
      | .ok s =>
        let s := (s.clearBlock b).modBlock b (fun bl => { bl with place := .ended })
        let s := s.freeCluster bl
        let key := bl.gridKey
        let s := s.modGrid key (fun g => { g with ended := g.ended + 1 })
        let gr := s.grid key
        let s := if gr.cont then s.testPool key else if gr.ended == gr.l.blocks then s.endGrid s.grids.length key else s
        s.pulse bl.ctx)

/-! ### Continuation records (R344 to R347) -/

/-- A bin forms a group of the records it holds (R345, R346). -/
def State.formGroup (s : State) (id : Nat) : State :=
  match Table.find s.bins id with
  | none => s
  | some bn =>
    State.modGrid { s with bins := Table.erase s.bins id } bn.grid (fun g =>
      { g with formed := g.formed ++ [{ serial := g.serial, die := bn.die, pc := bn.pc, recs := bn.recs }], serial := (g.serial + 1) % 2 ^ 32 })

/-- CONTINUATION_RECORD_ARRIVAL: a record joins the bin of its pool and program counter, or opens one, the oldest bin being flushed where all
256 are open; 32 records form a group. Records of a die arrive in the order of posting (R345). -/
def execContinuationRecordArrival (id : Nat) (s : State) : Host.Outcome State Fault Refusal :=
  match Table.find s.posted id with
  | none => .next s
  | some p =>
    if s.posted.any (fun e => decide (e.1 < id) && e.2.die == p.die) then .next s
    else
      let s := { s with posted := Table.erase s.posted id }
      match s.bins.find? (fun e => e.2.die == p.die && e.2.grid == p.grid && e.2.pc == p.pc) with
      | some e =>
        let s := { s with bins := Table.put s.bins e.1 { e.2 with recs := e.2.recs ++ [p.words] } }
        .next (if e.2.recs.length + 1 == 32 then s.formGroup e.1 else s)
      | none =>
        let open_ := s.bins.filter (fun e => e.2.die == p.die)
        let s := if open_.length < 256 then s else match open_ with
          | e :: _ => s.formGroup e.1
          | [] => s
        .next { s with
          bins := Table.put s.bins s.nextId { die := p.die, grid := p.grid, pc := p.pc, recs := [p.words], deadline := s.time + 1000 * (s.grid p.grid).l.timer }
          nextId := s.nextId + 1 }

/-- BIN_FLUSH_TIMEOUT: a bin whose timer has expired forms a group of the records it holds (R345). -/
def execBinFlushTimeout (id : Nat) (s : State) : Host.Outcome State Fault Refusal :=
  match Table.find s.bins id with
  | none => .next s
  | some bn => .next (if s.time < bn.deadline then s else (s.formGroup id).testPool bn.grid)

/-- The pool that POSTC of a block posts into, if it is open and has room (R347). -/
def State.poolRoom (s : State) (b : Nat) : Option Nat :=
  let bl := s.block b
  match (s.grid bl.gridKey).l.pool with
  | none => none
  | some p => match s.poolGrid bl.ctx p with
    | none => none
    | some key => if s.poolHeld key < (s.grid key).l.capacity then some key else none

/-- One thread's turn of POSTC (R347). -/
def postcTurn (i : Issue) (f : RForm) (sh : Shape) (s : State) (t : Nat) (acc : List Nat) : Turned :=
  let q := Fields.ofR f
  match s.readAll i t [(q.a, q.ea, sh.a, if q.xo == 1 then some q.xs else none), (q.b, q.eb, sh.b, none)] with
  | .trap r => .trap r
  | .hold => .hold
  | .vals xs =>
    let a := xs.getD 0 0
    if a % 4 != 0 || 2 ^ 57 ≤ a then .trap (alignTrap a)
    else match s.poolRoom i.b with
      | none => .trap (boundTrap (((s.grid (s.block i.b).gridKey).l.pool).getD 0) 0xFF)
      | some key =>
        match (s.thread (i.tk t)).pending with
        | some r => .trap r
        | none =>
          match (s.thread (i.tk t)).role with
          | .helper => .done (s.exitThread i.b i.g t) acc
          | .live =>
            if !s.performed i [t] then .hold
            else
              let words := (List.range 14).map (fun k => if k < sh.b.n then BitVec.ofNat 32 (xs.getD 1 0 / 2 ^ (32 * k)) else 0#32)
              let s := { s with
                posted := Table.put s.posted s.nextId { die := (s.block i.b).core / 128, grid := key, pc := BitVec.ofNat 64 a, words := words }
                nextId := s.nextId + 1 }
              .done (s.exitThread i.b i.g t) acc

/-- POSTC: each active thread posts a continuation record and exits (R347). -/
def execPostc (f : RForm) (s : State) : Host.Outcome State Fault Refusal :=
  .next (s.memoryWord 0xD7 f (fun i sh => s.perThread i (extGuard f.ext) (postcTurn i f sh)))

end Sys2Proof.Machine
end

