-- ==== Sys2Proof/Machine/Discard.lean ====
section
/-! DEFINITION. Tearing a context down (15 R409, 13 R359). -/

namespace Sys2Proof.Machine

/-- Abandons the near work of a context: its engine contexts, walkers, heaps, images and opens are freed, and nothing more is written or
counted (R359). -/
def State.dropNearWork (s : State) (ctx : Nat) : State :=
  let works := (s.nearWork.filter (fun e => e.2.ctx == ctx)).map Prod.fst
  let searches := (s.searches.filter (fun e => e.2.ctx == ctx)).map Prod.fst
  let mine := fun (c : BeCtx) => match c.who with
    | .walker q _ => searches.contains q
    | .block w _ => works.contains w
    | .streamed w => works.contains w
  let keys := (s.engines.filter (fun e => mine e.2)).map Prod.fst
  { s with
    engines := s.engines.filter (fun e => !keys.contains e.1)
    heaps := s.heaps.filter (fun e => !(if e.1 < 2 ^ 16 then keys.contains (e.1 / 8) else searches.contains ((e.1 - 2 ^ 16) / 65536)))
    images := s.images.filter (fun e => !(works.contains (e.1 / 16) || searches.contains (e.1 / 16)))
    nearWork := s.nearWork.filter (fun e => !works.contains e.1)
    nearPackets := s.nearPackets.filter (fun e => !works.contains e.2.1)
    nearQueue := s.nearQueue.map (fun e => (e.1, e.2.filter (fun x => !works.contains x.1)))
    opens := s.opens.filter (fun e => !works.contains e.2.work)
    commands := s.commands.filter (fun e => (s.block e.2.b).ctx != ctx)
    searches := s.searches.filter (fun e => !searches.contains e.1)
    walkers := s.walkers.map (fun e => (e.1, e.2.filter (fun w => !searches.contains w.search)))
    registrations := s.registrations.filter (fun e => !searches.contains e.2.walker.search)
    endNotices := s.endNotices.filter (fun e => !searches.contains e.2.1) }

/-- The blocks of a context, resident or out, are discarded without being saved; their memory stays until the teardown ends (R409). -/
def State.dropBlocks (s : State) (ctx : Nat) : State :=
  (s.blocks.filter (fun e => e.2.ctx == ctx)).foldl (fun s e =>
    (s.clearBlock e.1).modBlock e.1 (fun bl => { bl with place := .ended, msq := {}, tiles := [], tileBad := [] })) s

/-- Steps 1 to 4 of R409: queues stop, blocks and near work go, with what waits for the context, and suspended copies are abandoned. -/
def State.beginDestroy (s : State) (ctx : Nat) : State :=
  let s := s.dropNearWork ctx
  let s := s.dropBlocks ctx
  let cids := (s.colls.filter (fun e => e.2.ctx == ctx)).map (fun e => e.2.cid)
  { s with
    contexts := Table.modify s.contexts ctx (fun c => { c with ending := true })
    queues := s.queues.map (fun e => if e.2.ctx == ctx then (e.1, {}) else e)
    grids := s.grids.filter (fun e => e.2.ctx != ctx)
    posted := s.posted.filter (fun e => e.2.grid / 1024 != ctx)
    bins := s.bins.filter (fun e => e.2.grid / 1024 != ctx)
    bitmaps := s.bitmaps.filter (fun e => e.1 != ctx)
    early := s.early.filter (fun e => !cids.contains e.pkt.cid)
    boxes := s.boxes.filter (fun e => !cids.contains e.cid)
    heldPackets := s.heldPackets.filter (fun e => e.2.ctx != ctx)
    faults := s.faults.filter (fun e => e.2.ctx != ctx)
    reqs := s.reqs.filter (fun e => !(e.2.ctx == ctx && e.2.logged.isSome))
    copies := s.copies.map (fun e => if e.2.ctx == ctx && e.2.stuck.isSome then (e.1, { e.2 with stuck := none, saved := false, done := e.2.chunks }) else e)
    colls := s.colls.filter (fun e => e.2.ctx != ctx) }

/-- Everything the context had accepted is complete or abandoned (R409 step 5). -/
def State.destroyReady (s : State) (ctx : Nat) : Bool :=
  s.copies.all (fun e => e.2.ctx != ctx) && s.remote.all (fun e => e.2.ctx != ctx) && s.reqs.all (fun e => e.2.ctx != ctx)

/-- Steps 6 and 7 of R409: translations, slot-table entries, images, shared memory and scratch windows of the context go. -/
def State.endDestroy (s : State) (ctx : Nat) : State :=
  let mine := (s.blocks.filter (fun e => e.2.ctx == ctx)).map Prod.fst
  let keys := mine.map (fun b => Space.key (.shared b)) ++ [Space.key (.scratch ctx 0), Space.key (.scratch ctx 1)]
  { s with
    tlb := s.tlb.filter (fun e => e.1 / 2 ^ 41 != ctx)
    walks := s.walks.filter (fun e => e.1 / 2 ^ 41 != ctx)
    slotTable := s.slotTable.filter (fun e => e.2 % 4096 != ctx)
    faults := s.faults.filter (fun e => e.2.ctx != ctx)
    blocks := s.blocks.filter (fun e => e.2.ctx != ctx)
    spaces := s.spaces.filter (fun e => !keys.contains e.1)
    poison := s.poison.filter (fun e => !keys.contains (e.1 / 2 ^ 48))
    counts := s.counts.filter (fun e => !keys.contains e.2.space.key)
    contexts := Table.erase s.contexts ctx }

end Sys2Proof.Machine
end

