-- ==== Sys2Proof/Machine/Bind.lean ====
section
/-! DEFINITION. Binding: where a block can stand, bind records, switch-out and resume, the scheduling tick, ownership of the matrix
engines, the watchdog (12 R349 to R357; 05 R115, R139; 15 R410 to R414; 16 R435 to R438). -/

namespace Sys2Proof.Machine

/-! ### Room on a core (R350, R351, R57) -/

/-- The lowest base at which `n` units in a row are free, of `limit` units. -/
def firstFree (busy : Nat → Bool) (n limit : Nat) : Option Nat :=
  (List.range (limit + 1 - n)).find? (fun base => (List.range n).all (fun k => !busy (base + k))) |>.filter (fun base => decide (base + n ≤ limit))

/-- Blocks that take slots, tags and registers on a core, but for those named. -/
def State.blocksOn (s : State) (core : Nat) (gone : List Nat) : List (Nat × Block) :=
  s.blocks.filter (fun e => e.2.core == core && (e.2.place == .resident || e.2.place == .moving) && !gone.contains e.1)
/-- Blocks whose shared memory stands on a core, ended ones whose cluster goes on among them (R201). -/
def State.sharersOn (s : State) (core : Nat) (gone : List Nat) : List (Nat × Block) :=
  s.blocks.filter (fun e => e.2.core == core && e.2.place != .out && !gone.contains e.1)

def within (k base n : Nat) : Bool := decide (base ≤ k) && decide (k < base + n)

def slotBusy (bs : List (Nat × Block)) (k : Nat) : Bool := bs.any (fun e => within k e.2.slot e.2.gcnt)
def tagBusy (bs : List (Nat × Block)) (k : Nat) : Bool := bs.any (fun e => within k e.2.tag e.2.ntag)
def shmBusy (bs : List (Nat × Block)) (k : Nat) : Bool := bs.any (fun e => within k e.2.shmBase (e.2.shm / 1024))
def macroBusy (bs : List (Nat × Block)) (k : Nat) : Bool := bs.any (fun e => within k e.2.macroBase e.2.macroCount)
def regsUsed (bs : List (Nat × Block)) : Nat := bs.foldl (fun n e => n + e.2.gcnt * 32 * e.2.nreg) 0

/-- The run of macro slots a block would use: one it shares with a block of its kernel image, or a free one (R57). -/
def macroRun (bs : List (Nat × Block)) (nd : Needs) : Option Nat :=
  if nd.macros == 0 then some 0
  else match bs.find? (fun e => e.2.ctx == nd.ctx && e.2.macroImage == nd.image && e.2.macroCount == nd.macros) with
    | some e => some e.2.macroBase
    | none => firstFree (macroBusy bs) nd.macros 256

/-- The engine of a core is free for a block of the context: nobody owns it, and no slot keeps it for another context (R115, R139). -/
def State.engineFree (s : State) (core ctx : Nat) (gone : List Nat) : Bool :=
  let c := s.core core
  c.me && (match c.owner with | none => true | some o => gone.contains o) && (c.grant == none || c.grant == some ctx)

/-- The core takes bind records: usable, and not waiting for a repair (R417, R451). -/
def State.coreOpen (s : State) (core : Nat) : Bool := s.coreUsable core && (s.core core).pending.isNone

/-- Where a block would stand on a core if the blocks in `gone` were not there: the lowest free slots, tags, KiB and macro slots. -/
def State.spotOn (s : State) (core : Nat) (nd : Needs) (gone : List Nat) : Option Spot :=
  let c := s.core core
  let bs := s.blocksOn core gone
  if !s.coreOpen core || c.reg * 1024 < regsUsed bs + nd.g * 32 * nd.nreg || (nd.stream && !s.engineFree core nd.ctx gone) then none
  else do
    let slot ← firstFree (slotBusy bs) nd.g c.gs
    let tag ← firstFree (tagBusy bs) nd.tags 64
    let shm ← firstFree (shmBusy (s.sharersOn core gone)) nd.shm (4 * c.shm)
    let macros ← macroRun bs nd
    some { core := core, slot := slot, tag := tag, shm := shm, macros := macros }

/-! ### Bind records (R350) -/

/-- The fields of a bind record. -/
structure BindRec where
  op : Nat
  ctx : Nat
  core : Nat
  slot : Nat
  ng : Nat
  tag : Nat
  ntag : Nat
  shm : Nat
  grid : Nat
  ref : Nat
  deriving DecidableEq, Repr

def BindRec.ofBits (r : BitVec 128) : BindRec :=
  let f := fun lo n => fieldOf r.toNat lo n
  { op := f 126 2, ctx := f 114 12, core := f 107 7, slot := f 101 6, ng := f 96 5, tag := f 90 6, ntag := f 83 7, shm := f 74 9, grid := f 64 10, ref := f 0 64 }

/-- The checks of R350 on a record that starts or resumes a block with these needs. -/
def State.bindFits (s : State) (core : Nat) (r : BindRec) (nd : Needs) : Bool :=
  let c := s.core core
  let bs := s.blocksOn core []
  s.coreOpen core && r.ng + 1 == nd.g && r.ntag == nd.tags
    && decide (r.slot + nd.g ≤ c.gs) && (List.range nd.g).all (fun k => !slotBusy bs (r.slot + k))
    && decide (r.tag + nd.tags ≤ 64) && (List.range nd.tags).all (fun k => !tagBusy bs (r.tag + k))
    && decide (r.shm + nd.shm ≤ 4 * c.shm) && (List.range nd.shm).all (fun k => !shmBusy (s.sharersOn core []) (r.shm + k))
    && decide (regsUsed bs + nd.g * 32 * nd.nreg ≤ c.reg * 1024) && (!nd.stream || s.engineFree core nd.ctx [])

/-- A refused record has no effect but its event (R350). -/
def State.bindRefused (s : State) (cc ctx core : Nat) : State := s.event 0 4 cc ctx core 0

/-- A record naming a context or grid outside the core's partition freezes the command core that wrote it (R350, R416). -/
def State.bindViolates (s : State) (core ctx : Nat) (grid : Option Nat) : Bool :=
  (Table.find s.contexts ctx).isNone || s.ownerOfCore core != some (s.context ctx).partition
    || (match grid with | some g => (Table.find s.grids (gridKey ctx g)).isNone | none => false)

/-- Runs a bind record of one op for a command core that is not frozen (R417). -/
def State.onBind (s : State) (op cc die : Nat) (r : BitVec 128) (go : BindRec → Nat → State) : State :=
  let d := BindRec.ofBits r
  let core := 128 * die + d.core
  if s.frozenMasters.any (fun m => m.1 == 4 && m.2.1 == cc) then s
  else if d.op != op then s.bindRefused cc d.ctx core
  else if s.bindViolates core d.ctx (if op == 3 then none else some d.grid) then s.isolate 1 4 cc d.ctx 0
  else go d core

/-- Virtual cores in use by the begun blocks of a context and by those whose cluster goes on, as v of 8 v + cbx (R410). -/
def State.vUsed (s : State) (ctx v : Nat) : Bool := s.blocks.any (fun e => e.2.ctx == ctx && e.2.vcore / 8 == v)

/-- The virtual core of a block about to start: that of its cluster, or a new one (R410). -/
def State.vcoreFor (s : State) (key lin : Nat) : Option Nat :=
  let gr := s.grid key
  let c := gr.l.c
  match s.blocks.find? (fun e => e.2.gridKey == key && e.2.cluster == lin / c) with
  | some e => some (8 * (e.2.vcore / 8) + lin % c)
  | none => ((List.range 8192).find? (fun v => !s.vUsed gr.ctx v)).map (fun v => 8 * v + lin % c)

/-- The core suits a block of a cluster: its mates on cores stand in the same core cluster, each on another core (R17). -/
def State.suits (s : State) (core ctx grid cluster : Nat) (b : Option Nat) : Bool :=
  s.blocks.all (fun e => !(e.2.ctx == ctx && e.2.grid == grid && e.2.cluster == cluster && b != some e.1
      && (e.2.place == .resident || e.2.place == .moving)) || (clusterOf e.2.core == clusterOf core && e.2.core != core))
/-- The core suits a block that has begun. -/
def State.suitsBlock (s : State) (core b : Nat) : Bool := let bl := s.block b; s.suits core bl.ctx bl.grid bl.cluster (some b)

/-- Starts block `lin` of a grid, or a formed group, at a spot. A page its macros or records need that waits for the fault service, and a
context without a free virtual core, leave it waiting (R396, R410). -/
def State.startBlock (s : State) (sp : Spot) (key lin : Nat) (fm : Option FormedGroup) : Option State :=
  match s.vcoreFor key lin with
  | none => none
  | some v =>
    match s.formBlock sp key lin v fm with
    | .ok s' => some s'
    | .error (va, c) =>
      let ctx := (s.grid key).ctx
      if serviceable c then some (s.raiseFault ctx va c 6 0 2).2 else some ((s.reportCause c sp.core ctx va).event 0 4 0 ctx c va)

/-- BIND_START: a record that passes its checks places a new block (R350). -/
def execBindStart (cc die : Nat) (r : BitVec 128) (s : State) : Host.Outcome State Fault Refusal :=
  .next (s.onBind 1 cc die r (fun d core =>
    let key := gridKey d.ctx d.grid
    let gr := s.grid key
    let nd := gr.l.needs d.ctx
    let fm := gr.formed.find? (fun f => f.serial == d.ref && f.die == die)
    let waiting := if gr.cont then fm.isSome else decide (d.ref < gr.l.blocks) && (Table.find gr.bound d.ref).isNone
    match macroRun (s.blocksOn core []) nd with
    | none => s.bindRefused cc d.ctx core
    | some m =>
      if !waiting || !s.bindFits core d nd || !s.suits core d.ctx d.grid (d.ref / gr.l.c) none then s.bindRefused cc d.ctx core
      else (s.startBlock { core := core, slot := d.slot, tag := d.tag, shm := d.shm, macros := m } key d.ref (if gr.cont then fm else none)).getD
        (s.bindRefused cc d.ctx core)))

/-! ### Switching out (R435, R436, R437) -/

/-- Bytes an image takes at most (R412). -/
def imageSize (bl : Block) : Nat := 1048576 + 36864 * bl.gcnt

/-- A place for an image in the partition's save area, in units of 4 KiB from its base, below the remap tables (R412). -/
def State.imageSpot (s : State) (bl : Block) : Option Nat :=
  let p := s.partition (s.context bl.ctx).partition
  let lo := p.save.1 * gib
  let outs := s.blocks.filter (fun e => (e.2.place == .out || e.2.place == .moving) && e.2.image != 0)
  let n := imageSize bl
  let hi := (s.contexts.filter (fun e => e.2.partition == (s.context bl.ctx).partition)).foldl (fun m e => min m e.2.remap) (lo + p.save.2 * gib)
  let cand := lo :: outs.map (fun e => e.2.image + imageSize e.2)
  cand.find? (fun a => decide (lo ≤ a) && decide (a + n ≤ hi) && a != 0
    && outs.all (fun e => !(overlap a n e.2.image (imageSize e.2))))

/-- A switch-out begins: the block's groups start no new pass and its remap entry is moving (R411, R436). Where no image fits in the save
area an event is reported and the block stays (R412). -/
def State.beginOut (s : State) (b : Nat) : State :=
  let bl := s.block b
  match s.imageSpot bl with
  | none => s.event 0 4 0 bl.ctx 12 0
  | some a =>
    let s := s.modBlock b (fun bl => { bl with place := .moving, image := a })
    (List.range bl.gcnt).foldl (fun s g => if (s.group (gkey b g)).pass.isNone then s.dropTrack (gkey b g) else s) s

/-- BIND_SWITCH_OUT: the block named by core and slot stops at its next points (R350, R436). -/
def execBindSwitchOut (cc die : Nat) (r : BitVec 128) (s : State) : Host.Outcome State Fault Refusal :=
  .next (s.onBind 3 cc die r (fun d core =>
    match s.blocks.find? (fun e => e.2.core == core && e.2.slot == d.slot && e.2.ctx == d.ctx && e.2.place == .resident) with
    | none => s.bindRefused cc d.ctx core
    | some e => if d.ng == 0 && d.tag == 0 && d.ntag == 0 && d.shm == 0 && d.grid == 0 && d.ref == 0 then s.beginOut e.1 else s.bindRefused cc d.ctx core))

/-- The core under which the side-log entries of a block that is out are kept (R399). -/
def outCore (b : Nat) : Nat := 256 + b

/-- Firmware may choose the block as a victim: the save area can hold its image (R412). -/
def State.savable (s : State) (b : Nat) : Bool := (s.imageSpot (s.block b)).isSome

/-- The block stands at its stopping points, between the passes of a two-pass form among them, and every store and atomic is acknowledged or in the side
log (R435, R436 step 2). -/
def State.drained (s : State) (b : Nat) : Bool :=
  (List.range (s.block b).gcnt).all (fun g => (s.group (gkey b g)).pass.all Pass.second)
    && s.reqs.all (fun e => e.2.b != b || !e.2.kind.writes || e.2.logged.isSome)

/-- A hold granted a copy-engine slot asks again after a resume. -/
def HoldKind.afterOut : HoldKind → HoldKind
  | .ceSlot _ => .ceSlot false
  | h => h

/-- The image is written, the suspended copies with it, and the block's place on its core is free (R239, R436 steps 3 and 4, R437). -/
def State.finishOut (s : State) (b : Nat) : State :=
  let bl := s.block b
  let s := (List.range bl.gcnt).foldl (fun s g => (s.dropTrack (gkey b g)).modGroup (gkey b g) (fun gr =>
    { gr with waitSince := none, holds := gr.holds.map (fun h => { h with why := h.why.afterOut }) })) s
  let s := s.modBlock b (fun bl => { bl with place := .out, outOrder := s.nextId })
  { s with
    nextId := s.nextId + 1
    reqs := s.reqs.map (fun e => if e.2.b == b && e.2.logged.isSome then (e.1, { e.2 with core := outCore b }) else e)
    copies := s.copies.map (fun e => if e.2.b == b && e.2.stuck.isSome then (e.1, { e.2 with saved := true }) else e)
    cores := s.cores.map (fun e => if e.2.owner == some b then (e.1, { e.2 with owner := none }) else e) }

/-! ### Resuming (R438) -/

/-- Delivers the traps whose faults were answered with deliver while the block was out (R436). -/
def State.deliverDeferred (s : State) (b g : Nat) : State :=
  (List.range 32).foldl (fun s t => match (s.thread (tkey (gkey b g) t)).park with
    | .deferred r next word => s.deliver b g t r next word
    | _ => s) s

/-- A resume begins: the remap entry is moving while the image is loaded at a spot; log entries and saved copies come with the block, and what its
earlier accesses acquire is acquired for the new core (R239, R399, R411, R438). -/
def State.beginResume (s : State) (b : Nat) (sp : Spot) : State :=
  let s := s.modBlock b (fun bl => { bl with
    core := sp.core, slot := sp.slot, tag := sp.tag, shmBase := sp.shm, macroBase := sp.macros, place := .moving, arriving := true
    bindOrder := s.nextId, noFit := false })
  let s : State := { s with
    nextId := s.nextId + 1
    reqs := s.reqs.map (fun e => if e.2.b == b then (e.1, { e.2 with core := sp.core }) else e)
    copies := s.copies.map (fun e => if e.2.b == b && e.2.saved then (e.1, { e.2 with core := sp.core, saved := false }) else e) }
  if (s.block b).stream then s.modCore sp.core (fun c => { c with owner := some b, grant := none }) else s

/-- The image is loaded and the entry resident: the near cache is discarded, threads answered meanwhile resume or are delivered, groups choose by
weight and repeat their last WSET copy, what was held goes on (R411, R438). A block of a context that its watchdog has stopped leaves again (R357). -/
def State.arrive (s : State) (b : Nat) : State :=
  let bl := s.block b
  if bl.place != .moving || !bl.arriving then s
  else
    let s := (s.modBlock b (fun bl => { bl with place := .resident, arriving := false, image := 0, resumedAt := some s.ticks })).clearNear bl.core
    let s := (List.range bl.gcnt).foldl (fun s g =>
      (s.deliverDeferred b g).modGroup (gkey b g) (fun gr =>
        { gr with pick := .weight, issuing := 0#32, waitSince := some s.time, wsetCopying := !gr.wset.isEmpty })) s
    let s := s.settleLanded b
    if (s.context bl.ctx).halted then s.beginOut b else s

/-- An image reads poisoned: some sector of it (R412). -/
def State.imagePoisoned (s : State) (bl : Block) : Bool :=
  s.poison.any (fun e => decide (bl.image / 128 ≤ e.1) && decide (e.1 < (bl.image + imageSize bl) / 128))

/-- A block whose image reads poisoned cannot resume: that is reported and its context destroyed; any other one begins to resume at a spot (R412). -/
def State.tryResume (s : State) (b : Nat) (sp : Spot) : State :=
  let bl := s.block b
  if s.imagePoisoned bl then (s.event 0 4 0 bl.ctx 13 bl.image).beginDestroy bl.ctx else s.beginResume b sp

/-- BIND_RESUME: a record that passes its checks resumes the block whose image it names (R350, R438). -/
def execBindResume (cc die : Nat) (r : BitVec 128) (s : State) : Host.Outcome State Fault Refusal :=
  .next (s.onBind 2 cc die r (fun d core =>
    match s.blocks.find? (fun e => e.2.place == .out && e.2.image == d.ref && e.2.ctx == d.ctx && e.2.grid == d.grid) with
    | none => s.bindRefused cc d.ctx core
    | some e =>
      let nd := e.2.needs
      match macroRun (s.blocksOn core []) nd with
      | none => s.bindRefused cc d.ctx core
      | some m =>
        if !s.bindFits core d nd || !s.suitsBlock core e.1 then s.bindRefused cc d.ctx core
        else s.tryResume e.1 { core := core, slot := d.slot, tag := d.tag, shm := d.shm, macros := m }))

/-! ### Waiting blocks and victims (R342, R353 to R356) -/

/-- Puts an element into a list sorted by a relation that holds where its first argument comes first; equals keep their order. -/
def insertBy {α : Type} (before : α → α → Bool) (x : α) (l : List α) : List α :=
  match l with
  | [] => [x]
  | a :: rest => if before x a then x :: a :: rest else a :: insertBy before x rest
def sortBy {α : Type} (before : α → α → Bool) (l : List α) : List α := l.foldl (fun acc x => insertBy before x acc) []

/-- A group of the block is spinning (R353). -/
def State.spins (s : State) (b : Nat) : Bool := (List.range (s.block b).gcnt).any (fun g => (s.group (gkey b g)).spinning)

/-- Block `a` is a better victim than `b` (R353). -/
def State.victimBefore (s : State) (a b : Nat) : Bool :=
  if s.spins a != s.spins b then s.spins a
  else if s.blockPriority a != s.blockPriority b then decide (s.blockPriority a < s.blockPriority b)
  else decide ((s.block b).bindOrder < (s.block a).bindOrder)

/-- The blocks of some cores that firmware may switch out, best victim first: not resumed within the last tick, and none whose image the save area
cannot hold (R353, R412). -/
def State.victims (s : State) (cores : List Nat) (below : Option Nat) : List Nat :=
  sortBy s.victimBefore ((s.blocks.filter (fun e => cores.contains e.2.core && e.2.place == .resident && s.savable e.1
    && (match e.2.resumedAt with | some t => decide (t + 1 < s.ticks) | none => true)
    && (match below with | some p => decide (s.blockPriority e.1 < p) | none => true))).map Prod.fst)

/-- Blocks of a core that are on their way out. -/
def State.leaving (s : State) (core : Nat) : List Nat := (s.blocks.filter (fun e => e.2.core == core && e.2.place == .moving && !e.2.arriving)).map Prod.fst

/-- The fewest victims, taken in order, that would make room; the blocks already leaving count as gone. -/
def State.evictFor (s : State) (core : Nat) (nd : Needs) (vs taken : List Nat) : Option (List Nat) :=
  if (s.spotOn core nd (s.leaving core ++ taken)).isSome then some taken
  else match vs with
    | [] => none
    | v :: rest => s.evictFor core nd rest (taken ++ [v])

/-- What a core that could hold the block takes of some victims, in their order. -/
def State.evictAmong (s : State) (core : Nat) (nd : Needs) (vs : List Nat) : Option (List Nat) :=
  if s.couldHold core nd then s.evictFor core nd (vs.filter (fun v => (s.block v).core == core)) [] else none

/-- The victims that make room on `n` of some cores, the best ones of all of them first; `k` of them have been found not to be enough (R353). -/
def State.evictFirst (s : State) (cores : List Nat) (nd : Needs) (n : Nat) (vs : List Nat) (k fuel : Nat) : Option (List Nat) :=
  match fuel with
  | 0 => none
  | m + 1 =>
    let sets := cores.filterMap (fun c => s.evictAmong c nd (vs.take k))
    if n ≤ sets.length then some (sets.take n).flatten else s.evictFirst cores nd n vs (k + 1) m

/-- The victims for a block on one of some cores. -/
def State.evictOn (s : State) (cores : List Nat) (nd : Needs) (below : Option Nat) : Option (List Nat) :=
  let vs := s.victims cores below
  s.evictFirst cores nd 1 vs 0 (vs.length + 1)

/-- Switches victims out. -/
def State.switchOut (s : State) (vs : List Nat) : State := vs.foldl (fun s v => s.beginOut v) s

/-- The first core of a list with room for a block now. -/
def State.spotIn (s : State) (cores : List Nat) (nd : Needs) : Option Spot :=
  match cores with
  | [] => none
  | c :: rest => match s.spotOn c nd [] with
    | some sp => some sp
    | none => s.spotIn rest nd

/-! ### Elders (R355, R356) -/

/-- Some core of the block's partition could hold it. -/
def State.holdable (s : State) (b : Nat) : Bool := (s.coresOf (s.block b).ctx).any (fun c => s.couldHold c (s.block b).needs)

/-- The elder of a context: of its blocks that are out and fit some core, the one switched out earliest (R355, R356). -/
def State.elder (s : State) (ctx : Nat) : Option Nat :=
  if (s.context ctx).halted then none
  else (s.blocks.filter (fun e => e.2.ctx == ctx && e.2.place == .out && s.holdable e.1)).foldl (fun m e =>
    match m with
    | none => some e.1
    | some b => if e.2.outOrder < (s.block b).outOrder then some e.1 else some b) none

/-- Reports, once, the blocks that fit no core of their partition (R356). -/
def State.reportUnfit (s : State) : State :=
  (s.blocks.filter (fun e => e.2.place == .out && !e.2.noFit && !s.holdable e.1)).foldl (fun s e =>
    (s.modBlock e.1 (fun bl => { bl with noFit := true })).event 0 4 0 e.2.ctx 11 e.2.image) s

/-- Resumes an elder, or switches out victims for it; one with a stream waits for an engine (R353, R355). The blocks of its cluster that are on cores
say which core cluster it may stand in (R17). -/
def State.resumeElder (s : State) (b : Nat) : State :=
  let bl := s.block b
  let cores := (s.coresOf bl.ctx).filter (fun c => s.suitsBlock c b)
  if bl.place != .out then s
  else match s.spotIn cores bl.needs with
    | some sp => s.tryResume b sp
    | none => if bl.stream then s else s.switchOut ((s.evictOn cores bl.needs none).getD [])

/-- Reports the blocks that cannot be victims because the save area cannot hold their images, while an elder waits for room (R412). -/
def State.reportUnsavable (s : State) (ctx : Nat) : State :=
  (s.blocks.filter (fun e => e.2.place == .resident && (s.coresOf ctx).contains e.2.core && !s.savable e.1)).foldl (fun s e => s.event 0 4 0 e.2.ctx 12 0) s

/-- The contexts with an elder, in descending effective priority. -/
def State.eldersInOrder (s : State) : List Nat :=
  sortBy (fun a b => decide (s.blockPriority b < s.blockPriority a)) (s.contexts.filterMap (fun e => s.elder e.1))

/-! ### Blocks that have not begun (R342, R355) -/

/-- The cores of a core cluster. -/
def clusterCores (k : Nat) : List Nat := (List.range 8).map (fun j => 8 * k + j)

/-- Places the blocks `ls` of a cluster on distinct cores of a core cluster: every block or none (R201, R342). -/
def State.placeAll (s : State) (key : Nat) (nd : Needs) (cores ls : List Nat) : Option State :=
  match ls with
  | [] => some s
  | lin :: more =>
    match cores with
    | [] => none
    | c :: rest =>
      match s.spotOn c nd [] with
      | none => s.placeAll key nd rest ls
      | some sp =>
        match s.startBlock sp key lin none with
        | none => none
        | some s' => if (Table.find (s'.grid key).bound lin).isSome then s'.placeAll key nd rest more else some s'
termination_by structural cores

/-- The first core cluster of the partition that takes all the blocks of a cluster. -/
def State.placeCluster (s : State) (key : Nat) (nd : Needs) (ks ls : List Nat) : Option State :=
  match ks with
  | [] => none
  | k :: rest =>
    match s.placeAll key nd (clusterCores k) ls with
    | some s' => some s'
    | none => s.placeCluster key nd rest ls

/-- Switches out blocks of lower effective priority on as many cores of one core cluster as a cluster of blocks needs, the best victims of all the core
clusters first (R353, R354). -/
def State.displace (s : State) (key : Nat) (nd : Needs) (n : Nat) (ks : List Nat) : State :=
  let vs := s.victims (ks.flatMap clusterCores) (some (s.priority key))
  let found := (List.range (vs.length + 1)).findSome? (fun k => ks.findSome? (fun q =>
    let sets := (clusterCores q).filterMap (fun c => s.evictAmong c nd (vs.take k))
    if n ≤ sets.length then some (sets.take n).flatten else none))
  s.switchOut (found.getD [])

/-- Core clusters of a context's partition. -/
def State.clustersOf (s : State) (ctx : Nat) : List Nat :=
  (List.range 32).filter (fun k => (s.partition (s.context ctx).partition).clusters.getLsbD k)

/-- Binds the ready clusters of a grid from cluster `k` on, in ascending order, until one finds no room (R342). -/
def State.bindClusters (s : State) (key k fuel : Nat) : State :=
  match fuel with
  | 0 => s
  | n + 1 =>
    let gr := s.grid key
    let ls := (List.range gr.l.c).map (fun j => k * gr.l.c + j)
    if ls.any (fun lin => (Table.find gr.bound lin).isSome) || !ls.all (s.blockReady gr) then s.bindClusters key (k + 1) n
    else
      let nd := gr.l.needs gr.ctx
      match s.placeCluster key nd (s.clustersOf gr.ctx) ls with
      | some s' => if (Table.find (s'.grid key).bound (k * gr.l.c)).isSome then s'.bindClusters key (k + 1) n else s'
      | none => s.displace key nd gr.l.c (s.clustersOf gr.ctx)

/-- Binds formed groups of a continuation grid on their dies (R346). -/
def State.bindFormed (s : State) (key : Nat) (fs : List FormedGroup) : State :=
  match fs with
  | [] => s
  | f :: rest =>
    let gr := s.grid key
    let nd := gr.l.needs gr.ctx
    match s.spotIn ((s.coresOf gr.ctx).filter (fun c => c / 128 == f.die)) nd with
    | some sp => ((s.startBlock sp key f.serial (some f)).getD s).bindFormed key rest
    | none => s.switchOut ((s.evictOn ((s.coresOf gr.ctx).filter (fun c => c / 128 == f.die)) nd (some (s.priority key))).getD [])

/-- Asks the fault service for a dependence bitmap whose first word cannot be read. -/
def State.askDeps (s : State) (gr : Grid) : State :=
  if gr.l.deps == 0 then s
  else match s.reachNow gr.ctx none gr.l.deps 8 Need.read with
    | .fault c => if serviceable c then (s.raiseFault gr.ctx gr.l.deps c 6 0 2).2 else s
    | _ => s

/-- Binds waiting blocks of a grid; none while its context's elder is out and could be held (R355). -/
def State.bindGrid (s : State) (key : Nat) : State :=
  let gr := s.grid key
  if (s.elder gr.ctx).isSome || (s.context gr.ctx).ending || (s.context gr.ctx).halted then s
  else if gr.cont then s.bindFormed key gr.formed
  else (s.askDeps gr).bindClusters key 0 (gr.l.blocks / gr.l.c)

/-- The grids in descending effective priority, then in order of acceptance. -/
def State.gridsInOrder (s : State) : List Nat :=
  sortBy (fun a b => decide (s.priority b < s.priority a) || (s.priority a == s.priority b && decide ((s.grid a).order < (s.grid b).order)))
    (s.grids.map Prod.fst)

/-- SCHEDULING_TICK: every 50 µs elders come first, in descending effective priority, then blocks that have not begun; words that a WAITMEM waits for are
read again (R335, R355, R356). -/
def execSchedulingTick (s : State) : Host.Outcome State Fault Refusal :=
  .next (if s.time < 50000 * (s.ticks + 1) then s
  else
    let s := { s with ticks := s.ticks + 1 }
    let s := s.reportUnfit
    let s := (s.queues.filter (fun e => s.waitDue e.1)).foldl (fun s e => s.post (.change e.1)) s
    let s := s.eldersInOrder.foldl (fun s b => (s.resumeElder b).reportUnsavable (s.block b).ctx) s
    s.gridsInOrder.foldl (fun s k => s.bindGrid k) s)

/-! ### The matrix engine's owner (R115, R138, R139) -/

def State.slotLength (s : State) (die : Nat) : Nat := Table.get 1000 s.mslen die

/-- The slot under way on a die, counted from the start of the counter: its index in the round is this modulo 64 (R138). -/
def State.slotNow (s : State) (die : Nat) : Nat := s.time / (s.slotLength die * 1000)

/-- The context that an entry of the matrix slot table grants its slot to, if the entry is valid (R138). -/
def State.slotEntry (s : State) (die n : Nat) : Option Nat :=
  let x := Table.get 0 s.slotTable (64 * die + n)
  if x / 2 ^ 31 % 2 == 1 then some (x % 4096) else none

/-- Who waits for an engine: a block that is out, the blocks of a cluster that has not begun, or a formed group. -/
inductive Claim where
  | out (b : Nat)
  | new (key : Nat) (ls : List Nat)
  | formed (key : Nat) (f : FormedGroup)
  deriving DecidableEq, Repr

/-- The first ready cluster of a grid that has not begun. -/
def State.firstReady (s : State) (gr : Grid) : Option (List Nat) :=
  ((List.range (gr.l.blocks / gr.l.c)).map (fun k => (List.range gr.l.c).map (fun j => k * gr.l.c + j))).find? (fun ls =>
    ls.all (fun lin => (Table.find gr.bound lin).isNone && s.blockReady gr lin))

/-- The cores of a core's cluster, that core first. -/
def fromCore (core : Nat) : List Nat := core :: (clusterCores (clusterOf core)).filter (fun c => c != core)

/-- A claim is met on a core: the block starts or resumes there, its cluster on the cores beside it. -/
def State.takeEngine (s : State) (core : Nat) (c : Claim) : Option State :=
  match c with
  | .out b => if s.suitsBlock core b then (s.spotOn core (s.block b).needs []).map (fun sp => s.tryResume b sp) else none
  | .new key ls =>
    let nd := (s.grid key).l.needs (s.grid key).ctx
    if (s.spotOn core nd []).isSome then s.placeAll key nd (fromCore core) ls else none
  | .formed key f => (s.spotOn core ((s.grid key).l.needs (s.grid key).ctx) []).bind (fun sp => s.startBlock sp key f.serial (some f))

/-- The state in which the owner of an engine stood no longer on its core. -/
def State.without (s : State) (gone : Option Nat) : State :=
  match gone with
  | none => s
  | some o => { s.modBlock o (fun bl => { bl with place := .out }) with
      cores := s.cores.map (fun e => if e.2.owner == some o then (e.1, { e.2 with owner := none }) else e) }

/-- Who waits for the engine of a core among the contexts that satisfy `who`, with when each began to wait: blocks that are out, the one switched out
first before the others, then waiting blocks by priority and acceptance (R139, R355). -/
def State.engineClaims (s : State) (core : Nat) (who : Nat → Bool) : List (Nat × Claim) :=
  let mine := fun ctx => who ctx && !(s.context ctx).halted && s.ownerOfCore core == some (s.context ctx).partition
  let outs := sortBy (fun a b => decide (a.2.outOrder < b.2.outOrder)) (s.blocks.filter (fun e => e.2.place == .out && e.2.stream && mine e.2.ctx))
  let news := s.gridsInOrder.filterMap (fun key =>
    let gr := s.grid key
    let c : Option Claim := if gr.cont then (gr.formed.find? (fun f => f.die == core / 128)).map (Claim.formed key) else (s.firstReady gr).map (Claim.new key)
    if gr.l.stream == 0 || !mine gr.ctx || (s.elder gr.ctx).isSome then none else c.map (fun c => (gr.order, c)))
  (outs.map (fun e => (e.2.outOrder, Claim.out e.1)) ++ news).filter (fun c => (s.takeEngine core c.2).isSome)

/-- The claim that a slot of a context takes: the first. -/
def State.engineClaim (s : State) (core : Nat) (who : Nat → Bool) : Option Claim := (s.engineClaims core who).head?.map Prod.snd
/-- The claim that a free engine takes in a slot without a context: the oldest (R139). -/
def State.oldestClaim (s : State) (core : Nat) : Option Claim :=
  ((s.engineClaims core (fun _ => true)).foldl (fun (m : Option (Nat × Claim)) c => match m with
    | none => some c
    | some d => if c.1 < d.1 then some c else some d) none).map Prod.snd

/-- Meets a claim if there is one. -/
def State.giveEngine (s : State) (core : Nat) (c : Option Claim) : State := (c.bind (s.takeEngine core)).getD s

/-- What a slot boundary does to one engine (R139). -/
def State.slotEngine (s : State) (core : Nat) (entry : Option Nat) : State :=
  match entry with
  | none =>
    let s := if (s.core core).grant.isSome then s.modCore core (fun c => { c with grant := none }) else s
    if (s.core core).owner.isSome then s else s.giveEngine core (s.oldestClaim core)
  | some ctx =>
    match (s.core core).owner with
    | none => s.giveEngine core (s.engineClaim core (fun c => c == ctx))
    | some o =>
      if (s.block o).ctx == ctx then s
      else
        let granted := s.modCore core (fun c => { c with grant := some ctx })
        match (granted.without (some o)).engineClaim core (fun c => c == ctx) with
        | none => s
        | some _ =>
          if (s.block o).place == .moving then granted
          else if !s.savable o then s.beginOut o
          else granted.beginOut o

/-- MATRIX_SLOT_BOUNDARY: on each die whose slot has changed, the slot's entry is applied to every engine (R138, R139). -/
def execMatrixSlotBoundary (s : State) : Host.Outcome State Fault Refusal :=
  .next ((List.range 2).foldl (fun s die =>
    let now := s.slotNow die
    if Table.get 0 s.slotSeen die == now then s
    else
      let entry := s.slotEntry die (now % 64)
      let s := { s with slotSeen := Table.set 0 s.slotSeen die now }
      (List.range 128).foldl (fun s k => s.slotEngine (128 * die + k) entry) s) s)

/-- SWITCH_OUT_DRAIN_COMPLETE: the block's image is written and its resources are free; an engine granted to a context passes to its block
(R139, R436). -/
def execSwitchOutDrainComplete (b : Nat) (s : State) : Host.Outcome State Fault Refusal :=
  let bl := s.block b
  .next (if bl.place != .moving || bl.arriving || !s.drained b then s
  else
    let s := (s.finishOut b).settleLanded b
    match (s.core bl.core).grant with
    | none => s
    | some ctx =>
      if (s.core bl.core).owner.isSome then s
      else (s.giveEngine bl.core (s.engineClaim bl.core (fun c => c == ctx))).modCore bl.core (fun c => { c with grant := none }))

/-! ### The watchdog (R357) -/

/-- The context has a resident block, engine work or an unfinished packet. -/
def State.busy (s : State) (ctx : Nat) : Bool :=
  s.blocks.any (fun e => e.2.ctx == ctx && e.2.place == .resident) || s.copies.any (fun e => e.2.ctx == ctx) || s.colls.any (fun e => e.2.ctx == ctx)
    || s.nearWork.any (fun e => e.2.ctx == ctx) || s.searches.any (fun e => e.2.ctx == ctx)
    || s.queues.any (fun e => e.2.ctx == ctx && (!e.2.uncommitted.isEmpty || (e.2.state != 3 && (decide (e.2.head < e.2.tail) || !e.2.frames.isEmpty))))

/-- WATCHDOG_SAMPLE: every millisecond, each context's retirement is sampled; a count that reaches its window raises a context event (R338, R357). -/
def execWatchdogSample (s : State) : Host.Outcome State Fault Refusal :=
  .next (if s.time < 1000000 * (s.samples + 1) then s
  else
    let s : State := { s with
      samples := s.samples + 1
      contexts := s.contexts.map (fun e =>
        (e.1, { e.2 with pulsed := false, idle := if e.2.pulsed then 0 else if e.2.watchdog != 0 && s.busy e.1 then e.2.idle + 1 else e.2.idle })) }
    (s.contexts.filter (fun e => e.2.watchdog != 0 && decide (e.2.watchdog ≤ e.2.idle))).foldl (fun s e => s.post (.context e.1)) s)

/-- WATCHDOG_EXPIRY: a context whose count has reached its window has its blocks switched out and its queues stopped with WATCHDOG, and is
reported; accepted engine work goes on (R357). -/
def execWatchdogExpiry (ctx : Nat) (s : State) : Host.Outcome State Fault Refusal :=
  let c := s.context ctx
  .next (if c.watchdog == 0 || c.idle < c.watchdog then s
  else
    let s := (s.blocks.filter (fun e => e.2.ctx == ctx && e.2.place == .resident)).foldl (fun s e => s.beginOut e.1) s
    let s := (s.queues.filter (fun e => e.2.ctx == ctx && (e.2.enabled || e.2.state != 0) && e.2.state != 3)).foldl (fun s e => s.stopQueue e.1 8) s
    { s with contexts := Table.modify s.contexts ctx (fun c => { c with idle := 0, halted := true }) }.event 0 4 0 ctx 8 0)

end Sys2Proof.Machine
end

