-- ==== Sys2Proof/Machine/Exchange.lean ====
section
/-! DEFINITION. Exchange through time: PREV, scans, XREAD, BCAST, VOTE, quad forms and MATCH (11 R322 to R330). -/

namespace Sys2Proof.Machine

/-- Runs an exchange word: an illegal one traps on each active thread (R6, R322). -/
def State.exchange (s : State) (op : Nat) (f : RForm) (go : Issue → Shape → State → State) : State :=
  s.onGroup (fun i =>
    match rShape op f with
    | none => s.illegal i f.ext
    | some sh =>
      if !rLegal op f || !(Fields.ofR f).belowNreg sh (s.block i.b).nreg then s.illegal i f.ext else go i sh s)

/-- Reads the sources of an exchange and finds its destination, for one thread (R322: a trap contributes nothing). -/
def State.exchangeRead (s : State) (i : Issue) (f : RForm) (sh : Shape) (t : Nat) (go : Args → Loc → Turned) : Turned :=
  let q := Fields.ofR f
  match s.readAll i t (sources q sh) with
  | .trap r => .trap r
  | .hold => .hold
  | .vals xs =>
    match locate (s.thread (i.tk t)) q.d sh.d (if q.xo == 3 then some q.xs else none) with
    | .error r => .trap r
    | .ok l => if s.destReady i t l sh.d.n then go (argsOf xs) l else .hold

/-- One thread's turn of PREV: y is none before the first contributing thread (R324). -/
def prevTurn (i : Issue) (f : RForm) (sh : Shape) (s : State) (t : Nat) (acc : List Nat) : Turned :=
  s.exchangeRead i f sh t (fun x l =>
    .done (s.writeCells i t l sh.d.n (match acc with | y :: _ => y | [] => x.b)) [x.a])

/-- PREV (R324). -/
def execPrev (f : RForm) (s : State) : Host.Outcome State Fault Refusal :=
  .next (s.exchange 0x80 f (fun i sh s => s.perThread i (extGuard f.ext) (prevTurn i f sh)))

/-- Combination y ∘ x of SCAN and QRED (R325). -/
def combine (op ty rnd : Nat) (gr : Group) (y x : Nat) : Nat × Flags :=
  let w := elemWidth ty
  let sg := signedTy ty
  let flt := ty == 3 || ty == 6
  match op with
  | 0 => if flt then (fmtOf ty).addBits (modeOf rnd gr) y x else narrow (rnd == 5) ty (bitsToInt sg w y + bitsToInt sg w x)
  | 1 => if flt then ((fmtOf ty).minMaxNumber true y x, Flags.none) else (intToBits w (min (bitsToInt sg w y) (bitsToInt sg w x)), Flags.none)
  | 2 => if flt then ((fmtOf ty).minMaxNumber false y x, Flags.none) else (intToBits w (max (bitsToInt sg w y) (bitsToInt sg w x)), Flags.none)
  | 3 => (lutBits w 0x88 y x 0, Flags.none)
  | 4 => (lutBits w 0xEE y x 0, Flags.none)
  | _ => (lutBits w 0x66 y x 0, Flags.none)

/-- One thread's turn of a scan; `head` starts a segment (R325). -/
def scanTurn (i : Issue) (op : Nat) (f : RForm) (sh : Shape) (head : Thread → Bool) (s : State) (t : Nat) (acc : List Nat) : Turned :=
  s.exchangeRead i f sh t (fun x l =>
    let sub := extSub f.ext
    let y := match acc with
      | y :: _ => if head (s.thread (i.tk t)) then x.b else y
      | [] => x.b
    let z := combine (sub % 8) (RForm.tyOf op f) (extRnd f.ext) (s.group i.gk) y x.a
    .done ((s.writeCells i t l sh.d.n (if sub / 8 % 2 == 1 then y else z.1)).setSticky i.gk z.2) [z.1])

/-- SCAN (R325). -/
def execScan (f : RForm) (s : State) : Host.Outcome State Fault Refusal :=
  .next (s.exchange 0x81 f (fun i sh s => s.perThread i (extGuard f.ext) (scanTurn i 0x81 f sh (fun _ => false))))

/-- The head predicate of SSCAN: sub bits 6:4, negated by bit 7 (R325). -/
def headHolds (sub : Nat) (th : Thread) : Bool := th.p.getLsbD (sub / 16 % 8) != (sub / 128 == 1)

/-- SSCAN (R325). -/
def execSscan (f : RForm) (s : State) : Host.Outcome State Fault Refusal :=
  .next (s.exchange 0x82 f (fun i sh s => s.perThread i (extGuard f.ext) (scanTurn i 0x82 f sh (headHolds (extSub f.ext)))))

/-! ### Latched values: two numbers or more per thread, kept as (thread, values …) runs in the carried list -/

/-- The entry of thread `t` in a list of fixed-length records that begin with their thread. -/
def latched (width : Nat) (t : Nat) (fuel : Nat) (acc : List Nat) : Option (List Nat) :=
  match fuel with
  | 0 => none
  | k + 1 =>
    match acc with
    | [] => none
    | u :: rest => if u == t then some (rest.take width) else latched width t k (rest.drop width)

def latch1 (acc : List Nat) (t : Nat) : Option Nat := (latched 1 t 32 acc).bind List.head?

/-- The second pass of a two-pass form: each thread of `took` receives its result in ascending order, pix returns to 0, and
the pass ends (R323). -/
def State.secondPass (s : State) (i : Issue) (f : RForm) (sh : Shape) (result : List Nat → Nat → Nat) : State :=
  match (s.group i.gk).pass with
  | none => s
  | some p =>
    let q := Fields.ofR f
    let s := (lanesOf p.took).foldl (fun s t =>
      match locate (s.thread (i.tk t)) q.d sh.d (if q.xo == 3 then some q.xs else none) with
      | .ok l => s.writeCells i t l sh.d.n (result p.acc t)
      | .error _ => s) s
    (s.modGroup i.gk (fun gr => { gr with pix := 0#32, pixOwner := 0#32 })).endPass i

/-- A two-pass form: the first pass latches `take`'s values and empties d, then pix := 1 and the second pass stands ready; the
second pass follows in the group's next step (R323, R435). A handler that wrote pix := 0 makes it start again. -/
def State.twoPass (s : State) (i : Issue) (f : RForm) (sh : Shape) (take : Args → List Nat) (result : List Nat → Nat → Nat) : State :=
  let second := match (s.group i.gk).pass with
    | some p => p.second
    | none => false
  let s := s.takePix i
  if second then s.secondPass i f sh result
  else if s.pixTaken i then s.holdPath i .pix
  else
    let st := s.passStart i (extGuard f.ext)
    let turn := fun (s : State) (t : Nat) (acc : List Nat) =>
      s.exchangeRead i f sh t (fun x l => .done (s.emptyCells i t l sh.d.n) (acc ++ t :: take x))
    let r := runLanes i turn st.1 s st.2.1 st.2.2
    match r.2.1 with
    | [] => r.1.modGroup i.gk (fun gr =>
        { gr with issuing := i.path, pix := 1#32, pixOwner := r.2.2.1, pass := some { rest := 0#32, took := r.2.2.1, acc := r.2.2.2, second := true } })
    | rest => r.1.holdPass i rest r.2.2.1 r.2.2.2

/-- One thread's turn of the one-pass XREAD: its own a, that of an earlier contributing thread, or the fallback (R326). -/
def xreadTurn (i : Issue) (f : RForm) (sh : Shape) (s : State) (t : Nat) (acc : List Nat) : Turned :=
  s.exchangeRead i f sh t (fun x l =>
    let v := if x.b == t then x.a else if x.b < t then (latch1 acc x.b).getD x.c else x.c
    .done (s.writeCells i t l sh.d.n v) (acc ++ [t, x.a]))

/-- The result of XREAD.two: the latched a of the thread named, or the fallback (R326). -/
def xreadResult (acc : List Nat) (t : Nat) : Nat :=
  match latched 3 t 32 acc with
  | some [_, b, c] => match latched 3 b 32 acc with
    | some (a :: _) => if b < 32 then a else c
    | _ => c
  | _ => 0

/-- XREAD (R326). -/
def execXread (f : RForm) (s : State) : Host.Outcome State Fault Refusal :=
  .next (s.exchange 0x83 f (fun i sh s =>
    if extSub f.ext == 1 then s.twoPass i f sh (fun x => [x.a, x.b, x.c]) xreadResult
    else s.perThread i (extGuard f.ext) (xreadTurn i f sh)))

/-- One thread's turn of BCAST.first (R327). -/
def bcastTurn (i : Issue) (f : RForm) (sh : Shape) (s : State) (t : Nat) (acc : List Nat) : Turned :=
  s.exchangeRead i f sh t (fun x l =>
    let v := match acc with | y :: _ => y | [] => x.a
    .done (s.writeCells i t l sh.d.n v) [v])

/-- The source thread of BCAST.last or BCAST.lane among contributing threads (R327). -/
def bcastSource (mode k : Nat) (helpers : W32) (acc : List Nat) : Option Nat :=
  if mode == 1 then ((lanesOf (~~~helpers)).filter (fun t => (latch1 acc t).isSome)).getLast?
  else if (latch1 acc k).isSome then some k else none

/-- The uniform BCAST: nothing where the guard of the path's first thread fails (R32); else the source's a at that cycle, 0 with no active
thread, the first thread's a where the source is missing (R327). -/
def State.bcastUniform (s : State) (i : Issue) (f : RForm) (sh : Shape) : State :=
  let q := Fields.ofR f
  let sub := extSub f.ext
  let act := s.active i (extGuard f.ext)
  let src := match sub / 32 with
    | 0 => act.head?
    | 1 => (act.filter (fun t => (s.thread (i.tk t)).role == Role.live)).getLast?
    | _ => if act.contains (sub % 32) then some (sub % 32) else none
  let l := Loc.s (q.d.toNat - 96)
  let write := fun (s : State) v => if s.destReady i 0 l sh.d.n then (s.writeCells i 0 l sh.d.n v).endPass i else s.holdPass i (lanesOf i.path) 0#32 []
  if !s.uniformGuard i f.ext then s.endPass i
  else if act.isEmpty then write s 0
  else match s.readUniform i (src.getD (firstLane i.path)) (sources q sh) with
    | .trap r => s.trapPath i r
    | .hold => s.holdPass i (lanesOf i.path) 0#32 []
    | .vals xs => write s (argsOf xs).a

/-- BCAST (R327): sub bits 6:5 hold first, last or lane. -/
def execBcast (f : RForm) (s : State) : Host.Outcome State Fault Refusal :=
  .next (s.exchange 0x84 f (fun i sh s =>
    let sub := extSub f.ext
    if (Fields.ofR f).uniform sh then s.bcastUniform i f sh
    else if sub / 32 == 0 then s.perThread i (extGuard f.ext) (bcastTurn i f sh)
    else
      let helpers := (s.group i.gk).help
      s.twoPass i f sh (fun x => [x.a]) (fun acc t =>
        match bcastSource (sub / 32) (sub % 32) helpers acc with
        | some k => (latch1 acc k).getD 0
        | none => (latch1 acc t).getD 0)))

/-- The result of a vote over the predicates of the active threads (R328). -/
def voteResult (op : Nat) (hold all : List Nat) : Nat :=
  match op with
  | 0 => (maskOf hold).toNat
  | 1 => if hold.length == all.length then 1 else 0
  | 2 => if hold.isEmpty then 0 else 1
  | _ => hold.length

/-- The vote of an issue's active threads: helpers give nothing (R310, R328). -/
def State.vote (s : State) (i : Issue) (f : RForm) : Nat :=
  let sub := extSub f.ext
  let all := (s.active i (extGuard f.ext)).filter (fun t => (s.thread (i.tk t)).role == Role.live)
  voteResult (sub / 16 % 4) (all.filter (fun t => (s.thread (i.tk t)).p.getLsbD (sub % 8) != (sub / 8 % 2 == 1))) all

/-- VOTE: predicates are read at the start of the pass; a held pass keeps the result it began with (R328). The uniform form does nothing
where the guard of the path's first thread fails (R32). -/
def execVote (f : RForm) (s : State) : Host.Outcome State Fault Refusal :=
  .next (s.exchange 0x85 f (fun i sh s =>
    let q := Fields.ofR f
    let v := match (s.group i.gk).pass with
      | some { acc := y :: _, .. } => y
      | _ => s.vote i f
    if q.uniform sh then
      let l := Loc.s (q.d.toNat - 96)
      if !s.uniformGuard i f.ext then s.endPass i
      else if s.destReady i 0 l 1 then (s.writeCells i 0 l 1 v).endPass i else s.holdPass i (lanesOf i.path) 0#32 [v]
    else
      s.perThread i (extGuard f.ext) (fun s t _ =>
        match locate (s.thread (i.tk t)) q.d sh.d (if q.xo == 3 then some q.xs else none) with
        | .error r => .trap r
        | .ok l => if s.destReady i t l 1 then .done (s.writeCells i t l 1 v) [v] else .hold)))

/-! ### Quad forms (R329) -/

/-- The threads of a mask in quad `k`. -/
def quadLanes (k : Nat) (l : List Nat) : List Nat := l.filter (fun t => t / 4 == k)

/-- What reading the a of every active thread of a quad comes to: a thread that traps is named with its trap. -/
inductive QuadGot where
  | hold
  | vals (ok : List (Nat × Nat × Loc)) (bad : List (Nat × TrapRec))
  deriving DecidableEq, Repr

/-- Reads a quad's sources before any destination is written (R329). -/
def State.readQuad (s : State) (i : Issue) (f : RForm) (sh : Shape) (ts : List Nat) : QuadGot :=
  match ts with
  | [] => .vals [] []
  | t :: rest =>
    match s.readQuad i f sh rest with
    | .hold => .hold
    | .vals ok bad =>
      match s.exchangeRead i f sh t (fun x l => .done s [x.a, match l with | .v r => r | .s r => r]) with
      | .hold => .hold
      | .holdWith _ => .hold
      | .trap r => .vals ok ((t, r) :: bad)
      | .done _ [a, r] => .vals ((t, a, .v r) :: ok) bad
      | .done _ _ => .vals ok bad

/-- Runs the quads of a pass in order: `result` gives each thread's value and flags from the quad's contributing values. -/
def State.quadPass (s : State) (i : Issue) (f : RForm) (sh : Shape)
    (result : State → List (Nat × Nat) → Nat → Nat → Nat × Flags) (quads : List Nat) (act : List Nat) : State × Option Nat :=
  match quads with
  | [] => (s, none)
  | k :: rest =>
    match s.readQuad i f sh (quadLanes k act) with
    | .hold => (s, some k)
    | .vals ok bad =>
      let vals := ok.map (fun e => (e.1, e.2.1))
      let s1 := bad.foldl (fun s e => s.raise (i.tk e.1) e.2) s
      let s2 := ok.foldl (fun s1 e =>
        let r := result s vals e.1 e.2.1
        (s1.writeCells i e.1 e.2.2 sh.d.n r.1).setSticky i.gk r.2) s1
      s2.quadPass i f sh result rest act

/-- A quad form: ends the pass, or holds it at a quad (R329). -/
def State.quads (s : State) (i : Issue) (f : RForm) (sh : Shape) (result : State → List (Nat × Nat) → Nat → Nat → Nat × Flags) : State :=
  let st := s.passStart i (extGuard f.ext)
  let from_ := (st.1.head?).getD 0 / 4
  let r := s.quadPass i f sh result ((List.range 8).filter (fun k => decide (from_ ≤ k))) st.1
  match r.2 with
  | none => r.1.endPass i
  | some k => r.1.holdPass i (st.1.filter (fun t => decide (k ≤ t / 4))) st.2.1 []

/-- The value of a thread in a list of (thread, value). -/
def valueOf (vs : List (Nat × Nat)) (t : Nat) : Option Nat := (vs.find? (fun e => e.1 == t)).map Prod.snd

/-- QXCH: the partner by XOR or by lane; its own a where the partner did not contribute (R329). -/
def execQxch (f : RForm) (s : State) : Host.Outcome State Fault Refusal :=
  let sub := extSub f.ext
  .next (s.exchange 0x86 f (fun i sh s => s.quads i f sh (fun _ vs t a =>
    let partner := if sub / 4 == 1 then t / 4 * 4 + sub % 4 else t / 4 * 4 + ((t % 4) ^^^ (sub % 4))
    ((valueOf vs partner).getD a, Flags.none))))

/-- The combination of a quad's contributing non-helper values in ascending index (R329). -/
def quadCombine (op ty rnd : Nat) (gr : Group) (vs : List Nat) : Option (Nat × Flags) :=
  match vs with
  | [] => none
  | v :: rest => some (rest.foldl (fun acc x => let r := combine op ty rnd gr acc.1 x; (r.1, acc.2 ||| r.2)) (v, Flags.none))

/-- QRED (R329). -/
def execQred (f : RForm) (s : State) : Host.Outcome State Fault Refusal :=
  .next (s.exchange 0x87 f (fun i sh s => s.quads i f sh (fun s vs _ a =>
    let live := vs.filter (fun e => (s.thread (i.tk e.1)).role == Role.live)
    (quadCombine (extSub f.ext % 8) (RForm.tyOf 0x87 f) (extRnd f.ext) (s.group i.gk) (live.map Prod.snd)).getD (a, Flags.none))))

/-- MATCH: the contributing non-helper threads whose latched a is equal, bit by bit (R330). -/
def execXmatch (f : RForm) (s : State) : Host.Outcome State Fault Refusal :=
  .next (s.exchange 0x88 f (fun i sh s =>
    let helpers := (s.group i.gk).help
    s.twoPass i f sh (fun x => [x.a]) (fun acc t =>
      (maskOf ((lanesOf (~~~helpers)).filter (fun u => (latch1 acc u).isSome && latch1 acc u == latch1 acc t))).toNat)))

end Sys2Proof.Machine
end

