-- ==== Sys2Proof/Machine/Service.lean ====
section
/-! DEFINITION. The fault service, invalidation of translations and hand-over of pages (14 R392 to R402). -/

namespace Sys2Proof.Machine

def State.page (s : State) (p : Nat) : Page := Table.get {} s.pages p
def State.modPage (s : State) (p : Nat) (f : Page → Page) : State := { s with pages := Table.put s.pages p (f (s.page p)) }
/-- A register of a partition's page by its offset (R403). -/
def Page.reg (p : Page) (off : Nat) : Nat := (Table.get 0#64 p.regs off).toNat

/-- The partition's range of context numbers holds a context (R404). -/
def State.contextIn (s : State) (p ctx : Nat) : Bool :=
  let r := (s.partition p).contexts
  (s.partition p).valid && decide (r.1 ≤ ctx) && decide (ctx < r.1 + r.2)

/-! ### Fault records (R396, R397) -/

/-- The 32 bytes of a record. -/
def FaultRec.bytes (f : FaultRec) (serial time : Nat) : Nat :=
  f.va % 2 ^ 57 + 2 ^ 64 * (f.ctx + 2 ^ 12 * f.cause + 2 ^ 16 * f.source + 2 ^ 20 * f.access) + 2 ^ 96 * serial + 2 ^ 128 * f.unit
    + 2 ^ 192 * (time % 2 ^ 64)

/-- The ring takes another record: its size is 2^4 to 2^16 and it is not full (R396, R403). -/
def Page.ringRoom (p : Page) : Bool :=
  decide (4 ≤ p.reg 8) && decide (p.reg 8 ≤ 16) && decide ((p.frtail + 2 ^ 32 - p.reg 16 % 2 ^ 32) % 2 ^ 32 < 2 ^ p.reg 8)

/-- Writes a fault's record to its partition's ring in host memory and raises the fault vector (R396, R397, R403). -/
def State.writeRecord (s : State) (id : Nat) (f : FaultRec) : State :=
  let pn := (s.context f.ctx).partition
  let p := s.page pn
  let a := hostBase + p.reg 0 + 32 * (p.frtail % 2 ^ p.reg 8)
  let s := s.modPage pn (fun p => { p with serial := (p.serial + 1) % 2 ^ 32, frtail := (p.frtail + 1) % 2 ^ 32 })
  { s with
    mem := s.mem.writeNat a 32 (f.bytes p.serial s.time)
    faults := Table.put s.faults id { f with stage := 2, serial := p.serial }
    outbox := s.outbox ++ [Out.msix (1024 + pn)] }

/-- A record of the same partition has been held longer. -/
def State.heldEarlier (s : State) (id : Nat) (f : FaultRec) : Bool :=
  s.faults.any (fun e => decide (e.1 < id) && e.2.stage == 1 && (s.context e.2.ctx).partition == (s.context f.ctx).partition)

/-- FAULT_EVENT: a command core writes the record of a new fault, or holds it while the ring is full (R396). -/
def execFaultEvent (id : Nat) (s : State) : Host.Outcome State Fault Refusal :=
  match Table.find s.faults id with
  | none => .next s
  | some f =>
    .next (if f.stage != 0 then s
    else if (s.page (s.context f.ctx).partition).ringRoom && !s.heldEarlier id f then (s.writeRecord id f).pulse f.ctx
    else { s with faults := Table.put s.faults id { f with stage := 1 } })

/-- FAULT_RECORD_DEFERRED: the record held longest is written once there is room (R396). -/
def execFaultRecordDeferred (id : Nat) (s : State) : Host.Outcome State Fault Refusal :=
  match Table.find s.faults id with
  | none => .next s
  | some f =>
    .next (if f.stage == 1 && (s.page (s.context f.ctx).partition).ringRoom && !s.heldEarlier id f then s.writeRecord id f else s)

/-! ### Answers (R398, R426, R436) -/

/-- The threads parked under a fault, as (thread key, trap, next word, word). -/
def State.parkedOn (s : State) (id : Nat) : List (Nat × TrapRec × W64 × W64) :=
  s.threads.filterMap (fun e => match e.2.park with
    | .fault n r next word => if n == id then some (e.1, r, next, word) else none
    | _ => none)

/-- Held responder packets of a fault. -/
def State.packetsOn (s : State) (id : Nat) : List (Nat × HeldPacket) := s.heldPackets.filter (fun e => e.2.fault == id)

/-- The responder takes up again the packets held under an answered fault, in the order of their arrival: each is translated again (R283, R398). -/
def State.answerHeld (s : State) (id : Nat) : State :=
  let hs := s.packetsOn id
  let s : State := { s with heldPackets := s.heldPackets.filter (fun e => e.2.fault != id) }
  hs.foldl (fun s h => (s.answer h.1 h.2.port h.2.packet).getD s) s

/-- Every agent joined to a fault goes on: threads replay, log entries are due, sequencers and engines restart, copies and packets and
queues try again (R398). -/
def State.retryFault (s : State) (id : Nat) : State :=
  let s : State := { s with faults := Table.erase s.faults id }
  let s := (s.parkedOn id).foldl (fun s p => s.modThread p.1 (fun th => { th with park := .none })) s
  let s : State := { s with
    blocks := s.blocks.map (fun e => if e.2.msq.fault == some id then
      (e.1, { e.2 with msq := { e.2.msq with state := .running, fcode := 0, fop := 0, fault := none } }) else e)
    copies := s.copies.map (fun e => if e.2.stuck == some id then (e.1, { e.2 with stuck := none }) else e)
    engines := s.engines.map (fun e => if e.2.fault == some id then (e.1, { e.2 with state := .ready, fault := none }) else e)
    queues := s.queues.map (fun e => if e.2.fault == some id then (e.1, { e.2 with fault := none }) else e)
    events := s.events ++ ((s.queues.filter (fun e => e.2.fault == some id)).map (fun e => CmdEvent.change e.1)).filter (fun e => !s.events.contains e) }
  ((s.colls.filter (fun e => e.2.stuck == some id)).foldl (fun s e => s.runOut e.1 (e.2.todo.length + 1)) s).answerHeld id

/-- Delivers a parked thread's trap, or keeps it for the block's resumption (R426, R427, R434, R436). -/
def State.deliverParked (s : State) (p : Nat × TrapRec × W64 × W64) : State :=
  let b := p.1 / 1024
  let g := p.1 / 32 % 32
  if (s.block b).place == .resident then
    ((s.deliver b g (p.1 % 32) p.2.1 p.2.2.1 p.2.2.2).dropPix (gkey b g) [p.1 % 32]).orphanCheck b g
  else s.modThread p.1 (fun th => { th with park := .deferred p.2.1 p.2.2.1 p.2.2.2 })

/-- Every agent joined to a fault has it delivered: traps, dropped log entries, stops, abandoned copies, reports, status 3, FETCH (R398). A packet held
behind another of its span has joined that one's fault (log 139). -/
def State.deliverFault (s : State) (id : Nat) (f : FaultRec) : State :=
  let s : State := { s with faults := Table.erase s.faults id }
  let s := (s.parkedOn id).foldl (fun s p => s.deliverParked p) s
  let s := (s.reqs.filter (fun e => e.2.logged == some (.fault id))).foldl (fun s e =>
    e.2.lanes.foldl (fun s l => s.reportDropped e.2 l) { s with reqs := Table.erase s.reqs e.1 }) s
  let s := (s.blocks.filter (fun e => e.2.msq.fault == some id)).foldl (fun s e => s.deliverMsq e.1) s
  let s := (s.copies.filter (fun e => e.2.stuck == some id)).foldl (fun s e => s.abandonCopy e.1 e.2 (causeTrap f.cause) f.va) s
  let s := (s.colls.filter (fun e => e.2.stuck == some id)).foldl (fun s e =>
    (State.faultReport { s with colls := Table.put s.colls e.1 { e.2 with stuck := none, fc := if e.2.fc == 0 then causeTrap f.cause else e.2.fc } }
      e.2.core e.2.ctx (32768 + e.2.b) f.va).runOut e.1 (e.2.todo.length + 1)) s
  let s := (s.engines.filter (fun e => e.2.fault == some id)).foldl (fun s e => s.reportStop e.1) s
  let s := (s.packetsOn id).foldl (fun s h =>
    State.respond { s with heldPackets := Table.erase s.heldPackets h.1 } h.2.port h.2.packet h.2.packet.answer 3 []) s
  (s.queues.filter (fun e => e.2.fault == some id)).foldl (fun s e => (s.modQueue e.1 (fun q => { q with fault := none })).stopQueue e.1 5) s

/-- A write of fres with a verdict: the record it names is answered; one that names none outstanding, or a context outside the
partition, is ignored and reported (R398). -/
def State.answerRecord (s : State) (p : Nat) (v : W64) (verd : Bool) (go : Nat → FaultRec → State) : State :=
  let ctx := fieldOf v.toNat 48 12
  let serial := fieldOf v.toNat 0 32
  if v.getLsbD 60 != verd then s
  else if !s.contextIn p ctx then s.event 0 4 0 ctx 14 serial
  else match s.faults.find? (fun e => e.2.stage == 2 && e.2.ctx == ctx && e.2.serial == serial) with
    | none => s.event 0 4 0 ctx 14 serial
    | some e => (go e.1 e.2).pulse ctx

/-- FAULT_RETRY (R398). -/
def execFaultRetry (p : Nat) (v : W64) (s : State) : Host.Outcome State Fault Refusal :=
  .next (s.answerRecord p v false (fun id _ => s.retryFault id))
/-- FAULT_DELIVER (R398). -/
def execFaultDeliver (p : Nat) (v : W64) (s : State) : Host.Outcome State Fault Refusal :=
  .next (s.answerRecord p v true (fun id f => s.deliverFault id f))

/-! ### Invalidation (R394) -/

/-- The invalidation's range holds a page. -/
def Inval.covers (i : Inval) (ctx page : Nat) : Bool := i.ctx == ctx && (i.pages == 0 || (decide (i.page ≤ page) && decide (page < i.page + i.pages)))

/-- A cached leaf covers a page of the range. -/
def Inval.touches (i : Inval) (key : Nat) (l : Leaf) : Bool :=
  let page := key % 2 ^ 41
  let n := 2 ^ (l.shift - 16)
  i.ctx == key / 2 ^ 41 && (i.pages == 0 || overlap i.page i.pages (page / n * n) n)

/-- Starts an invalidation: no cache holds an entry of the range from now on (R394). -/
def State.startInval (s : State) (i : Inval) : State :=
  { s with tlb := s.tlb.filter (fun e => !(i.touches e.1 e.2)), nextId := max s.nextId i.upto }

/-- The conditions of R394: accesses translated before the start, of passes that are under way too, and near work and collectives that translated a
page at issue before it, are done. -/
def State.invalDone (s : State) (i : Inval) : Bool :=
  s.reqs.all (fun e => !(decide (e.2.since < i.upto) && e.2.logged.isNone && e.2.space == .main && e.2.kind != .answered
      && e.2.lanes.any (fun l => i.covers e.2.ctx (l.va / 65536))))
    && s.groups.all (fun e => match e.2.pass with
      | some p => !(p.gathered.any (fun x => decide (x.since < i.upto) && x.logged.isNone && x.route.isNone && x.space == .main
          && i.covers (s.block (e.1 / 32)).ctx (x.lane.va / 65536)))
      | none => true)
    && s.nearWork.all (fun e => !(decide (e.1 < i.upto) && e.2.pages.any (fun p => i.covers e.2.ctx p.1)))
    && s.searches.all (fun e => !(decide (e.1 < i.upto) && e.2.pages.any (fun p => i.covers e.2.ctx p.1)))
    && s.colls.all (fun e => !(decide (e.1 < i.upto) && decide (e.2.sent < e.2.pieces) && e.2.pages.any (fun p => i.covers e.2.ctx p.1)))

/-- Runs `f` for the partition whose work a command core does (log 10). -/
def State.onPartition (s : State) (f : Nat → Page → State) : State :=
  match s.cur with
  | .partition p => f p (s.page p)
  | _ => s

/-- TLB_INVALIDATE: a write to tlbgo starts the invalidation that tlbinv names; one of a context outside the partition is ignored and
reported (R394, R403). -/
def execTlbInvalidate (p : Nat) (s : State) : Host.Outcome State Fault Refusal :=
  let pg := s.page p
  let ctx := fieldOf (pg.reg 0x88) 32 12
  .next (if !s.contextIn p ctx then s.event 0 4 0 ctx 15 0
  else
    let i : Inval := { ctx := ctx, page := fieldOf (pg.reg 0x80) 16 41, pages := fieldOf (pg.reg 0x88) 0 32, upto := s.nextId + 1, counted := true }
    (s.startInval i).modPage p (fun pg => { pg with invals := pg.invals ++ [i] }))

/-- TLB_INVALIDATE_COMPLETE: the partition's oldest invalidation completes once its conditions hold, and tlbdone advances (R394). -/
def execTlbInvalidateComplete (s : State) : Host.Outcome State Fault Refusal :=
  .next (s.onPartition (fun p pg => match pg.invals with
    | [] => s
    | i :: rest =>
      if s.invalDone i then (s.startInval i).modPage p (fun pg => { pg with invals := rest, tlbdone := (pg.tlbdone + (if i.counted then 1 else 0)) % 2 ^ 64 })
      else s))

/-! ### Hand-over (R400 to R402) -/

/-- The leaf entry that maps an address: its own address, its shift and its value; nothing where the walk ends otherwise (R389, R390). -/
def State.leafEntry (s : State) (p : Partition) (va : Nat) (levels : List (Nat × Nat)) (table : Nat) : Option (Nat × Nat × Nat) :=
  match levels with
  | [] => none
  | (shift, n) :: rest =>
    let a := table + 8 * ((va / 2 ^ shift) % n)
    let e := s.mem.readNat a 8
    if !p.owns s.lsplit a || s.poisoned .main a || e % 2 == 0 || malformed s.lsplit e shift then none
    else if entryBits e 1 1 == 1 then some (a, shift, e)
    else s.leafEntry p va rest (entryBits e 51 16 * 65536)

/-- A hand-over command (R400). -/
structure Handover where
  base : Nat
  len : Nat
  ctx : Nat
  release : Bool
  serial : Nat
  deriving DecidableEq, Repr

def Handover.ofWords (ws : List W64) : Handover :=
  { base := (ws.getD 0 0#64).toNat, len := (ws.getD 1 0#64).toNat, ctx := fieldOf (ws.getD 2 0#64).toNat 0 12
    release := (ws.getD 2 0#64).getLsbD 16, serial := fieldOf (ws.getD 3 0#64).toNat 0 32 }

/-- The descriptor is well formed and its context is the partition's (R400). -/
def State.handoverOk (s : State) (p : Nat) (ws : List W64) : Bool :=
  let h := Handover.ofWords ws
  h.base % 65536 == 0 && decide (h.base < 2 ^ 57) && h.len % 65536 == 0 && decide (65536 ≤ h.len) && decide (h.len < 2 ^ 57)
    && (ws.getD 2 0#64).toNat - h.ctx - (if h.release then 65536 else 0) == 0 && decide ((ws.getD 3 0#64).toNat < 2 ^ 32)
    && s.contextIn p h.ctx && (Table.find s.contexts h.ctx).isSome

/-- The leaf entry of a page of the range; the window region has no pages, and nothing walks it (R382). -/
def State.handoverLeaf (s : State) (h : Handover) (k : Nat) : Option (Nat × Nat × Nat) :=
  let c := s.context h.ctx
  if windowBase ≤ h.base + 65536 * k then none
  else s.leafEntry (s.partition c.partition) (h.base + 65536 * k) walkLevels c.root

/-- A leaf of the range extends beyond it (R400). -/
def State.leafBeyond (s : State) (h : Handover) : Bool :=
  (List.range (h.len / 65536)).any (fun k => match s.handoverLeaf h k with
    | none => false
    | some (_, shift, _) =>
      let lo := (h.base + 65536 * k) / 2 ^ shift * 2 ^ shift
      decide (lo < h.base) || decide (h.base + h.len < lo + 2 ^ shift))

/-- Writes the host-owned bit of every valid leaf of the range (R392, R401, R402). -/
def State.setHost (s : State) (h : Handover) (own : Bool) : State :=
  (List.range (h.len / 65536)).foldl (fun s k => match s.handoverLeaf h k with
    | none => s
    | some (a, _, e) =>
      if (entryBits e 10 10 == 1) == own then s
      else { s with mem := s.mem.writeNat a 8 (if own then e + 1024 else e - 1024) }) s

/-- Writes hdone and raises its vector: serial and status (R400, R403). -/
def State.handoverDone (s : State) (p serial status : Nat) : State :=
  let s := s.modPage p (fun pg => { pg with hdone := BitVec.ofNat 64 (serial + 2 ^ 32 * status) })
  { s with outbox := s.outbox ++ [Out.msix (1032 + p)] }

/-- The pages of a range that an acquire gives to the host: those mapped and the device's (R400, R401). -/
def State.handoverTakes (s : State) (h : Handover) : List Nat :=
  ((List.range (h.len / 65536)).filter (fun k => match s.handoverLeaf h k with
    | some (_, _, e) => entryBits e 10 10 == 0
    | none => false)).map (fun k => h.base / 65536 + k)

/-- Runs the partition's next hand-over command if it is of this kind and none is under way; a refused one changes nothing (R400). -/
def State.onHandover (s : State) (release : Bool) (go : Nat → Handover → State) : State :=
  s.onPartition (fun p pg => match pg.handovers with
    | [] => s
    | ws :: rest =>
      let h := Handover.ofWords ws
      let pop := s.modPage p (fun pg => { pg with handovers := rest })
      if pg.acquiring.isSome || h.release != release then s
      else if !s.handoverOk p ws then pop.handoverDone p h.serial 1
      else if s.leafBeyond h then pop.handoverDone p h.serial 2
      else go p h)

/-- The range of a command as an invalidation that tlbdone does not count. -/
def Handover.inval (h : Handover) (upto : Nat) : Inval :=
  { ctx := h.ctx, page := h.base / 65536, pages := h.len / 65536, upto := upto, counted := false }

/-- HANDOVER_ACQUIRE: steps 1 and 2 of R401; the command stays until its completion. -/
def execHandoverAcquire (s : State) : Host.Outcome State Fault Refusal :=
  .next (s.onHandover false (fun p h =>
    let i := { h.inval (s.nextId + 1) with taken := s.handoverTakes h }
    ((s.setHost h true).startInval i).modPage p (fun pg => { pg with acquiring := some i })))

/-- Log entries, held packets and suspended copies of the range (R401 step 3). -/
def State.rangeQuiet (s : State) (i : Inval) : Bool :=
  let waits := fun (f : Option Nat) => match f with
    | some id => (match Table.find s.faults id with | some r => i.covers r.ctx (r.va / 65536) | none => false)
    | none => false
  s.reqs.all (fun e => !(e.2.logged.isSome && e.2.lanes.any (fun l => i.covers e.2.ctx (l.va / 65536))))
    && s.heldPackets.all (fun e => !(waits (some e.2.fault))) && s.copies.all (fun e => !(waits e.2.stuck)) && s.colls.all (fun e => !(waits e.2.stuck))

/-- HANDOVER_ACQUIRE_COMPLETE: once the range's work has drained, near caches are discarded and hdone is written (R401). -/
def execHandoverAcquireComplete (s : State) : Host.Outcome State Fault Refusal :=
  .next (s.onPartition (fun p pg => match pg.acquiring, pg.handovers with
    | some i, ws :: rest =>
      if !(Handover.ofWords ws).release && s.invalDone i && s.rangeQuiet i then
        let s : State := { s.startInval i with cores := s.cores.map (fun e => (e.1, { e.2 with near := [], nearPoison := [] })) }
        (s.modPage p (fun pg => { pg with acquiring := none, handovers := rest })).handoverDone p (Handover.ofWords ws).serial 0
      else s
    | _, _ => s))

/-- The end of a release by the host: cause-4 faults of the range are retried, and hdone is written last (R402). -/
def State.endRelease (s : State) (p : Nat) (i : Inval) (h : Handover) (rest : List (List W64)) : State :=
  let s := (s.startInval i).modPage p (fun pg => { pg with acquiring := none, handovers := rest })
  ((s.faults.filter (fun e => e.2.cause == 4 && i.covers e.2.ctx (e.2.va / 65536))).foldl (fun s e => s.retryFault e.1) s).handoverDone p h.serial 0

/-- HANDOVER_RELEASE: the leaves are the device's again and translations are invalidated; once the invalidation is complete the release ends (R394,
R402). -/
def execHandoverRelease (s : State) : Host.Outcome State Fault Refusal :=
  .next (s.onPartition (fun p pg => match pg.acquiring, pg.handovers with
    | some i, ws :: rest => if (Handover.ofWords ws).release && s.invalDone i then s.endRelease p i (Handover.ofWords ws) rest else s
    | _, _ => s.onHandover true (fun p h =>
      let i := h.inval (s.nextId + 1)
      ((s.setHost h false).startInval i).modPage p (fun pg => { pg with acquiring := some i }))))

end Sys2Proof.Machine
end

