-- ==== Sys2Proof/Machine/Partitions.lean ====
section
/-! DEFINITION. Contexts, partitions, registers written by masters, BAR2, and the release of frozen masters (14 R385, R403; 15 R404 to R418). -/

namespace Sys2Proof.Machine

/-! ### Context records (R407) -/

def inRange (r : Nat × Nat) (lo n : Nat) : Bool := decide (r.1 ≤ lo) && decide (lo + n ≤ r.1 + r.2)

/-- A scratch window of a context record: base and size in 64 KiB units, within the partition's range of the die. -/
def windowOf (x : Nat) : Nat × Nat := (fieldOf x 0 11, fieldOf x 16 11)
def windowLegal (r : Nat × Nat) (x : Nat) : Bool :=
  fieldOf x 11 5 == 0 && fieldOf x 27 5 == 0 && ((windowOf x).2 == 0 || inRange r (windowOf x).1 (windowOf x).2)

/-- The limits of R407 on a record of 64 bytes, for partition `p`. -/
def State.contextRecordOk (s : State) (p x : Nat) : Bool :=
  let pt := s.partition p
  let root := fieldOf x 0 64
  let peers := fieldOf x 64 64
  let wd := fieldOf x 192 32
  let tmo := fieldOf x 224 32
  root % 65536 == 0 && pt.owns s.lsplit root && peers % 8192 == 0 && decide (peers < 2 ^ 57)
    && windowLegal pt.scratch0 (fieldOf x 128 32) && windowLegal pt.scratch1 (fieldOf x 160 32)
    && decide (wd ≤ 60000) && (tmo == 0 || (decide (10 ≤ tmo) && decide (tmo ≤ 1000000))) && fieldOf x 256 256 == 0

/-- Loads a checked record. -/
def Context.load (c : Context) (a x : Nat) : Context :=
  { c with record := a, root := fieldOf x 0 64, peers := fieldOf x 64 64, scratch0 := windowOf (fieldOf x 128 32)
           scratch1 := windowOf (fieldOf x 160 32), watchdog := fieldOf x 192 32, timeout := fieldOf x 224 32 }

/-- A structure of `n` bytes at a physical address, aligned to 64, lies in the partition's memory and reads clean (R407, R408). -/
def State.ownedAt (s : State) (p a n : Nat) : Bool := a % 64 == 0 && (s.partition p).owns s.lsplit a && !s.poisonedIn .main a n

/-- The first free place among `n` places of 512 KiB, from one whose end is `hi` downwards. -/
def highestFree (free : Nat → Bool) (hi n : Nat) : Option Nat :=
  match n with
  | 0 => none
  | k + 1 => if free (hi - 524288) then some (hi - 524288) else highestFree free (hi - 524288) k

/-- Where a new remap table of 512 KiB stands: the highest place of the save area that neither an image nor another table has (R406, R411, R412). -/
def State.remapSpot (s : State) (p : Nat) : Option Nat :=
  let pt := s.partition p
  let hi := (pt.save.1 + pt.save.2) * gib
  let free := fun a => s.blocks.all (fun e => !((e.2.place == .out || e.2.place == .moving) && overlap a 524288 e.2.image (imageSize e.2)))
    && s.contexts.all (fun e => e.2.partition != p || !overlap a 524288 e.2.remap 524288)
  highestFree free hi (pt.save.2 * gib / 524288)

/-! ### Context commands (R408) -/

/-- A context command. -/
structure Command3 where
  op : Nat
  ctx : Nat
  serial : Nat
  a : Nat
  b : Nat
  clean : Bool
  deriving DecidableEq, Repr

def Command3.ofWords (ws : List W64) : Command3 :=
  let x := (ws.getD 0 0#64).toNat
  { op := fieldOf x 0 4, ctx := fieldOf x 16 12, serial := fieldOf x 32 32, a := (ws.getD 1 0#64).toNat, b := (ws.getD 2 0#64).toNat
    clean := fieldOf x 4 12 == 0 && fieldOf x 28 4 == 0 }

/-- Writes cdone and raises its vector: serial and status (R408). -/
def State.commandDone (s : State) (p serial status : Nat) : State :=
  let s := s.modPage p (fun pg => { pg with cdone := BitVec.ofNat 64 (serial + 2 ^ 32 * status) })
  { s with outbox := s.outbox ++ [Out.msix (1032 + p)] }

/-- The reasons of R408 that hold for every op: a nonzero reserved field, a context that is not the partition's, one that is valid at a create
or not valid elsewhere. -/
def State.commandOk (s : State) (p : Nat) (c : Command3) : Bool :=
  let valid := match Table.find s.contexts c.ctx with
    | some x => !x.ending
    | none => false
  c.clean && (if c.op == 6 then c.ctx == 0 else s.contextIn p c.ctx && (if c.op == 0 then (Table.find s.contexts c.ctx).isNone else valid))

/-- What a context command comes to: it is done, refused, or still under way. -/
inductive Ran where
  | done (s : State)
  | refused
  | waits (s : State)
  deriving DecidableEq, Repr

/-- Runs the partition's next context command if it is of this op and no destroy is under way: `go` gives its effect; once it is done or refused,
cdone is written. An op that is not listed is refused; an operand that an op does not have is not looked at (R408). -/
def State.onCommand (s : State) (op : Nat) (go : Nat → Command3 → Ran) : State :=
  s.onPartition (fun p pg => match pg.commands with
    | [] => s
    | ws :: rest =>
      let c := Command3.ofWords ws
      let finish := fun (s : State) (status : Nat) => (s.modPage p (fun pg => { pg with commands := rest })).commandDone p c.serial status
      if pg.destroying.isSome || !(c.op == op || (op == 0 && 6 < c.op)) then s
      else if c.op != op || !s.commandOk p c then finish s 1
      else match go p c with
        | .done s' => finish s' 0
        | .refused => finish s 1
        | .waits s' => s')

/-- CONTEXT_CREATE: the record is checked and loaded and the entry becomes valid, its remap table zeroed (R406 to R408). Where the save area has no
room for the table the command waits for it (log 20). -/
def execContextCreate (s : State) : Host.Outcome State Fault Refusal :=
  .next (s.onCommand 0 (fun p c =>
    let x := s.mem.readNat c.a 64
    if !s.ownedAt p c.a 64 || !s.contextRecordOk p x then .refused
    else match s.remapSpot p with
      | none => .waits s
      | some r => .done { s with contexts := Table.put s.contexts c.ctx (Context.load { partition := p, remap := r } c.a x) }))

/-- CONTEXT_RELOAD: the record is checked and loaded again; every cached translation of the context is invalidated, and the command is done when that
invalidation is complete (R394, R408). -/
def execContextReload (s : State) : Host.Outcome State Fault Refusal :=
  .next (s.onCommand 1 (fun p c =>
    let x := s.mem.readNat c.a 64
    match (s.page p).reloading with
    | some i => if s.invalDone i then .done ((s.startInval i).modPage p (fun pg => { pg with reloading := none })) else .waits s
    | none =>
      if !s.ownedAt p c.a 64 || !s.contextRecordOk p x then .refused
      else
        let i : Inval := { ctx := c.ctx, page := 0, pages := 0, upto := s.nextId + 1, counted := false }
        let s : State := { s with contexts := Table.modify s.contexts c.ctx (fun k => k.load c.a x) }
        .waits ((s.startInval i).modPage p (fun pg => { pg with reloading := some i }))))

/-- CONTEXT_DESTROY: steps 1 to 4 of R409; the command stays until its completion. -/
def execContextDestroy (s : State) : Host.Outcome State Fault Refusal :=
  .next (s.onPartition (fun p pg => match pg.commands with
    | [] => s
    | ws :: rest =>
      let c := Command3.ofWords ws
      if pg.destroying.isSome || c.op != 2 then s
      else if !s.commandOk p c then (s.modPage p (fun pg => { pg with commands := rest })).commandDone p c.serial 1
      else (s.beginDestroy c.ctx).modPage p (fun pg => { pg with destroying := some (c.ctx, c.serial), commands := rest })))

/-- CONTEXT_DESTROY_COMPLETE: the teardown of a context of the partition ends once its accepted work is complete; cdone is written last where a
command asked for it (R409, R412, R418). -/
def execContextDestroyComplete (s : State) : Host.Outcome State Fault Refusal :=
  .next (s.onPartition (fun p pg =>
    match s.contexts.find? (fun e => e.2.ending && e.2.partition == p && s.destroyReady e.1) with
    | none => s
    | some e =>
      let s := s.endDestroy e.1
      match pg.destroying with
      | some (ctx, serial) => if ctx == e.1 then (s.modPage p (fun pg => { pg with destroying := none })).commandDone p serial 0 else s
      | none => s))

/-- QUEUE_ENABLE: the record is loaded into the slot: its captured tail becomes the tail, err is cleared in slot and record, the slot is active.
Packets of the same queue that have taken effect stay uncommitted, and buffers it was disabled in go on (R334, R408). -/
def execQueueEnable (s : State) : Host.Outcome State Fault Refusal :=
  .next (s.onCommand 3 (fun p c =>
    let x := s.mem.readNat c.b 64
    let q := Queue.ofRecord x
    let cur := s.queue c.a
    let before := (s.queues.find? (fun e => e.2.record == c.b && e.2.ctx == c.ctx)).map Prod.snd
    if !inRange (s.partition p).slots c.a 1 || !s.ownedAt p c.b 64 || !recordLegal x || q.ctx != c.ctx || cur.state == 1 || cur.state == 2 then .refused
    else
      let q := { q with
        record := c.b, err := 0, state := 1, tail := q.captured.getD q.tail, captured := none
        uncommitted := (before.map Queue.uncommitted).getD []
        frames := match before with | some b => if b.state == 0 then b.frames else [] | none => [] }
      let s : State := { s with
        queues := Table.put (s.queues.filter (fun e => !(e.2.record == c.b && e.2.ctx == c.ctx))) c.a q
        grids := s.grids.map (fun e => if before.isSome && e.2.ctx == c.ctx && q.uncommitted.any (fun u => u.grid == some e.1) then (e.1, { e.2 with queue := c.a }) else e)
        contexts := Table.modify s.contexts c.ctx (fun k => { k with halted := false }) }
      .done (((s.saveQueue c.a).commitQueue c.a).post (.queue c.a))))

/-- QUEUE_DISABLE: the queue is switched out: its state goes to its record and stays 0b00 (R334, R408). -/
def execQueueDisable (s : State) : Host.Outcome State Fault Refusal :=
  .next (s.onCommand 4 (fun p c =>
    if !inRange (s.partition p).slots c.a 1 || (s.queue c.a).ctx != c.ctx || (s.queue c.a).record == 0 then .refused
    else .done ((s.saveQueue c.a).modQueue c.a (fun q => { q with state := 0, held := none, fault := none }))))

/-- SLOT_ENTRY: writes an entry of the matrix slot table of the partition with this context (R138, R408). -/
def execSlotEntry (s : State) : Host.Outcome State Fault Refusal :=
  .next (s.onCommand 5 (fun p c =>
    let die := c.a % 2
    let n := fieldOf c.a 2 6
    let pt := s.partition p
    if c.a / 512 != 0 || fieldOf c.a 1 1 != 0 || !inRange (if die == 0 then pt.entries0 else pt.entries1) n 1 then .refused
    else .done { s with slotTable := Table.set 0 s.slotTable (64 * die + n) (c.ctx + 2 ^ 31 * fieldOf c.a 8 1) }))

/-- The value l2cq stores: a quota above 16 is stored as 16 (R216). -/
def quotas (x : Nat) : W32 :=
  BitVec.ofNat 32 ((List.range 4).foldl (fun acc k => acc + min 16 (fieldOf x (5 * k) 5) * 2 ^ (5 * k)) 0)

/-- CLASS_QUOTAS: writes l2cq of the partition (R216, R408). -/
def execClassQuotas (s : State) : Host.Outcome State Fault Refusal :=
  .next (s.onCommand 6 (fun p c =>
    .done { s with l2cq := Table.put (Table.put s.l2cq p (quotas c.a)) (8 + p) (quotas c.a) }))

/-! ### Partition descriptors (R404) -/

/-- Two ranges share a unit. -/
def meet (a b : Nat × Nat) : Bool := a.2 != 0 && b.2 != 0 && overlap a.1 a.2 b.1 b.2

/-- Two valid descriptors share a resource. -/
def Partition.clashes (a b : Partition) : Bool :=
  (a.clusters &&& b.clusters) != 0#32 || (a.stackSet &&& b.stackSet) != 0#12 || (a.ways &&& b.ways) != 0#16
    || a.memory.any (fun x => b.memory.any (meet x)) || meet a.scratch0 b.scratch0 || meet a.scratch1 b.scratch1 || meet a.slots b.slots
    || meet a.contexts b.contexts || meet a.windows b.windows || meet a.entries0 b.entries0 || meet a.entries1 b.entries1

/-- The striped memory of a descriptor overlaps a save area. -/
def Partition.onSave (a b : Partition) : Bool := a.memory.any (meet b.save) || meet a.save b.save || b.memory.any (meet a.save)

/-- The refusals of R404. -/
def State.descriptorOk (s : State) (p : Nat) (d : Partition) : Bool :=
  decide (p < 8) && s.contexts.all (fun e => e.2.partition != p)
    && (!d.valid || (!d.memory.any (meet d.save) && s.partitions.all (fun e => e.1 == p || !e.2.valid || (!d.clashes e.2 && !d.onSave e.2))))

/-! ### Register writes (R5) -/

/-- Kind and index of a master (R417). -/
def masterKey : Master → Nat × Nat
  | .host => (5, 0)
  | .management => (5, 1)
  | .power => (5, 2)
  | .commandCore n => (4, n)
  | .other k i => (k, i)
def masterIsCore : Master → Bool
  | .commandCore _ => true
  | _ => false

def l2wmReset (k : Nat) : W32 := if k % 8 == 0 then 0xFFFF#32 else 0#32
/-- l2wm of die and partition; partition 0's holds every way at reset, the others' none (R216). -/
def State.wayMask (s : State) (k : Nat) : W32 := Table.get (l2wmReset k) s.l2wm k
/-- l2cq of die and partition, 16 ways for each class at reset (R216). -/
def State.classQuota (s : State) (k : Nat) : W32 := Table.get 0x84210#32 s.l2cq k

/-- The bits of a partition register that software's writes keep (R403). -/
def pageMask (off : Nat) : Option Nat :=
  match off with
  | 0x000 => some (2 ^ 64 - 4096)
  | 0x008 => some (2 ^ 64 - 1)
  | 0x010 => some (2 ^ 64 - 1)
  | 0x040 => some (2 ^ 64 - 1)
  | 0x048 => some (2 ^ 64 - 1)
  | 0x050 => some (2 ^ 64 - 1)
  | 0x058 => some (2 ^ 64 - 1)
  | 0x080 => some (2 ^ 57 - 65536)
  | 0x088 => some (2 ^ 44 - 1)
  | 0x100 => some (2 ^ 64 - 1)
  | 0x108 => some (2 ^ 64 - 1)
  | 0x110 => some (2 ^ 64 - 1)
  | _ => none

/-- A write to a partition register page: a register keeps its bits, hgo and cgo submit a command, or write status 3 or 2 where the queue of 64
is full; other offsets ignore it (R400, R403, R408). -/
def State.writePage (s : State) (p off : Nat) (v : W64) : State :=
  let pg := s.page p
  let r := fun o => BitVec.ofNat 64 (pg.reg o)
  if off == 0x060 then
    (if 64 ≤ pg.handovers.length then s.handoverDone p (fieldOf (pg.reg 0x058) 0 32) 3
    else s.modPage p (fun pg => { pg with handovers := pg.handovers ++ [[r 0x040, r 0x048, r 0x050, r 0x058]] }))
  else if off == 0x118 then
    (if 64 ≤ pg.commands.length then s.commandDone p (fieldOf (pg.reg 0x100) 32 32) 2
    else s.modPage p (fun pg => { pg with commands := pg.commands ++ [[r 0x100, r 0x108, r 0x110]] }))
  else match pageMask off with
    | none => s
    | some m => s.modPage p (fun pg => { pg with regs := Table.set 0#64 pg.regs off (v &&& BitVec.ofNat 64 m) })

/-- A host write to BAR0: the safe page before full function, the partition pages at it (R333, R403, R458). -/
def State.writeBar0 (s : State) (off : Nat) (v : W64) : State :=
  if s.stage != 3 then
    (if off == 0x008 then { s with fwaddr := v &&& 0xFFFFFFFFFFFFF000#64 } else if off == 0x010 then { s with fwlen := v } else s)
  else if 0x400000 ≤ off && off < 0x408000 then s.writePage ((off - 0x400000) / 4096) (off % 4096) v
  else s

/-- A write to a protected control region by a master that may not make it: an isolation violation (R416 code 2). -/
def State.violate (s : State) (m : Master) (addr : Nat) : State := s.freeze 2 (masterKey m).1 (masterKey m).2 none addr

/-- Some valid partition but `p` already has a way of the mask (R216). -/
def State.waysOverlap (s : State) (die p : Nat) (v : W32) : Bool :=
  (List.range 8).any (fun q => q != p && (s.wayMask (8 * die + q) &&& v) != 0#32)

/-- A write of l2wm: one that would make two masks overlap is ignored and reported (R216). -/
def State.writeWays (s : State) (cc die p : Nat) (w : W32) : State :=
  if s.waysOverlap die p w then s.event 0 4 cc 0 18 p else { s with l2wm := Table.put s.l2wm (8 * die + p) w }

/-- PARTITION_DESCRIPTOR_WRITE: applied by the command cores, the ways of both dies with it, or refused with an event (R216, R404). -/
def execPartitionDescriptorWrite (p : Nat) (d : Partition) (s : State) : Host.Outcome State Fault Refusal :=
  .next (if !s.descriptorOk p d then s.event 0 4 0 0 16 p
  else (State.writeWays { s with partitions := Table.put s.partitions p d } 0 0 p (d.ways.setWidth 32)).writeWays 0 1 p (d.ways.setWidth 32))

/-- A word of a context's entry names what another partition holds: word 0 the partition in its bits 2:0, word 1 the record, word 2 the remap table
(R406, R416 code 6; log 134). -/
def State.entryForeign (s : State) (ctx word x : Nat) : Bool :=
  let p := (s.partitions.find? (fun e => e.2.valid && s.contextIn e.1 ctx)).map Prod.fst
  match p, word with
  | none, _ => true
  | some p, 0 => fieldOf x 0 3 != p
  | some p, 1 => !(s.partition p).owns s.lsplit x
  | some p, _ => let sv := (s.partition p).save; !(decide (sv.1 * gib ≤ x) && decide (x + 524288 ≤ (sv.1 + sv.2) * gib))

/-- A remap entry names a core or an image outside the context's partition (R411, R416 code 6). -/
def State.remapForeign (s : State) (ctx x : Nat) : Bool :=
  let p := (s.context ctx).partition
  let sv := (s.partition p).save
  let img := fieldOf x 12 40 * 4096
  match fieldOf x 62 2 with
  | 1 => s.ownerOfCore (fieldOf x 0 8) != some p
  | 2 => !(decide (sv.1 * gib ≤ img) && decide (img < (sv.1 + sv.2) * gib))
  | _ => false

/-- An entry of the scale-out map after one of its words is written: the halves of the address, then UDP port and far package number (R303; log 134). -/
def FarEntry.written (e : FarEntry) (word : Nat) (v : W64) : FarEntry :=
  match word with
  | 0 => { e with addr := (e.addr >>> 64).setWidth 64 ++ v }
  | 1 => { e with addr := v ++ e.addr.setWidth 64 }
  | _ => { e with udp := fieldOf v.toNat 0 16, pkg := fieldOf v.toNat 16 10 }

/-- The effect of a write by a command core on a register of its own (R138, R216, R281, R303, R385, R406, R411). Entries of the slot table and the masks of the
ways are written by slot-entry commands and descriptors alone: elsewhere a legal write of one changes nothing, and one that is not legal is reported
(R404, R415, R416). -/
def State.coreWrite (s : State) (m : Master) (r : Reg) (v : W64) : State :=
  match r with
  | .pmsplit => if s.contexts.isEmpty then { s with lsplit := min 16 (fieldOf v.toNat 0 5) } else s.event 0 4 (masterKey m).2 0 17 0
  | .l2wm die p =>
    let w := v.setWidth 32 &&& 0xFFFF#32
    if s.waysOverlap die p w || w == (s.partition p).ways.setWidth 32 then s.writeWays (masterKey m).2 die p w else s
  | .l2cq die p => { s with l2cq := Table.put s.l2cq (8 * die + p) (quotas v.toNat) }
  | .mslen die => { s with mslen := Table.set 1000 s.mslen die (max 10 (fieldOf v.toNat 0 16)) }
  | .slot die n =>
    let ctx := fieldOf v.toNat 0 12
    let pt := s.partition (s.context ctx).partition
    if inRange (if die == 0 then pt.entries0 else pt.entries1) n 1 then s else s.isolate 6 4 (masterKey m).2 ctx n
  | .contextEntry ctx word => if s.entryForeign ctx word v.toNat then s.isolate 6 4 (masterKey m).2 ctx 0 else s
  | .remapEntry ctx vcore => if s.remapForeign ctx v.toNat then s.isolate 6 4 (masterKey m).2 ctx vcore else s
  | .inbound n half =>
    let old := (Table.get 0#128 s.inbound n).toNat
    let x := if half == 0 then fieldOf v.toNat 0 57 + 2 ^ 64 * (old / 2 ^ 64) else fieldOf old 0 64 + 2 ^ 64 * v.toNat
    let w := BitVec.ofNat 128 (x - fieldOf x 57 25 * 2 ^ 57 - fieldOf x 120 3 * 2 ^ 120)
    { s with inbound := Table.set 0#128 s.inbound n w }
  | .farEntry n word => if n < 1024 then { s with farMap := Table.set {} s.farMap n ((s.farEntry n).written word v) } else s
  | _ => s

/-- REGISTER_WRITE: a write by a master that is not frozen, applied under the register's access code (R5). Registers of a protected control region
take writes from their own masters only (R138, R216, R416); a management write is applied by a command core (R404, R415). -/
def execRegisterWrite (m : Master) (r : Reg) (v : W64) (s : State) : Host.Outcome State Fault Refusal :=
  .next (if s.frozenMasters.any (fun f => (f.1, f.2.1) == (masterKey m)) then s
  else match r with
    | .bar0 off => if m == .host then s.writeBar0 off v else s
    | .actreg n =>
      if m == .power then s.modStack n (fun k => { k with lim := max 64 (fieldOf v.toNat 16 16), win := max 64 (fieldOf v.toNat 0 16) }) else s.violate m n
    | .mslen die => if m == .management then s.coreWrite (.commandCore 0) (.mslen die) v else if masterIsCore m then s else s.violate m die
    | .chwid _ => s
    | .pwrst => s
    | .timeMaster => if m == .management then { s with namedMaster := some (fieldOf v.toNat 0 10) } else s
    | .atomicOps => if m == .host then { s with hostAtomics := v.getLsbD 0 } else s
    | r => if masterIsCore m then s.coreWrite m r v else s.violate m 0)

/-! ### What reads of registers return (R333, R403, R411, R458) -/

/-- A read of BAR0. -/
def State.readBar0 (s : State) (off : Nat) : W64 :=
  if s.stage != 3 then
    (match off with
    | 0x000 => BitVec.ofNat 64 (s.stage + 256 * s.startErr + (if s.flash.image.isSome then 65536 else 0))
    | 0x008 => s.fwaddr
    | 0x010 => s.fwlen
    | 0x020 => BitVec.ofNat 64 s.fwst
    | _ => 0#64)
  else if off < 0x400000 then
    let q := s.queue (off / 4096)
    (match off % 4096 with
    | 0x000 => BitVec.ofNat 64 (max q.tail (q.captured.getD q.tail))
    | 0x008 => BitVec.ofNat 64 q.prog
    | 0x010 => BitVec.ofNat 64 (q.state + 2 ^ 24 * q.err)
    | _ => 0#64)
  else if off < 0x408000 then
    let pg := s.page ((off - 0x400000) / 4096)
    (match off % 4096 with
    | 0x018 => BitVec.ofNat 64 pg.frtail
    | 0x068 => pg.hdone
    | 0x098 => BitVec.ofNat 64 pg.tlbdone
    | 0x120 => pg.cdone
    | o => BitVec.ofNat 64 (pg.reg o))
  else 0#64

/-- The remap entry of a virtual core (R411). -/
def State.remapEntry (s : State) (ctx vcore : Nat) : W64 :=
  match s.blocks.find? (fun e => e.2.ctx == ctx && e.2.vcore == vcore && e.2.place != .ended) with
  | none => 0#64
  | some e => match e.2.place with
    | .resident => BitVec.ofNat 64 (2 ^ 62 + e.2.core)
    | .out => BitVec.ofNat 64 (2 * 2 ^ 62 + e.2.image)
    | .moving => BitVec.ofNat 64 (3 * 2 ^ 62)
    | .ended => 0#64

/-! ### BAR2 (R403) -/

/-- The value a host AtomicOp of `n` bytes with operand `x` leaves; the operand of Compare-and-Swap holds the value compared below the new one (R403). -/
def barResult (op : BarOp) (n x old : Nat) : Nat :=
  match op with
  | .read => old
  | .write => x
  | .fetchAdd => (old + x) % 2 ^ (8 * n)
  | .swap => x % 2 ^ (8 * n)
  | .cas => if old == x % 2 ^ (8 * n) then x / 2 ^ (8 * n) % 2 ^ (8 * n) else old

def barAtomic (op : BarOp) : Bool := op != .read && op != .write

/-- Bytes lie in striped or stack-local memory, seen at their ends and at every 64 MiB between (R384, R403). -/
def State.inDevice (s : State) (off n : Nat) : Bool :=
  let ok := fun a => match regionOf s.lsplit a with | .striped => true | .local_ => true | _ => false
  n != 0 && ok (off + n - 1) && (List.range (n / mib64 + 1)).all (fun k => ok (off + k * mib64))

/-- What the host reads: bytes of a poisoned sector are free values (log 117). -/
def State.hostRead (s : State) (off n : Nat) : Nat :=
  bytesToNat ((List.range n).map (fun k => if s.poisoned .main (off + k) then Config.poisonByte s.tick (off + k) else BitVec.ofNat 8 (s.mem.readNat (off + k) 1)))

/-- HOST_BAR2_ACCESS: the host reads or writes striped or stack-local memory, or the device completes its AtomicOp of 32 or 64 bits with the old value; an
atomic on a poisoned sector writes nothing. A hole, and an AtomicOp of another size or misaligned, completes as Unsupported Request, with an event
(R403, R446; log 135). -/
def execHostBar2Access (op : BarOp) (off n x : Nat) (s : State) : Host.Outcome State Fault Refusal :=
  .next (if s.stage != 3 then s
  else if !s.inDevice off n || (barAtomic op && ((n != 4 && n != 8) || off % n != 0)) then
    State.event { s with outbox := s.outbox ++ [Out.unsupported] } 0 5 0 0 19 off
  else
    let got : State := { s with outbox := s.outbox ++ [Out.bar2 (s.hostRead off n)] }
    match op with
    | .read => got
    | .write => { s with mem := s.mem.writeNat off n x }
    | _ => if s.poisoned .main off then got else { got with mem := s.mem.writeNat off n (barResult op n x (s.mem.readNat off n)) })

/-! ### Releasing a frozen master (R418) -/

/-- The context named is destroyed, if one is (R418). -/
def State.destroyNamed (s : State) (ctx : Option Nat) : State :=
  match ctx with
  | some c => if (Table.find s.contexts c).isSome then s.beginDestroy c else s
  | none => s

/-- What a core's reset clears: its near cache and its own bookkeeping; its capacity and spares are repair state and stay (R418). -/
def Core.reset (c : Core) : Core := { c with near := [], nearPoison := [], grant := none, ceLast := 0 }

/-- A frozen core's blocks of other contexts are switched out and saved, the context named is destroyed, and the core is reset (R418). -/
def State.releaseCore (s : State) (core : Nat) (ctx : Option Nat) : State :=
  let s := s.destroyNamed ctx
  ((s.blocks.filter (fun e => e.2.core == core && e.2.place == .resident && some e.2.ctx != ctx)).foldl (fun s e => s.beginOut e.1) s).modCore core Core.reset

/-- A frozen port retrains: the far end is asked to send again from the first flit that has not been taken (R277, R418). -/
def State.retrain (s : State) (port : Nat) : State :=
  { s.setPort port { s.port port with errors := 0 } with outbox := s.outbox ++ [Out.replayFrom port (s.port port).rxSeq] }

/-- The event a released command core held is dropped and its context destroyed; one without a context is run again by another core (R418). -/
def State.dropEvent (s : State) (cc : Nat) : State :=
  let gone : State := { s with commanding := Table.erase s.commanding cc }
  match Table.find s.commanding cc with
  | none => s
  | some (.queue n) => gone.destroyNamed (some (s.queue n).ctx)
  | some (.change n) => gone.destroyNamed (some (s.queue n).ctx)
  | some (.context c) => gone.destroyNamed (some c)
  | some (.tick _) => gone.post (.tick ((cc + 1) % 12))

/-- MASTER_RELEASE: a management release unfreezes a master, by its kind (R418). -/
def execMasterRelease (kind index : Nat) (s : State) : Host.Outcome State Fault Refusal :=
  match s.frozenMasters.find? (fun f => f.1 == kind && f.2.1 == index) with
  | none => .next s
  | some f =>
    let s : State := { s with frozenMasters := s.frozenMasters.filter (fun f => !(f.1 == kind && f.2.1 == index)) }
    .next (match kind with
    | 0 => s.releaseCore index f.2.2
    | 1 => s.releaseCore index f.2.2
    | 2 => (s.engines.filter (fun e => beEngine e.1 == index)).foldl (fun s e => s.reportStop e.1) s
    | 3 => s.retrain index
    | 4 => s.dropEvent index
    | _ => s)

end Sys2Proof.Machine
end

