-- ==== Sys2Proof/Machine/Trust.lean ====
section
/-! DEFINITION. Signed firmware, start verification and attestation (15 R419 to R422, 17 R457, R459). SHA-384 is FIPS 180-4, which R419 and R420
name without stating it (PRESUMED, log 15). -/

namespace Sys2Proof.Machine

/-! ### SHA-384 -/

/-- The largest r below 2^n with r ^ e ≤ x, found bit by bit on top of `acc`. -/
def rootBits (e x n acc : Nat) : Nat :=
  match n with
  | 0 => acc
  | k + 1 => rootBits e x k (if (acc + 2 ^ k) ^ e ≤ x then acc + 2 ^ k else acc)

/-- The first 80 primes. -/
def primes80 : List Nat :=
  ((List.range 410).filter (fun n => decide (2 ≤ n) && (List.range 21).all (fun d => decide (d < 2) || n % d != 0 || n == d))).take 80

def shaK : List W64 := primes80.map (fun p => BitVec.ofNat 64 (rootBits 3 (p * 2 ^ 192) 68 0))
def shaStart : List W64 := ((primes80.drop 8).take 8).map (fun p => BitVec.ofNat 64 (rootBits 2 (p * 2 ^ 128) 68 0))

/-- A big-endian number of bytes. -/
def beNat (bs : List Byte) : Nat := bs.foldl (fun n b => 256 * n + b.toNat) 0

/-- The next word of a message schedule held newest first. -/
def shaNext (w : List W64) : W64 :=
  let x := w.getD 14 0#64
  let y := w.getD 1 0#64
  (y.rotateRight 19 ^^^ y.rotateRight 61 ^^^ (y >>> 6)) + w.getD 6 0#64 + (x.rotateRight 1 ^^^ x.rotateRight 8 ^^^ (x >>> 7)) + w.getD 15 0#64

def shaSchedule (n : Nat) (w : List W64) : List W64 :=
  match n with
  | 0 => w.reverse
  | k + 1 => shaSchedule k (shaNext w :: w)

/-- One round on the eight working words. -/
def shaRound (v : List W64) (kw : W64 × W64) : List W64 :=
  match v with
  | [a, b, c, d, e, f, g, h] =>
    let t1 := h + (e.rotateRight 14 ^^^ e.rotateRight 18 ^^^ e.rotateRight 41) + ((e &&& f) ^^^ (~~~e &&& g)) + kw.1 + kw.2
    let t2 := (a.rotateRight 28 ^^^ a.rotateRight 34 ^^^ a.rotateRight 39) + ((a &&& b) ^^^ (a &&& c) ^^^ (b &&& c))
    [t1 + t2, a, b, c, d + t1, e, f, g]
  | v => v

def shaBlocks (n : Nat) (v : List W64) (bs : List Byte) : List W64 :=
  match n with
  | 0 => v
  | k + 1 =>
    let w := (List.range 16).map (fun j => BitVec.ofNat 64 (beNat ((bs.drop (8 * j)).take 8)))
    let ks := shaK.zip (shaSchedule 64 w.reverse)
    shaBlocks k ((v.zip (ks.foldl shaRound v)).map (fun p => p.1 + p.2)) (bs.drop 128)

/-- SHA-384 of a list of bytes, as 48 bytes. -/
def sha384 (bs : List Byte) : List Byte :=
  let pad := (240 - (bs.length + 1) % 128) % 128
  let padded := bs ++ [0x80#8] ++ List.replicate pad 0#8 ++ (natToBytes 16 (8 * bs.length)).reverse
  ((shaBlocks (padded.length / 128) shaStart padded).take 6).flatMap (fun x => (natToBytes 8 x.toNat).reverse)

/-! ### Firmware images (R419, R420) -/

def imageField (img : List Byte) (lo n : Nat) : Nat := bytesToNat ((img.drop lo).take n)
def imageSvn (img : List Byte) : Nat := imageField img 4 4

/-- The header is of format 1, with its zero fields zero and a body as long as it says. -/
def imageFormed (img : List Byte) : Bool :=
  decide (8192 ≤ img.length) && imageField img 0 4 == 1 && imageField img 9 7 == 0 && imageField img 72 440 == 0
    && imageField img 5684 2508 == 0 && decide (imageField img 8 1 ≤ 3) && decide (8192 + imageField img 16 8 ≤ img.length)

/-- Bytes 511:0 carry both signatures of a key index that is not revoked, and the body matches its digest. -/
def Flash.verifies (f : Flash) (img : List Byte) : Bool :=
  let k := imageField img 8 1
  let msg := img.take 512
  imageFormed img && !f.revoked.getLsbD k && Config.ecdsaVerifies k msg ((img.drop 512).take 96)
    && Config.hssVerifies k msg ((img.drop 608).take 5076)
    && sha384 ((img.drop 8192).take (imageField img 16 8)) == (img.drop 24).take 48

/-- An image is accepted: it verifies and its SVN is at least the minimum (R420). -/
def Flash.accepts (f : Flash) (img : List Byte) : Bool := f.verifies img && decide (f.minSvn ≤ imageSvn img)

/-- The error of stage 1: no image, verification failed, SVN below the minimum, or 0 (R457, R458). -/
def Flash.startError (f : Flash) : Nat :=
  match f.image with
  | none => 1
  | some img => if !f.verifies img then 2 else if imageSvn img < f.minSvn then 3 else 0

/-- FIRMWARE_LOAD: fwgo in safe mode, the management command at full function. A length out of bounds, a refusal and a flash error leave their
fwst; a flash error leaves an image that verifies under nothing (R458, R459). -/
def execFirmwareLoad (m : Master) (flashOk : Bool) (s : State) : Host.Outcome State Fault Refusal :=
  let n := s.fwlen.toNat
  let img := s.mem.readList (hostBase + s.fwaddr.toNat % 2 ^ 48) n
  .next (if s.frozen || m != (if s.stage == 3 then .management else .host) then s
  else if n < 8192 || 67108864 < n then { s with fwst := 5 }
  else if !s.flash.accepts img then { s with fwst := 3 }
  else if !flashOk then { s with fwst := 4, flash := { s.flash with image := some [] } }
  else { s with fwst := 2, flash := { s.flash with image := some img } })

/-- SVN_RAISE: the minimum becomes the SVN of the running image (R420). -/
def execSvnRaise (s : State) : Host.Outcome State Fault Refusal :=
  .next (match s.running with
  | none => s
  | some img => { s with flash := { s.flash with minSvn := max s.flash.minSvn (imageSvn img) } })

/-- The identity key's leaf index advances, and the alias certificate of this start is issued, if a leaf is left: two levels of height 10 (R421). -/
def State.issueAlias (s : State) : State :=
  if s.flash.leaf < 2 ^ 20 then { s with flash := { s.flash with leaf := s.flash.leaf + 1 }, alias_ := true } else { s with alias_ := false }

/-! ### Attestation (R422) -/

def State.reply (s : State) (r : Reply) : State := { s with outbox := s.outbox ++ [Out.spdm r] }

/-- A request of the responder: refused without an alias certificate, or before the requests of SPDM that come first (R421, R422). -/
def State.attest (s : State) (stage : Nat) (go : State) : State := if !s.alias_ || s.spdmStage < stage then s.reply .error else go

/-- The alias key of this start, by the number of the leaf that certifies it (R421). -/
def State.aliasKey (s : State) : Nat := s.flash.leaf + 2

/-- The alias certificate of this start: it carries the digest and the SVN of the image that runs (R421). -/
def State.aliasCert (s : State) : List Byte := Config.aliasCert s.aliasKey (sha384 (s.running.getD [])) (imageSvn (s.running.getD []))

/-- The certificate chain: root, device identity, alias (R421). -/
def State.chain (s : State) : List (List Byte) := [Config.rootCert, Config.deviceCert, s.aliasCert]

/-- The companion list: with each certificate its issuer's HSS public key and HSS signature over the same bytes; the alias certificate takes the leaf of
this start (R419, R421). -/
def State.companion (s : State) : List (Nat × Nat) :=
  [(Config.hssPublic 0, Config.hssSign 0 0 (bytesToNat Config.rootCert)), (Config.hssPublic 0, Config.hssSign 0 1 (bytesToNat Config.deviceCert)),
    (Config.hssPublic 1, Config.hssSign 1 s.flash.leaf (bytesToNat s.aliasCert))]

/-- A signed answer over measurements: `put` makes it with the ECDSA signature of the alias key over its message hash, which is kept for the HSS signature
over the same hash (R419, R422). -/
def State.sign (s : State) (nonce : BitVec 256) (ms : List Nat) (put : Nat → Reply) : State :=
  let h := Config.messageHash s.signed nonce.toNat ms
  State.reply { s with signed := s.signed + 1, lastSigned := some h } (put (Config.ecdsaSign s.aliasKey h))

def Partition.words (p : Partition) : List Nat :=
  [p.clusters.toNat, p.stackSet.toNat, p.save.1, p.save.2, p.scratch0.1, p.scratch0.2, p.scratch1.1, p.scratch1.2, p.slots.1, p.slots.2,
   p.contexts.1, p.contexts.2, p.windows.1, p.windows.2, p.entries0.1, p.entries0.2, p.entries1.1, p.entries1.2, p.ways.toNat]
    ++ p.memory.flatMap (fun r => [r.1, r.2])

/-- The measurements, by index. -/
def State.measurement (s : State) (n : Nat) : Nat :=
  match n with
  | 1 => Config.romDigest
  | 2 => bytesToNat (sha384 (s.running.getD []))
  | 3 => imageSvn (s.running.getD [])
  | 4 => Config.descriptorDigest ((s.partitions.filter (fun e => e.2.valid)).map (fun e => (e.1, e.2.words))) s.lsplit
  | _ => (if s.froze then 1 else 0) + (if s.scanned then 2 else 0) + (if s.frozenMasters.isEmpty then 0 else 4)

/-- GET_VERSION: SPDM 1.3 (R422). -/
def execGetVersion (s : State) : Host.Outcome State Fault Refusal := .next (s.attest 0 ({ s with spdmStage := 1 }.reply (.version 0x13)))

/-- GET_CAPABILITIES (R422). -/
def execGetCapabilities (s : State) : Host.Outcome State Fault Refusal := .next (s.attest 1 ({ s with spdmStage := max s.spdmStage 2 }.reply .capabilities))

/-- NEGOTIATE_ALGORITHMS: P-384 and SHA-384 are selected where the requester offers them (R422). -/
def execNegotiateAlgorithms (asym hash meas : Bool) (s : State) : Host.Outcome State Fault Refusal :=
  .next (s.attest 2 (if asym && hash && meas then { s with spdmStage := 3 }.reply (.algorithms true true true) else s.reply .error))

/-- GET_DIGESTS: slot 0 (R422). -/
def execGetDigests (s : State) : Host.Outcome State Fault Refusal := .next (s.attest 3 (s.reply (.digests 1 (bytesToNat (sha384 s.chain.flatten)))))

/-- GET_CERTIFICATE: bytes of the chain, for slot 0 only (R421, R422). -/
def execGetCertificate (slot off len : Nat) (s : State) : Host.Outcome State Fault Refusal :=
  let rest := s.chain.flatten.drop off
  .next (s.attest 3 (s.reply (if slot == 0 then .certificate (rest.take len) (rest.length - len) else .error)))

/-- CHALLENGE (R422). -/
def execChallenge (slot : Nat) (nonce : BitVec 256) (s : State) : Host.Outcome State Fault Refusal :=
  .next (s.attest 3 (if slot != 0 then s.reply .error
  else s.sign nonce ((List.range 5).map (fun k => s.measurement (k + 1))) (.challengeAuth nonce)))

/-- GET_MEASUREMENTS: index 0 asks their number, 255 all of them; only signed answers are given (R422). -/
def execGetMeasurements (index : Nat) (signed : Bool) (nonce : BitVec 256) (s : State) : Host.Outcome State Fault Refusal :=
  .next (s.attest 3 (
    let idx := if index == 255 then [1, 2, 3, 4, 5] else if index == 0 then [] else [index]
    let ms := if index == 0 then [(0, 5)] else idx.map (fun k => (k, s.measurement k))
    if !signed || (5 < index && index != 255) then s.reply .error
    else s.sign nonce (ms.map Prod.snd) (.measurements ms)))

/-- VENDOR_DEFINED_REQUEST: the PCI-SIG registry, Thrumevo's vendor ID and code 0x01 return the companion list and the HSS signature by the alias key over
the message hash of the latest signed answer; there is none before the first (R419, R422). -/
def execVendorDefinedRequest (registry vendor code : Nat) (s : State) : Host.Outcome State Fault Refusal :=
  .next (s.attest 3 (s.reply (
    if registry != 3 || vendor != Config.vendorId || code != 1 then .error
    else match s.lastSigned with
      | none => .error
      | some h => .vendor s.companion (Config.hssSign s.aliasKey (s.signed - 1) h))))

end Sys2Proof.Machine
end

