-- ==== Sys2Proof/Machine/Recovery.lean ====
section
/-! DEFINITION. Errors, self-test and repair, channel width, power and temperature, start and reset, freeze and the test port (17 R445 to
R461), and the completion timeout of host accesses (14 R388). -/

namespace Sys2Proof.Machine

/-- The clocks of the device are stopped or its power is removed (R456, R460). -/
def State.dark (s : State) : Bool := s.frozen || s.tripped

/-! ### Sites of errors (R445, R450) -/

/-- The context of an access to a site, if it has one (R448). -/
def State.siteContext (s : State) : Site → Nat
  | .register b _ _ _ => (s.block b).ctx
  | .shared b _ => (s.block b).ctx
  | .tile b _ _ _ => (s.block b).ctx
  | .scratch ctx _ _ => ctx
  | _ => 0

/-- The site exists: its address is in device memory, its block stands on a core, its window is in use. -/
def State.siteExists (s : State) (x : Site) : Bool :=
  let there := fun b => (Table.find s.blocks b).isSome && (s.block b).place == .resident
  match x with
  | .row pa => (match regionOf s.lsplit pa with | .striped => true | .local_ => true | _ => false)
  | .line pa => (match regionOf s.lsplit pa with | .striped => true | .local_ => true | _ => false)
  | .register b g t r => there b && decide (g < (s.block b).gcnt) && (match t with | some t => decide (t < 32) | none => true) && decide (r < 128)
  | .shared b off => there b && decide (off < (s.block b).shm)
  | .tile b t row sector => there b && decide (t < 4) && decide (row < 128) && decide (sector < 4)
  | .scratch ctx die off => (Table.find s.contexts ctx).isSome && decide (die < 2) && decide (off < (s.context ctx).window die)
  | .sram key off => (match Table.find s.engines key with | some c => decide (off < c.winSize) | none => false)
  | .fast c => decide (c < 256)
  | .cache c => decide (c < 256)
  | .track c => decide (c < 256)
  | .slots c => decide (c < 256)
  | .channel k c => decide (k < 12) && decide (c < 32)
  | .lane n => decide (n < 64)

/-- The unit that is tested and repaired: its code, the index of R448, and its row, frame, block or entry (R450). -/
def State.siteUnit (s : State) (x : Site) : Nat × Nat × Nat :=
  match x with
  | .row pa => let r := rowOf s.lsplit pa; (1, 64 * r.1 + r.2.1, r.2.2)
  | .line pa => let r := rowOf s.lsplit pa; (2, 64 * r.1 + r.2.1, pa / 128)
  | .register b _ _ r => (3, (s.block b).core, r)
  | .fast c => (4, c, 0)
  | .shared b off => (5, (s.block b).core, ((s.block b).shmBase * 1024 + off) / 4096)
  | .scratch ctx die off => (6, 128 * die, (if die == 0 then (s.context ctx).scratch0.1 else (s.context ctx).scratch1.1) + off / 65536)
  | .tile b t _ _ => (7, (s.block b).core, t)
  | .sram key off => (8, beEngine key, off / 65536)
  | .cache c => (9, c, 0)
  | .channel k c => (10, 64 * k + 2 * c, 0)
  | .lane n => (11, n, 0)
  | .track c => (12, c, 0)
  | .slots c => (12, c, 1)

/-- The kind of master a record names with a unit: core, fabric ingress or other (R417, R448). -/
def unitMaster (code : Nat) : Nat :=
  match code with
  | 3 => 0 | 4 => 0 | 5 => 0 | 7 => 0 | 9 => 0 | 12 => 0 | 11 => 3
  | _ => 5

/-! ### Detecting (R445, R446) -/

/-- What an error that cannot be corrected destroys is marked (R445). -/
def State.contain (s : State) (x : Site) : State :=
  let bad : Mark := { code := 5, src := 1, origin := 0#64, tval := 0#64, info := 0 }
  match x with
  | .row pa => s.setPoison .main pa
  | .line pa => s.setPoison .main pa
  | .register b g (some t) r => s.modThread (tkey (gkey b g) t) (fun th =>
      { th with v := Table.set {} th.v r { Table.get {} th.v r with full := false, mark := some { bad with origin := th.tpc } } })
  | .register b g none r => s.modGroup (gkey b g) (fun gr =>
      { gr with s := Table.set {} gr.s r { Table.get {} gr.s r with full := false, mark := some bad } })
  | .shared b off => s.setPoison (.shared b) off
  | .scratch ctx die off => s.setPoison (.scratch ctx die) off
  | .tile b t row sector => s.modBlock b (fun bl => { bl with tileBad := Table.put bl.tileBad (512 * t + 4 * row + sector) () })
  | .sram key off => { s with engines := Table.modify s.engines key (fun c => { c with winBad := Table.put c.winBad (off / 128) () }) }
  | _ => s

/-- ERROR_DETECT: a corrected error changes no value; another marks what it destroyed; a self-test of the unit begins (R445, R449). -/
def execErrorDetect (site : Site) (corrected : Bool) (s : State) : Host.Outcome State Fault Refusal :=
  .next (if s.dark || !s.siteExists site then s
  else
    let s := if corrected then s else s.contain site
    { s with nextId := s.nextId + 1, tests := Table.put s.tests s.nextId { site := site, corrected := corrected } })

/-! ### Repair (R450 to R452) -/

/-- corecap from its fields (R349). -/
def capWord (me trk gs shm reg : Nat) : W32 := BitVec.ofNat 32 (2 ^ 29 * me + 2 ^ 23 * trk + 2 ^ 16 * gs + 2 ^ 9 * shm + reg)
/-- corecap after a repair without a spare. -/
def lowerCap (cap : W32) (code entry : Nat) : W32 :=
  let c : Core := { corecap := cap }
  let me := if c.me then 1 else 0
  match code with
  | 3 => capWord me c.trk c.gs c.shm (c.reg - 1)
  | 5 => capWord me c.trk c.gs (c.shm - 1) c.reg
  | 7 => capWord 0 c.trk c.gs c.shm c.reg
  | _ => if entry == 0 then capWord me (c.trk - 1) c.gs c.shm c.reg else capWord me c.trk (c.gs - 8) c.shm c.reg

/-- The core is repair-pending, with the corecap it will have, and its blocks begin to be switched out (R451). -/
def State.lowerCore (s : State) (core code entry : Nat) : State :=
  let s := s.modCore core (fun c => { c with pending := some (lowerCap (c.pending.getD c.corecap) code entry) })
  (s.blocks.filter (fun e => e.2.core == core && e.2.place == .resident)).foldl (fun s e => s.beginOut e.1) s

/-- A unit that failed its test moves to a spare, or is left out where none remains; verdict 2 or 3 (R450). Rows are handled by
`repairRow`. -/
def State.repair (s : State) (code unit entry : Nat) : State × Nat :=
  match code with
  | 2 => ({ s with disabled := (2, entry) :: s.disabled }, 3)
  | 3 => if 0 < (s.core unit).regSpares then (s.modCore unit (fun c => { c with regSpares := c.regSpares - 1 }), 2) else (s.lowerCore unit 3 entry, 3)
  | 4 => (s.modCore unit (fun c => { c with buffers := c.buffers - 1 }), 3)
  | 5 => if 0 < (s.core unit).shmSpares then (s.modCore unit (fun c => { c with shmSpares := c.shmSpares - 1 }), 2) else (s.lowerCore unit 5 entry, 3)
  | 6 =>
    let die := unit / 128
    let used := Table.get 0 s.scratchSpares die
    if used < 16 then ({ s with scratchSpares := Table.set 0 s.scratchSpares die (used + 1) }, 2)
    else ({ s with lost := Table.put s.lost (2048 * die + entry) () }, 3)
  | 7 => (s.lowerCore unit 7 entry, 3)
  | 8 =>
    let k := s.stack (unit / 64)
    if 0 < k.sramSpares then (s.modStack (unit / 64) (fun k => { k with sramSpares := k.sramSpares - 1 }), 2)
    else (s.modStack (unit / 64) (fun k => { k with sramLost := k.sramLost + 1 }), 3)
  | 9 => ({ s with disabled := (9, unit) :: s.disabled }, 2)
  | 12 => (s.lowerCore unit 12 entry, 3)
  | _ => (s, 2)

/-- A row that failed its test moves to a repair row of its bank, or stays with every sector poisoned (R450). -/
def State.repairRow (s : State) (pa : Nat) : State × Nat :=
  let r := rowOf s.lsplit pa
  let bank := r.2.2 % 48
  let key := (64 * r.1 + r.2.1) * 48 + bank
  let used := Table.get 0 s.rowSpares key
  if used < Config.spareRows r.1 r.2.1 bank then ({ s with rowSpares := Table.set 0 s.rowSpares key (used + 1) }, 2)
  else ((List.range 8).foldl (fun s k => s.setPoison .main (pa / 1024 * 1024 + 128 * k)) s, 3)

/-- A change of a channel's width is recorded with code 10 (R453). -/
def State.widthRecord (s : State) (stack ch : Nat) : State := s.event 10 5 (64 * stack + 2 * ch) 0 10 0

/-- A channel runs on one half (R453). -/
def State.halve (s : State) (stack ch : Nat) : State :=
  if (s.stack stack).half.getLsbD ch then s
  else (s.modStack stack (fun k => { k with half := k.half ||| BitVec.twoPow 32 ch })).widthRecord stack ch

/-- A channel has a failed lane (R453). -/
def State.laneFail (s : State) (stack ch : Nat) : State :=
  (s.modStack stack (fun k => { k with lanef := k.lanef ||| BitVec.twoPow 32 ch })).halve stack ch

/-- The repair of the unit of a site (R450). -/
def State.repairSite (s : State) (x : Site) : State × Nat :=
  match x with
  | .row pa => s.repairRow pa
  | .channel k c => (s.laneFail k c, 2)
  | .lane n => (s.setPort n { s.port n with lanes := (s.port n).lanes - 1 }, if 1 < (s.port n).lanes then 2 else 3)
  | x => let u := s.siteUnit x; s.repair u.1 u.2.1 u.2.2

/-- Repairs of codes 2 to 9 and 12 go to the repair log; verdict 3 where it is full (R452). -/
def State.logRepair (s : State) (u : Nat × Nat × Nat) (verdict : Nat) : State × Nat :=
  if u.1 == 1 || u.1 == 10 || u.1 == 11 then (s, verdict)
  else if s.flash.repairs.length < 4096 then ({ s with flash := { s.flash with repairs := s.flash.repairs ++ [u] } }, verdict)
  else (s, 3)

/-- SELF_TEST_COMPLETE: the unit is kept, repaired or left failed, and the error is reported with the verdict (R448 to R452). -/
def execSelfTestComplete (id : Nat) (pass : Bool) (s : State) : Host.Outcome State Fault Refusal :=
  .next (match Table.find s.tests id with
  | none => s
  | some t =>
    if s.dark then s
    else
      let u := s.siteUnit t.site
      let s : State := { s with tests := Table.erase s.tests id }
      let r := if pass then (s, 1) else let x := s.repairSite t.site; x.1.logRepair u x.2
      r.1.event 8 (unitMaster u.1) u.2.1 (s.siteContext t.site) (u.1 + (if t.corrected then 0 else 16) + 256 * r.2) u.2.2)

/-- REPAIR_CORECAP_CHANGE: once a repair-pending core holds no block, its corecap changes and the mark is cleared; blocks that stand on it
still are switched out (R451). -/
def execRepairCorecapChange (core : Nat) (s : State) : Host.Outcome State Fault Refusal :=
  .next (match (s.core core).pending with
  | none => s
  | some cap =>
    if s.blocks.any (fun e => e.2.core == core && (e.2.place == .resident || e.2.place == .moving)) then
      (s.blocks.filter (fun e => e.2.core == core && e.2.place == .resident)).foldl (fun s e => s.beginOut e.1) s
    else s.modCore core (fun c => { c with corecap := cap, pending := none }))

/-- The repair log is applied at a start, before any unit is used (R452). -/
def State.applyRepairs (s : State) : State :=
  let s := s.flash.repairs.foldl (fun s u => (s.repair u.1 u.2.1 u.2.2).1) s
  { s with cores := s.cores.map (fun e => (e.1, { e.2 with corecap := e.2.pending.getD e.2.corecap, pending := none })) }

/-! ### Channel width (R453) -/

/-- HBM_LANE_FAILURE. -/
def execHbmLaneFailure (stack ch : Nat) (s : State) : Host.Outcome State Fault Refusal :=
  .next (if s.dark || 12 ≤ stack || 32 ≤ ch then s else s.laneFail stack ch)

/-- CHANNEL_FULL_WIDTH_RESTORE: the channel is at full width again, its lane good; the stack has been cool for 100 ms, so a lim lowered for
heat is restored (R453, R456). -/
def execChannelFullWidthRestore (stack ch : Nat) (s : State) : Host.Outcome State Fault Refusal :=
  .next (if s.dark || 12 ≤ stack || !(s.stack stack).half.getLsbD ch then s
  else (s.modStack stack (fun k =>
    { k with half := k.half &&& ~~~BitVec.twoPow 32 ch, lanef := k.lanef &&& ~~~BitVec.twoPow 32 ch
             lim := if k.hot then k.cool else k.lim, hot := false })).widthRecord stack ch)

/-- chwid of a stack. -/
def State.chwid (s : State) (stack : Nat) : W64 := (s.stack stack).lanef ++ (s.stack stack).half

/-! ### Power and temperature (R454 to R456) -/

/-- The rated activate count A, and the limit a stack effectively has (R454). -/
def Stack.rated (k : Stack) : Nat := min (8 * k.win) 0xFFFE
def Stack.limit (k : Stack) : Nat := if k.lim == 0xFFFF then k.rated else k.lim

/-- The arithmetic clock of a die in MHz: 2,700 unless lowered (00, R455). -/
def State.setClock (s : State) (die mhz : Nat) : State := { s with clocks := Table.set 2700 s.clocks die mhz }
/-- A step that changes a clock is recorded with code 9, and can be undone (R455). -/
def State.stepClocks (s : State) (dies : List Nat) (f : Nat → Nat) : State :=
  let ds := dies.filter (fun d => f (s.clock d) != s.clock d)
  if ds.isEmpty then s
  else
    let old := ds.map (fun d => (d, s.clock d))
    let s := ds.foldl (fun s d => s.setClock d (f (s.clock d))) s
    { s with powerSteps := .clocks old :: s.powerSteps }.event 9 5 (ds.headD 0) 0 0 0

/-- The first step of R455 that has room: the lims of busy stacks by A/8 down to A/4, then the clocks by 100 MHz down to 1.0 GHz. -/
def State.lowerPower (s : State) (busy : BitVec 12) : State :=
  let ks := (List.range 12).filter (fun k => busy.getLsbD k && decide ((s.stack k).rated / 4 < (s.stack k).limit))
  if ks.isEmpty then s.stepClocks [0, 1] (fun c => max (min c 1000) (c - 100))
  else
    let old := ks.map (fun k => (k, (s.stack k).lim))
    let s := ks.foldl (fun s k => s.modStack k (fun x => { x with lim := max (x.rated / 4) (x.limit - x.rated / 8) })) s
    { s with powerSteps := .lims old :: s.powerSteps }

/-- The last step is undone; a lim back at A becomes 0xFFFF, and that of a hot stack waits for it to cool (R455, R456). -/
def State.raisePower (s : State) : State :=
  match s.powerSteps with
  | [] => s
  | .lims old :: rest =>
    old.foldl (fun s e => s.modStack e.1 (fun k =>
      let lim := if k.rated ≤ e.2 then 0xFFFF else e.2
      if k.hot then { k with cool := lim } else { k with lim := lim })) { s with powerSteps := rest }
  | .clocks old :: rest => (old.foldl (fun s e => s.setClock e.1 e.2) ({ s with powerSteps := rest } : State)).event 9 5 ((old.map Prod.fst).headD 0) 0 0 0

/-- POWER_EVALUATION: an average over 3,200 W, one projected over it, and a hot spot over 1,500 W/cm² take the next step down; a millisecond below
3,000 W undoes the last (R22, R455). -/
def execPowerEvaluation (watts : Nat) (exceeded low : Bool) (busy : BitVec 12) (hot : Nat × Nat) (s : State) : Host.Outcome State Fault Refusal :=
  let s : State := { s with watts := watts, hottest := hot.1 }
  .next (if s.dark then s
  else if exceeded || 3200 < watts || 1500 < hot.2 then s.lowerPower busy
  else if low && watts < 3000 then s.raisePower
  else s)

/-- POWER_EMERGENCY: the arithmetic clock falls to 1.0 GHz at once. -/
def execPowerEmergency (s : State) : Host.Outcome State Fault Refusal :=
  .next (if s.dark then s else s.stepClocks [0, 1] (min 1000))

/-- pwrst (R455). -/
def State.pwrst (s : State) : W64 := BitVec.ofNat 64 (s.watts % 65536 + 65536 * (min (s.clock 0) (s.clock 1)) + 2 ^ 28 * (s.hottest % 4096))

/-- STACK_THERMAL_HIGH: the stack's channels run at half width and its limit is halved, until it has cooled; a write below 64 stores 64 (R454). -/
def execStackThermalHigh (stack : Nat) (s : State) : Host.Outcome State Fault Refusal :=
  .next (if s.dark || 12 ≤ stack || (s.stack stack).hot then s
  else
    let s := (List.range 32).foldl (fun s c => s.halve stack c) s
    s.modStack stack (fun k => { k with hot := true, cool := k.lim, lim := max 64 (k.limit / 2) }))

/-- THERMAL_CLOCK_STEP: the clock of a die with a sensor at 100 °C steps down by 100 MHz. -/
def execThermalClockStep (die : Nat) (s : State) : Host.Outcome State Fault Refusal :=
  .next (if s.dark || 2 ≤ die then s else s.stepClocks [die] (fun c => c - 100))

/-! ### Start, reset and trip (R456 to R458) -/

/-- What outlasts a reset: flash and fuses, the always-on register, host memory, what has left, and the model's own counters. -/
def State.restart (s : State) : State :=
  { State.reset with
    flash := s.flash, froze := s.froze, scanned := s.scanned, outbox := s.outbox, tick := s.tick, nextId := s.nextId, package := s.package
    hostAtomics := s.hostAtomics, mem := s.mem.filter (fun e => decide (hostBase ≤ e.1)) }

/-- THERMAL_TRIP: the record goes out, then nothing the device held survives; only reset restarts it. -/
def execThermalTrip (s : State) : Host.Outcome State Fault Refusal :=
  .next (if s.tripped then s
  else
    let s := s.event 9 5 0 0 1 0
    { s.restart with tripped := true, startErr := 6, deviceRing := s.deviceRing, deviceWaiting := s.deviceWaiting, deviceLost := s.deviceLost })

/-- POWER_GOOD: a cold power-up starts at stage 0, the always-on register clear. -/
def execPowerGood (s : State) : Host.Outcome State Fault Refusal := .next { s.restart with froze := false, scanned := false }

/-- DEVICE_RESET: the device starts again at stage 0. -/
def execDeviceReset (s : State) : Host.Outcome State Fault Refusal := .next s.restart

/-- A port that fails its training is left down and reported. -/
def State.trainPorts (s : State) (ports : BitVec 64) : State :=
  ((List.range 64).filter (fun n => !ports.getLsbD n)).foldl (fun s n => (s.setPort n { s.port n with lanes := 0 }).event 0 3 n 0 20 0) s

/-- FULL_FUNCTION_OPEN: stage 1 verifies the image and issues the alias certificate; stage 2 applies the repair log, trains and tests, writes
pmsplit and opens full function with partition 0 holding everything. A failure leaves the device in safe mode (R404, R420, R421, R457). -/
def execFullFunctionOpen (stackSet : BitVec 12) (hub : Bool) (ports : BitVec 64) (lsplit : Nat) (s : State) : Host.Outcome State Fault Refusal :=
  .next (if s.dark || s.stage != 0 || s.startErr != 0 then s
  else if s.flash.startError != 0 then { s with startErr := s.flash.startError }
  else
    let s := ({ s with running := s.flash.image, stage := 2 } : State).issueAlias.applyRepairs
    if stackSet != BitVec.allOnes 12 then { s with startErr := 4 }
    else if !hub then { s with startErr := 5 }
    else
      let l := min lsplit 16
      { s with lsplit := l, stage := 3, partitions := [(0, Partition.whole l)] }.trainPorts ports)

/-! ### Freeze and read-out (R460, R461) -/

/-- FREEZE. -/
def execFreeze (s : State) : Host.Outcome State Fault Refusal := .next { s with frozen := true, froze := true }

/-- JTAG_BYPASS: the bit shifted in comes out. -/
def execJtagBypass (tdi : Bool) (s : State) : Host.Outcome State Fault Refusal := .next { s with outbox := s.outbox ++ [Out.tdo tdi] }

/-- JTAG_IDCODE. -/
def execJtagIdcode (s : State) : Host.Outcome State Fault Refusal := .next { s with outbox := s.outbox ++ [Out.idcode Config.idcode] }

/-- JTAG_SCAN: accepted only while frozen; the use is recorded. -/
def execJtagScan (s : State) : Host.Outcome State Fault Refusal :=
  .next (if s.frozen then { s with scanned := true, outbox := s.outbox ++ [Out.scan] } else s)

/-! ### Host accesses that get no completion (R231, R388) -/

/-- The access writes and answers nothing: a store, or an atomic that returns nothing (R388). -/
def ReqKind.silent : ReqKind → Bool
  | .store => true
  | .atomic _ _ ret => !ret
  | _ => false

/-- PCIE_COMPLETION_TIMEOUT: an access to the host region fails. The destinations of a load, or of an atomic that returns a value, are poisoned; a write is
reported as an event (R210, R388; log 77). -/
def execPcieCompletionTimeout (id : Nat) (s : State) : Host.Outcome State Fault Refusal :=
  .next (match Table.find s.reqs id with
  | none => s
  | some r =>
    if s.dark || r.logged.isSome || r.space != .main || !r.lanes.all (fun l => decide (hostBase ≤ l.addr)) then s
    else
      let gone : State := { s with reqs := Table.erase s.reqs id }
      if r.kind.silent then r.lanes.foldl (fun s l => s.event 0 0 r.core r.ctx 21 l.addr) gone
      else r.lanes.foldl (fun s l => s.markInto r.b r.g l (poisonMark r.origin l.va)) gone)

end Sys2Proof.Machine
end

