-- ==== Sys2Proof/Machine/Spill.lean ====
section
/-! DEFINITION. The rest of the memory instructions: the spill stack, saved rejoin sets, prefetch, buffer records, working sets and
literal loads (02 R55; 07 R224 to R229; 11 R317). -/

namespace Sys2Proof.Machine

/-! ### The spill stack (R224, R225) -/

/-- The address of thread `t`'s word in slot `m` (R224). -/
def Group.slotAddr (gr : Group) (m t : Nat) : Nat := (gr.spillBase.toNat + 128 * m + 4 * t) % 2 ^ 57

/-- Spill slots in use. -/
def Group.slots (gr : Group) : Nat := gr.ssp.toNat / 128

/-- The spill stack is RC whatever its pages say (R258). -/
def Reach.asRc (r : Reach) : Reach :=
  match r with
  | .ok sp a _ => .ok sp a 1
  | r => r

/-- Where a spill access leads: it goes through no buffer record, so the window region is cause 8 to it (R224, R383). -/
def State.spillReach (s : State) (i : Issue) (va w : Nat) (n : Need) : Reach :=
  let failed := match (s.group i.gk).pass with
    | some p => p.failed
    | none => []
  (s.reach (s.block i.b).ctx none failed va w n).asRc

/-- The slot a thread accesses: its recorded one, or that of the pass, whose carried value is the slot plus 1, or 0 where the pass
is out of bounds (R225). -/
def spillSlot (th : Thread) (acc : List Nat) : Option Nat :=
  match th.slot with
  | some m => some m
  | none => match acc with
    | (m + 1) :: _ => some m
    | _ => none

/-- A failed permission check: the thread takes the trap and records its slot (R225). -/
def State.trapAtSlot (s : State) (i : Issue) (t m : Nat) (r : TrapRec) : State :=
  (s.modThread (i.tk t) (fun th => { th with slot := some m })).raise (i.tk t) r

/-- SPLD of a thread that is no helper, at slot `m`. -/
def spldAt (i : Issue) (l : Loc) (m : Nat) (s : State) (t : Nat) (acc : List Nat) : Turned :=
  let va := (s.group i.gk).slotAddr m t
  let s1 := s.emptyCells i t l 1
  match s.spillReach i va 4 Need.read with
  | .ok sp pa ord =>
    .done ((s1.modThread (i.tk t) (fun th => { th with replay := none, slot := none })).gather i
      { lane := { t := t, va := va, addr := pa, w := 4, into := l.into 1, rc := true }, space := sp, ord := ord }) acc
  | r =>
    match s.loadMiss (s1.modThread (i.tk t) (fun th => { th with slot := some m })) i t va 0 r acc with
    | .trap tr => .done (s.trapAtSlot i t m tr) acc
    | x => x

/-- One thread's turn of SPLD; a helper's gives zero whatever the slot (R213, R225, R429). -/
def spldTurn (i : Issue) (q : Fields) (sh : Shape) (k : Nat) (s : State) (t : Nat) (acc : List Nat) : Turned :=
  let th := s.thread (i.tk t)
  match th.role, spillSlot th acc, locate th q.d sh.d (if q.xo == 3 then some q.xs else none) with
  | .helper, _, .error _ => .done s acc
  | .helper, _, .ok l => if s.destReady i t l 1 then .done (s.fillZero i t l 1) acc else .hold
  | .live, none, _ => .trap (boundTrap k 0xFF)
  | .live, some _, .error r => .trap r
  | .live, some m, .ok l => if s.destReady i t l 1 then spldAt i l m s t acc else .hold

/-- What fails in a pass that is out of bounds: ssp, which .grow carries after the 0, else the slot offset (R225, R423; log 112). -/
def spillBound (k : Nat) (acc : List Nat) : Nat :=
  match acc with
  | [_, x] => x
  | _ => k

/-- One thread's turn of SPST (R225). -/
def spstTurn (i : Issue) (q : Fields) (sh : Shape) (k : Nat) (s : State) (t : Nat) (acc : List Nat) : Turned :=
  let th := s.thread (i.tk t)
  match spillSlot th acc with
  | none => .trap (boundTrap (spillBound k acc) 0xFF)
  | some m =>
    match s.read i t q.d false sh.d (if q.xo == 3 then some q.xs else none) with
    | .trap r => .trap r
    | .hold => .hold
    | .val x =>
      match th.role with
      | .helper => .done s acc
      | .live =>
        let va := (s.group i.gk).slotAddr m t
        match s.storeTo i { t := t, va := va, addr := va, w := 4, data := x, rc := true } 1 (s.spillReach i va 4 Need.write) acc with
        | .trap r => .done (s.trapAtSlot i t m r) acc
        | .done s' acc' => .done (s'.modThread (i.tk t) (fun th => { th with slot := none })) acc'
        | x => x

def State.setSsp (s : State) (i : Issue) (x : Nat) : State := s.modGroup i.gk (fun gr => { gr with ssp := BitVec.ofNat 32 x })

/-- The start of a spill pass: whether any thread has no recorded slot, the growth of .grow, and the carried value (R225). -/
def State.spillStart (s : State) (i : Issue) (grow : Bool) (k : Nat) : State × List Nat :=
  let gr := s.group i.gk
  if (lanesOf i.path).all (fun t => (s.thread (i.tk t)).slot.isSome) then (s, [])
  else if grow && decide (gr.spillCap < gr.slots + 1) then (s, [0, gr.ssp.toNat])
  else
    let n := if grow then gr.slots + 1 else gr.slots
    let s := if grow then s.setSsp i (128 * n) else s
    if n ≤ k then (s, [0]) else (s, [n - 1 - k + 1])

/-- The end of a spill pass: .shrink takes the top slot off, and threads that wait on it are orphaned (R225, R314). -/
def State.spillEnd (s : State) (i : Issue) (shrink : Bool) (acc : List Nat) : State :=
  match acc with
  | (_ + 1) :: _ =>
    if shrink then
      let top := (s.group i.gk).slots - 1
      (s.orphanAll i.b i.g (.slot top)).setSsp i (128 * top)
    else s
  | _ => s

/-- A once-per-pass SPLD that parked its path, or that replays: every thread of the path records the slot that the first one does (R225). -/
def State.shareSlot (s : State) (i : Issue) (t : Nat) (acc : List Nat) : State :=
  let slot := (s.thread (i.tk t)).slot
  if slot.isSome || acc.isEmpty then (lanesOf i.path).foldl (fun s u => s.modThread (i.tk u) (fun th => { th with slot := slot })) s else s

/-- SPLD and SPST (R225). -/
def spillWord (op : Nat) (load : Bool) (f : RForm) (s : State) : State :=
  s.memoryWord op f (fun i sh =>
    let q := Fields.ofR f
    let five := extRnd f.ext == 5
    let k := extSub f.ext
    let turn := if load then spldTurn i q sh k else spstTurn i q sh k
    let kind := if load then ReqKind.load else ReqKind.store
    let st := match (s.group i.gk).pass with
      | some p => (s, p.acc)
      | none => s.spillStart i (!load && five) k
    let s := st.1
    let acc := st.2
    if load && q.uniform sh then
      let t := firstLane i.path
      let beyond := fun (s : State) =>
        s.trapActive i ((s.active i (extGuard f.ext)).filter (fun u => (s.thread (i.tk u)).role == Role.live)) (boundTrap k 0xFF)
      let out := acc == [0] && (s.thread (i.tk t)).slot.isNone
      if out && (s.thread (i.tk t)).role == Role.live then beyond s
      else if !s.uniformGuard i f.ext then (if out then beyond s else (s.spillEnd i five acc).endPass i)
      else match turn s t acc with
        | .trap r => s.trapLoad i r
        | .hold => s.holdPass i (lanesOf i.path) 0#32 acc
        | .holdWith s' => s'.holdPass i (lanesOf i.path) 0#32 acc
        | .done s' _ => if out then beyond s' else (((s'.settleOnce i t false).shareSlot i t acc).spillEnd i five acc).memoryEnd i kind 0 true
    else
      let lanes := match (s.group i.gk).pass with
        | some p => lanesOf p.rest
        | none => s.active i (extGuard f.ext)
      let r := runLanes i turn lanes s 0#32 acc
      match r.2.1 with
      | [] => (r.1.spillEnd i (load && five) acc).memoryEnd i kind 0
      | rest => r.1.holdPass i rest r.2.2.1 acc)

/-- SPLD (R225). -/
def execSpld (f : RForm) (s : State) : Host.Outcome State Fault Refusal := .next (spillWord 0x99 true f s)
/-- SPST (R225). -/
def execSpst (f : RForm) (s : State) : Host.Outcome State Fault Refusal := .next (spillWord 0x9A false f s)

/-! ### Saved rejoin sets (R317) -/

/-- What JPUSH leaves in the group: the set free, its waiting threads on the slot, one slot more. -/
def State.pushSet (s : State) (i : Issue) (n m : Nat) : State :=
  ((s.modSet i n (fun _ => {})).rewait i.gk (.set n) (.slot m)).setSsp i (128 * (m + 1))

/-- The 128 bytes of a slot in which JPUSH saves a set, as eight writes of 16 bytes (R211, R317). -/
def setParts (js : JSet) (t va : Nat) : List LaneReq :=
  let data := js.member.toNat + 2 ^ 32 * js.arrived.toNat + 2 ^ 64 * js.state.code
  (List.range 8).map (fun k => { t := t, va := va + 16 * k, addr := va + 16 * k, w := 16, data := data / 2 ^ (128 * k) % 2 ^ 128, rc := true })

/-- JPUSH (R317). -/
def execJpush (f : RForm) (s : State) : Host.Outcome State Fault Refusal :=
  let n := f.d.toNat % 16
  .next (s.control 0x0C f (fun i =>
    let gr := s.group i.gk
    let m := gr.slots
    let js := gr.set n
    let t := firstLane i.path
    let va := gr.slotAddr m 0
    if !s.uniformGuard i f.ext then s.endPass i
    else if gr.spillCap < m + 1 then s.trapActive i (s.active i (extGuard f.ext)) (boundTrap gr.ssp.toNat 0xFF)
    else if (s.thread (i.tk t)).role == Role.helper then (s.pushSet i n m).endPass i
    else
      match s.storeParts i va (setParts js t va) 1 (s.spillReach i va 128 Need.write) [] with
      | .trap r => s.trapPath i r
      | .hold => s.holdPass i (lanesOf i.path) 0#32 []
      | .holdWith s' => s'.holdPass i (lanesOf i.path) 0#32 []
      | .done s' _ => (s'.pushSet i n m).memoryEnd i .store 0 true))

/-- A write of the group to bytes of main memory is not yet performed. -/
def State.groupTouches (s : State) (i : Issue) (pa w : Nat) : Bool :=
  s.reqs.any (fun e => e.2.b == i.b && e.2.g == i.g && e.2.kind.writes && e.2.lanes.any (fun l => match s.placeOf e.2 l with
    | some a => a.1 == Space.main && overlap a.2 l.w pa w
    | none => overlap (l.va % 65536) l.w (pa % 65536) w))

/-- What JPOP does with the words it has read (R317). -/
def State.popSet (s : State) (i : Issue) (n m word0 word2 : Nat) : State :=
  let s := s.discardSet i.b i.g n
  let live := maskOf (s.lanesWhere i.gk (fun th => th.role == Role.live && !th.exited))
  let member := BitVec.ofNat 32 word0 &&& live
  let arrived := maskOf ((s.waiters i.gk (.slot m)).filter (fun t => (s.thread (i.tk t)).role == Role.live))
  let js : JSet :=
    if member == 0#32 then { arrived := arrived }
    else { state := if arrived == 0#32 && word2 % 4 == 2 then .released else .opened, member := member, arrived := arrived }
  (((s.modSet i n (fun _ => js)).rewait i.gk (.slot m) (.set n)).setSsp i (128 * m)).testComplete i.gk n

/-- JPOP: the slot is read, after the group's own writes of it have been performed and in the order of its thread's accesses; a fault parks the whole
path, a poisoned sector traps it (R213, R263, R317). -/
def execJpop (f : RForm) (s : State) : Host.Outcome State Fault Refusal :=
  let n := f.d.toNat % 16
  .next (s.control 0x0D f (fun i =>
    let gr := s.group i.gk
    let m := gr.slots - 1
    let t := firstLane i.path
    let va := gr.slotAddr m 0
    if !s.uniformGuard i f.ext then s.endPass i
    else if gr.slots == 0 then s.trapActive i (s.active i (extGuard f.ext)) (boundTrap 0 0xFF)
    else match s.spillReach i va 128 Need.read with
      | .ok sp pa _ =>
        if s.groupTouches i pa 128 || !s.mayAccess i sp va pa 128 false false then s.holdPass i (lanesOf i.path) 0#32 []
        else if s.poisoned sp pa then s.trapPath i { code := 5, tval := BitVec.ofNat 64 va }
        else ((s.replayed i).popSet i n m (s.load sp pa 4) (s.load sp (pa + 8) 4)).endPass i
      | .miss => (s.askWalk i.gk (s.block i.b).ctx va).holdPass i (lanesOf i.path) 0#32 []
      | .fault c =>
        if serviceable c then
          let r := s.raiseFault (s.block i.b).ctx va c 0 0 (s.unitOf i)
          ((r.2.parkOnFault i t r.1 (faultTrap va c 0)).parkAll i t true).closePass i
        else s.trapPath i (faultTrap va c 0)))

/-! ### Prefetch (R226) -/

/-- Brings a sector into the near cache of the issuing core, if every check of R226 passes. -/
def State.prefetch (s : State) (i : Issue) (x : Nat) (rec : BitVec 128) : State :=
  let bl := s.block i.b
  match recForm 0 rec x 1 with
  | .addr a =>
    match s.reachNow bl.ctx (some i.b) a 1 Need.read with
    | .ok .main pa ord =>
      if ord != 0 && decide (pa < hostBase) && !s.poisoned .main pa && (s.nearBytes bl.core pa 1).isNone then s.allocNear bl.core pa else s
    | _ => s
  | _ => s

/-- One thread's turn of PREF: it traps on an empty index alone (R226). -/
def prefTurn (i : Issue) (f : RForm) (sh : Shape) (s : State) (t : Nat) (acc : List Nat) : Turned :=
  match s.readA i t f sh.a, (s.group i.gk).record (f.b.toNat % 16) false with
  | .trap r, _ => if r.code == 8 then .trap r else .done s acc
  | .hold, _ => .hold
  | _, .hold => .hold
  | _, .trap _ => .done s acc
  | .val x, .val rec => .done (if extSub f.ext == 1 then s.prefetch i x (BitVec.ofNat 128 rec) else s) acc

/-- PREF (R226). -/
def execPref (f : RForm) (s : State) : Host.Outcome State Fault Refusal :=
  .next (s.memoryWord 0x9B f (fun i sh => s.perThread i (extGuard f.ext) (prefTurn i f sh)))

/-! ### Buffer records (R227) -/

/-- Record `n` can be written (R30). -/
def State.recordReady (s : State) (i : Issue) (t n : Nat) : Bool :=
  let c := Table.get {} (s.group i.gk).b n
  c.full || c.mark.isSome || (s.thread (i.tk t)).replay == some (s.thread (i.tk t)).tpc

def State.setRecord (s : State) (i : Issue) (n : Nat) (c : BCell) : State :=
  s.modGroup i.gk (fun gr => { gr with b := Table.set {} gr.b n c })

/-- How BLD and BST name memory. -/
def recordMoveVia (f : RForm) : Via := if extSub f.ext == 1 then .shared else recordVia f

/-- A helper's record load returns zero where it would trap or fault (R213). -/
def helperRecord (s : State) (i : Issue) (t n : Nat) (r : Turned) : Turned :=
  match (s.thread (i.tk t)).role with
  | .live => r
  | .helper => match r with
    | .trap _ => if s.recordReady i t n then .done (s.setRecord i n {}) [] else .hold
    | .done s' _ => if (s'.thread (i.tk t)).park == .none then r else .done (s.setRecord i n {}) []
    | x => x

/-- The first thread's turn of BLD. -/
def bldTurn (i : Issue) (f : RForm) (sh : Shape) (s : State) (t : Nat) (acc : List Nat) : Turned :=
  let n := f.d.toNat % 16
  let via := recordMoveVia f
  helperRecord s i t n (
    match s.viaRecord i via, s.readA i t f sh.a with
    | .trap r, _ => .trap r
    | .hold, _ => .hold
    | _, .trap r => .trap r
    | _, .hold => .hold
    | .val rec, .val x =>
      match s.form i via x 16 (BitVec.ofNat 128 rec) with
      | .trap r => .trap r
      | .drop => if s.recordReady i t n then .done (s.setRecord i n {}) acc else .hold
      | .addr a =>
        if !s.recordReady i t n then .hold
        else
          let s1 := s.setRecord i n { Table.get {} (s.group i.gk).b n with full := false, mark := none }
          match s.target i via a 16 Need.read with
          | .ok sp pa ord => .done ((s1.modThread (i.tk t) (fun th => { th with replay := none })).gather i
              { lane := { t := t, va := a, addr := pa, w := 16, into := .record n }, space := sp, ord := ord }) acc
          | r => s.loadMiss s1 i t a 0 r acc)

/-- BLD (R227). -/
def execBld (f : RForm) (s : State) : Host.Outcome State Fault Refusal :=
  .next (s.memoryWord 0xA0 f (fun i sh => s.memoryOnce i f.ext .load 0 (bldTurn i f sh)))

/-- The first thread's turn of BST; in BST.s eb is the trap-on-empty bit of bn. -/
def bstTurn (i : Issue) (f : RForm) (sh : Shape) (s : State) (t : Nat) (acc : List Nat) : Turned :=
  let via := recordMoveVia f
  match s.viaRecord i via, s.readA i t f sh.a with
  | .trap r, _ => .trap r
  | .hold, _ => .hold
  | _, .trap r => .trap r
  | _, .hold => .hold
  | .val rec, .val x =>
    match s.form i via x 16 (BitVec.ofNat 128 rec) with
    | .trap r => .trap r
    | .drop => .done s acc
    | .addr a =>
      match (s.group i.gk).record (f.d.toNat % 16) (extSub f.ext == 1 && f.eb) with
      | .trap r => .trap r
      | .hold => .hold
      | .val data =>
        match (s.thread (i.tk t)).role with
        | .helper => .done s acc
        | .live => s.storeTo i { t := t, va := a, addr := a, w := 16, data := data } 1 (s.target i via a 16 Need.write) acc

/-- BST (R227). -/
def execBst (f : RForm) (s : State) : Host.Outcome State Fault Refusal :=
  .next (s.memoryWord 0xA1 f (fun i sh => s.memoryOnce i f.ext .store 0 (bstTurn i f sh)))

/-- Word `k` of a record replaced. -/
def setRecordWord (r : BitVec 128) (k : Nat) (x : Nat) : BitVec 128 :=
  (r &&& ~~~((0xFFFFFFFF#128) <<< (32 * k))) ||| ((BitVec.ofNat 128 (x % 2 ^ 32)) <<< (32 * k))

/-- BSET (R227). -/
def execBset (f : RForm) (s : State) : Host.Outcome State Fault Refusal :=
  let n := f.d.toNat % 16
  .next (s.memoryWord 0xA2 f (fun i sh =>
    let t := firstLane i.path
    if !s.uniformGuard i f.ext then s.endPass i
    else match s.readA i t f sh.a with
      | .trap r => s.trapPath i r
      | .hold => s.holdPass i (lanesOf i.path) 0#32 []
      | .val x =>
        if s.recordReady i t n then
          (s.setRecord i n { val := setRecordWord (Table.get {} (s.group i.gk).b n).val (extSub f.ext) x }).endPass i
        else s.holdPass i (lanesOf i.path) 0#32 []))

/-- One thread's turn of BGET. -/
def bgetTurn (i : Issue) (f : RForm) (sh : Shape) (s : State) (t : Nat) (acc : List Nat) : Turned :=
  match (s.group i.gk).record (f.b.toNat % 16) f.eb with
  | .trap r => .trap r
  | .hold => .hold
  | .val rec =>
    match locate (s.thread (i.tk t)) f.d sh.d (if extXo f.ext == 3 then some (extXs f.ext) else none) with
    | .error r => .trap r
    | .ok l =>
      if s.destReady i t l 1 then .done (s.writeCells i t l 1 (recField (BitVec.ofNat 128 rec) (32 * extSub f.ext) 32)) acc else .hold

/-- BGET (R227). -/
def execBget (f : RForm) (s : State) : Host.Outcome State Fault Refusal :=
  .next (s.memoryWord 0xA3 f (fun i sh =>
    if (Fields.ofR f).uniform sh then
      (if !s.uniformGuard i f.ext then s.endPass i
       else match bgetTurn i f sh s (firstLane i.path) [] with
        | .trap r => s.trapPath i r
        | .done s' _ => s'.endPass i
        | _ => s.holdPass i (lanesOf i.path) 0#32 [])
    else s.perThread i (extGuard f.ext) (bgetTurn i f sh)))

/-! ### Working sets (R228, R229) -/

/-- WSET: the copy begins, and the path waits for its end; pix holds how many registers are copied, a value the timing decides
(R229, R434; log 16). A working set of no register is complete at once. -/
def execWset (f : RForm) (s : State) : Host.Outcome State Fault Refusal :=
  .next (s.memoryWord 0xA4 f (fun i _ =>
    let regs := wsetRegs (wsetRanges f)
    if !regs.all (fun r => decide (r < (s.block i.b).nreg)) then s.illegal i f.ext
    else if s.holdOf i == some .wset then
      (if (s.group i.gk).wsetCopying then s else s.endPass i)
    else
      let s := s.takePix i
      if s.pixTaken i then s.holdPath i .pix
      else if regs.isEmpty then (s.modGroup i.gk (fun gr => { gr with wset := [] })).endPass i
      else
        (s.modGroup i.gk (fun gr => { gr with
          wset := regs, wsetCopying := true, pixOwner := i.path
          pix := BitVec.ofNat 32 ((Config.freeWord s.tick).toNat % regs.length) })).holdPath i .wset))

/-- WSET_COPY_COMPLETE: the working-set copy of group `g` of block `b` is complete; pix returns to zero (R229). -/
def execWsetCopyComplete (b g : Nat) (s : State) : Host.Outcome State Fault Refusal :=
  .next (if (s.group (gkey b g)).wsetCopying then
    s.modGroup (gkey b g) (fun gr => { gr with wsetCopying := false, pix := 0#32, pixOwner := 0#32 })
  else s)

/-! ### Literal loads (R55) -/

/-- One thread's turn of LDL: each word is fetched with execute permission; whatever fails in the reading leaves d empty (R55, R391, R397). -/
def ldlTurn (i : Issue) (f : IForm) (sh : Shape) (s : State) (t : Nat) (acc : List Nat) : Turned :=
  let q := Fields.ofI f
  let ctx := (s.block i.b).ctx
  let failed := match (s.group i.gk).pass with
    | some p => p.failed
    | none => []
  match locate (s.thread (i.tk t)) q.d sh.d none with
  | .error r => .trap r
  | .ok l =>
    helperZero s i t l sh.d.n acc (
      if !s.destReady i t l sh.d.n then .hold
      else
        let base := (pcAddr (i.hdr + BitVec.ofInt 64 (4 * f.imm.toInt))).toNat
        let s1 := s.emptyCells i t l sh.d.n
        let at_ := fun (j : Nat) => (base + 4 * j) % 2 ^ 57
        let reach := fun (j : Nat) => s.reach ctx (some i.b) failed (at_ j) 4 Need.exec
        let place := fun (j : Nat) (s : State) => match l, reach j with
          | .v r, .ok sp pa ord => s.gather i { lane := { t := t, va := at_ j, addr := pa, w := 4, into := .v (r + j) 1 }, space := sp, ord := ord }
          | .s r, .ok sp pa ord => s.gather i { lane := { t := t, va := at_ j, addr := pa, w := 4, into := .s (r + j) 1 }, space := sp, ord := ord }
          | _, _ => s
        match (List.range sh.d.n).find? (fun j => match reach j with | .ok _ _ _ => false | _ => true) with
        | none => .done ((List.range sh.d.n).foldl (fun s j => place j s) (s1.modThread (i.tk t) (fun th => { th with replay := none }))) acc
        | some j =>
          match reach j with
          | .miss => .holdWith (s.askWalk i.gk ctx (at_ j))
          | .fault c =>
            if serviceable c then
              let r := s1.raiseFault ctx (at_ j) c 1 3 (s.unitOf i)
              .done (r.2.parkOnFault i t r.1 (faultTrap (at_ j) c 3)) acc
            else if (s.thread (i.tk t)).role == Role.helper then .trap (faultTrap (at_ j) c 3)
            else .done ((s1.modThread (i.tk t) (fun th => { th with replay := some th.tpc })).raise (i.tk t) (faultTrap (at_ j) c 3)) acc
          | _ => .hold)

/-- LDL (R55). -/
def execLdl (f : IForm) (s : State) : Host.Outcome State Fault Refusal :=
  .next (s.onGroup (fun i =>
    match iShape 0x3A f with
    | none => s.illegal i f.ext
    | some sh =>
      let q := Fields.ofI f
      if !iLegal 0x3A f || !q.belowNreg sh (s.block i.b).nreg then s.illegal i f.ext
      else if q.uniform sh then s.memoryOnce i none .literal 0 (ldlTurn i f sh)
      else s.memoryPass i (fun _ => true) .literal 0 (ldlTurn i f sh)))

end Sys2Proof.Machine
end

