-- ==== Sys2Proof/Machine/System.lean ====
section
/-! DEFINITION. System instructions: traps by software, return from the handler, control registers, SLEEP and YIELD (02 R26;
16 R433, R434, R440 to R444). -/

namespace Sys2Proof.Machine

/-- TRAP and BKPT: each active thread takes the trap, tinfo the code (R440). -/
def softTrap (op code : Nat) (f : RForm) (s : State) : State :=
  s.control op f (fun i => s.trapActive i (s.active i (extGuard f.ext)) { code := code, info := BitVec.ofNat 64 (extSub f.ext) })

/-- TRAP (R440). -/
def execTrap (f : RForm) (s : State) : Host.Outcome State Fault Refusal := .next (softTrap 0xF0 15 f s)
/-- BKPT (R440). -/
def execBkpt (f : RForm) (s : State) : Host.Outcome State Fault Refusal := .next (softTrap 0xF4 16 f s)

/-- The parked word was an MCALL (R433). -/
def Thread.parkedInMacro (th : Thread) : Bool := (th.tword &&& 0xFF000000#64) == 0xE0000000#64

/-- What a thread that returns to the word it trapped on takes up again there (R30, R225, R433). -/
def Thread.redo (th : Thread) (next : Bool) : Option Redo := if next then none else th.kept.filter (fun k => k.pc == th.tepc)

/-- Returns one handler thread to tepc, or to tnpc; only the former takes up the word it trapped on (R433, R434). -/
def Thread.eret (th : Thread) (next : Bool) : Thread :=
  { th with tpc := if next then th.tnpc else th.tepc
            tmw := if next && th.parkedInMacro then 0#5 else th.tmw
            slot := (th.redo next).bind Redo.slot
            replay := (th.redo next).bind (fun k => if k.replay then some k.pc else Option.none)
            kept := Option.none
            tpix := if next then 0#32 else th.tpix
            th := false }

/-- ERET: threads in their handler return, the others of the active ones trap, the rest go on (R433). -/
def execEret (f : RForm) (s : State) : Host.Outcome State Fault Refusal :=
  .next (s.control 0xF1 f (fun i => s.perThreadMove i (fun _ => true) (fun s t acc =>
    if (s.thread (i.tk t)).th then .done (s.modThread (i.tk t) (fun th => th.eret (f.d == 1#7))) acc
    else .trap { code := 1 })))

/-- The number of a CSRR or CSRW from its two fields (R441, R442). -/
def csrNumber (hi lo : BitVec 7) : Nat := hi.toNat * 32 + lo.toNat

/-- tcause as read: the th bit is that of the thread now (R431). -/
def Thread.causeNow (th : Thread) : W32 := if th.th then th.tcause ||| 0x100#32 else th.tcause

/-- A control register as thread `t` of an issue reads it (R26, R430, R434, R441). -/
def State.csrValue (s : State) (i : Issue) (t n : Nat) : Nat :=
  let th := s.thread (i.tk t)
  let gr := s.group i.gk
  let bl := s.block i.b
  match n with
  | 0x000 => t
  | 0x001 => i.g
  | 0x002 => bl.bx.toNat
  | 0x003 => bl.by_.toNat
  | 0x004 => bl.bz.toNat
  | 0x005 => bl.gcnt
  | 0x006 => bl.cbx
  | 0x007 => bl.vcore
  | 0x008 => bl.nreg
  | 0x009 => gr.live.toNat
  | 0x00A => gr.help.toNat
  | 0x010 => gr.fst.toNat
  | 0x011 => if (s.thread (i.tk (firstLane i.path))).th then th.tpix.toNat else gr.pix.toNat
  | 0x012 => (bl.tgm &&& bl.tgal).toNat
  | 0x013 => bl.tgal.toNat
  | 0x014 => th.tpc.toNat
  | 0x015 => th.tmw.toNat
  | 0x016 => gr.ssp.toNat
  | 0x100 => th.causeNow.toNat
  | 0x101 => th.tepc.toNat
  | 0x102 => th.tnpc.toNat
  | 0x103 => th.tval.toNat
  | 0x104 => th.tinfo.toNat
  | 0x105 => th.torg.toNat
  | 0x106 => th.tword.toNat
  | 0x108 => gr.thv.toNat
  | 0x110 => gr.tmst.toNat
  | 0x111 => gr.tmpc.toNat
  | _ => 0

/-- One thread's turn of CSRR (R441). -/
def csrrTurn (i : Issue) (q : Fields) (sh : Shape) (n : Nat) (s : State) (t : Nat) (acc : List Nat) : Turned :=
  match locate (s.thread (i.tk t)) q.d sh.d none with
  | .error r => .trap r
  | .ok l => if s.destReady i t l sh.d.n then .done (s.writeCells i t l sh.d.n (s.csrValue i t n)) acc else .hold

/-- CSRR (R441). -/
def execCsrr (f : RForm) (s : State) : Host.Outcome State Fault Refusal :=
  let n := csrNumber f.a f.b
  .next (s.onGroup (fun i =>
    let q := Fields.ofR f
    match rShape 0xF2 f with
    | none => s.illegal i f.ext
    | some sh =>
      if !rLegal 0xF2 f || !q.belowNreg sh (s.block i.b).nreg then s.illegal i f.ext
      else if q.uniform sh then
        let t := firstLane i.path
        let l := Loc.s (q.d.toNat - 96)
        if !s.uniformGuard i f.ext then s.endPass i
        else if s.destReady i t l sh.d.n then (s.writeCells i t l sh.d.n (s.csrValue i t n)).endPass i
        else s.holdPass i (lanesOf i.path) 0#32 []
      else s.perThread i (extGuard f.ext) (csrrTurn i q sh n)))

/-- A value stored in tepc or tnpc: bits 63:61 and 1:0 cleared (R430). -/
def pcStored (x : Nat) : W64 := BitVec.ofNat 64 x &&& 0x1FFFFFFFFFFFFFFC#64

/-- One thread's turn of a CSRW of tepc or tnpc (R442). -/
def csrwTurn (i : Issue) (f : RForm) (n : Nat) (s : State) (t : Nat) (acc : List Nat) : Turned :=
  match s.readA i t f Opd.pair with
  | .trap r => .trap r
  | .hold => .hold
  | .val x => .done (s.modThread (i.tk t) (fun th => if n == 0x101 then { th with tepc := pcStored x } else { th with tnpc := pcStored x })) acc

/-- A group register written once per pass: fst, pix (tpix of the path in a handler), or thv (R434, R442). -/
def State.csrwGroup (s : State) (i : Issue) (n x : Nat) : State :=
  match n with
  | 0x010 => (s.modGroup i.gk (fun gr => { gr with fst := writeFst gr.fst (BitVec.ofNat 32 x) })).endPass i
  | 0x011 =>
    if (s.thread (i.tk (firstLane i.path))).th then
      ((lanesOf i.path).foldl (fun s t => s.modThread (i.tk t) (fun th => { th with tpix := BitVec.ofNat 32 x })) s).endPass i
    else (s.modGroup i.gk (fun gr => { gr with pix := BitVec.ofNat 32 x })).endPass i
  | _ =>
    if codeAddrOk x then (s.modGroup i.gk (fun gr => { gr with thv := BitVec.ofNat 64 x })).endPass i
    else s.trapPath i { code := 6, tval := BitVec.ofNat 64 x }

/-- CSRW (R442). -/
def execCsrw (f : RForm) (s : State) : Host.Outcome State Fault Refusal :=
  let n := csrNumber f.d f.b
  .next (s.control 0xF3 f (fun i =>
    if n == 0x101 || n == 0x102 then s.perThread i (extGuard f.ext) (csrwTurn i f n)
    else if !s.uniformGuard i f.ext then s.endPass i
    else match s.readA i (firstLane i.path) f (if n == 0x108 then Opd.pair else Opd.one) with
      | .trap r => s.trapPath i r
      | .hold => s.holdPass i (lanesOf i.path) 0#32 []
      | .val x => s.csrwGroup i n x))

/-- Ends a pass of SLEEP, which retires nothing for the watchdog (R443). -/
def State.quietEnd (s : State) (i : Issue) : State := { s.endPass i with contexts := s.contexts }

/-- SLEEP: holds the path until the counter reaches T0 + a, where T0 is the time of its first issue; the holding word goes on once the deadline has
passed (R443). -/
def execSleep (f : RForm) (s : State) : Host.Outcome State Fault Refusal :=
  .next (s.control 0xF5 f (fun i =>
    match s.holdOf i with
    | some .sleepDone => (s.waitOver i).quietEnd i
    | some _ => s
    | none =>
      if !s.uniformGuard i f.ext then s.endPass i
      else
        let u := s.startWait i
        match s.readA i (firstLane i.path) f Opd.one with
        | .trap r => (s.waitOver i).trapPath i r
        | .hold => u.holdPass i (lanesOf i.path) 0#32 []
        | .val a => if u.firstIssue i + a ≤ s.time then (u.waitOver i).quietEnd i else u.holdPath i (.sleep (u.firstIssue i + a))))

/-- SLEEP_EXPIRY: the holds of a group whose deadlines the counter has reached end (R443). -/
def execSleepExpiry (b g : Nat) (s : State) : Host.Outcome State Fault Refusal :=
  .next (s.modGroup (gkey b g) (fun gr =>
    { gr with holds := gr.holds.map (fun h => match h.why with
        | .sleep d => if d ≤ s.time then { h with why := .sleepDone } else h
        | _ => h) }))

/-- YIELD ends the path's turn with a choice by age; .track also gives up the track if another group waits (R444). -/
def execYield (f : RForm) (s : State) : Host.Outcome State Fault Refusal :=
  .next (s.control 0xF6 f (fun i =>
    if !s.uniformGuard i f.ext then s.endPass i
    else
      let s := (s.endPass i).modGroup i.gk (fun gr => { gr with pick := .age })
      if extSub f.ext == 1 && s.othersWait i.gk then s.dropTrack i.gk else s))

end Sys2Proof.Machine
end

