-- ==== Sys2Proof/Machine/Dispatch.lean ====
section
/-! DEFINITION. The dispatch: one arm for each constructor of Instr, one direct call of its meaning. -/

namespace Sys2Proof.Machine

def exec (i : Instr) (s : State) : Host.Outcome State Fault Refusal :=
  match i with
  | .clauseHeader h => Sys2Proof.Machine.execClauseHeader h s
  | .bra f => Sys2Proof.Machine.execBra f s
  | .bru f => Sys2Proof.Machine.execBru f s
  | .brx f => Sys2Proof.Machine.execBrx f s
  | .call f => Sys2Proof.Machine.execCall f s
  | .ret f => Sys2Proof.Machine.execRet f s
  | .exit f => Sys2Proof.Machine.execExit f s
  | .jenter f => Sys2Proof.Machine.execJenter f s
  | .jquit f => Sys2Proof.Machine.execJquit f s
  | .jwait f => Sys2Proof.Machine.execJwait f s
  | .jfree f => Sys2Proof.Machine.execJfree f s
  | .jpush f => Sys2Proof.Machine.execJpush f s
  | .jpop f => Sys2Proof.Machine.execJpop f s
  | .jread f => Sys2Proof.Machine.execJread f s
  | .iadd f => Sys2Proof.Machine.execIadd f s
  | .isub f => Sys2Proof.Machine.execIsub f s
  | .imul f => Sys2Proof.Machine.execImul f s
  | .imulh f => Sys2Proof.Machine.execImulh f s
  | .imad f => Sys2Proof.Machine.execImad f s
  | .iminmax f => Sys2Proof.Machine.execIminmax f s
  | .iabsd f => Sys2Proof.Machine.execIabsd f s
  | .isum f => Sys2Proof.Machine.execIsum f s
  | .iaddsh f => Sys2Proof.Machine.execIaddsh f s
  | .tlog f => Sys2Proof.Machine.execTlog f s
  | .shift f => Sys2Proof.Machine.execShift f s
  | .bfx f => Sys2Proof.Machine.execBfx f s
  | .bfi f => Sys2Proof.Machine.execBfi f s
  | .popc f => Sys2Proof.Machine.execPopc f s
  | .clz f => Sys2Proof.Machine.execClz f s
  | .brev f => Sys2Proof.Machine.execBrev f s
  | .icmp f => Sys2Proof.Machine.execIcmp f s
  | .sel f => Sys2Proof.Machine.execSel f s
  | .plop f => Sys2Proof.Machine.execPlop f s
  | .mov f => Sys2Proof.Machine.execMov f s
  | .pmov f => Sys2Proof.Machine.execPmov f s
  | .iaddi f => Sys2Proof.Machine.execIaddi f s
  | .imuli f => Sys2Proof.Machine.execImuli f s
  | .andi f => Sys2Proof.Machine.execAndi f s
  | .ori f => Sys2Proof.Machine.execOri f s
  | .xori f => Sys2Proof.Machine.execXori f s
  | .shli f => Sys2Proof.Machine.execShli f s
  | .shri f => Sys2Proof.Machine.execShri f s
  | .srai f => Sys2Proof.Machine.execSrai f s
  | .movi f => Sys2Proof.Machine.execMovi f s
  | .movhi f => Sys2Proof.Machine.execMovhi f s
  | .ldl f => Sys2Proof.Machine.execLdl f s
  | .imini f => Sys2Proof.Machine.execImini f s
  | .imaxi f => Sys2Proof.Machine.execImaxi f s
  | .fadd f => Sys2Proof.Machine.execFadd f s
  | .fsub f => Sys2Proof.Machine.execFsub f s
  | .fmul f => Sys2Proof.Machine.execFmul f s
  | .ffma f => Sys2Proof.Machine.execFfma f s
  | .fmin f => Sys2Proof.Machine.execFmin f s
  | .fmax f => Sys2Proof.Machine.execFmax f s
  | .fcmp f => Sys2Proof.Machine.execFcmp f s
  | .fclass f => Sys2Proof.Machine.execFclass f s
  | .frnd f => Sys2Proof.Machine.execFrnd f s
  | .fldexp f => Sys2Proof.Machine.execFldexp f s
  | .fabs f => Sys2Proof.Machine.execFabs f s
  | .fneg f => Sys2Proof.Machine.execFneg f s
  | .fcsgn f => Sys2Proof.Machine.execFcsgn f s
  | .fsat f => Sys2Proof.Machine.execFsat f s
  | .cvt f => Sys2Proof.Machine.execCvt f s
  | .pack f => Sys2Proof.Machine.execPack f s
  | .unpack f => Sys2Proof.Machine.execUnpack f s
  | .bscale f => Sys2Proof.Machine.execBscale f s
  | .bshuf f => Sys2Proof.Machine.execBshuf f s
  | .faddi f => Sys2Proof.Machine.execFaddi f s
  | .fmuli f => Sys2Proof.Machine.execFmuli f s
  | .ffmai f => Sys2Proof.Machine.execFfmai f s
  | .fmini f => Sys2Proof.Machine.execFmini f s
  | .fmaxi f => Sys2Proof.Machine.execFmaxi f s
  | .dot f => Sys2Proof.Machine.execDot f s
  | .cfma f => Sys2Proof.Machine.execCfma f s
  | .bfly f => Sys2Proof.Machine.execBfly f s
  | .twid f => Sys2Proof.Machine.execTwid f s
  | .idiv f => Sys2Proof.Machine.execIdiv f s
  | .irem f => Sys2Proof.Machine.execIrem f s
  | .fdiv f => Sys2Proof.Machine.execFdiv f s
  | .fsqrt f => Sys2Proof.Machine.execFsqrt f s
  | .frsqrt f => Sys2Proof.Machine.execFrsqrt f s
  | .ftrans f => Sys2Proof.Machine.execFtrans f s
  | .prev f => Sys2Proof.Machine.execPrev f s
  | .scan f => Sys2Proof.Machine.execScan f s
  | .sscan f => Sys2Proof.Machine.execSscan f s
  | .xread f => Sys2Proof.Machine.execXread f s
  | .bcast f => Sys2Proof.Machine.execBcast f s
  | .vote f => Sys2Proof.Machine.execVote f s
  | .qxch f => Sys2Proof.Machine.execQxch f s
  | .qred f => Sys2Proof.Machine.execQred f s
  | .xmatch f => Sys2Proof.Machine.execXmatch f s
  | .ld f => Sys2Proof.Machine.execLd f s
  | .st f => Sys2Proof.Machine.execSt f s
  | .lds f => Sys2Proof.Machine.execLds f s
  | .sts f => Sys2Proof.Machine.execSts f s
  | .ldx f => Sys2Proof.Machine.execLdx f s
  | .stx f => Sys2Proof.Machine.execStx f s
  | .atom f => Sys2Proof.Machine.execAtom f s
  | .atoms f => Sys2Proof.Machine.execAtoms f s
  | .atomx f => Sys2Proof.Machine.execAtomx f s
  | .spld f => Sys2Proof.Machine.execSpld f s
  | .spst f => Sys2Proof.Machine.execSpst f s
  | .pref f => Sys2Proof.Machine.execPref f s
  | .ldnc f => Sys2Proof.Machine.execLdnc f s
  | .bld f => Sys2Proof.Machine.execBld f s
  | .bst f => Sys2Proof.Machine.execBst f s
  | .bset f => Sys2Proof.Machine.execBset f s
  | .bget f => Sys2Proof.Machine.execBget f s
  | .wset f => Sys2Proof.Machine.execWset f s
  | .copy f => Sys2Proof.Machine.execCopy f s
  | .kick f => Sys2Proof.Machine.execKick f s
  | .twany f => Sys2Proof.Machine.execTwany f s
  | .twall f => Sys2Proof.Machine.execTwall f s
  | .tfirst f => Sys2Proof.Machine.execTfirst f s
  | .tclr f => Sys2Proof.Machine.execTclr f s
  | .boinit f => Sys2Proof.Machine.execBoinit f s
  | .boarrive f => Sys2Proof.Machine.execBoarrive f s
  | .boexpect f => Sys2Proof.Machine.execBoexpect f s
  | .bowait f => Sys2Proof.Machine.execBowait f s
  | .botest f => Sys2Proof.Machine.execBotest f s
  | .fence f => Sys2Proof.Machine.execFence f s
  | .bar f => Sys2Proof.Machine.execBar f s
  | .bararv f => Sys2Proof.Machine.execBararv f s
  | .waitw f => Sys2Proof.Machine.execWaitw f s
  | .time f => Sys2Proof.Machine.execTime f s
  | .rst f => Sys2Proof.Machine.execRst f s
  | .rld f => Sys2Proof.Machine.execRld f s
  | .ratom f => Sys2Proof.Machine.execRatom f s
  | .rfadd f => Sys2Proof.Machine.execRfadd f s
  | .rfence f => Sys2Proof.Machine.execRfence f s
  | .coll f => Sys2Proof.Machine.execColl f s
  | .launch f => Sys2Proof.Machine.execLaunch f s
  | .postc f => Sys2Proof.Machine.execPostc f s
  | .search f => Sys2Proof.Machine.execSearch f s
  | .nlaunch f => Sys2Proof.Machine.execNlaunch f s
  | .nopen f => Sys2Proof.Machine.execNopen f s
  | .ncmd f => Sys2Proof.Machine.execNcmd f s
  | .nclose f => Sys2Proof.Machine.execNclose f s
  | .mcall f => Sys2Proof.Machine.execMcall f s
  | .xset f => Sys2Proof.Machine.execXset f s
  | .xadd f => Sys2Proof.Machine.execXadd f s
  | .xget f => Sys2Proof.Machine.execXget f s
  | .trap f => Sys2Proof.Machine.execTrap f s
  | .eret f => Sys2Proof.Machine.execEret f s
  | .csrr f => Sys2Proof.Machine.execCsrr f s
  | .csrw f => Sys2Proof.Machine.execCsrw f s
  | .bkpt f => Sys2Proof.Machine.execBkpt f s
  | .sleep f => Sys2Proof.Machine.execSleep f s
  | .yield f => Sys2Proof.Machine.execYield f s
  | .mbr cond qa off => Sys2Proof.Machine.execMbr cond qa off s
  | .mli qd mode imm => Sys2Proof.Machine.execMli qd mode imm s
  | .malu qd qa qb op bimm imm => Sys2Proof.Machine.execMalu qd qa qb op bimm imm s
  | .mldq qd qa n off => Sys2Proof.Machine.execMldq qd qa n off s
  | .mstq qd qa n off => Sys2Proof.Machine.execMstq qd qa n off s
  | .mpred sel qa useq count => Sys2Proof.Machine.execMpred sel qa useq count s
  | .mbar op nb mask => Sys2Proof.Machine.execMbar op nb mask s
  | .mrds qd sel clr => Sys2Proof.Machine.execMrds qd sel clr s
  | .mzero t fill qa => Sys2Proof.Machine.execMzero t fill qa s
  | .mma f => Sys2Proof.Machine.execMma f s
  | .mmas f n qm => Sys2Proof.Machine.execMmas f n qm s
  | .mldt t fmt qa => Sys2Proof.Machine.execMldt t fmt qa s
  | .mstt f => Sys2Proof.Machine.execMstt f s
  | .mmaBandCommit b => Sys2Proof.Machine.execMmaBandCommit b s
  | .bnop f => Sys2Proof.Machine.execBnop f s
  | .br f => Sys2Proof.Machine.execBr f s
  | .bcall f => Sys2Proof.Machine.execBcall f s
  | .bjr f => Sys2Proof.Machine.execBjr f s
  | .bend f => Sys2Proof.Machine.execBend f s
  | .btrap f => Sys2Proof.Machine.execBtrap f s
  | .galu f => Sys2Proof.Machine.execGalu f s
  | .galui f => Sys2Proof.Machine.execGalui f s
  | .gset f => Sys2Proof.Machine.execGset f s
  | .gcmp f => Sys2Proof.Machine.execGcmp f s
  | .wld f => Sys2Proof.Machine.execWld f s
  | .wst f => Sys2Proof.Machine.execWst f s
  | .ald f => Sys2Proof.Machine.execAld f s
  | .ast f => Sys2Proof.Machine.execAst f s
  | .hrd f => Sys2Proof.Machine.execHrd f s
  | .hwr f => Sys2Proof.Machine.execHwr f s
  | .hmov f => Sys2Proof.Machine.execHmov f s
  | .hwin f => Sys2Proof.Machine.execHwin f s
  | .hget f => Sys2Proof.Machine.execHget f s
  | .hput f => Sys2Proof.Machine.execHput f s
  | .kset f => Sys2Proof.Machine.execKset f s
  | .glint f => Sys2Proof.Machine.execGlint f s
  | .top f => Sys2Proof.Machine.execTop f s
  | .ttld f => Sys2Proof.Machine.execTtld f s
  | .ttp f => Sys2Proof.Machine.execTtp f s
  | .dist f => Sys2Proof.Machine.execDist f s
  | .distg f => Sys2Proof.Machine.execDistg f s
  | .heap f => Sys2Proof.Machine.execHeap f s
  | .hoffer f => Sys2Proof.Machine.execHoffer f s
  | .hout f => Sys2Proof.Machine.execHout f s
  | .post f => Sys2Proof.Machine.execPost f s
  | .whop f => Sys2Proof.Machine.execWhop f s
  | .wspawn f => Sys2Proof.Machine.execWspawn f s
  | .visit f => Sys2Proof.Machine.execVisit f s
  | .cwait f => Sys2Proof.Machine.execCwait f s
  | .creply f => Sys2Proof.Machine.execCreply f s
  | .rds f => Sys2Proof.Machine.execRds f s
  | .nearLaunchPacket id => Sys2Proof.Machine.execNearLaunchPacket id s
  | .nearBlockStart stack be c => Sys2Proof.Machine.execNearBlockStart stack be c s
  | .streamedContextStart stack be c => Sys2Proof.Machine.execStreamedContextStart stack be c s
  | .columnCommand id => Sys2Proof.Machine.execColumnCommand id s
  | .ncmdAnswer id => Sys2Proof.Machine.execNcmdAnswer id s
  | .walkerDispatch stack be c => Sys2Proof.Machine.execWalkerDispatch stack be c s
  | .walkerMessage id => Sys2Proof.Machine.execWalkerMessage id s
  | .walkerRegistration id => Sys2Proof.Machine.execWalkerRegistration id s
  | .walkerEndNotice id => Sys2Proof.Machine.execWalkerEndNotice id s
  | .queryMerge search q => Sys2Proof.Machine.execQueryMerge search q s
  | .wsetCopyComplete b g => Sys2Proof.Machine.execWsetCopyComplete b g s
  | .loadDataArrival id => Sys2Proof.Machine.execLoadDataArrival id s
  | .longLatencyFill id => Sys2Proof.Machine.execLongLatencyFill id s
  | .storeAcknowledge id => Sys2Proof.Machine.execStoreAcknowledge id s
  | .pageWalkComplete ctx page => Sys2Proof.Machine.execPageWalkComplete ctx page s
  | .faultEvent id => Sys2Proof.Machine.execFaultEvent id s
  | .faultRecordDeferred id => Sys2Proof.Machine.execFaultRecordDeferred id s
  | .rotationQuantumExpiry b g => Sys2Proof.Machine.execRotationQuantumExpiry b g s
  | .trackClaim b g => Sys2Proof.Machine.execTrackClaim b g s
  | .trackPassLimit b g => Sys2Proof.Machine.execTrackPassLimit b g s
  | .ceSlotAccept b g => Sys2Proof.Machine.execCeSlotAccept b g s
  | .copySourceStart id n => Sys2Proof.Machine.execCopySourceStart id n s
  | .copyComplete id => Sys2Proof.Machine.execCopyComplete id s
  | .boCountUpdate id => Sys2Proof.Machine.execBoCountUpdate id s
  | .remoteTimeoutExpiry tag => Sys2Proof.Machine.execRemoteTimeoutExpiry tag s
  | .collCompletion id => Sys2Proof.Machine.execCollCompletion id s
  | .waitwTimeout b g => Sys2Proof.Machine.execWaitwTimeout b g s
  | .sleepExpiry b g => Sys2Proof.Machine.execSleepExpiry b g s
  | .scaleOutResendTimeout peer => Sys2Proof.Machine.execScaleOutResendTimeout peer s
  | .nopPacket flags words => Sys2Proof.Machine.execNopPacket flags words s
  | .grid flags words => Sys2Proof.Machine.execGrid flags words s
  | .cgrid flags words => Sys2Proof.Machine.execCgrid flags words s
  | .ib flags words => Sys2Proof.Machine.execIb flags words s
  | .waitbit flags words => Sys2Proof.Machine.execWaitbit flags words s
  | .waitmem flags words => Sys2Proof.Machine.execWaitmem flags words s
  | .write flags words => Sys2Proof.Machine.execWrite flags words s
  | .tstamp flags words => Sys2Proof.Machine.execTstamp flags words s
  | .blockEnd b => Sys2Proof.Machine.execBlockEnd b s
  | .continuationRecordArrival id => Sys2Proof.Machine.execContinuationRecordArrival id s
  | .binFlushTimeout id => Sys2Proof.Machine.execBinFlushTimeout id s
  | .switchOutDrainComplete b => Sys2Proof.Machine.execSwitchOutDrainComplete b s
  | .watchdogExpiry ctx => Sys2Proof.Machine.execWatchdogExpiry ctx s
  | .repairCorecapChange core => Sys2Proof.Machine.execRepairCorecapChange core s
  | .flitReceive n f idle ask => Sys2Proof.Machine.execFlitReceive n f idle ask s
  | .laneFailure n => Sys2Proof.Machine.execLaneFailure n s
  | .scaleOutDatagram peer seq ack ps => Sys2Proof.Machine.execScaleOutDatagram peer seq ack ps s
  | .qtailWrite slot v => Sys2Proof.Machine.execQtailWrite slot v s
  | .bindStart cc die r => Sys2Proof.Machine.execBindStart cc die r s
  | .bindResume cc die r => Sys2Proof.Machine.execBindResume cc die r s
  | .bindSwitchOut cc die r => Sys2Proof.Machine.execBindSwitchOut cc die r s
  | .masterRelease kind index => Sys2Proof.Machine.execMasterRelease kind index s
  | .tlbInvalidate p => Sys2Proof.Machine.execTlbInvalidate p s
  | .faultRetry p v => Sys2Proof.Machine.execFaultRetry p v s
  | .faultDeliver p v => Sys2Proof.Machine.execFaultDeliver p v s
  | .partitionDescriptorWrite p d => Sys2Proof.Machine.execPartitionDescriptorWrite p d s
  | .hostBar2Access op off n x => Sys2Proof.Machine.execHostBar2Access op off n x s
  | .registerWrite m r v => Sys2Proof.Machine.execRegisterWrite m r v s
  | .errorDetect site corrected => Sys2Proof.Machine.execErrorDetect site corrected s
  | .selfTestComplete id pass => Sys2Proof.Machine.execSelfTestComplete id pass s
  | .hbmLaneFailure stack ch => Sys2Proof.Machine.execHbmLaneFailure stack ch s
  | .channelFullWidthRestore stack ch => Sys2Proof.Machine.execChannelFullWidthRestore stack ch s
  | .stackThermalHigh stack => Sys2Proof.Machine.execStackThermalHigh stack s
  | .powerEvaluation watts exceeded low busy hot => Sys2Proof.Machine.execPowerEvaluation watts exceeded low busy hot s
  | .thermalClockStep die => Sys2Proof.Machine.execThermalClockStep die s
  | .fullFunctionOpen stackSet hub ports lsplit => Sys2Proof.Machine.execFullFunctionOpen stackSet hub ports lsplit s
  | .firmwareLoad m flashOk => Sys2Proof.Machine.execFirmwareLoad m flashOk s
  | .jtagBypass tdi => Sys2Proof.Machine.execJtagBypass tdi s
  | .negotiateAlgorithms asym hash meas => Sys2Proof.Machine.execNegotiateAlgorithms asym hash meas s
  | .getCertificate slot off len => Sys2Proof.Machine.execGetCertificate slot off len s
  | .challenge slot nonce => Sys2Proof.Machine.execChallenge slot nonce s
  | .getMeasurements index signed nonce => Sys2Proof.Machine.execGetMeasurements index signed nonce s
  | .vendorDefinedRequest registry vendor code => Sys2Proof.Machine.execVendorDefinedRequest registry vendor code s
  | .ieee1588Message t => Sys2Proof.Machine.execIeee1588Message t s
  | .pcieCompletionTimeout id => Sys2Proof.Machine.execPcieCompletionTimeout id s
  | .nop => Sys2Proof.Machine.execNop s
  | .illegalEpaelWord => Sys2Proof.Machine.execIllegalEpaelWord s
  | .mnop => Sys2Proof.Machine.execMnop s
  | .mend => Sys2Proof.Machine.execMend s
  | .mwait => Sys2Proof.Machine.execMwait s
  | .illegalMatrixWord => Sys2Proof.Machine.execIllegalMatrixWord s
  | .illegalBurrowWord => Sys2Proof.Machine.execIllegalBurrowWord s
  | .searchAdmission => Sys2Proof.Machine.execSearchAdmission s
  | .matrixSlotBoundary => Sys2Proof.Machine.execMatrixSlotBoundary s
  | .rstPacket => Sys2Proof.Machine.execRstPacket s
  | .rldPacket => Sys2Proof.Machine.execRldPacket s
  | .ratomPacket => Sys2Proof.Machine.execRatomPacket s
  | .rfaddPacket => Sys2Proof.Machine.execRfaddPacket s
  | .ack => Sys2Proof.Machine.execAck s
  | .rdata => Sys2Proof.Machine.execRdata s
  | .collPacket => Sys2Proof.Machine.execCollPacket s
  | .sync => Sys2Proof.Machine.execSync s
  | .syncInterval => Sys2Proof.Machine.execSyncInterval s
  | .syncLossTimeout => Sys2Proof.Machine.execSyncLossTimeout s
  | .waitmemRecheck => Sys2Proof.Machine.execWaitmemRecheck s
  | .schedulingTick => Sys2Proof.Machine.execSchedulingTick s
  | .watchdogSample => Sys2Proof.Machine.execWatchdogSample s
  | .tlbInvalidateComplete => Sys2Proof.Machine.execTlbInvalidateComplete s
  | .handoverAcquire => Sys2Proof.Machine.execHandoverAcquire s
  | .handoverAcquireComplete => Sys2Proof.Machine.execHandoverAcquireComplete s
  | .handoverRelease => Sys2Proof.Machine.execHandoverRelease s
  | .contextCreate => Sys2Proof.Machine.execContextCreate s
  | .contextReload => Sys2Proof.Machine.execContextReload s
  | .contextDestroy => Sys2Proof.Machine.execContextDestroy s
  | .contextDestroyComplete => Sys2Proof.Machine.execContextDestroyComplete s
  | .queueEnable => Sys2Proof.Machine.execQueueEnable s
  | .queueDisable => Sys2Proof.Machine.execQueueDisable s
  | .slotEntry => Sys2Proof.Machine.execSlotEntry s
  | .classQuotas => Sys2Proof.Machine.execClassQuotas s
  | .powerEmergency => Sys2Proof.Machine.execPowerEmergency s
  | .thermalTrip => Sys2Proof.Machine.execThermalTrip s
  | .powerGood => Sys2Proof.Machine.execPowerGood s
  | .deviceReset => Sys2Proof.Machine.execDeviceReset s
  | .svnRaise => Sys2Proof.Machine.execSvnRaise s
  | .freeze => Sys2Proof.Machine.execFreeze s
  | .jtagIdcode => Sys2Proof.Machine.execJtagIdcode s
  | .jtagScan => Sys2Proof.Machine.execJtagScan s
  | .getVersion => Sys2Proof.Machine.execGetVersion s
  | .getCapabilities => Sys2Proof.Machine.execGetCapabilities s
  | .getDigests => Sys2Proof.Machine.execGetDigests s

end Sys2Proof.Machine
end

