-- ==== Sys2Proof/Decode.lean ====
section
/-! DEFINITION. The decoder, total on any words and refusing by name, then the encoder (02 R33, R42 to R51; 05 R141 to R157; 06 R169, R170; 12
R335). Words are 32 bits, little-endian in memory; a matrix word is 64 (R1, R141). -/

namespace Sys2Proof

/-- Why words are no instruction. -/
inductive DecodeError where
  /-- The words end before the instruction does. -/
  | truncated
  /-- No instruction has this opcode or packet type (R50, R141, R170, R337). -/
  | unassigned (op : Nat)
  /-- A bit that must be zero is not (R6). -/
  | reservedBits (op : Nat)
  /-- The fields break the rules of the entry (R6). -/
  | illegal (op : Nat)
  deriving DecidableEq, Repr

/-! ### Epael words -/

/-- The opcode of an Epael word (R42 to R44). -/
def epaelOp (w : W32) : Nat := (w.extractLsb' 24 8).toNat
/-- Opcodes of the B form, which has no extension (R51). -/
def isBOp (op : Nat) : Bool := op == 0x01 || op == 0x02 || op == 0x04 || op == 0x06
/-- The word is followed by an extension word (R42, R43, R45). -/
def hasExt (w : W32) : Bool := !isBOp (epaelOp w) && w.getLsbD 0

/-- The extension word (R45). -/
def extFields (x : W32) : Ext :=
  { c := x.extractLsb' 25 7, ec := x.getLsbD 24, ty := x.extractLsb' 20 4, rnd := x.extractLsb' 16 4, gn := x.getLsbD 15
    guard := x.extractLsb' 12 3, xs := x.extractLsb' 10 2, xo := x.extractLsb' 8 2, sub := x.extractLsb' 0 8 }
/-- The R form (R42). -/
def rFields (w : W32) (x : Option W32) : RForm :=
  { d := w.extractLsb' 17 7, a := w.extractLsb' 10 7, b := w.extractLsb' 3 7, ea := w.getLsbD 2, eb := w.getLsbD 1, ext := x.map extFields }
/-- The I form (R43). -/
def iFields (w : W32) (x : Option W32) : IForm := { d := w.extractLsb' 17 7, imm := w.extractLsb' 1 16, ext := x.map extFields }
/-- The B form (R44). -/
def bFields (w : W32) : BForm := { guard := w.extractLsb' 21 3, gn := w.getLsbD 20, off := w.extractLsb' 0 20 }
/-- The fields of a clause header (R33). -/
def headerFields (w : W32) : Header :=
  { count := w.extractLsb' 28 4, cls := w.extractLsb' 24 4, ws := w.getLsbD 23, wl := w.getLsbD 22, tag := w.extractLsb' 16 6, tv := w.getLsbD 15
    nb := w.extractLsb' 11 4, bv := w.getLsbD 10, yield := w.extractLsb' 8 2 }
/-- A word taken as a clause header. One whose low byte is not zero breaks the rules of R33 as one with count 0 does. -/
def readHeader (w : W32) : Header := if w.extractLsb' 0 8 == 0#8 then headerFields w else { headerFields w with count := 0#4 }

/-- The instruction of an Epael word with its extension, if its opcode is assigned; its fields are not judged (R50, R51, R53). -/
def epaelInstr (w : W32) (x : Option W32) : Option Instr :=
  match epaelOp w with
  | 0x01 => some (.bra (bFields w))
  | 0x02 => some (.bru (bFields w))
  | 0x03 => some (.brx (rFields w x))
  | 0x04 => some (.call (bFields w))
  | 0x05 => some (.ret (rFields w x))
  | 0x06 => some (.exit (bFields w))
  | 0x08 => some (.jenter (rFields w x))
  | 0x09 => some (.jquit (rFields w x))
  | 0x0A => some (.jwait (rFields w x))
  | 0x0B => some (.jfree (rFields w x))
  | 0x0C => some (.jpush (rFields w x))
  | 0x0D => some (.jpop (rFields w x))
  | 0x0E => some (.jread (rFields w x))
  | 0x10 => some (.iadd (rFields w x))
  | 0x11 => some (.isub (rFields w x))
  | 0x12 => some (.imul (rFields w x))
  | 0x13 => some (.imulh (rFields w x))
  | 0x14 => some (.imad (rFields w x))
  | 0x15 => some (.iminmax (rFields w x))
  | 0x16 => some (.iabsd (rFields w x))
  | 0x17 => some (.isum (rFields w x))
  | 0x18 => some (.iaddsh (rFields w x))
  | 0x20 => some (.tlog (rFields w x))
  | 0x21 => some (.shift (rFields w x))
  | 0x22 => some (.bfx (rFields w x))
  | 0x23 => some (.bfi (rFields w x))
  | 0x24 => some (.popc (rFields w x))
  | 0x25 => some (.clz (rFields w x))
  | 0x26 => some (.brev (rFields w x))
  | 0x27 => some (.icmp (rFields w x))
  | 0x28 => some (.sel (rFields w x))
  | 0x29 => some (.plop (rFields w x))
  | 0x2A => some (.mov (rFields w x))
  | 0x2B => some (.pmov (rFields w x))
  | 0x30 => some (.iaddi (iFields w x))
  | 0x31 => some (.imuli (iFields w x))
  | 0x32 => some (.andi (iFields w x))
  | 0x33 => some (.ori (iFields w x))
  | 0x34 => some (.xori (iFields w x))
  | 0x35 => some (.shli (iFields w x))
  | 0x36 => some (.shri (iFields w x))
  | 0x37 => some (.srai (iFields w x))
  | 0x38 => some (.movi (iFields w x))
  | 0x39 => some (.movhi (iFields w x))
  | 0x3A => some (.ldl (iFields w x))
  | 0x3B => some (.imini (iFields w x))
  | 0x3C => some (.imaxi (iFields w x))
  | 0x40 => some (.fadd (rFields w x))
  | 0x41 => some (.fsub (rFields w x))
  | 0x42 => some (.fmul (rFields w x))
  | 0x43 => some (.ffma (rFields w x))
  | 0x44 => some (.fmin (rFields w x))
  | 0x45 => some (.fmax (rFields w x))
  | 0x46 => some (.fcmp (rFields w x))
  | 0x47 => some (.fclass (rFields w x))
  | 0x48 => some (.frnd (rFields w x))
  | 0x49 => some (.fldexp (rFields w x))
  | 0x50 => some (.fabs (rFields w x))
  | 0x51 => some (.fneg (rFields w x))
  | 0x52 => some (.fcsgn (rFields w x))
  | 0x53 => some (.fsat (rFields w x))
  | 0x60 => some (.cvt (rFields w x))
  | 0x61 => some (.pack (rFields w x))
  | 0x62 => some (.unpack (rFields w x))
  | 0x63 => some (.bscale (rFields w x))
  | 0x64 => some (.bshuf (rFields w x))
  | 0x65 => some (.faddi (iFields w x))
  | 0x66 => some (.fmuli (iFields w x))
  | 0x67 => some (.ffmai (iFields w x))
  | 0x68 => some (.fmini (iFields w x))
  | 0x69 => some (.fmaxi (iFields w x))
  | 0x70 => some (.dot (rFields w x))
  | 0x71 => some (.cfma (rFields w x))
  | 0x72 => some (.bfly (rFields w x))
  | 0x73 => some (.twid (rFields w x))
  | 0x74 => some (.idiv (rFields w x))
  | 0x75 => some (.irem (rFields w x))
  | 0x76 => some (.fdiv (rFields w x))
  | 0x77 => some (.fsqrt (rFields w x))
  | 0x78 => some (.frsqrt (rFields w x))
  | 0x79 => some (.ftrans (rFields w x))
  | 0x80 => some (.prev (rFields w x))
  | 0x81 => some (.scan (rFields w x))
  | 0x82 => some (.sscan (rFields w x))
  | 0x83 => some (.xread (rFields w x))
  | 0x84 => some (.bcast (rFields w x))
  | 0x85 => some (.vote (rFields w x))
  | 0x86 => some (.qxch (rFields w x))
  | 0x87 => some (.qred (rFields w x))
  | 0x88 => some (.xmatch (rFields w x))
  | 0x90 => some (.ld (rFields w x))
  | 0x91 => some (.st (rFields w x))
  | 0x92 => some (.lds (rFields w x))
  | 0x93 => some (.sts (rFields w x))
  | 0x94 => some (.ldx (rFields w x))
  | 0x95 => some (.stx (rFields w x))
  | 0x96 => some (.atom (rFields w x))
  | 0x97 => some (.atoms (rFields w x))
  | 0x98 => some (.atomx (rFields w x))
  | 0x99 => some (.spld (rFields w x))
  | 0x9A => some (.spst (rFields w x))
  | 0x9B => some (.pref (rFields w x))
  | 0x9C => some (.ldnc (rFields w x))
  | 0xA0 => some (.bld (rFields w x))
  | 0xA1 => some (.bst (rFields w x))
  | 0xA2 => some (.bset (rFields w x))
  | 0xA3 => some (.bget (rFields w x))
  | 0xA4 => some (.wset (rFields w x))
  | 0xB0 => some (.copy (rFields w x))
  | 0xB1 => some (.kick (rFields w x))
  | 0xB2 => some (.twany (rFields w x))
  | 0xB3 => some (.twall (rFields w x))
  | 0xB4 => some (.tfirst (rFields w x))
  | 0xB5 => some (.tclr (rFields w x))
  | 0xB6 => some (.boinit (rFields w x))
  | 0xB7 => some (.boarrive (rFields w x))
  | 0xB8 => some (.boexpect (rFields w x))
  | 0xB9 => some (.bowait (rFields w x))
  | 0xBA => some (.botest (rFields w x))
  | 0xC0 => some (.fence (rFields w x))
  | 0xC1 => some (.bar (rFields w x))
  | 0xC2 => some (.bararv (rFields w x))
  | 0xC3 => some (.waitw (rFields w x))
  | 0xC4 => some (.time (rFields w x))
  | 0xD0 => some (.rst (rFields w x))
  | 0xD1 => some (.rld (rFields w x))
  | 0xD2 => some (.ratom (rFields w x))
  | 0xD3 => some (.rfadd (rFields w x))
  | 0xD4 => some (.rfence (rFields w x))
  | 0xD5 => some (.coll (rFields w x))
  | 0xD6 => some (.launch (rFields w x))
  | 0xD7 => some (.postc (rFields w x))
  | 0xD8 => some (.search (rFields w x))
  | 0xD9 => some (.nlaunch (rFields w x))
  | 0xDA => some (.nopen (rFields w x))
  | 0xDB => some (.ncmd (rFields w x))
  | 0xDC => some (.nclose (rFields w x))
  | 0xE0 => some (.mcall (rFields w x))
  | 0xE1 => some (.xset (iFields w x))
  | 0xE2 => some (.xadd (rFields w x))
  | 0xE3 => some (.xget (rFields w x))
  | 0xF0 => some (.trap (rFields w x))
  | 0xF1 => some (.eret (rFields w x))
  | 0xF2 => some (.csrr (rFields w x))
  | 0xF3 => some (.csrw (rFields w x))
  | 0xF4 => some (.bkpt (rFields w x))
  | 0xF5 => some (.sleep (rFields w x))
  | 0xF6 => some (.yield (rFields w x))
  | 0x07 => if w.extractLsb' 0 24 == 0#24 && x.isNone then some .nop else none
  | _ => none

/-- Judges what was read: an unassigned opcode, an illegal instruction (R6, R50). -/
def judge (op : Nat) (i : Option Instr) : Except DecodeError Instr :=
  match i with
  | none => .error (.unassigned op)
  | some i => if i.wellFormed then .ok i else .error (.illegal op)

/-- Decodes the Epael instruction at the head of a list of words. -/
def decodeEpael (ws : List W32) : Except DecodeError (Instr × List W32) :=
  match ws with
  | [] => .error .truncated
  | w :: rest =>
    if hasExt w then
      match rest with
      | [] => .error .truncated
      | x :: rest => (judge (epaelOp w) (epaelInstr w (some x))).map (fun i => (i, rest))
    else (judge (epaelOp w) (epaelInstr w none)).map (fun i => (i, rest))

/-- Decodes a clause header (R33). -/
def decodeHeader (w : W32) : Except DecodeError Instr :=
  if w.extractLsb' 0 8 != 0#8 then .error (.reservedBits 0) else judge 0 (some (.clauseHeader (headerFields w)))

/-! ### Matrix words (05 R141 to R157) -/

/-- The opcode of a matrix word. -/
def matrixOp (w : W64) : Nat := (w.extractLsb' 56 8).toNat
/-- Bits `hi` to `lo` are zero. -/
def zeros (w : W64) (hi lo : Nat) : Bool := w.extractLsb' lo (hi + 1 - lo) == 0#(hi + 1 - lo)

/-- The fields of MMA and MMAS (R153, R154). -/
def mmaFields (w : W64) : MmaForm :=
  { t := w.extractLsb' 54 2, fa := w.extractLsb' 50 4, fb := w.extractLsb' 46 4, qa := w.extractLsb' 41 5, qb := w.extractLsb' 36 5
    qs := w.extractLsb' 31 5, sc := w.getLsbD 30, z := w.getLsbD 29, k := w.extractLsb' 16 13 }

/-- The instruction of a matrix word, and whether the bits shown as zero are zero (R143 to R157). -/
def matrixInstr (w : W64) : Option (Instr × Bool) :=
  match matrixOp w with
  | 0x01 => some (.mnop, zeros w 55 0)
  | 0x02 => some (.mend, zeros w 55 0)
  | 0x03 => some (.mbr (w.extractLsb' 53 3) (w.extractLsb' 48 5) (w.extractLsb' 0 24), zeros w 47 24)
  | 0x04 => some (.mli (w.extractLsb' 51 5) (w.extractLsb' 49 2) (w.extractLsb' 0 32), zeros w 48 32)
  | 0x05 => some (.malu (w.extractLsb' 51 5) (w.extractLsb' 46 5) (w.extractLsb' 41 5) (w.extractLsb' 37 4) (w.getLsbD 36) (w.extractLsb' 0 32),
      zeros w 35 32)
  | 0x06 => some (.mldq (w.extractLsb' 51 5) (w.extractLsb' 46 5) (w.extractLsb' 43 3) (w.extractLsb' 0 32), zeros w 42 32)
  | 0x07 => some (.mstq (w.extractLsb' 51 5) (w.extractLsb' 46 5) (w.extractLsb' 43 3) (w.extractLsb' 0 32), zeros w 42 32)
  | 0x08 => some (.mpred (w.extractLsb' 54 2) (w.extractLsb' 49 5) (w.getLsbD 48) (w.extractLsb' 0 8), zeros w 47 8)
  | 0x09 => some (.mbar (w.extractLsb' 54 2) (w.extractLsb' 50 4) (w.extractLsb' 0 16), zeros w 49 16)
  | 0x0A => some (.mwait, zeros w 55 0)
  | 0x0B => some (.mrds (w.extractLsb' 51 5) (w.extractLsb' 48 3) (w.getLsbD 47), zeros w 46 0)
  | 0x10 => some (.mzero (w.extractLsb' 54 2) (w.getLsbD 53) (w.extractLsb' 48 5), zeros w 47 0)
  | 0x11 => some (.mma (mmaFields w), zeros w 15 0)
  | 0x12 => some (.mmas (mmaFields w) (w.extractLsb' 11 5) (w.extractLsb' 6 5), zeros w 5 0)
  | 0x13 => some (.mldt (w.extractLsb' 54 2) (w.extractLsb' 50 4) (w.extractLsb' 45 5), zeros w 44 0)
  | 0x14 => some (.mstt { t := w.extractLsb' 54 2, fmt := w.extractLsb' 50 4, qa := w.extractLsb' 45 5, rnd := w.extractLsb' 41 3
                          bo := w.getLsbD 40, qbo := w.extractLsb' 35 5 }, zeros w 44 44 && zeros w 34 0)
  | _ => none

/-- Decodes a matrix word. -/
def decodeMatrix (w : W64) : Except DecodeError Instr :=
  match matrixInstr w with
  | none => .error (.unassigned (matrixOp w))
  | some (i, clean) => if clean then judge (matrixOp w) (some i) else .error (.reservedBits (matrixOp w))

/-! ### Burrow words (06 R169, R170) -/

/-- The opcode of a burrow word. -/
def burrowOp (w : W32) : Nat := (w.extractLsb' 26 6).toNat
def brFields (w : W32) : BrForm :=
  { d := w.extractLsb' 22 4, a := w.extractLsb' 18 4, b := w.extractLsb' 14 4, c := w.extractLsb' 10 4, sub := w.extractLsb' 0 8 }
def biFields (w : W32) : BiForm := { d := w.extractLsb' 22 4, a := w.extractLsb' 18 4, sub := w.extractLsb' 14 4, imm := w.extractLsb' 0 14 }
def bsFields (w : W32) : BsForm := { d := w.extractLsb' 22 4, hw := w.extractLsb' 20 2, keep := w.getLsbD 19, imm := w.extractLsb' 0 16 }
def bmFields (w : W32) : BmForm := { d := w.extractLsb' 22 4, a := w.extractLsb' 18 4, size := w.extractLsb' 16 2, imm := w.extractLsb' 0 16 }
def bjFields (w : W32) : BjForm := { a := w.extractLsb' 22 4, b := w.extractLsb' 18 4, cond := w.extractLsb' 15 3, off := w.extractLsb' 0 15 }
def bhFields (w : W32) : BhForm :=
  { h := w.extractLsb' 24 2, h2 := w.extractLsb' 22 2, a := w.extractLsb' 18 4, b := w.extractLsb' 14 4, c := w.extractLsb' 10 4
    sub := w.extractLsb' 0 8 }

/-- The instruction of a burrow word, and whether the bits its form shows as zero are zero. -/
def burrowInstr (w : W32) : Option (Instr × Bool) :=
  let rz := w.extractLsb' 8 2 == 0#2
  match burrowOp w with
  | 0x01 => some (.bnop (brFields w), rz)
  | 0x02 => some (.br (bjFields w), true)
  | 0x03 => some (.bcall (bjFields w), true)
  | 0x04 => some (.bjr (brFields w), rz)
  | 0x05 => some (.bend (brFields w), rz)
  | 0x06 => some (.btrap (biFields w), true)
  | 0x08 => some (.galu (brFields w), rz)
  | 0x09 => some (.galui (biFields w), true)
  | 0x0A => some (.gset (bsFields w), w.extractLsb' 16 3 == 0#3)
  | 0x0B => some (.gcmp (brFields w), rz)
  | 0x10 => some (.wld (bmFields w), true)
  | 0x11 => some (.wst (bmFields w), true)
  | 0x12 => some (.ald (brFields w), rz)
  | 0x13 => some (.ast (brFields w), rz)
  | 0x14 => some (.hrd (bhFields w), rz)
  | 0x15 => some (.hwr (bhFields w), rz)
  | 0x16 => some (.hmov (bhFields w), rz)
  | 0x17 => some (.hwin (bhFields w), rz)
  | 0x18 => some (.hget (bhFields w), rz)
  | 0x19 => some (.hput (bhFields w), rz)
  | 0x1A => some (.kset (brFields w), rz)
  | 0x1B => some (.glint (bhFields w), rz)
  | 0x1C => some (.top (bhFields w), rz)
  | 0x1D => some (.ttld (brFields w), rz)
  | 0x1E => some (.ttp (bhFields w), rz)
  | 0x20 => some (.dist (brFields w), rz)
  | 0x21 => some (.distg (brFields w), rz)
  | 0x22 => some (.heap (brFields w), rz)
  | 0x23 => some (.hoffer (brFields w), rz)
  | 0x24 => some (.hout (brFields w), rz)
  | 0x28 => some (.post (brFields w), rz)
  | 0x29 => some (.whop (brFields w), rz)
  | 0x2A => some (.wspawn (brFields w), rz)
  | 0x2B => some (.visit (brFields w), rz)
  | 0x2C => some (.cwait (brFields w), rz)
  | 0x2D => some (.creply (brFields w), rz)
  | 0x2E => some (.rds (brFields w), rz)
  | _ => none

/-- Decodes a burrow word. -/
def decodeBurrow (w : W32) : Except DecodeError Instr :=
  match burrowInstr w with
  | none => .error (.unassigned (burrowOp w))
  | some (i, clean) => if clean then judge (burrowOp w) (some i) else .error (.reservedBits (burrowOp w))

/-! ### Command packets (12 R335) -/

/-- Type, count and flags of a packet header. -/
def packetType (w : W32) : Nat := (w.extractLsb' 24 8).toNat
def packetCount (w : W32) : Nat := (w.extractLsb' 12 12).toNat
def packetFlags (w : W32) : BitVec 12 := w.extractLsb' 0 12

/-- The packet of a header and its words. -/
def packetInstr (h : W32) (ws : List W32) : Option Instr :=
  match packetType h with
  | 0 => some (.nopPacket (packetFlags h) ws)
  | 1 => some (.grid (packetFlags h) ws)
  | 2 => some (.cgrid (packetFlags h) ws)
  | 3 => some (.ib (packetFlags h) ws)
  | 4 => some (.waitbit (packetFlags h) ws)
  | 5 => some (.waitmem (packetFlags h) ws)
  | 6 => some (.write (packetFlags h) ws)
  | 7 => some (.tstamp (packetFlags h) ws)
  | _ => none

/-- Decodes the packet at the head of a list of words. -/
def decodePacket (ws : List W32) : Except DecodeError (Instr × List W32) :=
  match ws with
  | [] => .error .truncated
  | h :: rest =>
    match packetInstr h (rest.take (packetCount h)) with
    | none => .error (.unassigned (packetType h))
    | some i => if rest.length < packetCount h then .error .truncated else .ok (i, rest.drop (packetCount h))

/-! ### The encoder -/

/-- The extension word (R45). -/
def encExt (e : Ext) : W32 :=
  e.c ++ BitVec.ofBool e.ec ++ e.ty ++ e.rnd ++ BitVec.ofBool e.gn ++ e.guard ++ e.xs ++ e.xo ++ e.sub
/-- The words of an R-form instruction (R42). -/
def encR (op : BitVec 8) (f : RForm) : List W32 :=
  (op ++ f.d ++ f.a ++ f.b ++ BitVec.ofBool f.ea ++ BitVec.ofBool f.eb ++ BitVec.ofBool f.ext.isSome : BitVec 32) :: (f.ext.map encExt).toList
/-- The words of an I-form instruction (R43). -/
def encI (op : BitVec 8) (f : IForm) : List W32 := (op ++ f.d ++ f.imm ++ BitVec.ofBool f.ext.isSome : BitVec 32) :: (f.ext.map encExt).toList
/-- The word of a B-form instruction (R44). -/
def encB (op : BitVec 8) (f : BForm) : List W32 := [(op ++ f.guard ++ BitVec.ofBool f.gn ++ f.off : BitVec 32)]
/-- The word of a clause header (R33). -/
def encHeader (h : Header) : W32 :=
  h.count ++ h.cls ++ BitVec.ofBool h.ws ++ BitVec.ofBool h.wl ++ h.tag ++ BitVec.ofBool h.tv ++ h.nb ++ BitVec.ofBool h.bv ++ h.yield ++ 0#8

/-- The two 32-bit halves of a matrix word, the low one first (R141). -/
def halves (w : W64) : List W32 := [w.extractLsb' 0 32, w.extractLsb' 32 32]
/-- Bits 63:16 of MMA and MMAS (R153, R154). -/
def encMma (op : BitVec 8) (f : MmaForm) : BitVec 48 :=
  op ++ f.t ++ f.fa ++ f.fb ++ f.qa ++ f.qb ++ f.qs ++ BitVec.ofBool f.sc ++ BitVec.ofBool f.z ++ f.k

/-- A matrix word; nothing for an instruction that is none. -/
def encodeMatrix (i : Instr) : Option W64 :=
  match i with
  | .mnop => some (0x01#8 ++ 0#56 : BitVec 64)
  | .mend => some (0x02#8 ++ 0#56 : BitVec 64)
  | .mbr cond qa off => some (0x03#8 ++ cond ++ qa ++ 0#24 ++ off : BitVec 64)
  | .mli qd mode imm => some (0x04#8 ++ qd ++ mode ++ 0#17 ++ imm : BitVec 64)
  | .malu qd qa qb op bimm imm => some (0x05#8 ++ qd ++ qa ++ qb ++ op ++ BitVec.ofBool bimm ++ 0#4 ++ imm : BitVec 64)
  | .mldq qd qa n off => some (0x06#8 ++ qd ++ qa ++ n ++ 0#11 ++ off : BitVec 64)
  | .mstq qd qa n off => some (0x07#8 ++ qd ++ qa ++ n ++ 0#11 ++ off : BitVec 64)
  | .mpred sel qa useq count => some (0x08#8 ++ sel ++ qa ++ BitVec.ofBool useq ++ 0#40 ++ count : BitVec 64)
  | .mbar op nb mask => some (0x09#8 ++ op ++ nb ++ 0#34 ++ mask : BitVec 64)
  | .mwait => some (0x0A#8 ++ 0#56 : BitVec 64)
  | .mrds qd sel clr => some (0x0B#8 ++ qd ++ sel ++ BitVec.ofBool clr ++ 0#47 : BitVec 64)
  | .mzero t fill qa => some (0x10#8 ++ t ++ BitVec.ofBool fill ++ qa ++ 0#48 : BitVec 64)
  | .mma f => some (encMma 0x11#8 f ++ 0#16 : BitVec 64)
  | .mmas f n qm => some (encMma 0x12#8 f ++ n ++ qm ++ 0#6 : BitVec 64)
  | .mldt t fmt qa => some (0x13#8 ++ t ++ fmt ++ qa ++ 0#45 : BitVec 64)
  | .mstt f => some (0x14#8 ++ f.t ++ f.fmt ++ f.qa ++ 0#1 ++ f.rnd ++ BitVec.ofBool f.bo ++ f.qbo ++ 0#35 : BitVec 64)
  | _ => none

def encBr (op : BitVec 6) (f : BrForm) : W32 := op ++ f.d ++ f.a ++ f.b ++ f.c ++ 0#2 ++ f.sub
def encBi (op : BitVec 6) (f : BiForm) : W32 := op ++ f.d ++ f.a ++ f.sub ++ f.imm
def encBs (op : BitVec 6) (f : BsForm) : W32 := op ++ f.d ++ f.hw ++ BitVec.ofBool f.keep ++ 0#3 ++ f.imm
def encBm (op : BitVec 6) (f : BmForm) : W32 := op ++ f.d ++ f.a ++ f.size ++ f.imm
def encBj (op : BitVec 6) (f : BjForm) : W32 := op ++ f.a ++ f.b ++ f.cond ++ f.off
def encBh (op : BitVec 6) (f : BhForm) : W32 := op ++ f.h ++ f.h2 ++ f.a ++ f.b ++ f.c ++ 0#2 ++ f.sub

/-- A burrow word; nothing for an instruction that is none. -/
def encodeBurrow (i : Instr) : Option W32 :=
  match i with
  | .bnop f => some (encBr 0x01#6 f)
  | .br f => some (encBj 0x02#6 f)
  | .bcall f => some (encBj 0x03#6 f)
  | .bjr f => some (encBr 0x04#6 f)
  | .bend f => some (encBr 0x05#6 f)
  | .btrap f => some (encBi 0x06#6 f)
  | .galu f => some (encBr 0x08#6 f)
  | .galui f => some (encBi 0x09#6 f)
  | .gset f => some (encBs 0x0A#6 f)
  | .gcmp f => some (encBr 0x0B#6 f)
  | .wld f => some (encBm 0x10#6 f)
  | .wst f => some (encBm 0x11#6 f)
  | .ald f => some (encBr 0x12#6 f)
  | .ast f => some (encBr 0x13#6 f)
  | .hrd f => some (encBh 0x14#6 f)
  | .hwr f => some (encBh 0x15#6 f)
  | .hmov f => some (encBh 0x16#6 f)
  | .hwin f => some (encBh 0x17#6 f)
  | .hget f => some (encBh 0x18#6 f)
  | .hput f => some (encBh 0x19#6 f)
  | .kset f => some (encBr 0x1A#6 f)
  | .glint f => some (encBh 0x1B#6 f)
  | .top f => some (encBh 0x1C#6 f)
  | .ttld f => some (encBr 0x1D#6 f)
  | .ttp f => some (encBh 0x1E#6 f)
  | .dist f => some (encBr 0x20#6 f)
  | .distg f => some (encBr 0x21#6 f)
  | .heap f => some (encBr 0x22#6 f)
  | .hoffer f => some (encBr 0x23#6 f)
  | .hout f => some (encBr 0x24#6 f)
  | .post f => some (encBr 0x28#6 f)
  | .whop f => some (encBr 0x29#6 f)
  | .wspawn f => some (encBr 0x2A#6 f)
  | .visit f => some (encBr 0x2B#6 f)
  | .cwait f => some (encBr 0x2C#6 f)
  | .creply f => some (encBr 0x2D#6 f)
  | .rds f => some (encBr 0x2E#6 f)
  | _ => none

/-- A packet: its header and its words (R335). -/
def encPacket (type : BitVec 8) (flags : BitVec 12) (ws : List W32) : List W32 := (type ++ BitVec.ofNat 12 ws.length ++ flags : BitVec 32) :: ws

/-- The words of a command packet; none for an instruction that is no packet. -/
def encodePacket (i : Instr) : List W32 :=
  match i with
  | .nopPacket flags ws => encPacket 0#8 flags ws
  | .grid flags ws => encPacket 1#8 flags ws
  | .cgrid flags ws => encPacket 2#8 flags ws
  | .ib flags ws => encPacket 3#8 flags ws
  | .waitbit flags ws => encPacket 4#8 flags ws
  | .waitmem flags ws => encPacket 5#8 flags ws
  | .write flags ws => encPacket 6#8 flags ws
  | .tstamp flags ws => encPacket 7#8 flags ws
  | _ => []

/-- The words of an Epael instruction or a clause header; none for an instruction that is neither. -/
def encodeEpael (i : Instr) : List W32 :=
  match i with
  | .clauseHeader h => [encHeader h]
  | .bra f => encB 0x01#8 f
  | .bru f => encB 0x02#8 f
  | .brx f => encR 0x03#8 f
  | .call f => encB 0x04#8 f
  | .ret f => encR 0x05#8 f
  | .exit f => encB 0x06#8 f
  | .jenter f => encR 0x08#8 f
  | .jquit f => encR 0x09#8 f
  | .jwait f => encR 0x0A#8 f
  | .jfree f => encR 0x0B#8 f
  | .jpush f => encR 0x0C#8 f
  | .jpop f => encR 0x0D#8 f
  | .jread f => encR 0x0E#8 f
  | .iadd f => encR 0x10#8 f
  | .isub f => encR 0x11#8 f
  | .imul f => encR 0x12#8 f
  | .imulh f => encR 0x13#8 f
  | .imad f => encR 0x14#8 f
  | .iminmax f => encR 0x15#8 f
  | .iabsd f => encR 0x16#8 f
  | .isum f => encR 0x17#8 f
  | .iaddsh f => encR 0x18#8 f
  | .tlog f => encR 0x20#8 f
  | .shift f => encR 0x21#8 f
  | .bfx f => encR 0x22#8 f
  | .bfi f => encR 0x23#8 f
  | .popc f => encR 0x24#8 f
  | .clz f => encR 0x25#8 f
  | .brev f => encR 0x26#8 f
  | .icmp f => encR 0x27#8 f
  | .sel f => encR 0x28#8 f
  | .plop f => encR 0x29#8 f
  | .mov f => encR 0x2A#8 f
  | .pmov f => encR 0x2B#8 f
  | .iaddi f => encI 0x30#8 f
  | .imuli f => encI 0x31#8 f
  | .andi f => encI 0x32#8 f
  | .ori f => encI 0x33#8 f
  | .xori f => encI 0x34#8 f
  | .shli f => encI 0x35#8 f
  | .shri f => encI 0x36#8 f
  | .srai f => encI 0x37#8 f
  | .movi f => encI 0x38#8 f
  | .movhi f => encI 0x39#8 f
  | .ldl f => encI 0x3A#8 f
  | .imini f => encI 0x3B#8 f
  | .imaxi f => encI 0x3C#8 f
  | .fadd f => encR 0x40#8 f
  | .fsub f => encR 0x41#8 f
  | .fmul f => encR 0x42#8 f
  | .ffma f => encR 0x43#8 f
  | .fmin f => encR 0x44#8 f
  | .fmax f => encR 0x45#8 f
  | .fcmp f => encR 0x46#8 f
  | .fclass f => encR 0x47#8 f
  | .frnd f => encR 0x48#8 f
  | .fldexp f => encR 0x49#8 f
  | .fabs f => encR 0x50#8 f
  | .fneg f => encR 0x51#8 f
  | .fcsgn f => encR 0x52#8 f
  | .fsat f => encR 0x53#8 f
  | .cvt f => encR 0x60#8 f
  | .pack f => encR 0x61#8 f
  | .unpack f => encR 0x62#8 f
  | .bscale f => encR 0x63#8 f
  | .bshuf f => encR 0x64#8 f
  | .faddi f => encI 0x65#8 f
  | .fmuli f => encI 0x66#8 f
  | .ffmai f => encI 0x67#8 f
  | .fmini f => encI 0x68#8 f
  | .fmaxi f => encI 0x69#8 f
  | .dot f => encR 0x70#8 f
  | .cfma f => encR 0x71#8 f
  | .bfly f => encR 0x72#8 f
  | .twid f => encR 0x73#8 f
  | .idiv f => encR 0x74#8 f
  | .irem f => encR 0x75#8 f
  | .fdiv f => encR 0x76#8 f
  | .fsqrt f => encR 0x77#8 f
  | .frsqrt f => encR 0x78#8 f
  | .ftrans f => encR 0x79#8 f
  | .prev f => encR 0x80#8 f
  | .scan f => encR 0x81#8 f
  | .sscan f => encR 0x82#8 f
  | .xread f => encR 0x83#8 f
  | .bcast f => encR 0x84#8 f
  | .vote f => encR 0x85#8 f
  | .qxch f => encR 0x86#8 f
  | .qred f => encR 0x87#8 f
  | .xmatch f => encR 0x88#8 f
  | .ld f => encR 0x90#8 f
  | .st f => encR 0x91#8 f
  | .lds f => encR 0x92#8 f
  | .sts f => encR 0x93#8 f
  | .ldx f => encR 0x94#8 f
  | .stx f => encR 0x95#8 f
  | .atom f => encR 0x96#8 f
  | .atoms f => encR 0x97#8 f
  | .atomx f => encR 0x98#8 f
  | .spld f => encR 0x99#8 f
  | .spst f => encR 0x9A#8 f
  | .pref f => encR 0x9B#8 f
  | .ldnc f => encR 0x9C#8 f
  | .bld f => encR 0xA0#8 f
  | .bst f => encR 0xA1#8 f
  | .bset f => encR 0xA2#8 f
  | .bget f => encR 0xA3#8 f
  | .wset f => encR 0xA4#8 f
  | .copy f => encR 0xB0#8 f
  | .kick f => encR 0xB1#8 f
  | .twany f => encR 0xB2#8 f
  | .twall f => encR 0xB3#8 f
  | .tfirst f => encR 0xB4#8 f
  | .tclr f => encR 0xB5#8 f
  | .boinit f => encR 0xB6#8 f
  | .boarrive f => encR 0xB7#8 f
  | .boexpect f => encR 0xB8#8 f
  | .bowait f => encR 0xB9#8 f
  | .botest f => encR 0xBA#8 f
  | .fence f => encR 0xC0#8 f
  | .bar f => encR 0xC1#8 f
  | .bararv f => encR 0xC2#8 f
  | .waitw f => encR 0xC3#8 f
  | .time f => encR 0xC4#8 f
  | .rst f => encR 0xD0#8 f
  | .rld f => encR 0xD1#8 f
  | .ratom f => encR 0xD2#8 f
  | .rfadd f => encR 0xD3#8 f
  | .rfence f => encR 0xD4#8 f
  | .coll f => encR 0xD5#8 f
  | .launch f => encR 0xD6#8 f
  | .postc f => encR 0xD7#8 f
  | .search f => encR 0xD8#8 f
  | .nlaunch f => encR 0xD9#8 f
  | .nopen f => encR 0xDA#8 f
  | .ncmd f => encR 0xDB#8 f
  | .nclose f => encR 0xDC#8 f
  | .mcall f => encR 0xE0#8 f
  | .xset f => encI 0xE1#8 f
  | .xadd f => encR 0xE2#8 f
  | .xget f => encR 0xE3#8 f
  | .trap f => encR 0xF0#8 f
  | .eret f => encR 0xF1#8 f
  | .csrr f => encR 0xF2#8 f
  | .csrw f => encR 0xF3#8 f
  | .bkpt f => encR 0xF4#8 f
  | .sleep f => encR 0xF5#8 f
  | .yield f => encR 0xF6#8 f
  | .nop => [0x07000000#32]
  | _ => []

/-- The words of an instruction: an Epael or burrow word, a matrix word as its halves, or a packet. An event has none. -/
def encode (i : Instr) : List W32 :=
  match encodeMatrix i with
  | some w => halves w
  | none => match encodeBurrow i with
    | some w => [w]
    | none => match encodeEpael i with
      | [] => encodePacket i
      | ws => ws

/-! ### Words as the opcode table numbers them -/

/-- What an Except answers, if it answers. -/
def answer {α : Type} (x : Except DecodeError α) : Option α :=
  match x with
  | .ok a => some a
  | .error _ => none

/-- The instruction the decoder reads from `nbits` bits numbered as the opcode table numbers them, the bits above zero. A row of 32 bits may
be an Epael word, a burrow word or a clause header, tried in this order; 64 bits are an Epael word with its extension where bit 0 is set,
else a matrix word (log 6). -/
def decodeTableWord (nbits w : Nat) : Option Instr :=
  let w0 := BitVec.ofNat 32 w
  let w1 := BitVec.ofNat 32 (w / 2 ^ 32)
  if nbits ≤ 32 then
    match answer (decodeEpael [w0, 0#32]) with
    | some p => some p.1
    | none => match answer (decodeBurrow w0) with
      | some i => some i
      | none => answer (decodeHeader w0)
  else
    match (if w0.getLsbD 0 then answer (decodeEpael [w0, w1]) else none) with
    | some p => some p.1
    | none => answer (decodeMatrix (w1 ++ w0 : BitVec 64))

end Sys2Proof
end

