-- ==== Sys2Proof/Machine/Fetch.lean ====
section
/-! DEFINITION. Fetching: the words of a group with clause, class and macro rules (02 R33 to R36, R44 to R52, R58), fetch faults (14 R397),
stream words (05 R116), burrow words (06 R161) and command packets (12 R335 to R337). -/

namespace Sys2Proof.Machine

/-! ### Words of a group -/

/-- What fetching a word comes to. -/
inductive Fetched where
  | word (w : W32)
  | fault (cause : Nat)
  | poison
  deriving DecidableEq, Repr

/-- Fetches a code word with execute permission (R391, R397). -/
def State.fetchWord (s : State) (ctx va : Nat) : Fetched :=
  match s.reachNow ctx none va 4 Need.exec with
  | .ok sp a _ => if s.poisoned sp a then .poison else .word (BitVec.ofNat 32 (s.load sp a 4))
  | .fault c => .fault c
  | .miss => .fault 1

/-- Opcodes of the I form (R51). -/
def isIOp (op : Nat) : Bool := (decide (0x30 ≤ op) && decide (op ≤ 0x3C)) || (decide (0x65 ≤ op) && decide (op ≤ 0x69)) || op == 0xE1

/-- The destination of a word is in s (R46, R52). -/
def destInS (op : Nat) (w : W32) (x : Option W32) : Bool :=
  if isIOp op then
    match iShape op (iFields w x) with
    | some sh => (Fields.ofI (iFields w x)).uniform sh
    | none => false
  else
    match rShape op (rFields w x) with
    | some sh => (Fields.ofR (rFields w x)).uniform sh
    | none => false

/-- The clause class of a word, nothing for NOP, which stands in any (R52). -/
def wordClass (w : W32) (x : Option W32) : Option Nat :=
  let op := epaelOp w
  if op == 0x07 then none
  else if op ≤ 0x0E then some 6
  else if op ≤ 0x79 || op == 0xE3 then some (if destInS op w x then 1 else 0)
  else if op == 0xE1 || op == 0xE2 then some 0
  else if op < 0x90 then some 3
  else if op < 0xB0 then some 2
  else if op < 0xD0 then some 4
  else if op < 0xE0 then some 5
  else some 7

/-- A clause of a class accepts a word (R35). -/
def classAccepts (cls : Nat) (w : W32) (x : Option W32) : Bool :=
  cls == 8 || (match wordClass w x with
    | none => true
    | some c => c == cls)

/-- Control transfers (R36). -/
def isTransfer (op : Nat) : Bool := (decide (1 ≤ op) && decide (op ≤ 6)) || op == 0xF1

/-- The instruction of a word in its clause: one outside the class, a control transfer not at the end, and an unassigned opcode are illegal
(R35, R36, R50). -/
def clauseInstr (cls : Nat) (last : Bool) (w : W32) (x : Option W32) : Instr :=
  if !classAccepts cls w x || (isTransfer (epaelOp w) && !last) then .illegalEpaelWord else (epaelInstr w x).getD .illegalEpaelWord

/-- What a path issues next. -/
inductive NextWord where
  | run (i : Issue) (e : Instr)
  /-- A fetch from `va` fails for a cause. -/
  | fault (i : Issue) (va cause : Nat)
  /-- The word fetched from `va` lies in a poisoned sector. -/
  | poison (i : Issue) (va : Nat)
  deriving DecidableEq, Repr

/-- A fetched word, or 0 where the fetch fails (log 21). -/
def Fetched.bits (f : Fetched) : W64 :=
  match f with
  | .word w => w.setWidth 64
  | _ => 0#64

/-- The word a path of a group stands on: its clause header at word index 0, else a word of the clause with its extension; an unassigned opcode has
no form, and so no extension (R51). A header that is illegal traps at every word index, a word index past the count of its clause too, and neither
has a yield hint (R33, R34, R39, R40, R433). -/
def State.clauseWord (s : State) (b g : Nat) (path : W32) (pc : W64) : NextWord :=
  let ctx := (s.block b).ctx
  let k := pcWidx pc
  let hdr := mkPc (pcAddr pc - BitVec.ofNat 64 (4 * k)) 0
  let i : Issue := { b := b, g := g, path := path, hdr := hdr, count := 0, widx := k, len := 1, word := 0#64 }
  match s.fetchWord ctx hdr.toNat with
  | .fault c => .fault i hdr.toNat c
  | .poison => .poison i hdr.toNat
  | .word h =>
    let hd := readHeader h
    let n := (h.extractLsb' 28 4).toNat
    let hint := if hd.legal && decide (k ≤ n) then hd.yield.toNat else 0
    let i := { i with count := if hd.legal then n else max k n, yield := hint, word := h.setWidth 64 }
    let va := (pcAddr pc).toNat
    if k == 0 then .run i (.clauseHeader hd)
    else if !hd.legal then .run { i with word := (s.fetchWord ctx va).bits } (.clauseHeader hd)
    else if n < k then .run { i with word := (s.fetchWord ctx va).bits } .illegalEpaelWord
    else
      match s.fetchWord ctx va with
      | .fault c => .fault i va c
      | .poison => .poison i va
      | .word w =>
        let i := { i with word := w.setWidth 64 }
        let cls := hd.cls.toNat
        if !hasExt w || (epaelInstr w none).isNone then .run i (clauseInstr cls i.last w none)
        else if i.count < k + 1 then .run i .illegalEpaelWord
        else match s.fetchWord ctx (va + 4) with
          | .fault c => .fault i (va + 4) c
          | .poison => .poison i (va + 4)
          | .word x =>
            let i := { i with len := 2, word := (x ++ w : BitVec 64) }
            .run i (clauseInstr cls i.last w (some x))

/-! ### Body words of a macro (R58) -/

/-- An operand field with the parameters in place. -/
def param (ps : List (BitVec 7)) (f : BitVec 7) : BitVec 7 := if 0x7C ≤ f.toNat then ps.getD (f.toNat - 0x7C) f else f

/-- A body word with its extension, operand fields 0x7C to 0x7F replaced by the parameters but for one that holds an offset. -/
def substitute (ps : List (BitVec 7)) (w : W32) (x : Option W32) : W32 × Option W32 :=
  let xo := match x with | some e => (extFields e).xo.toNat | none => 0
  let d := if xo == 3 then w.extractLsb' 17 7 else param ps (w.extractLsb' 17 7)
  let a := if xo == 1 then w.extractLsb' 10 7 else param ps (w.extractLsb' 10 7)
  let b := if xo == 2 then w.extractLsb' 3 7 else param ps (w.extractLsb' 3 7)
  let w' : W32 := if isIOp (epaelOp w) then w.extractLsb' 24 8 ++ d ++ w.extractLsb' 0 17 else w.extractLsb' 24 8 ++ d ++ a ++ b ++ w.extractLsb' 0 3
  (w', x.map (fun e => (param ps (e.extractLsb' 25 7) ++ e.extractLsb' 0 25 : BitVec 32)))

/-- Opcodes a body may not hold. -/
def bodyForbidden (op : Nat) : Bool :=
  (decide (op ≤ 0x0F) && op != 0x07) || op == 0x3A || op == 0xA4 || (decide (0xD0 ≤ op) && decide (op ≤ 0xDC)) || (decide (0xE0 ≤ op) && decide (op ≤ 0xE3))
    || (decide (0xF0 ≤ op) && decide (op ≤ 0xF6))

/-- The body word at index `k` for the path of an MCALL: a forbidden word is the MCALL again, an index past the body ends it. -/
def bodyInstr (macros : List (List W32)) (i : Issue) (k : Nat) : Issue × Instr :=
  let body := macros.getD (i.word.extractLsb' 32 8).toNat []
  let ps := [i.word.extractLsb' 17 7, i.word.extractLsb' 10 7, i.word.extractLsb' 3 7, i.word.extractLsb' 57 7]
  let at_ := fun (len : Nat) (w : W64) => { i with body := some { k := k, len := len, size := body.length, word := w } }
  match body.drop k with
  | [] => (at_ 1 0#64, .nop)
  | w :: rest =>
    if bodyForbidden (epaelOp w) then (at_ 1 (w.setWidth 64), .mcall (rFields (i.word.setWidth 32) (some (i.word.extractLsb' 32 32))))
    else if !hasExt w || (epaelInstr w none).isNone then (at_ 1 (w.setWidth 64), (epaelInstr (substitute ps w none).1 none).getD .illegalEpaelWord)
    else match rest with
      | [] => (at_ 1 (w.setWidth 64), .illegalEpaelWord)
      | x :: _ =>
        let v := substitute ps w (some x)
        (at_ 2 (x ++ w : BitVec 64), (epaelInstr v.1 v.2).getD .illegalEpaelWord)

/-! ### Paths (R31, R58, R306) -/

/-- A path: its threads, where they stand, and whether in a macro's body. -/
structure Path where
  mask : W32
  tpc : W64
  tmw : BitVec 5
  mac : Bool
  deriving DecidableEq, Repr

/-- A thread stands where the path does: at its tpc, and, in a macro's body, at its word (R31, R58). -/
def Path.holds (p : Path) (th : Thread) : Bool :=
  p.tpc == th.tpc && p.mac == (th.inMacro != .none) && (!p.mac || p.tmw == th.tmw)

/-- Adds a thread to the path it belongs to. -/
def Path.join (ps : List Path) (t : Nat) (th : Thread) : List Path :=
  let bit : W32 := (1#32) <<< t
  match ps with
  | [] => [{ mask := bit, tpc := th.tpc, tmw := th.tmw, mac := th.inMacro != .none }]
  | p :: rest => if p.holds th then { p with mask := p.mask ||| bit } :: rest else p :: Path.join rest t th

/-- The runnable paths of a group that no hold keeps, in the order of their first threads. -/
def State.pathsOf (s : State) (gk : Nat) : List Path :=
  (s.freeLanes gk).foldl (fun ps t => Path.join ps t (s.thread (tkey gk t))) []

/-- The path of given threads, which a hold keeps. -/
def State.pathMask (s : State) (gk : Nat) (mask : W32) : Path :=
  let th := s.thread (tkey gk (firstLane mask))
  { mask := mask, tpc := th.tpc, tmw := th.tmw, mac := th.inMacro != .none }

/-- The word a path issues. -/
def State.nextWord (s : State) (b g : Nat) (p : Path) : NextWord :=
  match s.clauseWord b g p.mask p.tpc with
  | .run i e =>
    if !p.mac then .run i e
    else let r := bodyInstr (s.block b).macros i p.tmw.toNat; .run r.1 r.2
  | n => n

/-! ### Fetch faults (R209, R397) -/

/-- A fetch that fails: a serviceable cause parks every thread of the path under its record, helpers with them (log 110), any other is taken
by every thread. -/
def State.fetchFault (s : State) (i : Issue) (va cause : Nat) : State :=
  let r := faultTrap va cause 3
  if serviceable cause then
    let bl := s.block i.b
    let f := s.raiseFault bl.ctx va cause 1 3 (unitOfCore bl.core)
    ((lanesOf i.path).foldl (fun s t => s.modThread (i.tk t) (fun th => { th with park := .fault f.1 r i.nextPc i.word })) f.2).closePass i
  else s.trapPath i r

/-- Code in a poisoned sector: every thread of the path takes POISON (log 21). -/
def State.fetchPoison (s : State) (i : Issue) (va : Nat) : State := s.trapPath i { code := 5, tval := BitVec.ofNat 64 (va / 128 * 128) }

/-! ### Records loaded before the first pass (R227) -/

/-- Where a path stands, whatever its fetch comes to. -/
def NextWord.issue (n : NextWord) : Issue :=
  match n with
  | .run i _ => i
  | .fault i _ _ => i
  | .poison i _ => i

/-- Loads the next record of a group that has issued nothing yet: a fault that can be served parks every thread at the entry under its record and is
met again on retry, another is taken by every thread there, and a poisoned sector leaves the record empty with a mark (R227, R339; log 132). -/
def State.loadRecord (s : State) (b g : Nat) : State :=
  let gk := gkey b g
  let gr := s.group gk
  let bl := s.block b
  let mask := maskOf (s.lanesWhere gk Thread.running)
  let i := (s.clauseWord b g mask (s.thread (tkey gk (firstLane mask))).tpc).issue
  match gr.loads with
  | [] => s
  | n :: rest =>
    let va := gr.loadBase + 16 * n
    match s.reachNow bl.ctx (some b) va 16 Need.read with
    | .ok sp a _ =>
      let cell : BCell :=
        if s.poisoned sp a then { full := false, mark := some (poisonMark i.pc va) } else { val := BitVec.ofNat 128 (s.load sp a 16) }
      s.modGroup gk (fun gr => { gr with loads := rest, b := Table.set {} gr.b n cell })
    | .fault c =>
      let r := faultTrap va c 0
      if serviceable c then
        let f := s.raiseFault bl.ctx va c 0 0 (unitOfCore bl.core)
        ((lanesOf mask).foldl (fun s t => s.modThread (i.tk t) (fun th => { th with park := .fault f.1 r i.nextPc i.word })) f.2).closePass i
      else s.trapPath i r
    | .miss => s

/-! ### The stream (R116) -/

/-- What the sequencer of a block issues: the band under way, the word it waits in, a stream word, or the stop of a fetch; an entry that is not a multiple of 8
stops it with ALIGN (R114, R116; what mfa holds then is DESIGN CHOICE, log 121). -/
def State.streamWord (s : State) (b : Nat) : Except Stop Instr :=
  let m := (s.block b).msq
  match m.job with
  | some _ => .ok (.mmaBandCommit b)
  | none =>
    if m.mpc.toNat % 8 != 0 then .error (alignStop 0 m.mpc.toNat)
    else match m.fetched with
    | some e => .ok e
    | none => match s.msqRead b m.mpc.toNat 8 0 with
    | .error p => .error p
    | .ok x => match decodeMatrix (BitVec.ofNat 64 x) with
      | .ok i => .ok i
      | .error _ => .ok .illegalMatrixWord

/-! ### Burrow words (R361) -/

/-- The word a bank-engine context issues: past its image there is none (R170). -/
def State.burrowWord (s : State) (key : Nat) : Instr :=
  let c := s.engine key
  match (s.imageOf key c)[c.upc]? with
  | none => .illegalBurrowWord
  | some w => match decodeBurrow w with
    | .ok i => i
    | .error _ => .illegalBurrowWord

/-! ### Packets (R335 to R337) -/

/-- Words a queue reads, from the offset `o` of its ring or from an address of its buffer; a read that fails leaves its state. -/
def State.queueWords (s : State) (slot : Nat) (va : Nat → Nat) (n : Nat) : Except State (List W32) :=
  match n with
  | 0 => .ok []
  | k + 1 =>
    match s.queueReach slot (va 0) 4 Need.read with
    | .gone s' => .error s'
    | .ok sp a =>
      match s.queueWords slot (fun j => va (j + 1)) k with
      | .error s' => .error s'
      | .ok ws => .ok (BitVec.ofNat 32 (s.load sp a 4) :: ws)

/-- The next packet of a queue: from its innermost buffer or its ring. An unknown type stops the queue with TYPE, a packet that runs past the
words written or its buffer with COUNT; nothing while there is no word (R335 to R337). -/
def State.nextPacket (s : State) (slot : Nat) : Except State Instr :=
  let q := s.queue slot
  let left := match q.frames with
    | [] => (q.tail - q.head) / 4
    | f :: _ => f.left
  let va := match q.frames with
    | [] => fun j => q.base + (q.head + 4 * j) % 2 ^ q.n
    | f :: _ => fun j => f.addr + 4 * j
  if left == 0 then .error s
  else match s.queueWords slot va 1 with
    | .error s' => .error s'
    | .ok hs =>
      let h := hs.headD 0#32
      let k := packetCount h
      if (packetInstr h []).isNone then .error (s.stopQueue slot 2)
      else if left < k + 1 then .error (s.stopQueue slot 3)
      else match s.queueWords slot (fun j => va (j + 1)) k with
        | .error s' => .error s'
        | .ok ws => match packetInstr h ws with
          | some i => .ok i
          | none => .error s

end Sys2Proof.Machine
end

