-- ==== Sys2Proof/Machine/Choose.lean ====
section
/-! DEFINITION. Who moves and what it issues: tracks (12 R352), the choice of a path (11 R306, R307), one turn of each agent, and the turns a
state offers (log 2). -/

namespace Sys2Proof.Machine

/-! ### Runnable paths and tracks (R306, R352) -/

/-- A held path goes on: its instruction, executed again, no longer holds it, or has gone on with its wait. -/
def State.wakes (s : State) (gk : Nat) (h : Hold) : Bool :=
  match h.issue with
  | some i => match exec i.e { s with cur := .group { i with path := h.mask } } with
    | .next t => !(t.group gk).holds.contains h
    | _ => true
  | none => true

/-- The group could issue now. -/
def State.canRun (s : State) (gk : Nat) : Bool := s.hasRunnable gk || (!(s.group gk).ended && (s.group gk).holds.any (s.wakes gk))

/-- Keeps since when each group of a core waits for a track. -/
def State.noteWaits (s : State) (core : Nat) : State :=
  (s.groupsOn core).foldl (fun s k =>
    let gr := s.group k
    if gr.track.isSome then s
    else if !s.canRun k then (if gr.waitSince.isSome then s.modGroup k (fun gr => { gr with waitSince := none }) else s)
    else if gr.waitSince.isSome then s
    else s.modGroup k (fun gr => { gr with waitSince := some s.time })) s

/-- Group `j` of a core takes a free track before group `k`: waits of more than 4,096 cycles first, the longest before, then effective priority, then
the longer wait (R3, R352). -/
def State.ahead (s : State) (core j k : Nat) : Bool :=
  let wj := (s.group j).waitSince.getD s.time
  let wk := (s.group k).waitSince.getD s.time
  let lj := decide (4096 < s.cyclesSince core wj)
  let lk := decide (4096 < s.cyclesSince core wk)
  if lj != lk then lj
  else if lj then decide (wj < wk)
  else
    let pj := s.blockPriority (j / 32)
    let pk := s.blockPriority (k / 32)
    if pj != pk then decide (pk < pj) else decide (wj < wk)

/-- The group of a core that takes the next free track. -/
def State.nextGroup (s : State) (core : Nat) : Option Nat :=
  ((s.groupsOn core).filter (fun k => (s.group k).waitSince.isSome && (s.group k).track.isNone)).foldl (fun m k => match m with
    | none => some k
    | some j => if s.ahead core k j then some k else some j) none

/-- Gives free tracks to waiting groups. -/
def State.handTracks (s : State) (core : Nat) (free : List Nat) : State :=
  match free with
  | [] => s
  | n :: rest => match s.nextGroup core with
    | none => s
    | some k => (s.modGroup k (fun gr => { gr with track := some n, trackPasses := 0, trackSince := s.time, waitSince := none })).handTracks core rest

/-- Tracks of a core as its groups stand now (R352). -/
def State.giveTracks (s : State) (core : Nat) : State :=
  let s := s.noteWaits core
  s.handTracks core (s.freeTracks core)

/-! ### The choice of a path (R307) -/

/-- The weight of a path: its threads whose em is 1. -/
def State.weight (s : State) (gk : Nat) (p : Path) : Nat := ((lanesOf p.mask).filter (fun t => (s.thread (tkey gk t)).em)).length
/-- The age of a path: the largest count among its threads. -/
def State.pathAge (s : State) (gk : Nat) (p : Path) : Nat := ((lanesOf p.mask).map (fun t => (s.thread (tkey gk t)).age)).foldl max 0

/-- Path `p` is heavier than `q`; ties go to the lower tpc. -/
def State.heavier (s : State) (gk : Nat) (p q : Path) : Bool :=
  let a := s.weight gk p
  let b := s.weight gk q
  if a != b then decide (b < a) else decide (p.tpc.toNat < q.tpc.toNat)

/-- Path `p` is older than `q`; ties go to weight. -/
def State.older (s : State) (gk : Nat) (p q : Path) : Bool :=
  let a := s.pathAge gk p
  let b := s.pathAge gk q
  if a != b then decide (b < a) else s.heavier gk p q

/-- The first path of a list that no other one beats. -/
def bestPath (beats : Path → Path → Bool) (ps : List Path) : Option Path :=
  ps.foldl (fun m p => match m with
    | none => some p
    | some q => if beats p q then some p else some q) none

/-- The paths the group may issue: those no hold keeps, and held ones that go on. -/
def State.candidates (s : State) (gk : Nat) : List Path :=
  s.pathsOf gk ++ ((s.group gk).holds.filter (s.wakes gk)).map (fun h => s.pathMask gk h.mask)

/-- With 128 passes counted since the last choice by age and a path other than the issuing one runnable, held ones that go on among them, the next
choice is by age (R307, R308). -/
def State.expire (s : State) (gk : Nat) : State :=
  let gr := s.group gk
  if 128 ≤ gr.rotation && (s.candidates gk).any (fun p => (p.mask &&& gr.issuing) == 0#32) then s.modGroup gk (fun gr => { gr with pick := .age }) else s

/-- The path the group issues, and the state with the choice made. -/
def State.choosePath (s : State) (gk : Nat) : Option (State × Path) :=
  let gr := s.group gk
  let ps := s.candidates gk
  let take := fun (age : Bool) (p : Path) =>
    (s.modGroup gk (fun gr => { gr with pick := .keep, issuing := p.mask, rotation := if age then 0 else gr.rotation }), p)
  let byWeight := (bestPath (s.heavier gk) ps).map (take false)
  match gr.pick with
  | .age => (bestPath (s.older gk) ps).map (take true)
  | .weight => byWeight
  | .keep => match ps.find? (fun p => p.mask &&& gr.issuing == gr.issuing && gr.issuing != 0#32) with
    | some p => some (take false p)
    | none => byWeight

/-! ### One turn of each agent -/

/-- Ends a step: no agent's instruction is under way. -/
def settle (o : Host.Outcome State Fault Refusal) : Host.Outcome State Fault Refusal :=
  match o with
  | .next s => .next { s with cur := .none }
  | o => o

/-- Executes an instruction for an agent. -/
def State.execFor (s : State) (a : Agent) (e : Instr) : Host.Outcome State Fault Refusal := settle (exec e { s with cur := a })

/-- The word that a hold keeps a path at. -/
def State.heldWord (s : State) (gk : Nat) (p : Path) : Option Issue :=
  (((s.group gk).holds.find? (fun h => decide (h.mask = p.mask))).bind Hold.issue).map (fun i => { i with path := p.mask })

/-- A path of a group issues the word it stands on, or goes on with the word that held it. -/
def State.issue (s : State) (b g : Nat) (p : Path) : Host.Outcome State Fault Refusal :=
  match s.heldWord (gkey b g) p with
  | some i => s.execFor (.group i) i.e
  | none => match s.nextWord b g p with
    | .run i e => s.execFor (.group { i with e := e }) e
    | .fault i va c => .next (s.fetchFault i va c)
    | .poison i va => .next (s.fetchPoison i va)

/-- A group issues a pass, or goes on with one under way: it needs a track, on a core that is not frozen (R305, R352, R417); before its first pass its
records are loaded (R227). A block that is being switched out only ends the passes under way, and stands between the two of a two-pass form (R323, R435,
R436). -/
def State.groupTurn (s : State) (b g : Nat) : Host.Outcome State Fault Refusal :=
  let gk := gkey b g
  let bl := s.block b
  if (Table.find s.groups gk).isNone || (s.group gk).ended || s.coreFrozen bl.core then .next s
  else match (s.group gk).pass with
    | some p =>
      let s := if bl.place == .resident then s.giveTracks bl.core else s
      if (s.group gk).track.isNone || (bl.place != .resident && (bl.place != .moving || p.second)) then .next s
      else match p.issue with
        | some i => s.execFor (.group i) i.e
        | none => s.issue b g (s.pathMask gk (s.group gk).issuing)
    | none =>
      if bl.place != .resident then .next s
      else
        let s := s.giveTracks bl.core
        if (s.group gk).track.isNone then .next s
        else if !(s.group gk).loads.isEmpty && s.hasRunnable gk then .next (s.loadRecord b g)
        else match (s.expire gk).choosePath gk with
          | none => .next (s.dropTrack gk)
          | some (s, p) => s.issue b g p

/-- The matrix sequencer of a resident block issues a word or commits a band; between two of them it stands where a switch-out stops it (R116, R133, R139). -/
def State.msqTurn (s : State) (b : Nat) : Host.Outcome State Fault Refusal :=
  let bl := s.block b
  if bl.msq.state != .running || bl.place != .resident || s.coreFrozen bl.core then .next s
  else match s.streamWord b with
    | .ok e => s.execFor (.msq b) e
    | .error p => settle (.next ({ s with cur := .msq b }.msqStop b p))

/-- The context could issue a word: it has neither stopped nor ended, and nothing it sent is to be answered first (R160). -/
def BeCtx.goes (c : BeCtx) : Bool := (c.state == .ready || c.state == .waiting) && c.registration.isNone && c.fault.isNone

/-- The context of an engine whose turn it is: in rotation, the first that could issue after the one that issued last (R160). -/
def State.beTurn (s : State) (engine : Nat) : Option Nat :=
  let last := Table.get 3 s.beLast engine
  ((List.range 4).map (fun k => (last + 1 + k) % 4)).find? (fun c => match Table.find s.engines (4 * engine + c) with
    | some x => x.goes
    | none => false)

/-- A bank-engine context issues a word, where it is its turn (R160); one that its engine does not serve freezes the engine (R416). -/
def State.engineTurn (s : State) (stack be c : Nat) : Host.Outcome State Fault Refusal :=
  let key := beKey stack be c
  let engine := beEngine key
  match Table.find s.engines key with
  | none => .next s
  | some x =>
    if s.beTurn engine != some c || s.frozenMasters.any (fun m => m.1 == 2 && m.2.1 == engine) then .next s
    else if s.foreignEngine engine (s.beContext x) then .next (s.isolate 4 2 engine (s.beContext x) 0)
    else State.execFor { s with beLast := Table.put s.beLast engine c } (.engine stack be c) (s.burrowWord key)

/-- A queue parses its next packet, or tries again the WAITBIT that holds it (R335). -/
def State.queueTurn (s : State) (slot : Nat) : Host.Outcome State Fault Refusal :=
  let q := s.queue slot
  if q.state != 1 || q.fault.isSome then .next s
  else match q.held with
    | some e => s.execFor (.queue slot) e
    | none => match s.nextPacket slot with
      | .ok e => s.execFor (.queue slot) e
      | .error s' => .next s'

/-! ### The command cores (R338) -/

/-- A queue is served once more: the packet that holds it is tried again, or the next one is parsed. -/
def State.serveQueue (s : State) (slot : Nat) : Host.Outcome State Fault Refusal :=
  match (s.queue slot).held with
  | some (.waitmem _ _) => s.execFor (.queue slot) .waitmemRecheck
  | _ => s.queueTurn slot

/-- The queue can go on: serving it would change it. -/
def State.queueMoves (s : State) (slot : Nat) : Bool :=
  match s.serveQueue slot with
  | .next t => decide (t.queue slot ≠ s.queue slot)
  | _ => false

/-- The oldest fault of a context whose record no command core has looked at. -/
def State.newFault (s : State) (ctx : Nat) : Option Nat := (s.faults.find? (fun e => e.2.ctx == ctx && e.2.stage == 0)).map Prod.fst

/-- The context's watchdog has run out (R357). -/
def State.overdue (s : State) (ctx : Nat) : Bool := let c := s.context ctx; c.watchdog != 0 && decide (c.watchdog ≤ c.idle)

/-- The core ends the event it handles: its lock is free, and the context has had work retired (R338, R357). -/
def State.endEvent (s : State) (cc : Nat) (e : CmdEvent) : State :=
  let s : State := { s with commanding := Table.erase s.commanding cc }
  match e with
  | .queue n => s.pulse (s.queue n).ctx
  | .change n => s.pulse (s.queue n).ctx
  | .context c => s.pulse c
  | .tick _ => s

/-- An idle core takes the oldest event whose lock is free (R338). -/
def State.takeEvent (s : State) (cc : Nat) : State :=
  match s.events.find? (fun e => match e.lock with | some l => !s.serves l | none => true) with
  | none => s
  | some e => { s with events := s.events.erase e, commanding := Table.put s.commanding cc e }

/-- A command core that is not frozen takes an event, or goes on with the one it handles: a queue's packets one after another, a context's faults and
its watchdog, the scheduling tick (R335, R338, R357, R396, R417). -/
def State.commandTurn (s : State) (cc : Nat) : Host.Outcome State Fault Refusal :=
  if s.frozenMasters.any (fun m => m.1 == 4 && m.2.1 == cc) then .next s
  else match Table.find s.commanding cc with
    | none => .next (s.takeEvent cc)
    | some (.queue n) => if s.queueMoves n then s.serveQueue n else .next (s.endEvent cc (.queue n))
    | some (.change n) => if s.queueMoves n then s.serveQueue n else .next (s.endEvent cc (.change n))
    | some (.context c) =>
      match s.newFault c with
      | some id => s.execFor .none (.faultEvent id)
      | none => if s.overdue c then s.execFor .none (.watchdogExpiry c) else .next (s.endEvent cc (.context c))
    | some (.tick n) => (s.endEvent cc (.tick n)).execFor .none .schedulingTick

/-- A word that a held queue waits for has changed: that is an event (R335, R338). -/
def State.noteChange (s : State) (slot : Nat) : State := if (s.queue slot).held.isSome && s.queueMoves slot then s.post (.change slot) else s

/-- One turn. -/
def State.takeTurn (s : State) (t : Turn) : Host.Outcome State Fault Refusal :=
  match t with
  | .group b g => s.groupTurn b g
  | .msq b => s.msqTurn b
  | .engine st be c => s.engineTurn st be c
  | .queue slot => s.queueTurn slot
  | .port n e => s.execFor (.port n) e
  | .partition p e => s.execFor (.partition p) e
  | .recheck slot => s.execFor (.queue slot) .waitmemRecheck
  | .noted slot => .next (s.noteChange slot)
  | .command cc => s.commandTurn cc
  | .arrive b => .next (s.arrive b)
  | .event e => s.execFor .none e

/-- What the safety core does while the rest of the device is stopped (R456, R460, R461). -/
def awake (e : Instr) : Bool :=
  match e with
  | .powerGood | .deviceReset | .thermalTrip | .freeze | .jtagBypass _ | .jtagIdcode | .jtagScan | .firmwareLoad _ _ | .svnRaise | .getVersion
  | .getCapabilities | .negotiateAlgorithms _ _ _ | .getDigests | .getCertificate _ _ _ | .challenge _ _ | .getMeasurements _ _ _
  | .vendorDefinedRequest _ _ _ | .powerEvaluation _ _ _ _ _ => true
  | _ => false

/-- The turn goes on while the device is frozen or tripped. -/
def Turn.awake (t : Turn) : Bool :=
  match t with
  | .event e => Machine.awake e
  | _ => false

/-! ### The turns a state offers (log 2) -/

/-- Turns of groups, with the events that timers and tracks bring them. -/
def groupTurns (gk : Nat) : List Turn :=
  let b := gk / 32
  let g := gk % 32
  [.group b g, .event (.rotationQuantumExpiry b g), .event (.trackClaim b g), .event (.trackPassLimit b g), .event (.ceSlotAccept b g),
    .event (.waitwTimeout b g), .event (.sleepExpiry b g), .event (.wsetCopyComplete b g)]

/-- Turns of a block. -/
def blockTurns (b : Nat) : List Turn := [.msq b, .arrive b, .event (.blockEnd b), .event (.switchOutDrainComplete b)]

/-- The packet a port can take at the head of a channel. -/
def portTurns (n : Nat) (q : Port) : List Turn :=
  let types : List Nat := [0, 1, 2, 3, 4].flatMap (fun vc => (Table.get [] q.queues vc).head?.toList.map Packet.type_)
  types.map (fun ty => .port n (match ty with
    | 0 => .rstPacket | 1 => .rldPacket | 2 => .ratomPacket | 3 => .rfaddPacket | 4 => .ack | 5 => .rdata | 6 => .collPacket | _ => .sync))

/-- What firmware and the hub do for a partition. -/
def partitionTurns (p : Nat) : List Turn :=
  [.tlbInvalidateComplete, .handoverAcquire, .handoverAcquireComplete, .handoverRelease, .contextCreate, .contextReload, .contextDestroy,
    .contextDestroyComplete, .queueEnable, .queueDisable, .slotEntry, .classQuotas].map (.partition p)

/-- What can become of a memory request. -/
def reqTurns (id : Nat) : List Turn := [.event (.loadDataArrival id), .event (.storeAcknowledge id)]

/-- How a copy goes on: it starts, has a request of one unit or of eight served, or completes. -/
def copyTurns (id : Nat) : List Turn :=
  [.event (.copySourceStart id 0), .event (.copySourceStart id 1), .event (.copySourceStart id 8), .event (.copyComplete id)]

/-- Start of the next waiter on each context of an engine. -/
def engineStarts (engine : Nat) : List Turn :=
  (List.range 4).flatMap (fun c =>
    [.event (.nearBlockStart (engine / 64) (engine % 64) c), .event (.streamedContextStart (engine / 64) (engine % 64) c),
      .event (.walkerDispatch (engine / 64) (engine % 64) c)])

/-- The engines that have something to start. -/
def State.startable (s : State) : List Nat :=
  (s.walkers.filter (fun e => !e.2.isEmpty)).map Prod.fst
    ++ s.nearQueue.flatMap (fun e => e.2.filterMap (fun x => (Table.find s.nearWork x.1).map (fun w => w.engine s.lsplit x.2)))

/-- Every turn that some agent or timer of the machine can take; one that is not enabled changes nothing (log 10). -/
def State.turns (s : State) : List Turn :=
  s.groups.flatMap (fun e => groupTurns e.1)
    ++ s.blocks.flatMap (fun e => blockTurns e.1)
    ++ s.engines.map (fun e => Turn.engine (e.1 / 256) (e.1 / 4 % 64) (e.1 % 4))
    ++ s.queues.map (fun e => Turn.noted e.1)
    ++ (List.range 12).map Turn.command
    ++ s.ports.flatMap (fun e => portTurns e.1 e.2)
    ++ s.partitions.flatMap (fun e => partitionTurns e.1)
    ++ s.reqs.flatMap (fun e => reqTurns e.1)
    ++ s.fills.map (fun e => Turn.event (.longLatencyFill e.1))
    ++ s.walks.map (fun e => Turn.event (.pageWalkComplete (e.1 / 2 ^ 41) (e.1 % 2 ^ 41)))
    ++ s.faults.map (fun e => Turn.event (.faultRecordDeferred e.1))
    ++ (s.copies.filter (fun e => !s.coreFrozen e.2.core)).flatMap (fun e => copyTurns e.1)
    ++ s.counts.map (fun e => Turn.event (.boCountUpdate e.1))
    ++ s.remote.map (fun e => Turn.event (.remoteTimeoutExpiry e.1))
    ++ s.colls.map (fun e => Turn.event (.collCompletion e.1))
    ++ s.fars.map (fun e => Turn.event (.scaleOutResendTimeout e.1))
    ++ s.nearPackets.map (fun e => Turn.event (.nearLaunchPacket e.1))
    ++ s.startable.flatMap engineStarts
    ++ s.commands.flatMap (fun e => [Turn.event (.columnCommand e.1), Turn.event (.ncmdAnswer e.1)])
    ++ s.registrations.flatMap (fun e => [Turn.event (.walkerRegistration e.1), Turn.event (.walkerMessage e.1)])
    ++ s.endNotices.map (fun e => Turn.event (.walkerEndNotice e.1))
    ++ s.searches.flatMap (fun e => (List.range e.2.queries.length).map (fun q => Turn.event (.queryMerge e.1 q)))
    ++ s.posted.map (fun e => Turn.event (.continuationRecordArrival e.1))
    ++ s.bins.map (fun e => Turn.event (.binFlushTimeout e.1))
    ++ s.cores.map (fun e => Turn.event (.repairCorecapChange e.1))
    ++ [.event .searchAdmission, .event .watchdogSample, .event .matrixSlotBoundary, .event .syncInterval,
      .event .syncLossTimeout]

/-- Time passes, and with every 50 µs of it a scheduling tick falls due at each command core (R301, R338). -/
def State.passStep (s : State) : State :=
  let t := { s.passTime (Config.elapsed s.tick) with tick := s.tick + 1 }
  if s.time / 50000 < t.time / 50000 then (List.range 12).foldl (fun t cc => t.post (.tick cc)) t else t

/-- The turn of step number `tick`: one of those offered, which one is open (log 2). -/
def State.chosenTurn (s : State) : Turn :=
  let ts := s.turns
  ts.getD (Config.choice s.tick % ts.length) (.event .syncLossTimeout)

/-! ### A word placed where the next step issues it (log 5) -/

/-- A page of identity translation for context 0: every permission, device order. -/
def identityLeaf : Leaf := { frame := 0, shift := 16, ord := 1, cls := 0, r := true, w := true, at_ := true, x := true, host := false, near := false }

/-- Full function with block 0 of context 0 on core 0, holding 160 registers a thread, and page 0 translated to itself. -/
def State.placeBlock (s : State) (m : Msq) : State :=
  { s with stage := 3, frozen := false, tripped := false, tlb := Table.put s.tlb (pageKey 0 0) identityLeaf
           blocks := Table.put s.blocks 0 { nreg := 160, msq := m } }

/-- Group 0 of block 0 with 32 live threads at a program counter, holding track 0, its turn next. -/
def State.placeGroup (s : State) (pc : W64) : State :=
  let s := s.placeBlock {}
  { s with groups := Table.put s.groups 0 { live := BitVec.allOnes 32, track := some 0 }
           threads := (List.range 32).foldl (fun t k => Table.put t k { tpc := pc }) s.threads
           agenda := [.group 0 0] }

/-- A clause of class 8 that holds one word, at address 0x100: its header, the word and its extension. -/
def State.placeEpael (s : State) (w x : W32) : State :=
  let n := if hasExt w then 2 else 1
  let h := encHeader { count := BitVec.ofNat 4 n, cls := 8#4, wl := false, ws := false, tv := false, tag := 0#6, bv := false, nb := 0#4, yield := 0#2 }
  let m := ((s.mem.writeNat 0x100 4 h.toNat).writeNat 0x104 4 w.toNat).writeNat 0x108 4 x.toNat
  ({ s with mem := m }).placeGroup (mkPc 0x104#64 1)

/-- A clause header at address 0x100. -/
def State.placeHeader (s : State) (w : W32) : State := ({ s with mem := s.mem.writeNat 0x100 4 w.toNat }).placeGroup (mkPc 0x100#64 0)

/-- A matrix word at address 0x100, the sequencer of block 0 standing on it. -/
def State.placeMatrix (s : State) (w : W64) : State :=
  { (s.placeBlock { state := .running, mpc := 0x100#64 }) with mem := s.mem.writeNat 0x100 8 w.toNat, agenda := [.msq 0] }

/-- A burrow word as the image of work 0 on stack 0, context 0 of engine 0 standing on it. -/
def State.placeBurrow (s : State) (w : W32) : State :=
  { s with stage := 3, frozen := false, tripped := false
           engines := Table.put s.engines 0 { who := .block 0 0, frames := [0], winSize := 4096 }, images := Table.put s.images 0 [w]
           agenda := [.engine 0 0 0] }

/-- The word of a table row where its kind is fetched, in the order of `decodeTableWord`. -/
def State.placeTableWord (s : State) (nbits w : Nat) : State :=
  let w0 := BitVec.ofNat 32 w
  let w1 := BitVec.ofNat 32 (w / 2 ^ 32)
  if nbits ≤ 32 then
    if (Sys2Proof.answer (decodeEpael [w0, 0#32])).isSome then s.placeEpael w0 0#32
    else if (Sys2Proof.answer (decodeBurrow w0)).isSome then s.placeBurrow w0
    else if (Sys2Proof.answer (decodeHeader w0)).isSome then s.placeHeader w0
    else s.placeEpael w0 0#32
  else if w0.getLsbD 0 then s.placeEpael w0 w1
  else s.placeMatrix (w1 ++ w0)

end Sys2Proof.Machine
end

