-- ==== Sys2Proof/Machine/Step.lean ====
section
/-! DEFINITION. The step of the machine, and a word placed where the next step fetches it. -/

namespace Sys2Proof.Machine

/-- One step. The agenda names who moves; where it is empty the machine chooses among the turns it offers, and time passes. While the device is
frozen or tripped only the safety core moves (R456, R460). -/
def step (s : State) : Host.Outcome State Fault Refusal :=
  match s.agenda with
  | t :: rest =>
    let s := { s with agenda := rest }
    if s.dark && !t.awake then .next s else s.takeTurn t
  | [] =>
    if s.dark then .next s
    else if s.stage == 3 then s.passStep.takeTurn s.chosenTurn
    else .next s.passStep

/-- `s` with the instruction of `w` placed where the very next step issues it (log 5). -/
def State.withFetchWord (s : State) (nbits w : Nat) : State := s.placeTableWord nbits w

end Sys2Proof.Machine
end

