-- ==== Sys2Proof/Safety.lean ====
section
/-! DEFINITION. What counts as a safe run: every step answers a next state, and the memories keep their canonical form; and the terms in which
claims say what an instruction leaves alone. -/

namespace Sys2Proof.Machine

/-- Every memory of the machine is in its canonical form: main memory, shared and scratch memories, near windows. -/
def State.canonical (s : State) : Bool :=
  s.mem.wf && s.spaces.all (fun e => Memory.wf e.2) && s.engines.all (fun e => e.2.win.wf)

/-- The machine goes on: the step answers a next state. -/
def State.goesOn (s : State) : Prop := ∃ t, step s = .next t

/-- A state from which `n` steps run and keep the memories canonical. -/
def State.safeFor (n : Nat) (s : State) : Prop :=
  match n with
  | 0 => s.canonical
  | k + 1 => s.canonical ∧ ∃ t, step s = .next t ∧ State.safeFor k t

/-- A state every run from which is safe. -/
def State.safe (s : State) : Prop := ∀ n, s.safeFor n

/-! ### What an instruction leaves alone -/

/-- The state without threads, groups and what a report or a retirement writes: every other field, memory included. -/
def State.rest (s : State) : State :=
  { s with threads := [], groups := [], contexts := [], outbox := [], deviceRing := [], deviceWaiting := [], deviceLost := 0 }

/-- Two threads hold the same registers: v, the index registers, the predicates and em. -/
structure SameThread (a b : Thread) : Prop where
  v : b.v = a.v
  x : b.x = a.x
  p : b.p = a.p
  em : b.em = a.em
  role : b.role = a.role

/-- Two groups hold the same registers: s, the buffer records, fst, the spill pointer, the handler and the copies of the sequencer's stop. -/
structure SameGroup (old new : Group) : Prop where
  s : new.s = old.s
  b : new.b = old.b
  fst : new.fst = old.fst
  ssp : new.ssp = old.ssp
  thv : new.thv = old.thv
  tmst : new.tmst = old.tmst
  tmpc : new.tmpc = old.tmpc
  live : new.live = old.live
  help : new.help = old.help

/-- Only the course of the threads differs: where they stand, their traps, waits and turns. Registers, memory and every other field stay. -/
structure Quiet (s t : State) : Prop where
  rest : t.rest = s.rest
  thread : ∀ k, SameThread (s.thread k) (t.thread k)
  group : ∀ k, SameGroup (s.group k) (t.group k)

/-! ### Terms of the claims about EPAEL words -/

/-- Where the clause header of a path stands: word index words before its program counter (R40). -/
def Path.header (p : Path) : W64 := mkPc (pcAddr p.tpc - BitVec.ofNat 64 (4 * pcWidx p.tpc)) 0

/-- The issue of instruction `e`, a word of `n` words, by path `p` of a group, in the clause whose header word is `h`. -/
def Path.issue (p : Path) (b g : Nat) (h : W32) (n : Nat) (word : W64) (e : Instr) : Issue :=
  { b := b, g := g, path := p.mask, hdr := p.header, count := (h.extractLsb' 28 4).toNat, widx := pcWidx p.tpc, len := n
    word := word, yield := (readHeader h).yield.toNat, e := e }

/-- Group `i` begins a pass: its word is being executed and no pass of the group is under way. -/
structure Begins (s : State) (i : Issue) : Prop where
  cur : s.cur = .group i
  fresh : (s.group i.gk).pass = none

/-- Lane `t` of an issue's group has a thread. -/
def Present (s : State) (i : Issue) (t : Nat) : Prop := (Table.find s.threads (i.tk t)).isSome

/-- The threads a pass may visit: those of its path, and those left of a pass under way. -/
def State.visits (s : State) (i : Issue) : W32 :=
  match (s.group i.gk).pass with
  | some p => i.path ||| p.rest
  | none => i.path

/-- A thread but for its age, which every pass of its group counts. -/
def Thread.ageless (th : Thread) : Thread := { th with age := 0 }

/-- The v registers of every thread, and the s registers of every group, are kept in canonical form. -/
def Filed (s : State) : Prop := (∀ k, Table.wf {} (s.thread k).v = true) ∧ ∀ k, Table.wf {} (s.group k).s = true

/-- Some running thread of the path is no helper, so that its group is not in a deadlock. -/
def Lives (s : State) (i : Issue) : Prop :=
  ∃ t ∈ lanesOf i.path, Present s i t ∧ (s.thread (i.tk t)).role = .live ∧ (s.thread (i.tk t)).running = true

/-- The pass of group `i` issues nothing inside a macro and its word has raised no trap, so that its running threads take the next word. -/
structure Plain (s : State) (i : Issue) : Prop where
  body : i.body = none
  calm : ∀ t < 32, s.raisedBy i t = none

/-- An R-form word of opcode `op` is legal for the group that issues it, with operands of shape `sh`. -/
structure LegalR (s : State) (i : Issue) (op : Nat) (f : RForm) (sh : Shape) : Prop where
  shape : rShape op f = some sh
  legal : rLegal op f = true
  below : (Fields.ofR f).belowNreg sh (s.block i.b).nreg = true

/-- An I-form word, likewise. -/
structure LegalI (s : State) (i : Issue) (op : Nat) (f : IForm) (sh : Shape) : Prop where
  shape : iShape op f = some sh
  legal : iLegal op f = true
  below : (Fields.ofI f).belowNreg sh (s.block i.b).nreg = true

/-- The agenda names group `g` of block `b`, which has a track, its records loaded and no pass under way: it issues path `p`, which no word holds, in
the state `u` with the choice made. -/
structure Issues (s u : State) (rest : List Turn) (b g : Nat) (p : Path) : Prop where
  head : s.agenda = .group b g :: rest
  awake : s.dark = false
  present : (Table.find s.groups (gkey b g)).isSome
  going : (s.group (gkey b g)).ended = false
  thawed : s.coreFrozen (s.block b).core = false
  fresh : (s.group (gkey b g)).pass = none
  place : (s.block b).place = .resident
  loaded : (s.group (gkey b g)).loads = []
  track : (({ s with agenda := rest }.giveTracks (s.block b).core).group (gkey b g)).track.isSome
  chosen : (({ s with agenda := rest }.giveTracks (s.block b).core).expire (gkey b g)).choosePath (gkey b g) = some (u, p)
  begun : u.heldWord (gkey b g) p = none
  outside : p.mac = false
  some_ : p.mask ≠ 0#32

/-- A register-only word: its operand fields, the shape and legality of the word, where its result goes, and the result of a thread. -/
structure RegWord where
  fields : Fields
  shape : Option Shape
  legal : Bool
  dest : Dest
  value : State → Group → Thread → Args → Nat × Flags

/-- A register-only word of the R form, and of the I form. -/
def regR (op : Nat) (f : RForm) (value : Group → Thread → Args → Nat × Flags) (dest : Dest := .reg) : Option RegWord :=
  some { fields := Fields.ofR f, shape := rShape op f, legal := rLegal op f, dest := dest, value := fun _ => value }
def regI (op : Nat) (f : IForm) (value : Group → Thread → Args → Nat × Flags) : Option RegWord :=
  some { fields := Fields.ofI f, shape := iShape op f, legal := iLegal op f, dest := .reg, value := fun _ => value }

/-- Integer words, element by element, each result wrapped or saturated (R88, R95). -/
def intR (op : Nat) (f : RForm) (g : Int → Int → Int → Int) : Option RegWord :=
  regR op f (fun _ _ x => intOp (RForm.tyOf op f) (satOf f.ext) g x.a x.b x.c)
def intI (op : Nat) (f : IForm) (g : Int → Int → Int) : Option RegWord :=
  regI op f (fun _ _ x => intOp (IForm.tyOf op f) (satOf f.ext) (fun a b _ => g a b) (immSource f x) (immValue (IForm.tyOf op f) f.imm) 0)
/-- Words on bits, which set no flag (R90, R95). -/
def bitR (op : Nat) (f : RForm) (g : Nat → Args → Nat) : Option RegWord :=
  regR op f (fun _ _ x => (g (elemWidth (RForm.tyOf op f)) x, Flags.none))
def bitI (op : Nat) (f : IForm) (g : Nat → Nat → Nat) : Option RegWord :=
  regI op f (fun _ _ x => (g (elemWidth (IForm.tyOf op f)) (immSource f x), Flags.none))
/-- Float words, element by element, under the rounding mode of the word (R47, R96, R98). -/
def fltR (op : Nat) (f : RForm) (g : RMode → Fmt → Nat → Nat → Nat → Nat × Flags) : Option RegWord :=
  regR op f (fun gr _ x => fltOp (RForm.tyOf op f) (g (modeOf (extRnd f.ext) gr)) x.a x.b x.c)
def fltI (op : Nat) (f : IForm) (g : RMode → Fmt → Nat → Nat → Nat × Flags) : Option RegWord :=
  regI op f (fun gr _ x => fltOp (IForm.tyOf op f) (fun t a b _ => g (modeOf (extRnd f.ext) gr) t a b) (immSource f x)
    (immValue (IForm.tyOf op f) f.imm) 0)

/-- The predicate a field names, as a number. -/
def predBit (th : Thread) (c : BitVec 7) : Nat := if th.p.getLsbD (c.toNat % 8) then 1 else 0

/-- The register-only words and their results (04 R87 to R113; 11 R318; 02 R56; 10 R302). -/
def regWord (e : Instr) : Option RegWord :=
  match e with
  | .iadd f => intR 0x10 f (fun a b _ => a + b)
  | .isub f => intR 0x11 f (fun a b _ => a - b)
  | .imul f => intR 0x12 f (fun a b _ => a * b)
  | .imulh f => intR 0x13 f (fun a b _ => mulHigh (elemWidth (RForm.tyOf 0x13 f)) a b)
  | .imad f => intR 0x14 f (fun a b c => a * b + c)
  | .iminmax f => intR 0x15 f (fun a b _ => if extSub f.ext == 0 then min a b else max a b)
  | .iabsd f => intR 0x16 f (fun a b _ => ((a - b).natAbs : Int))
  | .isum f => intR 0x17 f (fun a b c => a + b + c)
  | .iaddsh f => regR 0x18 f (fun _ _ x => narrow false (RForm.tyOf 0x18 f)
      (bitsToInt (signedTy (RForm.tyOf 0x18 f)) (elemWidth (RForm.tyOf 0x18 f)) x.a + addshB (RForm.tyOf 0x18 f) x.b * (2 ^ (extSub f.ext % 32) : Nat)))
  | .tlog f => bitR 0x20 f (fun w x => lutBits w (extSub f.ext) x.a x.b x.c)
  | .shift f => bitR 0x21 f (fun w x => shiftBits w (extSub f.ext) x.a x.b)
  | .bfx f => bitR 0x22 f (fun _ x => bfxBits (RForm.tyOf 0x22 f == 1) x.a x.b)
  | .bfi f => bitR 0x23 f (fun _ x => bfiBits x.a x.b x.c)
  | .popc f => bitR 0x24 f (fun w x => popCount w x.a)
  | .clz f => bitR 0x25 f (fun w x => leadingZeros w x.a)
  | .brev f => bitR 0x26 f (fun w x => reverseBits w x.a)
  | .icmp f => regR 0x27 f (dest := cmpDest f.ext) (fun _ _ x =>
      (cmpValue f.ext (intCond (extSub f.ext % 16) (bitsToInt (signedTy (RForm.tyOf 0x27 f)) (elemWidth (RForm.tyOf 0x27 f)) x.a)
        (bitsToInt (signedTy (RForm.tyOf 0x27 f)) (elemWidth (RForm.tyOf 0x27 f)) x.b)), Flags.none))
  | .sel f => regR 0x28 f (fun _ th x =>
      (if th.p.getLsbD (extSub f.ext % 8) != (extSub f.ext / 8 % 2 == 1) then x.a else x.b, Flags.none))
  | .plop f => regR 0x29 f (dest := .pred) (fun _ th _ =>
      (bitAt (extSub f.ext) (4 * predBit th f.a + 2 * predBit th f.b + predBit th (extC f.ext)), Flags.none))
  | .mov f => bitR 0x2A f (fun _ x => x.a)
  | .pmov f => if extSub f.ext = 0 then regR 0x2B f (fun _ th _ => (th.p.toNat + (if th.em then 256 else 0), Flags.none)) else none
  | .iaddi f => intI 0x30 f (fun a b => a + b)
  | .imuli f => intI 0x31 f (fun a b => a * b)
  | .andi f => bitI 0x32 f (fun w x => lutBits w 0x88 x (immValue (IForm.tyOf 0x32 f) f.imm) 0)
  | .ori f => bitI 0x33 f (fun w x => lutBits w 0xEE x (immValue (IForm.tyOf 0x33 f) f.imm) 0)
  | .xori f => bitI 0x34 f (fun w x => lutBits w 0x66 x (immValue (IForm.tyOf 0x34 f) f.imm) 0)
  | .shli f => bitI 0x35 f (fun w x => shiftBits w 0 x f.imm.toNat)
  | .shri f => bitI 0x36 f (fun w x => shiftBits w 1 x f.imm.toNat)
  | .srai f => bitI 0x37 f (fun w x => shiftBits w 2 x f.imm.toNat)
  | .movi f => bitI 0x38 f (fun _ _ => immValue (IForm.tyOf 0x38 f) f.imm)
  | .movhi f => bitI 0x39 f (fun _ x => f.imm.toNat * 65536 + x % 65536)
  | .imini f => intI 0x3B f min
  | .imaxi f => intI 0x3C f max
  | .fadd f => fltR 0x40 f (fun m t a b _ => t.addBits m a b)
  | .fsub f => fltR 0x41 f (fun m t a b _ => t.subBits m a b)
  | .fmul f => fltR 0x42 f (fun m t a b _ => t.mulBits m a b)
  | .ffma f => fltR 0x43 f (fun m t a b c => t.fmaBits m a b c)
  | .fmin f => fltR 0x44 f (fun _ t a b _ => minMax true (extSub f.ext == 1) t a b)
  | .fmax f => fltR 0x45 f (fun _ t a b _ => minMax false (extSub f.ext == 1) t a b)
  | .fcmp f => regR 0x46 f (dest := cmpDest f.ext) (fun _ _ x =>
      (cmpValue f.ext (fltCond (extSub f.ext % 16)
        (FVal.cmp ((fmtOf (RForm.tyOf 0x46 f)).decode x.a) ((fmtOf (RForm.tyOf 0x46 f)).decode x.b))), Flags.none))
  | .fclass f => bitR 0x47 f (fun _ x => (fmtOf (RForm.tyOf 0x47 f)).classBits x.a)
  | .frnd f => fltR 0x48 f (fun m t a _ _ => t.rndBits m (extSub f.ext == 1) a)
  | .fldexp f => regR 0x49 f (fun gr _ x =>
      (fmtOf (RForm.tyOf 0x49 f)).ldexpBits (modeOf (extRnd f.ext) gr) x.a (bitsToInt true 32 x.b))
  | .fabs f => fltR 0x50 f (fun _ t a _ _ => (withSign t a 0, Flags.none))
  | .fneg f => fltR 0x51 f (fun _ t a _ _ => (withSign t a (1 + signOf t a), Flags.none))
  | .fcsgn f => fltR 0x52 f (fun _ t a b _ =>
      (withSign t a (match extSub f.ext with | 0 => signOf t b | 1 => 1 + signOf t b | _ => signOf t a + signOf t b), Flags.none))
  | .fsat f => fltR 0x53 f (fun _ t a _ _ => (t.satBits a, Flags.none))
  | .cvt f => regR 0x60 f (fun gr _ x => cvtBits (cvtFmt (extSub f.ext / 16) (extTy 0 f.ext / 4 % 2 == 1))
      (cvtFmt (extSub f.ext % 16) (extTy 0 f.ext % 2 == 1)) (modeOf (extRnd f.ext) gr) x.a)
  | .pack f => regR 0x61 f (fun gr _ x =>
      let w := elemWidth (RForm.tyOf 0x61 f)
      let lo := packElem (RForm.tyOf 0x61 f) (modeOf (extRnd f.ext) gr) x.a
      let hi := packElem (RForm.tyOf 0x61 f) (modeOf (extRnd f.ext) gr) x.b
      (putElem w (putElem w x.d (2 * (extSub f.ext % 4)) lo.1) (2 * (extSub f.ext % 4) + 1) hi.1, lo.2 ||| hi.2))
  | .unpack f => bitR 0x62 f (fun _ x => unpackElem (RForm.tyOf 0x62 f) (extSub f.ext) x.a)
  | .bscale f => regR 0x63 f (fun gr _ x =>
      bscaleBits (modeOf (extRnd f.ext) gr) (extSub f.ext % 4) (extSub f.ext / 4 % 2 == 1) x.a x.b)
  | .bshuf f => regR 0x64 f (fun _ _ x => mapElems 8 (fun e => (shufByte x.a x.b (elemAt 8 x.c e), Flags.none)) 4)
  | .faddi f => fltI 0x65 f (fun m t a b => t.addBits m a b)
  | .fmuli f => fltI 0x66 f (fun m t a b => t.mulBits m a b)
  | .ffmai f => regI 0x67 f (fun gr _ x => fltOp (IForm.tyOf 0x67 f) (fun t a b c => t.fmaBits (modeOf (extRnd f.ext) gr) a b c) x.c
      (immValue (IForm.tyOf 0x67 f) f.imm) x.d)
  | .fmini f => fltI 0x68 f (fun _ t a b => minMax true false t a b)
  | .fmaxi f => fltI 0x69 f (fun _ t a b => minMax false false t a b)
  | .dot f => regR 0x70 f (fun _ _ x => dotBits (RForm.tyOf 0x70 f) (extSub f.ext % 32) (extSub f.ext / 128 == 1) x.a x.b x.c)
  | .cfma f => regR 0x71 f (fun gr _ x => cfmaBits (RForm.tyOf 0x71 f) (modeOf (extRnd f.ext) gr) (extSub f.ext == 1) x.a x.b x.c)
  | .bfly f => regR 0x72 f (fun gr _ x => bflyBits (RForm.tyOf 0x72 f) (modeOf (extRnd f.ext) gr) (extSub f.ext == 1) x.a x.b x.c)
  | .twid f => bitR 0x73 f (fun _ x => twidPair (extSub f.ext % 32) (extSub f.ext / 32 % 2 == 1) x.a)
  | .idiv f => regR 0x74 f (dest := .later) (fun _ _ x => divInt (RForm.tyOf 0x74 f) false x.a x.b)
  | .irem f => regR 0x75 f (dest := .later) (fun _ _ x => divInt (RForm.tyOf 0x75 f) true x.a x.b)
  | .fdiv f => regR 0x76 f (dest := .later) (fun gr _ x => (fmtOf (RForm.tyOf 0x76 f)).divBits (modeOf (extRnd f.ext) gr) x.a x.b)
  | .fsqrt f => regR 0x77 f (dest := .later) (fun gr _ x => (fmtOf (RForm.tyOf 0x77 f)).sqrtBits (modeOf (extRnd f.ext) gr) x.a)
  | .frsqrt f => regR 0x78 f (dest := .later) (fun gr _ x => (fmtOf (RForm.tyOf 0x78 f)).rsqrtBits (modeOf (extRnd f.ext) gr) x.a)
  | .ftrans f => regR 0x79 f (dest := .later) (fun _ _ x => ftransBits (extSub f.ext) (BitVec.ofNat 32 x.a))
  | .jread f => regR 0x0E f (fun gr _ _ =>
      (match extSub f.ext with
        | 0 => (gr.set (f.a.toNat % 16)).member.toNat
        | 1 => (gr.set (f.a.toNat % 16)).arrived.toNat
        | _ => (gr.set (f.a.toNat % 16)).state.code, Flags.none))
  | .xget f => regR 0xE3 f (fun _ th _ => ((Table.get 0#32 th.x (f.a.toNat % 4)).toNat, Flags.none))
  | .time f => (regR 0xC4 f (fun _ _ _ => (0, Flags.none))).map
      (fun w => { w with value := fun s _ _ _ => (if extSub f.ext == 1 then s.timeStatus else s.time, Flags.none) })
  | _ => none

/-- Where the result of a thread goes: the registers its d field names, for a word that writes registers. -/
def RegWord.place (w : RegWord) (sh : Shape) (th : Thread) : Except TrapRec Loc :=
  match w.dest with
  | .pred => .ok (.v 0)
  | _ => locate th w.fields.d sh.d (if w.fields.xo == 3 then some w.fields.xs else none)

/-- Thread `t` can take its turn of a register-only word: its sources read as `xs`, and the v registers from `r` on, where d lies, take a write. -/
structure RegWord.Ready (w : RegWord) (sh : Shape) (s : State) (i : Issue) (t : Nat) (xs : List Nat) (r : Nat) : Prop where
  sources : s.readAll i t (sources w.fields sh) = .vals xs
  place : w.place sh (s.thread (i.tk t)) = .ok (.v r)
  writable : (match w.dest with | .pred => true | _ => s.destReady i t (.v r) sh.d.n) = true

/-- The effect of a result on a thread: registers or a predicate, or registers left empty for a fill to come, and the sticky flags. -/
def RegWord.put (w : RegWord) (sh : Shape) (s : State) (i : Issue) (t : Nat) (uniform : Bool) (l : Loc) (r : Nat × Flags) : State :=
  match w.dest with
  | .pred => s.deposit i t uniform (.v 0) 0 .pred (w.fields.d.toNat % 8) r
  | k => s.deposit i t uniform l sh.d.n k 0 r

/-- Thread `t` can take its turn of a word with fields `q`: its sources read as `xs`, and the v registers from `r` on, where d lies, take a write. -/
structure TurnReady (q : Fields) (sh : Shape) (s : State) (i : Issue) (t : Nat) (xs : List Nat) (r : Nat) : Prop where
  sources : s.readAll i t (sources q sh) = .vals xs
  place : locate (s.thread (i.tk t)) q.d sh.d (if q.xo == 3 then some q.xs else none) = .ok (.v r)
  writable : s.destReady i t (.v r) sh.d.n = true

/-- The threads of a list write `n` registers each, from `r t` on, the value `x t`. -/
def State.writeEach (s : State) (i : Issue) (ts : List Nat) (r : Nat → Nat) (n : Nat) (x : Nat → Nat) : State :=
  ts.foldl (fun u t => u.writeCells i t (.v (r t)) n (x t)) s

/-- A scan over threads: each combines the value carried to it with its own a; a segment head, and the first thread, take their own b (R325). -/
def State.scanEach (s : State) (i : Issue) (ts : List Nat) (r : Nat → Nat) (n : Nat) (x : Nat → Args) (head : Nat → Bool)
    (exclusive : Bool) (op ty rnd : Nat) : State :=
  (ts.foldl (fun p t =>
    let y := match p.2 with
      | some y => if head t then (x t).b else y
      | none => (x t).b
    let z := combine op ty rnd (p.1.group i.gk) y (x t).a
    ((p.1.writeCells i t (.v (r t)) n (if exclusive then y else z.1)).setSticky i.gk z.2, some z.1)) ((s, none) : State × Option Nat)).1

/-- pix is free for the path: no thread returned by ERET.retry brings a value of it, and no other instruction owns it (R434). -/
structure PixFree (s : State) (i : Issue) : Prop where
  own : (s.thread (i.tk (firstLane i.path))).tpix = 0#32
  free : (s.group i.gk).pixOwner = 0#32

/-- The state after the first pass of a two-pass form: destinations empty, pix 1, the second pass ready with the latched values (R323). -/
structure Latched (s : State) (i : Issue) (ts : List Nat) (r : Nat → Nat) (n : Nat) (u : State) : Prop where
  pass : ∃ acc, (u.group i.gk).pass = some { rest := 0#32, took := maskOf ts, acc := acc, second := true }
  pix : (u.group i.gk).pix = 1#32
  rest : u.rest = s.rest
  thread : ∀ k, u.thread k = (ts.foldl (fun v t => v.emptyCells i t (.v (r t)) n) s).thread k

/-! ### Terms of the claims about memory words -/

/-- Where one thread's access leads: to a virtual address (or a shared or scratch one), bytes of a space and a page's order; or nowhere, its
record being out of range or the thread a helper that stores nothing (R206, R221). -/
inductive Access where
  | at_ (va addr : Nat) (sp : Space) (ord : Nat)
  | dropped
  deriving DecidableEq, Repr

/-- Thread `t` can take its turn of a load or atomic with fields `q`: d lies at `l` and takes a write; a and the record read, and lead to `x`
for an access of `w` bytes that needs `need`. A helper has not parked. -/
structure LoadReady (q : Fields) (sh : Shape) (via : Via) (w : Nat) (need : Need) (s : State) (i : Issue) (t : Nat) (l : Loc) (x : Access) : Prop where
  place : locate (s.thread (i.tk t)) q.d sh.d (if q.xo == 3 then some q.xs else none) = .ok l
  writable : s.destReady i t l sh.d.n = true
  access : ∃ y r, s.read i t q.a q.ea sh.a (if q.xo == 1 then some q.xs else none) = .val y ∧ s.viaRecord i via = .val r ∧
    (match x with
      | .dropped => s.form i via y w (BitVec.ofNat 128 r) = .drop
      | .at_ va pa sp ord => s.form i via y w (BitVec.ofNat 128 r) = .addr va ∧ s.target i via va w need = .ok sp pa ord)
  stays : (s.thread (i.tk t)).role = .live ∨ (s.thread (i.tk t)).park = .none

/-- The threads whose turns a word takes that may have its destination in s: each active thread, or once the first thread of the path, whose guard
holds and which is not parked. -/
structure Turns (q : Fields) (sh : Shape) (s : State) (i : Issue) (ts : List Nat) : Prop where
  each : q.uniform sh = false → ts = s.active i (extGuard q.ext)
  once : q.uniform sh = true → ts = [firstLane i.path] ∧ extGuard q.ext (s.thread (i.tk (firstLane i.path))) = true ∧
    (s.thread (i.tk (firstLane i.path))).park = .none

/-- What thread `t`'s turn of a load leaves: d empty and the access gathered, or d filled with zeros (R206, R221). -/
def State.takeLoad (s : State) (i : Issue) (t : Nat) (l : Loc) (n ext w : Nat) (x : Access) : State :=
  match x with
  | .dropped => s.writeCells i t l n 0
  | .at_ va pa sp ord => ((s.emptyCells i t l n).modThread (i.tk t) (fun th => { th with replay := none })).gather i
      { lane := { t := t, va := va, addr := pa, w := w, into := l.into n, ext := ext }, space := sp, ord := ord }

/-- The end of a memory word that has gone through: made once for its pass, no thread of the path has it to replay (R30, R207, R213). -/
def State.memoryDone (s : State) (i : Issue) (kind : ReqKind) (ord : Nat) (once : Bool) : State :=
  if once then (s.replayed i).memoryEnd i kind ord true else s.memoryEnd i kind ord

/-- No earlier write of the access's page stands in the side log of the issuer's core (R399). -/
def State.unlogged (s : State) (i : Issue) (va : Nat) (sp : Space) : Prop :=
  sp ≠ .main ∨ s.loggedPage (s.block i.b).ctx (s.block i.b).core va = false

/-- Thread `t` can take its turn of a store: a, the record and the data `data` read, and lead to `x`. -/
structure StoreReady (q : Fields) (sh : Shape) (via : Via) (w : Nat) (s : State) (i : Issue) (t : Nat) (data : Nat) (x : Access) : Prop where
  access : ∃ y r, s.read i t q.a q.ea sh.a (if q.xo == 1 then some q.xs else none) = .val y ∧ s.viaRecord i via = .val r ∧
    (match x with
      | .dropped => s.form i via y w (BitVec.ofNat 128 r) = .drop ∨
          ((∃ va, s.form i via y w (BitVec.ofNat 128 r) = .addr va) ∧ (s.thread (i.tk t)).role = .helper ∧
            s.read i t q.d false sh.d (if q.xo == 3 then some q.xs else none) = .val data)
      | .at_ va pa sp ord => s.form i via y w (BitVec.ofNat 128 r) = .addr va ∧ (s.thread (i.tk t)).role = .live ∧
          s.read i t q.d false sh.d (if q.xo == 3 then some q.xs else none) = .val data ∧
          s.target i via va w Need.write = .ok sp pa ord ∧ s.unlogged i va sp)

/-- What thread `t`'s turn of a store leaves: the access gathered with its data, or nothing (R206, R221). -/
def State.takeStore (s : State) (i : Issue) (t w data : Nat) (x : Access) : State :=
  match x with
  | .dropped => s
  | .at_ va pa sp ord => s.gather i { lane := { t := t, va := va, addr := pa, w := w, data := data }, space := sp, ord := ord }

/-- The loads of a word's form with their opcodes, ways to name memory and kinds of request (R221). -/
def loadForms (f : RForm) : List (Instr × Nat × Via × ReqKind) :=
  [(.ld f, 0x90, .record (f.b.toNat % 16) f.eb, .load), (.lds f, 0x92, .shared, .load), (.ldx f, 0x94, .scratch, .load),
   (.ldnc f, 0x9C, .record (f.b.toNat % 16) f.eb, .near)]
/-- The stores, and the atomics, likewise (R221, R223). -/
def storeForms (f : RForm) : List (Instr × Nat × Via) :=
  [(.st f, 0x91, .record (f.b.toNat % 16) f.eb), (.sts f, 0x93, .shared), (.stx f, 0x95, .scratch)]
def atomicForms (f : RForm) : List (Instr × Nat × Via) :=
  [(.atom f, 0x96, .record (f.b.toNat % 16) f.eb), (.atoms f, 0x97, .shared), (.atomx f, 0x98, .scratch)]

/-- Thread `t` can take its turn of an atomic whose type has `w` bytes, operation `op`: as a load, and with c read as `c`; what a host page
refuses is not asked (R223, R388). -/
structure AtomReady (q : Fields) (sh : Shape) (via : Via) (op ty : Nat) (s : State) (i : Issue) (t c : Nat) (x : Access) : Prop where
  access : ∃ y r, s.read i t q.a q.ea sh.a (if q.xo == 1 then some q.xs else none) = .val y ∧ s.read i t q.c q.ec sh.c none = .val c ∧
    s.viaRecord i via = .val r ∧
    (match x with
      | .dropped => s.form i via y (atomBytes ty) (BitVec.ofNat 128 r) = .drop
      | .at_ va pa sp ord => s.form i via y (atomBytes ty) (BitVec.ofNat 128 r) = .addr va ∧
          s.target i via va (atomBytes ty) Need.atomic = .ok sp pa ord ∧ s.hostRefuses sp pa op ty = false)
  live : (s.thread (i.tk t)).role = .live

/-- The lane of an atomic: b64 compares hold the compare value in the low half of c, the new one above it (R222). -/
def atomLane (t op w c va pa : Nat) (into : Into) : LaneReq :=
  { t := t, va := va, addr := pa, w := w, data := if op == 1 then c / 2 ^ (8 * w) else c, cmp := c % 2 ^ (8 * w), into := into }

/-- The first thread of the path is a live one that takes the word, whose guard holds for it. -/
structure Once (s : State) (i : Issue) (x : Option Ext) : Prop where
  fresh : Begins s i
  guard : extGuard x (s.thread (i.tk (firstLane i.path))) = true
  live : (s.thread (i.tk (firstLane i.path))).role = .live

/-- The turns of a list of threads go through: each finds `ready` the state that the turns before it leave. -/
def Goes (ready : State → Nat → Prop) (go : State → Nat → State) (ts : List Nat) (s : State) : Prop :=
  ∀ pre t post, ts = pre ++ t :: post → ready (pre.foldl go s) t

/-- No thread of the path has a trap pending, and there is one (R425). -/
structure Clear (s : State) (i : Issue) : Prop where
  calm : ∀ t ∈ lanesOf i.path, (s.thread (i.tk t)).pending = none
  some_ : i.path ≠ 0#32

/-- Thread `t` can take its turn of a remote word of `w` bytes: no trap pends, a reads as the address, which the tables map to a route, c reads; a
returning form's d, at `l`, takes a write; a live thread finds room (R280 to R284, R425). -/
structure RemoteReady (f : RForm) (sh : Shape) (w : Nat) (ret : Bool) (i : Issue) (addr c : Nat) (r : Route) (l : Loc) (s : State) (t : Nat) : Prop where
  calm : (s.thread (i.tk t)).pending = none
  place : ret = true → locate (s.thread (i.tk t)) f.d sh.d (if extXo f.ext == 3 then some (extXs f.ext) else none) = .ok l ∧
    s.destReady i t l sh.d.n = true
  reads : s.readA i t f sh.a = .val addr
  data : s.read i t (extC f.ext) (extEc f.ext) sh.c none = .val c
  route : s.look (s.block i.b).ctx addr w = .ok r
  room : (s.thread (i.tk t)).role = .live → s.remoteRoom i.b r (addr % 2 ^ 46 / 256) 0 = true ∧ (ret = true → s.responseRoom (s.block i.b).core = true)

/-- What the turn leaves: d empty and a request with head `h`, or, for a helper, zeros (R284, R289). -/
def State.takeRemote (s : State) (i : Issue) (t n : Nat) (ret : Bool) (kind : RemoteKind) (lane : LaneReq) (l : Loc) (r : Route) (h : Head)
    (body : List Byte) : State :=
  match (s.thread (i.tk t)).role with
  | .helper => if ret then s.writeCells i t l n 0 else s
  | .live =>
    let u := (if ret then s.emptyCells i t l n else s).modThread (i.tk t) (fun th => { th with replay := none })
    u.request (u.remoteOp i kind r (lane.va % 2 ^ 46) [lane]) r.so h body

/-- The packet of queue `slot` is parsed: the slot runs, nothing holds it back, its flags are legal, its words as many as the packet has (R335). -/
structure Parses (s : State) (slot : Nat) (flags : BitVec 12) (words : List W32) (count : Option Nat) : Prop where
  cur : s.cur = .queue slot
  state : (s.queue slot).state = 1
  enabled : (s.queue slot).enabled = true
  fault : (s.queue slot).fault = none
  legal : flags.toNat < 4
  ser : flags.getLsbD 0 = true → (s.queue slot).uncommitted = []
  count : ∀ n, count = some n → words.length = n

/-- An access of a queue reaches bytes that are not poisoned (R336). -/
def State.queueGets (s : State) (slot va w : Nat) (need : Need) (sp : Space) (a : Nat) : Prop :=
  (∃ o, s.reachNow (s.queue slot).ctx none va w need = .ok sp a o) ∧ (need.r = true → s.poisoned sp a = false)

/-- The context of a bank engine whose word is executed (R170). -/
structure Runs (s : State) (key : Nat) (c : BeCtx) : Prop where
  cur : ∃ st be x, s.cur = .engine st be x ∧ key = beKey st be x
  found : Table.find s.engines key = some c

/-- The near launch that the record at `a` of shared memory and the affinity record `r` describe passes every check, its pages are all held, and its
work is `w` (R363 to R365). -/
structure Launches (s : State) (i : Issue) (f : RForm) (streamed : Bool) (plan : List PagePlan) (w : NearWork) : Prop where
  passes : ∃ a r sp pa bo pages, s.readUniform i (firstLane i.path) [(f.a, f.ea, Opd.one, none)] = .vals [a] ∧
    (s.group i.gk).record (f.b.toNat % 16) f.eb = .val r ∧ a % 64 = 0 ∧ s.sharedTarget i.b a 64 = some (sp, pa) ∧
    s.launchCheck i a (s.load sp pa 64) (f.b.toNat % 16) (BitVec.ofNat 128 r) streamed = .ok bo ∧
    plan = launchPlan (s.load sp pa 64) (recBase (BitVec.ofNat 128 r))
      (affinityRange (BitVec.ofNat 128 r) / (byteField (s.load sp pa 64) 12 4 * 65536)) ∧
    s.pageLoop (s.block i.b).ctx plan 0 0 [] = .held pages ∧
    w = nearWorkOf i (s.block i.b).ctx (firstLane i.path) (s.load sp pa 64) (recBase (BitVec.ofNat 128 r))
      (affinityRange (BitVec.ofNat 128 r) / (byteField (s.load sp pa 64) 12 4 * 65536)) bo streamed pages

end Sys2Proof.Machine
end

