-- ==== Sys2Proof/Certificates/Slice0/Obligations.lean ====
section
/-! DEFINITION. The statements for the provers. -/

open Sys2Proof Sys2Proof.Machine

/-! ### The step, decoding and reset -/

/-- 02 R31, R33 to R36, R40, R50: a group that issues a path stands on a clause header, which the step executes, or on a word of a clause. There
the step executes the instruction `e` that the words at the program counter decode to, if the clause accepts it; `n` is how many words it has. -/
def Obligations.StepRunsGroupWord : Prop :=
  ∀ (s u : State) (rest : List Turn) (b g : Nat) (p : Path) (h : W32), Issues s u rest b g p →
    u.fetchWord (u.block b).ctx p.header.toNat = .word h → (readHeader h).legal = true →
    (pcWidx p.tpc = 0 → step s = settle (exec (.clauseHeader (readHeader h))
      { u with cur := .group (p.issue b g h 1 (h.setWidth 64) (.clauseHeader (readHeader h))) })) ∧
    (∀ (n : Nat) (w x : W32) (e : Instr), pcWidx p.tpc ≠ 0 → pcWidx p.tpc ≤ (h.extractLsb' 28 4).toNat →
      u.fetchWord (u.block b).ctx (pcAddr p.tpc).toNat = .word w → n = (if hasExt w then 2 else 1) →
      (hasExt w = true → pcWidx p.tpc + 1 ≤ (h.extractLsb' 28 4).toNat ∧ u.fetchWord (u.block b).ctx ((pcAddr p.tpc).toNat + 4) = .word x) →
      decodeEpael [w, x] = .ok (e, if hasExt w then [] else [x]) →
      classAccepts (readHeader h).cls.toNat w (if hasExt w then some x else none) = true →
      (isTransfer (epaelOp w) = true → (h.extractLsb' 28 4).toNat < pcWidx p.tpc + n) →
      step s = settle (exec e { u with cur := .group (p.issue b g h n (if hasExt w then (x ++ w : BitVec 64) else w.setWidth 64) e) }))

/-- An event the agenda names is executed, and no agent's instruction is under way after the step (log 2). 05 R116, R139; 06 R160, R170: the
sequencer of a resident block and a bank-engine context, when their turns come, execute the word their decoders read: the matrix word at mpc, and the
burrow word at upc of the image, where the rotation of the engine has come to the context. 12 R335 to R338: an enabled queue that is not held, when it
is served, by a command core that handles an event of it too, parses the packet at its head: a header word of a known type with its count of words, all
of them written. -/
def Obligations.StepRunsOtherTurns : Prop :=
  (∀ (s : State) (rest : List Turn) (e : Instr), s.agenda = .event e :: rest → (s.dark = false ∨ awake e = true) →
     step s = settle (exec e { s with agenda := rest, cur := .none })) ∧
  ((∀ (s : State) (rest : List Turn) (b x : Nat) (e : Instr), s.agenda = .msq b :: rest → s.dark = false →
     (s.block b).msq.state = .running → (s.block b).place = .resident → s.coreFrozen (s.block b).core = false → (s.block b).msq.job = none →
     (s.block b).msq.fetched = none → (s.block b).msq.mpc.toNat % 8 = 0 →
     { s with agenda := rest }.msqRead b (s.block b).msq.mpc.toNat 8 0 = .ok x → decodeMatrix (BitVec.ofNat 64 x) = .ok e →
     step s = settle (exec e { s with agenda := rest, cur := .msq b })) ∧
   (∀ (s : State) (rest : List Turn) (st be c : Nat) (x : BeCtx) (w : W32) (e : Instr), s.agenda = .engine st be c :: rest → s.dark = false →
     Table.find s.engines (beKey st be c) = some x → { s with agenda := rest }.beTurn (beEngine (beKey st be c)) = some c →
     s.frozenMasters.any (fun m => m.1 == 2 && m.2.1 == beEngine (beKey st be c)) = false →
     s.foreignEngine (beEngine (beKey st be c)) (s.beContext x) = false →
     ({ s with agenda := rest }.imageOf (beKey st be c) x)[x.upc]? = some w → decodeBurrow w = .ok e →
     step s = settle (exec e { s with
       agenda := rest, beLast := Table.put s.beLast (beEngine (beKey st be c)) c, cur := .engine st be c }))) ∧
  (∀ (s : State) (rest : List Turn) (slot : Nat) (h : W32) (ws : List W32) (e : Instr), s.dark = false →
     (s.agenda = .queue slot :: rest ∨ ∃ cc, s.agenda = .command cc :: rest ∧ s.frozenMasters.any (fun m => m.1 == 4 && m.2.1 == cc) = false ∧
       Table.find s.commanding cc = some (.queue slot) ∧ { s with agenda := rest }.queueMoves slot = true) →
     (s.queue slot).state = 1 → (s.queue slot).fault = none → (s.queue slot).held = none → (s.queue slot).frames = [] →
     packetCount h + 1 ≤ ((s.queue slot).tail - (s.queue slot).head) / 4 → ws.length = packetCount h →
     { s with agenda := rest }.queueWords slot (fun j => (s.queue slot).base + ((s.queue slot).head + 4 * j) % 2 ^ (s.queue slot).n)
       (packetCount h + 1) = .ok (h :: ws) →
     decodePacket (h :: ws) = .ok (e, []) →
     step s = settle (exec e { s with agenda := rest, cur := .queue slot }))

/-- Decoding the words of a well-formed EPAEL instruction gives it back, and leaves the words that follow it. -/
def Obligations.EpaelRoundTrip : Prop :=
  ∀ (e : Instr) (rest : List W32), e.wellFormed = true → encodeEpael e ≠ [] → (∀ h, e ≠ .clauseHeader h) →
    decodeEpael (encodeEpael e ++ rest) = .ok (e, rest)

/-- Decoding the word of a legal clause header gives it back. Decoding the word of a well-formed matrix instruction gives it back. Decoding the word of a well-formed burrow instruction gives it back. Decoding the words of a well-formed command packet gives it back, and leaves the words that follow it. -/
def Obligations.HeaderEngineAndPacketRoundTrips : Prop :=
  (∀ h : Header, h.legal = true → decodeHeader (encHeader h) = .ok (.clauseHeader h)) ∧
  (∀ (e : Instr) (w : W64), e.wellFormed = true → encodeMatrix e = some w → decodeMatrix w = .ok e) ∧
  (∀ (e : Instr) (w : W32), e.wellFormed = true → encodeBurrow e = some w → decodeBurrow w = .ok e) ∧
  (∀ (e : Instr) (rest : List W32), e.wellFormed = true → encodePacket e ≠ [] → decodePacket (encodePacket e ++ rest) = .ok (e, rest))

/-! ### The end of a pass and traps -/

/-- 11 R305, R307; 02 R31: where a pass ends without a trap and outside a macro, every running thread of its path stands at the word after the
issued one; threads beside the path stay as they are; no register and no byte changes. -/
def Obligations.PassEnds : Prop :=
  ∀ (s : State) (i : Issue), Plain s i → Lives s i →
    Quiet s (s.endPass i) ∧
    (∀ t ∈ lanesOf i.path, Present s i t → (s.thread (i.tk t)).running = true →
      ((s.endPass i).thread (i.tk t)).ageless = { s.thread (i.tk t) with tpc := i.nextPc }.ageless) ∧
    (∀ k, (∀ t ∈ lanesOf i.path, k ≠ i.tk t) → ((s.endPass i).thread k).ageless = (s.thread k).ageless)

/-- 16 R427: at the end of a pass, a thread of the path on which a trap has been raised, outside its handler and in a group with a handler,
takes it: tcause, tval, tinfo, torg, tword, tepc, tnpc and tpix are written, th is set, and the thread runs on at thv, word index 0; what the word had
begun is kept for ERET.retry. -/
def Obligations.TrapIsDelivered : Prop :=
  ∀ (s : State) (i : Issue) (t : Nat) (r : TrapRec), t ∈ lanesOf i.path → Present s i t → (s.thread (i.tk t)).role = .live →
    (s.thread (i.tk t)).park = .raised r → (s.group i.gk).thv ≠ 0#64 → (s.thread (i.tk t)).th = false →
    ((s.closePass i).thread (i.tk t)).ageless = { s.thread (i.tk t) with
      tcause := BitVec.ofNat 32 (r.code + (if r.more then 2048 else 0) + 4096 * (r.src % 16))
      tval := r.tval, tinfo := r.info, torg := r.origin.getD (s.thread (i.tk t)).tpc, tword := i.word
      tepc := (s.thread (i.tk t)).tpc, tnpc := i.nextPc
      tpix := if (s.group i.gk).pixOwner.getLsbD t then (s.group i.gk).pix else 0#32
      kept := if (s.thread (i.tk t)).replay.isSome ∨ (s.thread (i.tk t)).slot.isSome then some
        { pc := (s.thread (i.tk t)).tpc, replay := (s.thread (i.tk t)).replay == some (s.thread (i.tk t)).tpc, slot := (s.thread (i.tk t)).slot } else none
      replay := none, slot := none, waitFrom := none
      th := true, park := .none, wait := none, inMacro := .none, tpc := mkPc (s.group i.gk).thv 0 }.ageless

/-- 16 R428: where thv is 0, or the thread is in its handler, the trap is unhandled: the trap state is written as for a delivery, th stays, the
thread is parked for good, and the 32-byte record goes out as a device event. -/
def Obligations.TrapIsUnhandled : Prop :=
  (∀ (s : State) (i : Issue) (t : Nat) (r : TrapRec), t ∈ lanesOf i.path → Present s i t → (s.thread (i.tk t)).role = .live →
    (s.thread (i.tk t)).park = .raised r → ((s.group i.gk).thv = 0#64 ∨ (s.thread (i.tk t)).th = true) →
    ((s.closePass i).thread (i.tk t)).ageless = { s.thread (i.tk t) with
      tcause := BitVec.ofNat 32 (r.code + (if r.more then 2048 else 0) + 4096 * (r.src % 16))
      tval := r.tval, tinfo := r.info, torg := r.origin.getD (s.thread (i.tk t)).tpc, tword := i.word
      tepc := (s.thread (i.tk t)).tpc, tnpc := i.nextPc
      tpix := if (s.group i.gk).pixOwner.getLsbD t then (s.group i.gk).pix else 0#32
      park := .dead, wait := none }.ageless) ∧
  (∀ (s : State) (b g t : Nat) (r : TrapRec) (next word : W64), (s.thread (tkey (gkey b g) t)).role = .live →
    ((s.group (gkey b g)).thv = 0#64 ∨ (s.thread (tkey (gkey b g) t)).th = true) →
    (s.deliver b g t r next word).outbox = s.outbox ++ [Out.msix 1040, Out.mctpEvent
      [7#32, BitVec.ofNat 32 (s.block b).core,
        BitVec.ofNat 32 ((s.block b).ctx + 4096 * (s.context (s.block b).ctx).partition),
        BitVec.ofNat 32 (r.code % 32 + 32 * t + 1024 * (((s.block b).slot + g) % 64)),
        BitVec.ofNat 32 (s.thread (tkey (gkey b g) t)).tpc.toNat, BitVec.ofNat 32 ((s.thread (tkey (gkey b g) t)).tpc.toNat / 2 ^ 32),
        BitVec.ofNat 32 s.time, BitVec.ofNat 32 (s.time / 2 ^ 32)]])

/-! ### Register-only words -/

/-- 04 R83, R84; 02 R29 to R31, R46: a register-only word whose destination lies in v runs once for each active thread, in ascending order. Each
thread's sources are read as they stood before the pass, and its result goes to the v registers (or the predicate) that d names. The words are those regWord
lists: JREAD; IADD, ISUB, IMUL, IMULH, IMAD, IMINMAX, IABSD, ISUM, IADDSH, TLOG, SHIFT, BFX, BFI, POPC, CLZ, BREV, ICMP, SEL, PLOP, MOV, PMOV, IADDI, IMULI,
ANDI, ORI, XORI, SHLI, SHRI, SRAI, MOVI, MOVHI, IMINI, IMAXI; FADD, FSUB, FMUL, FFMA, FMIN, FMAX, FCMP, FCLASS, FRND, FLDEXP, FABS, FNEG, FCSGN, FSAT,
CVT, PACK, UNPACK, BSCALE, BSHUF, FADDI, FMULI, FFMAI, FMINI, FMAXI; DOT, CFMA, BFLY, TWID; IDIV, IREM, FDIV, FSQRT, FRSQRT, FTRANS; XGET, TIME. -/
def Obligations.RegisterWordsComplete : Prop :=
  ∀ (e : Instr) (w : RegWord) (sh : Shape) (s : State) (i : Issue) (xs : Nat → List Nat) (r : Nat → Nat),
    regWord e = some w → w.shape = some sh → w.legal = true → w.fields.belowNreg sh (s.block i.b).nreg = true → w.fields.uniform sh = false →
    Begins s i → (∀ t ∈ s.active i (extGuard w.fields.ext), w.Ready sh s i t (xs t) (r t)) →
    exec e s = .next (State.endPass ((s.active i (extGuard w.fields.ext)).foldl (fun u t =>
      w.put sh u i t false (.v (r t)) (w.value s (u.group i.gk) (s.thread (i.tk t)) (argsOf (xs t)))) s) i)

/-- 04 R83; 02 R32, R46: a register-only word whose destination lies in s runs once, with the guard and the registers of the path's first
thread; where that guard does not hold, it does nothing. -/
def Obligations.UniformWordsComplete : Prop :=
  ∀ (e : Instr) (w : RegWord) (sh : Shape) (s : State) (i : Issue),
    regWord e = some w → w.shape = some sh → w.legal = true → w.fields.belowNreg sh (s.block i.b).nreg = true → w.fields.uniform sh = true →
    Begins s i →
    (extGuard w.fields.ext (s.thread (i.tk (firstLane i.path))) = false → exec e s = .next (s.endPass i)) ∧
    (∀ xs, extGuard w.fields.ext (s.thread (i.tk (firstLane i.path))) = true →
      s.readUniform i (firstLane i.path) (sources w.fields sh) = .vals xs →
      s.destReady i (firstLane i.path) (.s (w.fields.d.toNat - 96)) sh.d.n = true →
      exec e s = .next (State.endPass (s.deposit i (firstLane i.path) true (.s (w.fields.d.toNat - 96)) sh.d.n w.dest 0
        (w.value s (s.group i.gk) (s.thread (i.tk (firstLane i.path))) (argsOf xs))) i))

/-- 02 R6, R24, R84: a register-only word that breaks a rule of its entry traps as ILLEGAL_OP on each active thread. -/
def Obligations.IllegalWordsTrap : Prop :=
  (∀ (e : Instr) (w : RegWord) (s : State) (i : Issue), regWord e = some w → s.cur = .group i →
    (w.shape = none ∨ w.legal = false ∨ ∃ sh, w.shape = some sh ∧ w.fields.belowNreg sh (s.block i.b).nreg = false) →
    exec e s = .next (s.trapActive i (s.active i (extGuard w.fields.ext)) { code := 1 })) ∧
  (∀ (s : State) (i : Issue), s.cur = .group i → i.body = none → i.widx ≠ 0 → i.widx ≤ i.count →
    exec .illegalEpaelWord s = .next (s.trapActive i (s.active i (wordGuard i.word)) { code := 1 }))

/-- 02 R23, R28 to R30: writing a value over `n` registers leaves each of them full with its 32 bits, the first lowest, and unmarked; every
other register of the thread, every other thread and every other field stay. -/
def Obligations.ResultLands : Prop :=
  (∀ (s : State) (i : Issue) (t r n x : Nat), Present s i t → Table.wf {} (s.thread (i.tk t)).v = true →
    (s.writeCells i t (.v r) n x).rest = s.rest ∧ (s.writeCells i t (.v r) n x).groups = s.groups ∧
    Table.wf {} ((s.writeCells i t (.v r) n x).thread (i.tk t)).v = true ∧
    (∀ k, k ≠ i.tk t → (s.writeCells i t (.v r) n x).thread k = s.thread k) ∧
    { (s.writeCells i t (.v r) n x).thread (i.tk t) with v := [] } = { s.thread (i.tk t) with v := [] } ∧
    ∀ j, Table.get {} ((s.writeCells i t (.v r) n x).thread (i.tk t)).v j =
      if r ≤ j ∧ j < r + n then { val := BitVec.ofNat 32 (x / 2 ^ (32 * (j - r))), full := true, mark := none }
      else Table.get {} (s.thread (i.tk t)).v j) ∧
  (∀ (s : State) (i : Issue) (t r n x : Nat), (Table.find s.groups i.gk).isSome → Table.wf {} (s.group i.gk).s = true →
    (s.writeCells i t (.s r) n x).rest = s.rest ∧ (s.writeCells i t (.s r) n x).threads = s.threads ∧
    Table.wf {} ((s.writeCells i t (.s r) n x).group i.gk).s = true ∧
    (∀ k, k ≠ i.gk → (s.writeCells i t (.s r) n x).group k = s.group k) ∧
    { (s.writeCells i t (.s r) n x).group i.gk with s := [] } = { s.group i.gk with s := [] } ∧
    ∀ j, Table.get {} ((s.writeCells i t (.s r) n x).group i.gk).s j =
      if r ≤ j ∧ j < r + n then { val := BitVec.ofNat 32 (x / 2 ^ (32 * (j - r))), full := true, mark := none }
      else Table.get {} (s.group i.gk).s j)

/-- 04 R110; 02 R30, R73: the fill of a long-latency word, when those of the word's earlier threads have landed, writes the result it holds over the
registers left empty, and its flags; a thread that has exited discards the result. -/
def Obligations.LongLatencyFillLands : Prop :=
  ∀ (s : State) (id : Nat) (p : Fill), Table.find s.fills id = some p → s.fillReady id p = true → s.inert (p.g / 32) = false →
    (p.lane = none → exec (.longLatencyFill id) s = .next (State.setSticky
      ({ s with fills := Table.erase s.fills id }.writeCells (groupOnly (p.g / 32) (p.g % 32)) 0 (.s p.first) p.n p.value) p.g p.flags)) ∧
    (∀ t, p.lane = some t → (s.thread (tkey (gkey (p.g / 32) (p.g % 32)) t)).exited = false →
      exec (.longLatencyFill id) s = .next (State.setSticky
        ({ s with fills := Table.erase s.fills id }.writeCells (groupOnly (p.g / 32) (p.g % 32)) t (.v p.first) p.n p.value) p.g p.flags)) ∧
    (∀ t, p.lane = some t → (s.thread (tkey (gkey (p.g / 32) (p.g % 32)) t)).exited = true →
      exec (.longLatencyFill id) s = .next (State.setSticky { s with fills := Table.erase s.fills id } p.g p.flags))

/-- The frame of the register-only words, whatever becomes of them: memory and every field beside threads, groups and pending fills stay; index
registers and em stay; v registers that d does not name stay, and all of them in other groups; a predicate changes only where d names it; s
registers change only for a word whose d field names one; flags are only added, and the rounding mode stays (04 R83, R88; 03 R73). -/
def Obligations.RegisterWordsFrame : Prop :=
  ∀ (e : Instr) (w : RegWord) (s t : State) (i : Issue), regWord e = some w → Filed s → s.cur = .group i → exec e s = .next t →
    Filed t ∧ { t with fills := s.fills, nextId := s.nextId }.rest = s.rest ∧
    (∀ k, (t.thread k).x = (s.thread k).x ∧ (t.thread k).em = (s.thread k).em ∧ (t.thread k).role = (s.thread k).role) ∧
    (∀ k j, (w.dest ≠ .pred ∨ j ≠ w.fields.d.toNat % 8 ∨ ∀ l ∈ lanesOf (s.visits i), k ≠ i.tk l) → (t.thread k).p.getLsbD j = (s.thread k).p.getLsbD j) ∧
    (∀ k j, (w.dest = .pred ∨ (∀ l ∈ lanesOf (s.visits i), k ≠ i.tk l) ∨ ∀ sh r, w.shape = some sh →
        locate (s.thread k) w.fields.d sh.d (if w.fields.xo == 3 then some w.fields.xs else none) = .ok (.v r) → (j < r ∨ r + sh.d.n ≤ j)) →
      Table.get {} (t.thread k).v j = Table.get {} (s.thread k).v j) ∧
    (∀ k, (t.group k).b = (s.group k).b ∧ (t.group k).ssp = (s.group k).ssp ∧ (t.group k).thv = (s.group k).thv ∧
      (t.group k).live = (s.group k).live ∧ (t.group k).help = (s.group k).help ∧ (t.group k).tmst = (s.group k).tmst ∧
      (t.group k).tmpc = (s.group k).tmpc ∧ (s.group k).fst ||| (t.group k).fst = (t.group k).fst ∧ (t.group k).fst >>> 6 = (s.group k).fst >>> 6) ∧
    (∀ k, (k ≠ i.gk ∨ w.dest = .pred ∨ w.fields.d.toNat < 96 ∨ w.fields.xo = 3) → (t.group k).s = (s.group k).s)

/-- 04 R94: PMOV with sub 1 writes the predicates of each active thread from bits 7:0 of a; with sub 2 it writes em from bit 0 of a, for every
thread of the path whose guard holds. 02 R56: XSET and XADD write an index register, its limit in bits 15:8 and its base in bits 7:0, for each active thread whose new value has a
limit from 1 to 160, a base of at least 96 and a sum of at most nreg; any other thread takes INDEX_BOUND. -/
def Obligations.PredicateAndIndexWordsComplete : Prop :=
  (∀ (f : RForm) (sh : Shape) (s : State) (i : Issue) (x : Nat → Nat), LegalR s i 0x2B f sh → Begins s i →
     (extSub f.ext = 1 →
       (∀ t ∈ s.active i (extGuard f.ext), s.read i t f.a f.ea Opd.one (if extXo f.ext == 1 then some (extXs f.ext) else none) = .val (x t)) →
       exec (.pmov f) s = .next (State.endPass ((s.active i (extGuard f.ext)).foldl (fun u t =>
         u.modThread (i.tk t) (fun th => { th with p := BitVec.ofNat 8 (x t) })) s) i)) ∧
     (extSub f.ext = 2 →
       (∀ t ∈ lanesOf i.path, extGuard f.ext (s.thread (i.tk t)) = true →
         s.read i t f.a f.ea Opd.one (if extXo f.ext == 1 then some (extXs f.ext) else none) = .val (x t)) →
       exec (.pmov f) s = .next (State.endPass (((lanesOf i.path).filter (fun t => extGuard f.ext (s.thread (i.tk t)))).foldl (fun u t =>
         u.modThread (i.tk t) (fun th => { th with em := x t % 2 == 1 })) s) i))) ∧
  ((∀ (f : IForm) (s : State) (i : Issue), iLegal 0xE1 f = true → Begins s i →
     (1 ≤ f.imm.toNat / 256 ∧ f.imm.toNat / 256 ≤ 160 ∧ 96 ≤ f.imm.toNat % 256 ∧ f.imm.toNat % 256 + f.imm.toNat / 256 ≤ (s.block i.b).nreg →
       exec (.xset f) s = .next (State.endPass ((s.active i (fun _ => true)).foldl (fun u t => u.modThread (i.tk t) (fun th =>
         { th with x := Table.set 0#32 th.x (f.d.toNat % 4) (BitVec.ofNat 32 f.imm.toNat) })) s) i)) ∧
     (¬(1 ≤ f.imm.toNat / 256 ∧ f.imm.toNat / 256 ≤ 160 ∧ 96 ≤ f.imm.toNat % 256 ∧ f.imm.toNat % 256 + f.imm.toNat / 256 ≤ (s.block i.b).nreg) →
       exec (.xset f) s = .next (s.trapActive i (s.active i (fun _ => true))
         { code := 9, tval := BitVec.ofNat 64 (f.imm.toNat % 256 * 256 + f.imm.toNat / 256), info := BitVec.ofNat 64 (f.d.toNat % 4) }))) ∧
   (∀ (f : RForm) (sh : Shape) (s : State) (i : Issue) (y : Nat → Nat) (x : Nat → W32), LegalR s i 0xE2 f sh → Begins s i →
     (∀ t ∈ s.active i (fun _ => true), s.read i t f.a f.ea Opd.one none = .val (y t) ∧ x t = Table.get 0#32 (s.thread (i.tk t)).x (f.d.toNat % 4) ∧
       1 ≤ xLimit (x t) ∧ xLimit (x t) ≤ 160 ∧ 96 ≤ (xBase (x t) : Int) + bitsToInt true 32 (y t) ∧
       (xBase (x t) : Int) + bitsToInt true 32 (y t) + xLimit (x t) ≤ (s.block i.b).nreg) →
     exec (.xadd f) s = .next (State.endPass ((s.active i (fun _ => true)).foldl (fun u t => u.modThread (i.tk t) (fun th =>
       { th with x := (Table.set 0#32 th.x (f.d.toNat % 4) (BitVec.ofNat 32
                        (xLimit (x t) * 256 + ((xBase (x t) : Int) + bitsToInt true 32 (y t)).toNat))) })) s) i)))

/-! ### Exchange -/

/-- 11 R322, R324 to R327: the one-pass exchange forms. PREV gives each active thread the a of the active thread before it, the first one its own
b; SCAN and SSCAN carry a combination from thread to thread; XREAD reads the a of its own or an earlier active thread, else c; BCAST.first
gives every active thread the a of the first. 11 R323, R326, R327, R330: the two-pass exchange forms. A first step latches the sources of the active threads and empties their destinations;
a second one gives every one of them its result in ascending order, and pix returns to 0. XREAD.two reads any active thread, BCAST.last the last
active thread that is no helper, BCAST.lane the named one, and MATCH gives the mask of the active threads that are no helpers and hold an equal a. 11 R328: VOTE gives every active thread, or, where the guard of the path's first thread holds (02 R32), the s register of a uniform form, the ballot, all, any or count of the predicate over the active
threads that are no helpers, as they stand at the start of the pass. 11 R329: the quad forms read every active thread of a quad before any writes. QXCH gives each thread the a of its partner in the quad, or its
own where the partner is not active; QRED gives each thread the combination of the quad's active threads that are no helpers. -/
def Obligations.ExchangesVotesAndQuadsComplete : Prop :=
  (∀ (f : RForm) (op : Nat) (sh : Shape) (s : State) (i : Issue) (xs : Nat → List Nat) (r : Nat → Nat), LegalR s i op f sh → Begins s i →
     (∀ t ∈ s.active i (extGuard f.ext), TurnReady (Fields.ofR f) sh s i t (xs t) (r t)) →
     (op = 0x80 → exec (.prev f) s = .next ((s.writeEach i (s.active i (extGuard f.ext)) r sh.d.n (fun t =>
       match ((s.active i (extGuard f.ext)).filter (fun u => decide (u < t))).getLast? with
       | some u => (argsOf (xs u)).a
       | none => (argsOf (xs t)).b)).endPass i)) ∧
     (op = 0x81 → exec (.scan f) s = .next ((s.scanEach i (s.active i (extGuard f.ext)) r sh.d.n (fun t => argsOf (xs t)) (fun _ => false)
       (extSub f.ext / 8 % 2 == 1) (extSub f.ext % 8) (RForm.tyOf 0x81 f) (extRnd f.ext)).endPass i)) ∧
     (op = 0x82 → exec (.sscan f) s = .next ((s.scanEach i (s.active i (extGuard f.ext)) r sh.d.n (fun t => argsOf (xs t))
       (fun t => headHolds (extSub f.ext) (s.thread (i.tk t)))
       (extSub f.ext / 8 % 2 == 1) (extSub f.ext % 8) (RForm.tyOf 0x82 f) (extRnd f.ext)).endPass i)) ∧
     (op = 0x83 → extSub f.ext ≠ 1 → exec (.xread f) s = .next ((s.writeEach i (s.active i (extGuard f.ext)) r sh.d.n (fun t =>
       if (argsOf (xs t)).b = t then (argsOf (xs t)).a
       else if (argsOf (xs t)).b < t ∧ (argsOf (xs t)).b ∈ s.active i (extGuard f.ext) then (argsOf (xs (argsOf (xs t)).b)).a
       else (argsOf (xs t)).c)).endPass i)) ∧
     (op = 0x84 → extSub f.ext / 32 = 0 → (Fields.ofR f).uniform sh = false →
       exec (.bcast f) s = .next ((s.writeEach i (s.active i (extGuard f.ext)) r sh.d.n (fun t =>
         (argsOf (xs ((s.active i (extGuard f.ext)).headD t))).a)).endPass i))) ∧
  (∀ (f : RForm) (op : Nat) (sh : Shape) (e : Instr) (val : Nat → Nat) (s : State) (i : Issue) (xs : Nat → List Nat) (r : Nat → Nat),
     LegalR s i op f sh → Begins s i → PixFree s i → (Fields.ofR f).uniform sh = false →
     (∀ t ∈ s.active i (extGuard f.ext), TurnReady (Fields.ofR f) sh s i t (xs t) (r t)) →
     ((op = 0x83 ∧ e = .xread f ∧ extSub f.ext = 1 ∧ val = fun t =>
         if (argsOf (xs t)).b ∈ s.active i (extGuard f.ext) then (argsOf (xs (argsOf (xs t)).b)).a else (argsOf (xs t)).c) ∨
       (op = 0x84 ∧ e = .bcast f ∧ extSub f.ext / 32 = 1 ∧ val = fun t =>
         (argsOf (xs (((s.active i (extGuard f.ext)).filter (fun u => !(s.group i.gk).help.getLsbD u)).getLast?.getD t))).a) ∨
       (op = 0x84 ∧ e = .bcast f ∧ extSub f.ext / 32 = 2 ∧ val = fun t =>
         (argsOf (xs (if extSub f.ext % 32 ∈ s.active i (extGuard f.ext) then extSub f.ext % 32 else t))).a) ∨
       (op = 0x88 ∧ e = .xmatch f ∧ val = fun t => (maskOf ((s.active i (extGuard f.ext)).filter (fun u =>
         !(s.group i.gk).help.getLsbD u && (argsOf (xs u)).a == (argsOf (xs t)).a))).toNat)) →
     ∃ u, exec e s = .next u ∧ Latched s i (s.active i (extGuard f.ext)) r sh.d.n u ∧
       exec e u = .next (State.endPass ((u.writeEach i (s.active i (extGuard f.ext)) r sh.d.n val).modGroup i.gk
         (fun gr => { gr with pix := 0#32, pixOwner := 0#32 })) i)) ∧
  (∀ (f : RForm) (sh : Shape) (s : State) (i : Issue) (r : Nat → Nat) (all hold : List Nat) (v : Nat), LegalR s i 0x85 f sh → Begins s i →
     all = (s.active i (extGuard f.ext)).filter (fun t => (s.thread (i.tk t)).role == Role.live) →
     hold = all.filter (fun t => (s.thread (i.tk t)).p.getLsbD (extSub f.ext % 8) != (extSub f.ext / 8 % 2 == 1)) →
     v = (match extSub f.ext / 16 % 4 with
       | 0 => (maskOf hold).toNat
       | 1 => if hold.length = all.length then 1 else 0
       | 2 => if hold.length = 0 then 0 else 1
       | _ => hold.length) →
     ((Fields.ofR f).uniform sh = true → s.uniformGuard i f.ext = true → s.destReady i 0 (.s (f.d.toNat - 96)) 1 = true →
       exec (.vote f) s = .next ((s.writeCells i 0 (.s (f.d.toNat - 96)) 1 v).endPass i)) ∧
     ((Fields.ofR f).uniform sh = false →
       (∀ t ∈ s.active i (extGuard f.ext), TurnReady (Fields.ofR f) sh s i t (List.replicate 4 0) (r t)) →
       exec (.vote f) s = .next ((s.writeEach i (s.active i (extGuard f.ext)) r 1 (fun _ => v)).endPass i))) ∧
  (∀ (f : RForm) (op : Nat) (sh : Shape) (s : State) (i : Issue) (xs : Nat → List Nat) (r : Nat → Nat), LegalR s i op f sh → Begins s i →
     (∀ t ∈ s.active i (extGuard f.ext), TurnReady (Fields.ofR f) sh s i t (xs t) (r t)) →
     (op = 0x86 → exec (.qxch f) s = .next ((s.writeEach i (s.active i (extGuard f.ext)) r sh.d.n (fun t =>
       let partner := if extSub f.ext / 4 = 1 then t / 4 * 4 + extSub f.ext % 4 else t / 4 * 4 + ((t % 4) ^^^ (extSub f.ext % 4))
       (argsOf (xs (if partner ∈ s.active i (extGuard f.ext) then partner else t))).a)).endPass i)) ∧
     (op = 0x87 → exec (.qred f) s = .next (State.endPass ((List.range 8).foldl (fun u k =>
       let vs := ((s.active i (extGuard f.ext)).filter (fun t => t / 4 == k && (s.thread (i.tk t)).role == Role.live)).map (fun t => (argsOf (xs t)).a)
       ((s.active i (extGuard f.ext)).filter (fun t => t / 4 == k)).foldl (fun v t =>
         let z := match vs with
           | [] => ((argsOf (xs t)).a, Flags.none)
           | y :: ys => ys.foldl (fun acc x => ((combine (extSub f.ext % 8) (RForm.tyOf 0x87 f) (extRnd f.ext) (u.group i.gk) acc.1 x).1,
               acc.2 ||| (combine (extSub f.ext % 8) (RForm.tyOf 0x87 f) (extRnd f.ext) (u.group i.gk) acc.1 x).2)) (y, Flags.none)
         (v.writeCells i t (.v (r t)) sh.d.n z.1).setSticky i.gk z.2) u) s) i)))

/-! ### Control flow, rejoin sets, index registers, macros and system words -/

/-- 11 R309, R319, R320; 16 R433: each active thread of BRA, CALL, BRX, RET and ERET goes to its target, and the others take the next word; CALL
writes the address of the next word over v30 and v31 first. BRU takes the whole path, or none of it, by the guard of its first thread. 11 R310, R313, R319; 16 R425: where no thread has a trap pending, EXIT takes every active thread out of the sets and barriers of its group,
and it is exited from then on. -/
def Obligations.BranchesAndExitComplete : Prop :=
  (∀ (s : State) (i : Issue), Begins s i →
     (∀ f : BForm, exec (.bra f) s = .next (State.endPassFor ((s.active i (bGuard f)).foldl (fun u t =>
         u.modThread (i.tk t) (fun th => { th with tpc := i.target f.off.toInt })) s) i (i.path &&& ~~~maskOf (s.active i (bGuard f))))) ∧
     (∀ f : BForm, bGuard f (s.thread (i.tk (firstLane i.path))) = true → exec (.bru f) s = .next (State.endPassFor ((lanesOf i.path).foldl
         (fun u t => u.modThread (i.tk t) (fun th => { th with tpc := i.target f.off.toInt })) s) i 0#32)) ∧
     (∀ f : BForm, bGuard f (s.thread (i.tk (firstLane i.path))) = false → exec (.bru f) s = .next (s.endPass i)) ∧
     (∀ f : BForm, (∀ t ∈ s.active i (bGuard f), s.destReady i t (.v 30) 2 = true) → exec (.call f) s = .next (State.endPassFor
         ((s.active i (bGuard f)).foldl (fun u t => (u.writeCells i t (.v 30) 2 (pcAddr i.nextPc).toNat).modThread (i.tk t)
           (fun th => { th with tpc := i.target f.off.toInt })) s) i (i.path &&& ~~~maskOf (s.active i (bGuard f))))) ∧
     (∀ (f : RForm) (sh : Shape) (x : Nat → Nat), LegalR s i 0x03 f sh →
       (∀ t ∈ s.active i (extGuard f.ext), s.read i t f.a f.ea Opd.one (if extXo f.ext == 1 then some (extXs f.ext) else none) = .val (x t)) →
       exec (.brx f) s = .next (State.endPassFor ((s.active i (extGuard f.ext)).foldl (fun u t =>
         u.modThread (i.tk t) (fun th => { th with tpc := i.target (BitVec.ofNat 32 (x t)).toInt })) s) i
         (i.path &&& ~~~maskOf (s.active i (extGuard f.ext))))) ∧
     (∀ (f : RForm) (sh : Shape) (x : Nat → Nat), LegalR s i 0x05 f sh →
       (∀ t ∈ s.active i (extGuard f.ext), s.read i t f.a f.ea Opd.pair (if extXo f.ext == 1 then some (extXs f.ext) else none) = .val (x t) ∧
         x t % 4 = 0 ∧ x t < 2 ^ 57) →
       exec (.ret f) s = .next (State.endPassFor ((s.active i (extGuard f.ext)).foldl (fun u t =>
         u.modThread (i.tk t) (fun th => { th with tpc := mkPc (BitVec.ofNat 64 (x t)) 0 })) s) i
         (i.path &&& ~~~maskOf (s.active i (extGuard f.ext))))) ∧
     (∀ (f : RForm) (sh : Shape), LegalR s i 0xF1 f sh → (∀ t ∈ s.active i (fun _ => true), (s.thread (i.tk t)).th = true) →
       exec (.eret f) s = .next (State.endPassFor ((s.active i (fun _ => true)).foldl (fun u t => u.modThread (i.tk t) (fun th =>
         if f.d = 1#7 then { th with th := false, tpc := th.tnpc, tmw := if th.tword &&& 0xFF000000#64 = 0xE0000000#64 then 0#5 else th.tmw
                                     slot := none, replay := none, kept := none, tpix := 0#32 }
         else { th with th := false, tpc := th.tepc, kept := none
                        slot := (th.kept.filter (fun k => k.pc == th.tepc)).bind Redo.slot
                        replay := (th.kept.filter (fun k => k.pc == th.tepc)).bind (fun k => if k.replay then some k.pc else none) })) s) i (i.path &&& ~~~maskOf (s.active i (fun _ => true)))))) ∧
  ((∀ (s : State) (i : Issue) (f : BForm), Begins s i → f.off = 0#20 → (∀ t ∈ s.active i (bGuard f), (s.thread (i.tk t)).pending = none) →
     exec (.exit f) s = .next (State.endPass ((s.active i (bGuard f)).foldl (fun u t => u.exitThread i.b i.g t) s) i)) ∧
   (∀ (s : State) (i : Issue) (t : Nat), Present s i t → ((s.exitThread i.b i.g t).thread (i.tk t)).exited = true))

/-- 11 R311, R312: how a rejoin set changes: what JENTER, an arrival, JQUIT or EXIT and completion make of it in each of its states. -/
def Obligations.RejoinSetEvents : Prop :=
  (∀ (js : JSet) (e : W32), js.enter e = match js.state with
    | .free => if e = 0#32 then js else { state := .opened, member := e, arrived := 0#32 }
    | _ => { state := .opened, member := js.member ||| e, arrived := js.arrived }) ∧
  (∀ (js : JSet) (a : W32), a ≠ 0#32 → js.arrive a = match js.state with
    | .free => js
    | .opened => { js with arrived := js.arrived ||| a }
    | .released => { js with state := .opened, arrived := a }) ∧
  (∀ (js : JSet) (q : W32), js.quit q = match js.state with
    | .free => js
    | st => if js.member &&& ~~~q = 0#32 then { state := .free, member := 0#32, arrived := 0#32 }
      else { state := st, member := js.member &&& ~~~q, arrived := js.arrived &&& ~~~q &&& js.member }) ∧
  (∀ (s : State) (gk n : Nat), (Table.find s.groups gk).isSome → Table.wf {} (s.group gk).j = true →
    ((s.group gk).set n).state = .opened → ((s.group gk).set n).member ≠ 0#32 → ((s.group gk).set n).member = ((s.group gk).set n).arrived →
    ((s.testComplete gk n).group gk).set n = { state := .released, member := ((s.group gk).set n).member, arrived := 0#32 } ∧
    ∀ t q, t < 32 → (s.thread (tkey gk t)).wait = some q → q.on = .set n →
      (s.testComplete gk n).thread (tkey gk t) = { s.thread (tkey gk t) with wait := none, tpc := q.next })

/-- 11 R315, R316: JENTER, JQUIT, JFREE act on the set with the active threads that are no helpers; at JWAIT those that are members arrive and
wait, with the word after it as their next, the others take ORPHAN_SET, helpers wait alongside where some thread arrives, and the rest goes on. 11 R317; 07 R225: JPUSH stores the set's member, arrived and state in the next spill slot, frees the set and lets its waiting threads wait on the
slot; JPOP takes the top slot off and makes the set of it, its members those still live, the threads waiting on the slot arrived. -/
def Obligations.RejoinWordsAndSpillsComplete : Prop :=
  (∀ (f : RForm) (op : Nat) (sh : Shape) (s : State) (i : Issue) (n : Nat) (live : List Nat), LegalR s i op f sh → Begins s i → n = f.d.toNat % 16 →
     live = (s.active i (extGuard f.ext)).filter (fun t => (s.thread (i.tk t)).role == Role.live) →
     (op = 0x08 → exec (.jenter f) s = .next ((s.modSet i n (fun js => js.enter (maskOf live))).endPass i)) ∧
     (op = 0x09 → exec (.jquit f) s = .next (((s.modSet i n (fun js => js.quit (maskOf live))).testComplete i.gk n).endPass i)) ∧
     (op = 0x0B → extGuard f.ext (s.thread (i.tk (firstLane i.path))) = false → exec (.jfree f) s = .next (s.endPass i)) ∧
     (op = 0x0B → extGuard f.ext (s.thread (i.tk (firstLane i.path))) = true → ((s.group i.gk).set n).arrived = 0#32 →
       exec (.jfree f) s = .next ((s.modSet i n (fun _ => {})).endPass i)) ∧
     (op = 0x0A → (∀ t ∈ live, ((s.group i.gk).set n).member.getLsbD t = true) → live ≠ [] →
       (∀ t ∈ lanesOf i.path, (s.thread (i.tk t)).running = true → t ∈ live ∨ (s.thread (i.tk t)).role = .helper) →
       exec (.jwait f) s = .next (State.endPassFor (((((live ++ (lanesOf i.path).filter (fun t => (s.thread (i.tk t)).role == Role.helper)).foldl
         (fun u t => u.modThread (i.tk t) (fun th => { th with wait := some { on := .set n, jn := n, next := i.nextPc, word := i.word } })) s).modSet i n
         (fun js => js.arrive (maskOf live))).testComplete i.gk n)) i 0#32))) ∧
  (∀ (f : RForm) (op : Nat) (sh : Shape) (s : State) (i : Issue) (n m pa o : Nat) (sp : Space), LegalR s i op f sh → Once s i f.ext → n = f.d.toNat % 16 →
     (op = 0x0C → m = (s.group i.gk).ssp.toNat / 128 → m + 1 ≤ (s.group i.gk).spillCap →
       s.spillReach i ((s.group i.gk).slotAddr m 0) 128 Need.write = .ok sp pa o → s.unlogged i ((s.group i.gk).slotAddr m 0) sp →
       exec (.jpush f) s = .next (State.memoryEnd ((((((List.range 8).foldl (fun u k => u.gather i
         { lane := { t := firstLane i.path, va := (s.group i.gk).slotAddr m 0 + 16 * k, addr := pa + 16 * k, w := 16, rc := true
                     data := (((s.group i.gk).set n).member.toNat + 2 ^ 32 * ((s.group i.gk).set n).arrived.toNat
                       + 2 ^ 64 * ((s.group i.gk).set n).state.code) / 2 ^ (128 * k) % 2 ^ 128 }
           space := sp, ord := o }) s).modSet i n (fun _ => {})).rewait i.gk (.set n) (.slot m)).modGroup i.gk
             (fun gr => { gr with ssp := BitVec.ofNat 32 (128 * (m + 1)) }))) i .store 0 true)) ∧
     (op = 0x0D → (s.group i.gk).ssp.toNat / 128 = m + 1 → ((s.group i.gk).set n).arrived = 0#32 →
       s.spillReach i ((s.group i.gk).slotAddr m 0) 128 Need.read = .ok sp pa o → s.groupTouches i pa 128 = false →
       s.mayAccess i sp ((s.group i.gk).slotAddr m 0) pa 128 false false = true → s.poisoned sp pa = false →
       ∀ live member arrived : W32, live = maskOf (s.lanesWhere i.gk (fun th => th.role == Role.live && !th.exited)) →
       member = BitVec.ofNat 32 (s.load sp pa 4) &&& live →
       arrived = maskOf ((s.waiters i.gk (.slot m)).filter (fun t => (s.thread (i.tk t)).role == Role.live)) →
       exec (.jpop f) s = .next (State.endPass ((((((s.replayed i).modSet i n (fun _ =>
           if member = 0#32 then { arrived := arrived }
           else { state := if arrived = 0#32 ∧ s.load sp (pa + 8) 4 % 4 = 2 then .released else .opened, member := member, arrived := arrived })).rewait
         i.gk (.slot m) (.set n)).modGroup i.gk (fun gr => { gr with ssp := BitVec.ofNat 32 (128 * m) })).testComplete i.gk n)) i)))

/-! ### Memory words -/

/-- 07 R221, R206, R207, R213: LD, LDS, LDX and LDNC. The d of each active thread is left empty and its access gathered, or filled with zeros where
the record drops it; the accesses go out at the end of the pass. A destination in s: once, for the first thread of the path, if its guard holds. -/
def Obligations.LoadsComplete : Prop :=
  ∀ (f : RForm) (op : Nat) (e : Instr) (via : Via) (kind : ReqKind) (sh : Shape) (s : State) (i : Issue),
    (e, op, via, kind) ∈ loadForms f → LegalR s i op f sh → Begins s i →
    (∀ (ts : List Nat) (l : Nat → Loc) (x : Nat → Access), Turns (Fields.ofR f) sh s i ts →
      (∀ t ∈ ts, ((∃ r, l t = .v r) ∨ (Fields.ofR f).uniform sh = true) ∧
        LoadReady (Fields.ofR f) sh via (sizeBytes (extSub f.ext % 8)) Need.read s i t (l t) (x t)) →
      exec e s = .next (State.memoryDone (ts.foldl (fun u t =>
        u.takeLoad i t (l t) sh.d.n (extSub f.ext % 8) (sizeBytes (extSub f.ext % 8)) (x t)) s) i kind (extRnd f.ext) ((Fields.ofR f).uniform sh))) ∧
    ((Fields.ofR f).uniform sh = true → extGuard f.ext (s.thread (i.tk (firstLane i.path))) = false → exec e s = .next (s.endPass i))

/-- 07 R221, R206: ST, STS and STX. Each active thread's access is gathered with its data, unless the record drops it or the thread is a helper;
the accesses go out at the end of the pass. -/
def Obligations.StoresComplete : Prop :=
  ∀ (f : RForm) (op : Nat) (e : Instr) (via : Via) (sh : Shape) (s : State) (i : Issue) (data : Nat → Nat) (x : Nat → Access),
    (e, op, via) ∈ storeForms f → LegalR s i op f sh → Begins s i →
    (∀ t ∈ s.active i (extGuard f.ext), StoreReady (Fields.ofR f) sh via (sizeBytes (extSub f.ext % 8)) s i t (data t) (x t)) →
    exec e s = .next (State.memoryEnd ((s.active i (extGuard f.ext)).foldl (fun u t =>
      u.takeStore i t (sizeBytes (extSub f.ext % 8)) (data t) (x t)) s) i .store (extRnd f.ext))

/-- 07 R222, R223: ATOM, ATOMS and ATOMX. The returning forms leave d empty for the old value, the others name no destination; each access is
gathered with its operand and compare value. A destination in s: once, for the first thread of the path. -/
def Obligations.AtomicsComplete : Prop :=
  ∀ (f : RForm) (op : Nat) (e : Instr) (via : Via) (sh : Shape) (s : State) (i : Issue) (ts : List Nat) (l : Nat → Loc) (c : Nat → Nat)
    (x : Nat → Access), (e, op, via) ∈ atomicForms f → LegalR s i op f sh → Begins s i → Turns (Fields.ofR f) sh s i ts →
    (∀ t ∈ ts, AtomReady (Fields.ofR f) sh via (extSub f.ext % 16) (extTy 0 f.ext) s i t (c t) (x t)) →
    (extSub f.ext / 16 % 2 = 0 →
      (∀ t ∈ ts, ((∃ r, l t = .v r) ∨ (Fields.ofR f).uniform sh = true) ∧ s.destReady i t (l t) sh.d.n = true ∧
        locate (s.thread (i.tk t)) f.d sh.d (if extXo f.ext == 3 then some (extXs f.ext) else none) = .ok (l t)) →
      exec e s = .next (State.memoryDone (ts.foldl (fun u t => match x t with
        | .dropped => u.writeCells i t (l t) sh.d.n 0
        | .at_ va pa sp ord => ((u.emptyCells i t (l t) sh.d.n).modThread (i.tk t) (fun th => { th with replay := none })).gather i
            { lane := atomLane t (extSub f.ext % 16) (atomBytes (extTy 0 f.ext)) (c t) va pa ((l t).into sh.d.n), space := sp, ord := ord }) s) i
        (.atomic (extSub f.ext % 16) (extTy 0 f.ext) true) (extRnd f.ext) ((Fields.ofR f).uniform sh))) ∧
    (extSub f.ext / 16 % 2 = 1 → (∀ t ∈ ts, ∀ va pa sp ord, x t = .at_ va pa sp ord → s.unlogged i va sp) →
      exec e s = .next (State.memoryDone (ts.foldl (fun u t => match x t with
        | .dropped => u
        | .at_ va pa sp ord => u.gather i
            { lane := atomLane t (extSub f.ext % 16) (atomBytes (extTy 0 f.ext)) (c t) va pa .nothing, space := sp, ord := ord }) s) i
        (.atomic (extSub f.ext % 16) (extTy 0 f.ext) false) (extRnd f.ext) ((Fields.ofR f).uniform sh)))

/-- 02 R55: LDL leaves d of each active thread empty and fetches its words from the literal pool, with execute permission; a destination in s
once for the first thread. 07 R226, R227: PREF prefetches for each active thread and touches nothing but near caches; BLD leaves a record empty for 16 bytes to come and
BST stores one; BSET replaces one word of a record and BGET reads one into d. 07 R228, R229; 16 R434: WSET of registers the block has begins a copy: pix holds some number of copied registers, below their count, and the path
waits; the completion brings pix back to 0, and the path then goes on. -/
def Obligations.LiteralRecordAndWorkingSetWordsComplete : Prop :=
  (∀ (f : IForm) (sh : Shape) (s : State) (i : Issue) (l : Nat → Loc) (pa : Nat → Nat) (sp : Nat → Space) (ord : Nat → Nat) (ts : List Nat),
     LegalI s i 0x3A f sh → Begins s i →
     ts = (if (Fields.ofI f).uniform sh then [firstLane i.path] else s.active i (fun _ => true)) →
     (∀ t ∈ ts, locate (s.thread (i.tk t)) f.d sh.d none = .ok (l t) ∧ s.destReady i t (l t) sh.d.n = true ∧ (s.thread (i.tk t)).park = .none) →
     (∀ j < sh.d.n, s.reach (s.block i.b).ctx (some i.b) [] (((pcAddr (i.hdr + BitVec.ofInt 64 (4 * f.imm.toInt))).toNat + 4 * j) % 2 ^ 57) 4 Need.exec
       = .ok (sp j) (pa j) (ord j)) →
     exec (.ldl f) s = .next (State.memoryDone (ts.foldl (fun u t => (List.range sh.d.n).foldl (fun u j => u.gather i
         { lane := { t := t, va := ((pcAddr (i.hdr + BitVec.ofInt 64 (4 * f.imm.toInt))).toNat + 4 * j) % 2 ^ 57, addr := pa j, w := 4
                     into := match l t with | .v r => .v (r + j) 1 | .s r => .s (r + j) 1 }, space := sp j, ord := ord j })
         ((u.emptyCells i t (l t) sh.d.n).modThread (i.tk t) (fun th => { th with replay := none }))) s) i .literal 0 ((Fields.ofI f).uniform sh))) ∧
  (∀ (f : RForm) (op : Nat) (sh : Shape) (s : State) (i : Issue), LegalR s i op f sh → Begins s i →
     (op = 0x9B → ∀ (x : Nat → Nat) (r : Nat), (∀ t ∈ s.active i (extGuard f.ext), s.readA i t f sh.a = .val (x t)) →
       (s.group i.gk).record (f.b.toNat % 16) false = .val r →
       ∃ c, exec (.pref f) s = .next ({ s with cores := c }.endPass i) ∧ (extSub f.ext ≠ 1 → c = s.cores)) ∧
     (op = 0xA0 → Once s i f.ext → s.recordReady i (firstLane i.path) (f.d.toNat % 16) = true → ∀ y r va pa sp o,
       s.readA i (firstLane i.path) f sh.a = .val y → s.viaRecord i (recordMoveVia f) = .val r →
       s.form i (recordMoveVia f) y 16 (BitVec.ofNat 128 r) = .addr va → s.target i (recordMoveVia f) va 16 Need.read = .ok sp pa o →
       (s.thread (i.tk (firstLane i.path))).park = .none →
       exec (.bld f) s = .next (State.memoryDone (((s.setRecord i (f.d.toNat % 16)
           { Table.get {} (s.group i.gk).b (f.d.toNat % 16) with full := false, mark := none }).modThread (i.tk (firstLane i.path))
             (fun th => { th with replay := none })).gather i
           { lane := { t := firstLane i.path, va := va, addr := pa, w := 16, into := .record (f.d.toNat % 16) }, space := sp, ord := o }) i .load 0 true)) ∧
     (op = 0xA1 → Once s i f.ext → ∀ y r data va pa sp o,
       s.readA i (firstLane i.path) f sh.a = .val y → s.viaRecord i (recordMoveVia f) = .val r →
       (s.group i.gk).record (f.d.toNat % 16) (extSub f.ext == 1 && f.eb) = .val data →
       s.form i (recordMoveVia f) y 16 (BitVec.ofNat 128 r) = .addr va → s.target i (recordMoveVia f) va 16 Need.write = .ok sp pa o → s.unlogged i va sp →
       (s.thread (i.tk (firstLane i.path))).park = .none →
       exec (.bst f) s = .next (State.memoryDone (s.gather i
           { lane := { t := firstLane i.path, va := va, addr := pa, w := 16, data := data }, space := sp, ord := o }) i .store 0 true)) ∧
     (op = 0xA2 → Once s i f.ext → s.recordReady i (firstLane i.path) (f.d.toNat % 16) = true → ∀ y,
       s.readA i (firstLane i.path) f sh.a = .val y →
       exec (.bset f) s = .next (State.endPass (s.modGroup i.gk (fun gr => { gr with b := (Table.set {} gr.b (f.d.toNat % 16)
                             { val := setRecordWord (Table.get {} (s.group i.gk).b (f.d.toNat % 16)).val (extSub f.ext) y }) })) i)) ∧
     (op = 0xA3 → ∀ (r : Nat) (ts : List Nat) (d : Nat → Loc), (s.group i.gk).record (f.b.toNat % 16) f.eb = .val r → Turns (Fields.ofR f) sh s i ts →
       (∀ t ∈ ts, ((∃ r, d t = .v r) ∨ (Fields.ofR f).uniform sh = true) ∧ s.destReady i t (d t) 1 = true ∧
         locate (s.thread (i.tk t)) f.d sh.d (if extXo f.ext == 3 then some (extXs f.ext) else none) = .ok (d t)) →
       exec (.bget f) s = .next (State.endPass (ts.foldl (fun u t => u.writeCells i t (d t) 1 (r / 2 ^ (32 * extSub f.ext) % 2 ^ 32)) s) i))) ∧
  ((∀ (f : RForm) (sh : Shape) (s : State) (i : Issue), LegalR s i 0xA4 f sh → Begins s i → PixFree s i → s.holdOf i ≠ some .wset →
     wsetRegs (wsetRanges f) ≠ [] → (∀ r ∈ wsetRegs (wsetRanges f), r < (s.block i.b).nreg) →
     ∃ p < (wsetRegs (wsetRanges f)).length, exec (.wset f) s = .next ((s.modGroup i.gk (fun gr =>
       { gr with wset := wsetRegs (wsetRanges f), wsetCopying := true, pixOwner := i.path, pix := BitVec.ofNat 32 p })).holdPath i .wset)) ∧
   (∀ (s : State) (b g : Nat), (s.group (gkey b g)).wsetCopying = true → exec (.wsetCopyComplete b g) s = .next (s.modGroup (gkey b g) (fun gr =>
     { gr with wsetCopying := false, pix := 0#32, pixOwner := 0#32 }))) ∧
   (∀ (f : RForm) (sh : Shape) (s : State) (i : Issue), LegalR s i 0xA4 f sh → Begins s i → s.holdOf i = some .wset → (s.group i.gk).wsetCopying = false →
     (∀ r ∈ wsetRegs (wsetRanges f), r < (s.block i.b).nreg) → exec (.wset f) s = .next (s.endPass i)))

/-- 07 R210, R221; 02 R30: the data of a request that no earlier access of its threads must precede arrives: its destinations fill with the bytes,
sign-extended as the size says, from the near cache where LDNC hits, but never for an SO page; a destination whose sector is poisoned stays empty with
the mark. The old values of a performed atomic fill too. An acquire, and an access to an SO page, discards the core's near cache (R268). 07 R211, R222, R223: a store or atomic that no earlier access of its threads must precede is performed: the bytes its request names take the
data, or what the operation makes of the old value, which a returning form then answers with. -/
def Obligations.MemoryRequestsArePerformed : Prop :=
  (∀ (s u : State) (id : Nat) (r : Req), Table.find s.reqs id = some r → s.foreign r.core r.ctx = false → s.inert r.b = false →
     (r.kind = .answered → exec (.loadDataArrival id) s = .next
       { r.lanes.foldl (fun u l => u.fillInto r.b r.g l l.data) s with reqs := Table.erase s.reqs id }) ∧
     (r.kind = .load ∨ r.kind = .literal ∨ (r.kind = .near ∧ r.so = true) → s.reqReady id r = true →
       u = r.lanes.foldl (fun u l => if s.poisoned r.space l.addr = true
           then u.markInto r.b r.g l { code := 5, src := 1, origin := r.origin, tval := BitVec.ofNat 64 (l.va / 128 * 128), info := 0 }
           else u.fillInto r.b r.g l (extendBytes l.ext (s.load r.space l.addr l.w))) s →
       exec (.loadDataArrival id) s = .next { (if r.acq || r.so then u.clearNear r.core else u) with reqs := Table.erase s.reqs id }) ∧
     (r.kind = .near → r.so = false → s.reqReady id r = true → r.space = .main →
       (∀ l ∈ r.lanes, 0 < l.w ∧ (Table.find (Table.get ({} : Core) s.cores r.core).near (sectorOf l.addr)).isSome ∧
         Table.find (Table.get ({} : Core) s.cores r.core).nearPoison (sectorOf l.addr) = none) →
       u = r.lanes.foldl (fun u l => u.fillInto r.b r.g l (extendBytes l.ext ((s.nearBytes r.core l.addr l.w).getD 0))) s →
       exec (.loadDataArrival id) s = .next { (if r.acq then u.clearNear r.core else u) with reqs := Table.erase s.reqs id })) ∧
  (∀ (s : State) (id : Nat) (r : Req), Table.find s.reqs id = some r → s.foreign r.core r.ctx = false → s.reqReady id r = true → s.canonical = true →
     Table.wf [] s.spaces = true →
     Table.risingFrom 0 s.reqs = true →
     (r.kind = .store → ∃ u, exec (.storeAcknowledge id) s = .next u ∧ Table.find u.reqs id = none ∧
       (∀ sp a, (∀ l ∈ r.lanes, sp.key ≠ r.space.key ∨ a < l.addr ∨ l.addr + l.w ≤ a) → (u.memOf sp).byte a = (s.memOf sp).byte a) ∧
       (∀ pre l post, r.lanes = pre ++ l :: post → ∀ j < l.w, (∀ m ∈ post, l.addr + j < m.addr ∨ m.addr + m.w ≤ l.addr + j) →
         (u.memOf r.space).byte (l.addr + j) = BitVec.ofNat 8 (l.data / 256 ^ j))) ∧
     (∀ op ty ret l, r.kind = .atomic op ty ret → r.lanes = [l] → s.poisoned r.space l.addr = false →
       ∃ u, exec (.storeAcknowledge id) s = .next u ∧
         (∀ sp a, sp.key ≠ r.space.key ∨ a < l.addr ∨ l.addr + l.w ≤ a → (u.memOf sp).byte a = (s.memOf sp).byte a) ∧
         u.load r.space l.addr l.w = atomicNew op ty (s.load r.space l.addr l.w) l.data l.cmp % 256 ^ l.w ∧
         Table.find u.reqs id = if ret then some { r with kind := .answered, lanes := [{ l with data := s.load r.space l.addr l.w }] } else none))

/-- The frame of the memory words: whatever becomes of a load, store, atomic or prefetch, it changes no byte and no poison mark of any memory; what it stores goes
out as a request that names address and data (StoresComplete), and is written when that request is performed (MemoryRequestsArePerformed). -/
def Obligations.MemoryWordsFrame : Prop :=
  ∀ (e : Instr) (s t : State) (f : RForm), (∃ op via kind, (e, op, via, kind) ∈ loadForms f) ∨ (∃ op via, (e, op, via) ∈ storeForms f) ∨
      (∃ op via, (e, op, via) ∈ atomicForms f) ∨ e ∈ [.spld f, .spst f, .bld f, .bst f, .bset f, .bget f, .pref f, .jpush f, .jpop f, .wset f] →
    exec e s = .next t → t.mem = s.mem ∧ t.spaces = s.spaces ∧ t.poison = s.poison ∧ t.blocks = s.blocks

/-- 07 R224, R225: SPST stores each active thread's word in the slot that k counts down to from the top, after .grow has taken a slot; SPLD loads
it, and .shrink gives the top slot up at the end of the pass. -/
def Obligations.SpillsComplete : Prop :=
  ∀ (f : RForm) (op : Nat) (sh : Shape) (s u : State) (i : Issue) (n : Nat) (ts : List Nat) (l : Nat → Loc) (x : Nat → Nat) (a : Nat → Access),
    LegalR s i op f sh → Begins s i → (∃ t ∈ lanesOf i.path, (s.thread (i.tk t)).slot = none) → (∀ t ∈ lanesOf i.path, (s.thread (i.tk t)).slot = none) → extSub f.ext < n →
    (op = 0x9A → (n, u) = (if extRnd f.ext = 5 then ((s.group i.gk).ssp.toNat / 128 + 1,
        s.modGroup i.gk (fun gr => { gr with ssp := BitVec.ofNat 32 (128 * ((s.group i.gk).ssp.toNat / 128 + 1)) }))
        else ((s.group i.gk).ssp.toNat / 128, s)) → (extRnd f.ext = 5 → n ≤ (s.group i.gk).spillCap) →
      (∀ t ∈ s.active i (extGuard f.ext), s.read i t f.d false sh.d (if extXo f.ext == 3 then some (extXs f.ext) else none) = .val (x t) ∧
        (match a t with
          | .dropped => (s.thread (i.tk t)).role = .helper
          | .at_ va pa sp _ => (s.thread (i.tk t)).role = .live ∧ va = (s.group i.gk).slotAddr (n - 1 - extSub f.ext) t ∧
              s.spillReach i va 4 Need.write = .ok sp pa 1 ∧ s.unlogged i va sp)) →
      exec (.spst f) s = .next (State.memoryEnd ((s.active i (extGuard f.ext)).foldl (fun v t => match a t with
        | .dropped => v
        | .at_ va pa sp _ => (v.gather i { lane := { t := t, va := va, addr := pa, w := 4, data := x t, rc := true }, space := sp, ord := 1 }).modThread (i.tk t)
            (fun th => { th with slot := none })) u) i .store 0)) ∧
    (op = 0x99 → n = (s.group i.gk).ssp.toNat / 128 → Turns (Fields.ofR f) sh s i ts →
      (∀ t ∈ ts, ((∃ r, l t = .v r) ∨ (Fields.ofR f).uniform sh = true) ∧ s.destReady i t (l t) 1 = true ∧
        locate (s.thread (i.tk t)) f.d sh.d (if extXo f.ext == 3 then some (extXs f.ext) else none) = .ok (l t) ∧
        (match a t with
          | .dropped => (s.thread (i.tk t)).role = .helper
          | .at_ va pa sp _ => (s.thread (i.tk t)).role = .live ∧ va = (s.group i.gk).slotAddr (n - 1 - extSub f.ext) t ∧
              s.spillReach i va 4 Need.read = .ok sp pa 1)) →
      exec (.spld f) s = .next (State.memoryEnd
        (let v := ts.foldl (fun v t => match a t with
            | .dropped => v.writeCells i t (l t) 1 0
            | .at_ va pa sp _ => ((v.emptyCells i t (l t) 1).modThread (i.tk t) (fun th => { th with replay := none, slot := none })).gather i
                { lane := { t := t, va := va, addr := pa, w := 4, into := (l t).into 1, rc := true }, space := sp, ord := 1 }) s
         let v := if (Fields.ofR f).uniform sh then v.replayed i else v
         if extRnd f.ext = 5 then (v.orphanAll i.b i.g (.slot (n - 1))).modGroup i.gk (fun gr => { gr with ssp := BitVec.ofNat 32 (128 * (n - 1)) })
         else v) i .load 0 ((Fields.ofR f).uniform sh)))

/-! ### Copies, tags and barrier objects -/

/-- 08 R232 to R234, R240, R247, R248: a COPY whose operands name two sides, a length and, with bv, a barrier object is accepted where the tag has
room and the engine a slot: the copy stands in the engine, its tag counts one more and its bit is clear. Else the path waits. 08 R249, R251; 16 R434: KICK accepts the request blocks of shared memory one by one, pix holding how many are accepted, and goes on past the last with
pix 0. -/
def Obligations.CopiesAndKicksAreAccepted : Prop :=
  (∀ (f : RForm) (sh : Shape) (s u : State) (i : Issue) (x rs rd : Nat) (src dst : CopySide) (bo : Space × Nat) (tag : Option Nat) (c : Copy),
     LegalR s i 0xB0 f sh → Once s i f.ext → tag = (if extSub f.ext / 64 % 2 = 1 then some (extSub f.ext % 64) else none) →
     (∀ n, tag = some n → (s.block i.b).tgal.getLsbD n = true) →
     s.readA i (firstLane i.path) f sh.a = .val x → (s.group i.gk).sideRecord f.b.toNat f.eb = .val rs → (s.group i.gk).sideRecord f.d.toNat false = .val rd →
     s.copySide i f.b.toNat (x % 2 ^ 32) (x / 2 ^ 64 % 2 ^ 32) (extTy 0 f.ext) (redCode (extRnd f.ext) != 0) (BitVec.ofNat 128 rs) = .ok src →
     s.copySide i f.d.toNat (x / 2 ^ 32 % 2 ^ 32) (x / 2 ^ 64 % 2 ^ 32) (extTy 0 f.ext) (redCode (extRnd f.ext) != 0) (BitVec.ofNat 128 rd) = .ok dst →
     x / 2 ^ 64 % 2 ^ 32 % 16 = 0 → (x / 2 ^ 64 % 2 ^ 32 ≠ 0 ∨ 128 ≤ extSub f.ext) → (128 ≤ extSub f.ext → s.boTarget i.b (x / 2 ^ 96) = .ok bo) →
     (s.tagFull i.b tag = true → exec (.copy f) s = .next (s.holdPath i .tagCount)) ∧
     (s.tagFull i.b tag = false → s.slotFree i = false → exec (.copy f) s = .next (s.holdPath i (.ceSlot false))) ∧
     (s.tagFull i.b tag = false → s.slotFree i = true →
       u = s.modGroup i.gk (fun gr => { gr with holds := gr.holds.filter (fun h => !(h.mask == i.path && h.why == .ceSlot true)) }) →
       c = { b := i.b, g := i.g, ctx := (s.block i.b).ctx, core := (s.block i.b).core, src := src, dst := dst, len := x / 2 ^ 64 % 2 ^ 32
             red := redCode (extRnd f.ext), ty := extTy 0 f.ext, bo := if 128 ≤ extSub f.ext then some bo else none, tag := tag } →
       exec (.copy f) s = .next (State.endPass (match tag with
         | none => { u with nextId := s.nextId + 1, copies := Table.put s.copies s.nextId c }
         | some n => { u with nextId := s.nextId + 1, copies := Table.put s.copies s.nextId c }.modBlock i.b
           (fun bl => { bl with tcount := Table.put bl.tcount n (Table.get 0 bl.tcount n + 1), tgm := bl.tgm &&& ~~~(1#64 <<< n) })) i))) ∧
  ((∀ (f : RForm) (sh : Shape) (s : State) (i : Issue) (a n : Nat), LegalR s i 0xB1 f sh → Once s i f.ext → PixFree s i →
     s.readUniform i (firstLane i.path) (boSources f sh) = .vals [a, n] → 1 ≤ n → n ≤ 65535 → a % 128 = 0 →
     exec (.kick f) s = .next (s.kickFrom i a (s.group i.gk).pix.toNat (n - (s.group i.gk).pix.toNat))) ∧
   (∀ (s : State) (i : Issue) (base m : Nat), s.kickFrom i base m 0 = (s.setPix i 0).endPass i) ∧
   (∀ (s : State) (i : Issue) (base m k p : Nat) (sp : Space), s.sharedTarget i.b (base + 128 * m) 128 = some (sp, p) →
     s.writesPending i sp p 128 = false → s.refuseBlock i.b (s.load sp p 128) = none →
     s.tagFull i.b (s.blockCopy i (s.load sp p 128)).tag = false → s.slotFree i = true →
     s.kickFrom i base m (k + 1) = ((s.acceptCopy i (s.blockCopy i (s.load sp p 128))).setPix i (m + 1)).kickFrom i base (m + 1) k))

/-- 08 R234 to R238, R240, R244: a waiting path gets a slot of a copy engine that has one; a copy whose group's earlier writes are performed, when the engine's
rotation has come to its block, reads its source and moves its bytes, 16 at a time; where all are moved it counts into its barrier object and frees its slot. -/
def Obligations.CopiesMoveBytes : Prop :=
  (∀ (s : State) (b g : Nat) (h : Hold), s.engineLoad (s.block b).core < 64 →
    (s.group (gkey b g)).holds.find? (fun h => h.why == .ceSlot false) = some h →
    exec (.ceSlotAccept b g) s = .next (s.modGroup (gkey b g) (fun gr =>
      { gr with holds := gr.holds.map (fun k => if k = h then { h with why := .ceSlot true } else k) }))) ∧
  (∀ (s : State) (id : Nat) (c : Copy) (sp dp : Space) (a d : Nat), Table.find s.copies id = some c → c.block = none → c.red = 0 → c.stuck = none →
    c.saved = false → s.coreFrozen c.core = false → s.foreign c.core c.ctx = false → s.copyHeld c = false →
    { s with copies := Table.put s.copies id { c with started := true } }.ceTurn c.core = some c.b →
    (c.started = true ∨ s.sourceReady id c = true) → c.src = .other sp a → c.dst = .other dp d → 16 * c.done + 16 ≤ c.len →
    s.poisoned sp (a + 16 * c.done) = false → s.canonical = true → Table.wf [] s.spaces = true →
    ∃ u, exec (.copySourceStart id 1) s = .next u ∧ (u.memOf dp).readNat (d + 16 * c.done) 16 = (s.memOf sp).readNat (a + 16 * c.done) 16 ∧
      (∀ q k, q.key ≠ dp.key ∨ k < d + 16 * c.done ∨ d + 16 * c.done + 16 ≤ k → (u.memOf q).byte k = (s.memOf q).byte k) ∧
      ∃ e, Table.find u.copies id = some { c with started := true, done := c.done + 1, clean := e }) ∧
  (∀ (s : State) (id : Nat) (c : Copy), Table.find s.copies id = some c → c.started = true → c.stuck = none → c.chunks ≤ c.done →
    c.saved = false → s.coreFrozen c.core = false →
    (c.tag = none → c.bo = none → exec (.copyComplete id) s = .next { s with copies := Table.erase s.copies id }) ∧
    (∀ sp a, c.tag = none → c.bo = some (sp, a) → exec (.copyComplete id) s = .next
      ({ s with copies := Table.erase s.copies id }.store sp a 16 (boUpdate (s.load sp a 16) (c.len : Int) false c.fc c.flags.toNat))) ∧
    (∀ n, c.tag = some n → c.bo = none → exec (.copyComplete id) s = .next ({ s with copies := Table.erase s.copies id }.modBlock c.b (fun bl =>
      { bl with tcount := Table.set 0 bl.tcount n (Table.get 0 bl.tcount n - 1)
                tgm := if Table.get 0 bl.tcount n - 1 = 0 then bl.tgm ||| (1#64 <<< n) else bl.tgm }))))

/-- 08 R241, R252: TWANY goes on where any tag of the mask is complete, TWALL where all are, discarding the near cache; else the path waits; an empty
mask waits for nothing. TFIRST writes the lowest complete tag of the mask, whose bit it clears, and .nw 64 where none is; TCLR clears the mask. 08 R253, R245: the barrier-object words whose name leads to an aligned object that no earlier access of the thread must reach first: BOINIT writes it,
BOARRIVE and BOEXPECT update it, BOWAIT waits for a flip and BOTEST tells of one. A count on its way is applied when it arrives (R244), to the shared memory
of the block it is addressed to, wherever that stands; it waits while the block is moving, and is discarded with an event where it has ended (R410, R411). -/
def Obligations.TagAndBarrierObjectWordsComplete : Prop :=
  (∀ (f : RForm) (op : Nat) (sh : Shape) (s : State) (i : Issue) (m : W64), LegalR s i op f sh → Begins s i →
     extGuard f.ext (s.thread (i.tk (firstLane i.path))) = true → s.readA i (firstLane i.path) f sh.a = .val m.toNat → m &&& ~~~(s.block i.b).tgal = 0#64 →
     (op = 0xB2 ∨ op = 0xB3 → m = 0#64 → exec (if op = 0xB2 then .twany f else .twall f) s = .next (s.endPass i)) ∧
     (op = 0xB2 → m ≠ 0#64 → exec (.twany f) s = .next (if m &&& (s.block i.b).tgm = 0#64 then s.holdPath i .tags
       else (s.clearNear (s.block i.b).core).endPass i)) ∧
     (op = 0xB3 → m ≠ 0#64 → exec (.twall f) s = .next (if m &&& (s.block i.b).tgm = m then (s.clearNear (s.block i.b).core).endPass i
       else s.holdPath i .tags)) ∧
     (op = 0xB4 → s.eachReady i (Fields.ofR f) sh = true →
       (m &&& (s.block i.b).tgm = 0#64 → exec (.tfirst f) s = .next (if m = 0#64 ∨ extSub f.ext = 1 then (s.putEach i (Fields.ofR f) sh 64).endPass i
         else s.holdPath i .tags)) ∧
       (∀ n, (m &&& (s.block i.b).tgm).getLsbD n = true → (∀ k < n, (m &&& (s.block i.b).tgm).getLsbD k = false) →
         exec (.tfirst f) s = .next (State.endPass (((s.modBlock i.b (fun bl => { bl with tgm := bl.tgm &&& ~~~(1#64 <<< n) })).clearNear
           (s.block i.b).core).putEach i (Fields.ofR f) sh n) i))) ∧
     (op = 0xB5 → exec (.tclr f) s = .next ((s.modBlock i.b (fun bl => { bl with tgm := bl.tgm &&& ~~~m })).endPass i))) ∧
  ((∀ (f : RForm) (op : Nat) (sh : Shape) (s : State) (i : Issue) (name y a x : Nat) (sp : Space), LegalR s i op f sh → Once s i f.ext →
     (∀ t ∈ lanesOf i.path, (s.thread (i.tk t)).pending = none) → i.path ≠ 0#32 →
     s.readUniform i (firstLane i.path) (boSources f sh) = .vals [name, y] → s.boTarget i.b name = .ok (sp, a) →
     s.mayAccess i sp a a 16 false false = true → s.eachReady i (Fields.ofR f) sh = true → x = s.load sp a 16 →
     (op = 0xB6 → y ≤ 65535 → exec (.boinit f) s = .next ((s.store sp a 16 (y * 2 ^ 48 + y * 2 ^ 96)).endPass i)) ∧
     (op = 0xB7 → (extRnd f.ext = 6 → s.performed i (s.liveOf i) = true) → exec (.boarrive f) s = .next (((s.store sp a 16
       (boUpdate x (if extSub f.ext / 2 % 2 = 1 then -(y : Int) else 0) true 0 0)).putEach i (Fields.ofR f) sh (boPhase x)).endPass i)) ∧
     (op = 0xB8 → exec (.boexpect f) s = .next ((s.store sp a 16 (boUpdate x (-(y : Int)) false 0 0)).endPass i)) ∧
     (op = 0xB9 → exec (.bowait f) s = .next (if boPhase x = y % 2 then s.holdPath i .bo
       else if boFc x = 0 then (s.clearNear (s.block i.b).core).endPass i
       else (s.clearNear (s.block i.b).core).trapPath i { code := boFc x, tval := BitVec.ofNat 64 name, info := if boFc x = 7 then 0xFF#64 else 0#64, src := 5 })) ∧
     (op = 0xBA → extSub f.ext = 128 → exec (.botest f) s = .next ((s.putEach i (Fields.ofR f) sh
       (boApend x * 65536 + boFc x * 4096 + boPhase x * 256 + boFlags x)).endPass i)) ∧
     (op = 0xBA → extSub f.ext ≠ 128 → boPhase x = y % 2 → exec (.botest f) s = .next ((s.putEach i (Fields.ofR f) sh 0).endPass i)) ∧
     (op = 0xBA → extSub f.ext ≠ 128 → boPhase x ≠ y % 2 → boFc x = 0 →
       exec (.botest f) s = .next (((s.clearNear (s.block i.b).core).putEach i (Fields.ofR f) sh 1).endPass i))) ∧
   (∀ (s : State) (id : Nat) (c : Count), Table.find s.counts id = some c →
     (c.dest = none → exec (.boCountUpdate id) s = .next ({ s with counts := Table.erase s.counts id }.store c.space c.addr 16
       (boUpdate (s.load c.space c.addr 16) (c.n : Int) false c.fc c.flags.toNat))) ∧
     (∀ v b, c.dest = some v → s.blockAt v = some b →
       ((s.block b).place = .moving → exec (.boCountUpdate id) s = .next s) ∧
       ((s.block b).place ≠ .moving → s.inert b = false →
         exec (.boCountUpdate id) s = .next ({ s with counts := Table.erase s.counts id }.store (.shared b) c.addr 16
           (boUpdate (s.load (.shared b) c.addr 16) (c.n : Int) false c.fc c.flags.toNat)))) ∧
     (∀ v, c.dest = some v → s.blockAt v = none →
       exec (.boCountUpdate id) s = .next ({ s with counts := Table.erase s.counts id }.event 0 5 0 v.1 0 c.addr))))

/-- 08 R244: one update of a barrier object: refused where bpend would leave 48 bits or an arrival finds apend 0; else the count is added and the
arrival made, and a flip follows where nothing is pending. -/
def Obligations.BarrierObjectUpdates : Prop :=
  ∀ (x : Nat) (add : Int) (arrive : Bool) (fc flags : Nat), x < 2 ^ 128 → fc < 16 → flags &&& 0x3D = flags →
    (boBpend x + add < -(2 ^ 47) ∨ 2 ^ 47 ≤ boBpend x + add ∨ (arrive = true ∧ boApend x = 0) →
      boBpend (boUpdate x add arrive fc flags) = boBpend x ∧ boApend (boUpdate x add arrive fc flags) = boApend x ∧
      boPhase (boUpdate x add arrive fc flags) = boPhase x ∧ boArel (boUpdate x add arrive fc flags) = boArel x ∧
      boFc (boUpdate x add arrive fc flags) = (if boFc x ≠ 0 then boFc x else if fc ≠ 0 then fc else 7) ∧
      boFlags (boUpdate x add arrive fc flags) = boFlags x ||| flags) ∧
    (-(2 ^ 47) ≤ boBpend x + add → boBpend x + add < 2 ^ 47 → (arrive = true → boApend x ≠ 0) →
      boBpend (boUpdate x add arrive fc flags) = boBpend x + add ∧
      (boBpend x + add = 0 ∧ boApend x - arrive.toNat = 0 →
        boApend (boUpdate x add arrive fc flags) = boArel x ∧ boPhase (boUpdate x add arrive fc flags) = 1 - boPhase x) ∧
      (boBpend x + add ≠ 0 ∨ boApend x - arrive.toNat ≠ 0 →
        boApend (boUpdate x add arrive fc flags) = boApend x - arrive.toNat ∧ boPhase (boUpdate x add arrive fc flags) = boPhase x) ∧
      boArel (boUpdate x add arrive fc flags) = boArel x ∧
      boFc (boUpdate x add arrive fc flags) = (if boFc x ≠ 0 then boFc x else fc) ∧
      boFlags (boUpdate x add arrive fc flags) = boFlags x ||| flags)

/-! ### Order, barriers, headers and system words -/

/-- 09 R269; 07 R268: FENCE goes on once the accesses its strength waits for are performed, an acquire discarding the near cache, and holds the path
until then; without a live thread it goes on at once. 09 R270, R271: the live threads of a path whose earlier accesses are performed and which have not arrived in the open phase arrive: BARARV goes
on, BAR waits unless that completes the phase, which opens the next one and discards the near cache; BAR.wait goes on where the phases its
threads last arrived in are complete. -/
def Obligations.FencesAndBarriersComplete : Prop :=
  (∀ (f : RForm) (sh : Shape) (s : State) (i : Issue), LegalR s i 0xC0 f sh → Begins s i → extGuard f.ext (s.thread (i.tk (firstLane i.path))) = true →
     (s.liveOf i = [] → exec (.fence f) s = .next (s.endPass i)) ∧
     (s.liveOf i ≠ [] → (releases (extRnd f.ext) = true → s.performed i (s.liveOf i) = true) →
       (acquires (extRnd f.ext) = true → s.loadsBound i (s.liveOf i) = true) →
       exec (.fence f) s = .next (State.endPass (if acquires (extRnd f.ext) then s.clearNear (s.block i.b).core else s) i)) ∧
     (s.liveOf i ≠ [] → releases (extRnd f.ext) = true → s.performed i (s.liveOf i) = false → exec (.fence f) s = .next (s.holdPath i .fence))) ∧
  (∀ (f : RForm) (op n : Nat) (sh : Shape) (s u : State) (i : Issue) (nb : NBarrier), LegalR s i op f sh → Begins s i → n = f.d.toNat % 16 →
     extGuard f.ext (s.thread (i.tk (firstLane i.path))) = true → s.liveOf i ≠ [] → s.holdOf i = none → nb = Table.get {} (s.block i.b).nb n →
     (s.block i.b).broken n = false →
     u = State.testBarrier (((s.liveOf i).foldl (fun u t => u.modThread (i.tk t) (fun th => { th with arrivals := Table.put th.arrivals n nb.phase })) s).modBlock
       i.b (fun bl => { bl with nb := Table.set {} bl.nb n { nb with arrived := nb.arrived ++ (s.liveOf i).map (fun t => 32 * i.g + t) } })) i.b n →
     (s.performed i (s.liveOf i) = true → (∀ t ∈ s.liveOf i, 32 * i.g + t ∉ nb.arrived) →
       (op = 0xC2 → exec (.bararv f) s = .next (u.endPass i)) ∧
       (op = 0xC1 → extSub f.ext ≠ 1 → exec (.bar f) s = .next (if nb.phase < (Table.get {} (u.block i.b).nb n).phase
         then (u.clearNear (s.block i.b).core).endPass i else u.holdPath i (.bar (some nb.phase))))) ∧
     (op = 0xC1 → extSub f.ext = 1 → (∀ t ∈ lanesOf i.path, ∀ p, Table.find (s.thread (i.tk t)).arrivals n = some p → p < nb.phase) →
       exec (.bar f) s = .next ((s.clearNear (s.block i.b).core).endPass i)))

/-- 09 R270: a numbered barrier's phase completes where every counted thread, and the sequencer where it is joined, has arrived; then the next phase
opens with no arrivals. -/
def Obligations.BarrierPhases : Prop :=
  ∀ (s : State) (b n : Nat), (Table.find s.blocks b).isSome → Table.wf {} (s.block b).nb = true →
    Table.get {} ((s.testBarrier b n).block b).nb n = (let nb := Table.get {} (s.block b).nb n
      if (nb.msq = true ∨ nb.arrived ≠ []) ∧ (∀ t ∈ s.counted b, t ∈ nb.arrived) ∧ ((s.block b).mjoin.getLsbD n = true → nb.msq = true)
      then { phase := nb.phase + 1, arrived := [], msq := false } else nb) ∧
    { s.testBarrier b n with blocks := s.blocks } = s

/-- 10 R299, R300: WAITW whose word is on a wake-enabled page, and which no earlier access of the thread must precede, goes on with the word's value where
it differs from c, where its limit has passed since its first issue, or at once with tmo 31; else the path waits, with the limit it names. WAITW_TIMEOUT ends the waits whose limit the counter has reached. -/
def Obligations.WakeWordsComplete : Prop :=
  (∀ (f : RForm) (sh : Shape) (s : State) (i : Issue) (x c r a pa o t0 : Nat), LegalR s i 0xC3 f sh → Once s i f.ext → i.path ≠ 0#32 →
    (∀ t ∈ lanesOf i.path, (s.thread (i.tk t)).pending = none) →
    s.readUniform i (firstLane i.path) [(f.a, f.ea, sh.a, if extXo f.ext == 1 then some (extXs f.ext) else none), (extC f.ext, extEc f.ext, sh.c, none)] = .vals [x, c] →
    (s.group i.gk).record (f.b.toNat % 16) f.eb = .val r → waitAddress (f.b.toNat % 16) (BitVec.ofNat 128 r) x = .addr a →
    s.reachNow (s.block i.b).ctx (some i.b) a 8 Need.read = .ok .main pa o → s.wakeEnabled (s.block i.b).ctx a = true →
    s.mayAccess i .main a pa 8 (releases (extRnd f.ext)) (o == 0) = true → s.eachReady i (Fields.ofR f) sh = true → s.poisoned .main pa = false →
    t0 = (match (s.thread (i.tk (firstLane i.path))).waitFrom with
      | some (p, t) => if p = i.pc then t else s.time
      | none => s.time) →
    (s.load .main pa 8 ≠ c ∨ extSub f.ext / 8 = 31 ∨ s.holdOf i = some .waitwOver ∨
        (s.holdOf i = none ∧ extSub f.ext / 8 ≠ 0 ∧ t0 + 2 ^ (extSub f.ext / 8) ≤ s.time) →
      exec (.waitw f) s = .next (State.endPass (State.putEach (State.waitOver
        (if acquires (extRnd f.ext) = true ∨ o = 0 then (s.startWait i).clearNear (s.block i.b).core else s.startWait i) i)
        i (Fields.ofR f) sh (s.load .main pa 8)) i)) ∧
    (s.load .main pa 8 = c → extSub f.ext / 8 ≠ 31 → s.holdOf i = none →
      (extSub f.ext / 8 = 0 ∨ s.time < t0 + 2 ^ (extSub f.ext / 8)) → exec (.waitw f) s = .next ((s.startWait i).holdPath i
        (.waitw (if extSub f.ext / 8 = 0 then none else some (t0 + 2 ^ (extSub f.ext / 8))))))) ∧
  (∀ (s : State) (b g : Nat), exec (.waitwTimeout b g) s = .next (s.modGroup (gkey b g) (fun gr => { gr with holds := gr.holds.map (fun h =>
    match h.why with
    | .waitw (some d) => if d ≤ s.time then { h with why := .waitwOver } else h
    | _ => h) })))

/-- 02 R33, R37, R40: a legal clause header whose waits are all satisfied lets its path take the first word: its loads filled and no trap pending or register
marked, its stores acknowledged, its tag complete, and its barrier's phase complete at its own arrival. An unsatisfied first wait holds the path. -/
def Obligations.HeadersComplete : Prop :=
  ∀ (h : Header) (s : State) (i : Issue) (k : Nat), s.cur = .group i → h.legal = true → s.holdOf i = none → i.path ≠ 0#32 → k = s.nextId →
    (h.wl = true → (∀ t ∈ lanesOf i.path, (s.thread (i.tk t)).pending = none) ∧ s.loadsFilled i k = true ∧ ∀ t ∈ s.liveOf i, s.markTrap i t = none) →
    (h.ws = true → s.storesDone i k = true → h.tv = false → h.bv = false → exec (.clauseHeader h) s = .next (s.enterClause i)) ∧
    (h.ws = true → s.storesDone i k = false → exec (.clauseHeader h) s = .next (s.holdPath i (.header 1 k none))) ∧
    (h.ws = false → h.tv = false → h.bv = false → exec (.clauseHeader h) s = .next (s.enterClause i)) ∧
    (h.ws = false → h.tv = true → h.bv = false → (s.block i.b).tgal.getLsbD h.tag.toNat = true → exec (.clauseHeader h) s = .next (
      if (s.block i.b).tgm.getLsbD h.tag.toNat = true then (s.clearNear (s.block i.b).core).enterClause i else s.holdPath i (.header 2 k none))) ∧
    (∀ u p, h.ws = false → h.tv = false → h.bv = true → s.liveOf i ≠ [] → (s.block i.b).broken h.nb.toNat = false → s.arriveAt i h.nb.toNat = some (u, p) →
      exec (.clauseHeader h) s = .next (if p < (u.block i.b).phase h.nb.toNat then (u.clearNear (s.block i.b).core).enterClause i
        else u.holdPath i (.header 3 k (some p))))

/-- 02 R53, R58; 16 R433, R440, R443, R444: NOP takes the next word; TRAP and BKPT trap each active thread with their code; MCALL lets its path take
the words of a macro's body; SLEEP holds the path until its deadline, counted from its first issue, which an expiry ends; YIELD ends the turn with a choice by age. -/
def Obligations.SystemWordsComplete : Prop :=
  ∀ (s : State) (i : Issue), Begins s i →
    exec .nop s = .next (s.endPass i) ∧
    (∀ f sh, LegalR s i 0xF0 f sh → exec (.trap f) s = .next (s.trapActive i (s.active i (extGuard f.ext)) { code := 15, info := BitVec.ofNat 64 (extSub f.ext) })) ∧
    (∀ f sh, LegalR s i 0xF4 f sh → exec (.bkpt f) s = .next (s.trapActive i (s.active i (extGuard f.ext)) { code := 16, info := BitVec.ofNat 64 (extSub f.ext) })) ∧
    (∀ f sh, LegalR s i 0xE0 f sh → i.body = none → extSub f.ext < (s.block i.b).macros.length →
      exec (.mcall f) s = .next ((lanesOf i.path).foldl (fun u t => u.modThread (i.tk t) (fun th => { th with inMacro := .body })) s)) ∧
    (∀ f sh t0, LegalR s i 0xF5 f sh → s.holdOf i = none → i.path ≠ 0#32 → extGuard f.ext (s.thread (i.tk (firstLane i.path))) = true →
      t0 = (match (s.thread (i.tk (firstLane i.path))).waitFrom with
        | some (p, t) => if p = i.pc then t else s.time
        | none => s.time) → ∀ a, s.readA i (firstLane i.path) f Opd.one = .val a →
      exec (.sleep f) s = .next (if t0 + a ≤ s.time then { ((s.startWait i).waitOver i).endPass i with contexts := s.contexts }
        else (s.startWait i).holdPath i (.sleep (t0 + a)))) ∧
    (∀ f sh, LegalR s i 0xF5 f sh → s.holdOf i = some .sleepDone → exec (.sleep f) s = .next { (s.waitOver i).endPass i with contexts := s.contexts }) ∧
    (∀ b g, exec (.sleepExpiry b g) s = .next (s.modGroup (gkey b g) (fun gr => { gr with holds := gr.holds.map (fun h => match h.why with
      | .sleep d => if d ≤ s.time then { h with why := .sleepDone } else h
      | _ => h) }))) ∧
    (∀ f sh u, LegalR s i 0xF6 f sh → extGuard f.ext (s.thread (i.tk (firstLane i.path))) = true →
      u = (s.endPass i).modGroup i.gk (fun gr => { gr with pick := .age }) →
      exec (.yield f) s = .next (if extSub f.ext = 1 ∧ u.othersWait i.gk = true then u.dropTrack i.gk else u))

/-- 16 R430, R434, R441, R442; 02 R26, R27: CSRR writes the register it names, of each active thread or, in s, of the first one. CSRW of tepc and tnpc writes each
active thread's; of fst it writes the rounding mode and clears the flags written as 1; of pix the group's, or, in a handler, the path's tpix; of thv the group's,
where the address is one. -/
def Obligations.ControlRegisterWordsComplete : Prop :=
  ∀ (f : RForm) (sh : Shape) (s : State) (i : Issue), Begins s i →
    (LegalR s i 0xF2 f sh → ∀ (ts : List Nat) (l : Nat → Loc),
      ts = (if (Fields.ofR f).uniform sh then [firstLane i.path] else s.active i (extGuard f.ext)) →
      ((Fields.ofR f).uniform sh = true → extGuard f.ext (s.thread (i.tk (firstLane i.path))) = true) →
      (∀ t ∈ ts, locate (s.thread (i.tk t)) f.d sh.d none = .ok (l t) ∧ s.destReady i t (l t) sh.d.n = true) →
      exec (.csrr f) s = .next (State.endPass (ts.foldl (fun u t => u.writeCells i t (l t) sh.d.n (s.csrValue i t (32 * f.a.toNat + f.b.toNat))) s) i)) ∧
    (LegalR s i 0xF3 f sh → ∀ n, n = 32 * f.d.toNat + f.b.toNat →
      (∀ x : Nat → Nat, (∀ t ∈ s.active i (extGuard f.ext), s.readA i t f Opd.pair = .val (x t)) →
        (n = 0x101 → exec (.csrw f) s = .next (State.endPass ((s.active i (extGuard f.ext)).foldl (fun u t => u.modThread (i.tk t) (fun th =>
          { th with tepc := BitVec.ofNat 64 (x t) &&& 0x1FFFFFFFFFFFFFFC#64 })) s) i)) ∧
        (n = 0x102 → exec (.csrw f) s = .next (State.endPass ((s.active i (extGuard f.ext)).foldl (fun u t => u.modThread (i.tk t) (fun th =>
          { th with tnpc := BitVec.ofNat 64 (x t) &&& 0x1FFFFFFFFFFFFFFC#64 })) s) i))) ∧
      (extGuard f.ext (s.thread (i.tk (firstLane i.path))) = true → ∀ x : W32, s.readA i (firstLane i.path) f Opd.one = .val x.toNat →
        (n = 0x010 → exec (.csrw f) s = .next ((s.modGroup i.gk (fun gr =>
          { gr with fst := (x &&& 0xC00#32) ||| (gr.fst &&& ~~~x &&& 0x3F#32) })).endPass i)) ∧
        (n = 0x011 → (s.thread (i.tk (firstLane i.path))).th = false → exec (.csrw f) s = .next ((s.modGroup i.gk (fun gr => { gr with pix := x })).endPass i)) ∧
        (n = 0x011 → (s.thread (i.tk (firstLane i.path))).th = true → exec (.csrw f) s = .next (State.endPass ((lanesOf i.path).foldl (fun u t =>
          u.modThread (i.tk t) (fun th => { th with tpix := x })) s) i))) ∧
      (extGuard f.ext (s.thread (i.tk (firstLane i.path))) = true → ∀ x : W64, s.readA i (firstLane i.path) f Opd.pair = .val x.toNat → n = 0x108 →
        exec (.csrw f) s = .next (if x.toNat % 4 = 0 ∧ x.toNat < 2 ^ 57 then (s.modGroup i.gk (fun gr => { gr with thv := x })).endPass i
          else s.trapPath i { code := 6, tval := x })))

/-! ### The fabric -/

/-- 10 R282 to R284, R288 to R291: RST gathers each active thread's bytes and sends them at the end of the pass, a flagged one at its turn, once no earlier
remote write of the block to the peer is outstanding; RLD, RATOM and RFADD send one request each, the returning ones leaving d empty. 10 R284, R285, R292, R303: a request takes the
lowest free tag, which that of an operation timed out is not before its response has come, and enters the table of outstanding operations; by scale-out it
names the far package of the map. RFENCE changes the block's epoch at its first issue and
goes on once every operation of the block issued before it is answered; until then it holds the path. -/
def Obligations.RemoteWordsComplete : Prop :=
  (∀ (f : RForm) (op : Nat) (sh : Shape) (s : State) (i : Issue) (addr c : Nat → Nat) (r : Nat → Route) (l : Nat → Loc) (ts : List Nat)
      (done : State → State), LegalR s i op f sh →
     Begins s i → Turns (Fields.ofR f) sh s i ts → ((Fields.ofR f).uniform sh = true → Clear s i) →
     done = (fun u => if (Fields.ofR f).uniform sh then (u.replayed i).endPass i else u.endPass i) →
     (op = 0xD0 → extSub f.ext < 8 → (∀ t ∈ s.active i (extGuard f.ext), (s.thread (i.tk t)).pending = none ∧ s.readA i t f sh.a = .val (addr t) ∧
         s.look (s.block i.b).ctx (addr t) (sizeBytes (extSub f.ext)) = .ok (r t) ∧
         s.read i t f.d false sh.d (if extXo f.ext == 3 then some (extXs f.ext) else none) = .val (c t) ∧
         ((s.thread (i.tk t)).role = .live → ∀ n < 32, s.remoteRoom i.b (r t) (addr t % 2 ^ 46 / 256) n = true)) → s.tagsTaken + 32 ≤ 131072 →
       exec (.rst f) s = .next (State.endPass (State.sendGathered ((s.active i (extGuard f.ext)).foldl (fun u t => if (s.thread (i.tk t)).role = .helper then u
         else u.gather i { lane := { t := t, va := addr t, addr := addr t % 2 ^ 46, w := sizeBytes (extSub f.ext), data := c t }, space := .main
                           route := some (r t) }) s) i) i)) ∧
     (op = 0xD0 → 8 ≤ extSub f.ext → ∀ t, s.active i (extGuard f.ext) = [t] → (s.thread (i.tk t)).pending = none → s.readA i t f sh.a = .val (addr t) →
       s.look (s.block i.b).ctx (addr t) (sizeBytes (extSub f.ext % 8)) = .ok (r t) → (s.thread (i.tk t)).role = .live →
       s.read i t f.d false sh.d (if extXo f.ext == 3 then some (extXs f.ext) else none) = .val (c t) →
       s.writesTo i.b (r t).peer = false → s.remoteRoom i.b (r t) (addr t % 2 ^ 46 / 256) 0 = true →
       exec (.rst f) s = .next ((s.sendStore i (r t) (addr t % 2 ^ 46) (natToBytes (sizeBytes (extSub f.ext % 8)) (c t))
         [{ t := t, va := addr t, addr := addr t % 2 ^ 46, w := sizeBytes (extSub f.ext % 8), data := c t }] true).endPass i)) ∧
     (op = 0xD1 → ∀ go, go = (fun u t => u.takeRemote i t sh.d.n true .load
         { t := t, va := addr t, addr := addr t % 2 ^ 46, w := sizeBytes (extSub f.ext % 8), into := (l t).into sh.d.n, ext := extSub f.ext % 8 } (l t) (r t)
         { type_ := 1, dst := 0, src := 0, offset := addr t % 2 ^ 46, window := (r t).iw, len := sizeBytes (extSub f.ext % 8) } []) →
       Goes (fun u t => RemoteReady f sh (sizeBytes (extSub f.ext % 8)) true i (addr t) (c t) (r t) (l t) u t) go ts s →
       exec (.rld f) s = .next (done (ts.foldl go s))) ∧
     (op = 0xD2 → ∀ go n w ret, w = atomBytes (extTy 0 f.ext) → n = (if extSub f.ext % 16 = 1 then 2 * w else w) → ret = (extSub f.ext / 16 != 1) →
       go = (fun u t => u.takeRemote i t sh.d.n ret (.atomic ret)
         { t := t, va := addr t, addr := addr t % 2 ^ 46, w := w, into := if ret then (l t).into sh.d.n else .nothing } (l t) (r t)
         { type_ := 2, dst := 0, src := 0, offset := addr t % 2 ^ 46, window := (r t).iw, len := n, op := extSub f.ext % 16, atype := extTy 0 f.ext
           ord := !ret } (natToBytes n (c t))) →
       Goes (fun u t => RemoteReady f sh w ret i (addr t) (c t) (r t) (l t) u t) go ts s →
       exec (.ratom f) s = .next (done (ts.foldl go s))) ∧
     (op = 0xD3 → ∀ go, go = (fun u t => u.takeRemote i t sh.d.n true .fetchAdd
         { t := t, va := addr t, addr := addr t % 2 ^ 46, w := 8, into := (l t).into sh.d.n } (l t) (r t)
         { type_ := 3, dst := 0, src := 0, offset := addr t % 2 ^ 46, window := (r t).iw, len := 16 } (natToBytes 16 (c t))) →
       Goes (fun u t => RemoteReady f sh 8 true i (addr t) (c t) (r t) (l t) u t) go ts s →
       exec (.rfadd f) s = .next (done (ts.foldl go s)))) ∧
  ((∀ (s : State) (op : RemoteOp) (so : Bool) (h : Head) (body : List Byte) (tag : Nat), s.freeTag = some tag →
     s.request op so h body =
       { s with remote := Table.put s.remote tag { op with seq := s.nextId, since := s.time, so := so }, nextId := s.nextId + 1 }.send so op.pkg
         { hdr := Head.bits { h with dst := if so then (Table.get ({} : FarEntry) s.farMap op.pkg).pkg else op.pkg, src := s.package, path := op.path, tag := tag }
           body := body }) ∧
   (∀ (s : State) (k : Nat), s.freeTag = some k → Table.find s.remote k = none ∧ Table.find s.late k = none ∧ k < 131072 ∧
     ∀ j < k, (Table.find s.remote j).isSome ∨ (Table.find s.late j).isSome) ∧
   (∀ (f : RForm) (sh : Shape) (s u : State) (i : Issue) (n : Nat) (waits : Prop), LegalR s i 0xD4 f sh → Begins s i → Clear s i →
     extGuard f.ext (s.thread (i.tk (firstLane i.path))) = true →
     (s.holdOf i = none ∧ n = s.nextId ∧ u = s.modBlock i.b (fun bl => { bl with epoch := !bl.epoch }) ∨ s.holdOf i = some (.rfence n) ∧ u = s) →
     (waits ↔ ∃ k op, (k, op) ∈ s.remote ∧ op.b = i.b ∧ op.seq < n ∧ op.kind ≠ .relay ∧ ∀ id, op.kind ≠ .coll id) →
     (¬waits → exec (.rfence f) s = .next (u.endPass i)) ∧ (waits → exec (.rfence f) s = .next (u.holdPath i (.rfence n)))))

/-- 10 R282, R284, R288 to R291, R446: a request packet that its inbound window admits, that follows no held packet of its span and
whose bytes can be reached is taken from its channel and served: the
bytes written, read, changed by the atomic or the bounded add, and the answer sent. 10 R284 to R286, R425: an answer from the package an outstanding operation went to completes it: a load or returning atomic fills its d, or leaves it
marked with the trap of its status; a write's failure is latched on its thread, or, where that has exited, is unhandled (R428). While the block is moving
the answer waits for it (R411). An operation unanswered for its context's timeout completes with status 4, and its tag stays taken. -/
def Obligations.RequestsAndAnswersComplete : Prop :=
  (∀ (s u : State) (n ctx a o w x : Nat) (p : Packet) (sp : Space) (e : BitVec 128), s.cur = .port n → p.type_ < 4 →
     s.head n (if p.type_ = 0 then 2 else 0) p.type_ = some p → u = s.popPacket n (if p.type_ = 0 then 2 else 0) →
     s.heldBefore s.nextId n p = none → e = Table.get 0#128 s.inbound p.window → windowAdmits e p = true → ctx = e.toNat / 2 ^ 108 % 2 ^ 12 →
     (Table.find s.contexts ctx).isSome → (s.context ctx).ending = false → s.windowOwner p.window = some (s.context ctx).partition →
     s.reachNow ctx none ((e.toNat % 2 ^ 57 + p.offset) % 2 ^ 57) p.width p.need = .ok sp a o → s.poisoned sp a = false → w = p.width → x = bytesToNat p.body →
     (p.type_ = 0 → exec .rstPacket s = .next (State.pulse ((u.setMem sp ((s.memOf sp).writeList a p.body)).respond n p 4 0 []) ctx)) ∧
     (p.type_ = 1 → exec .rldPacket s = .next (State.pulse (u.respond n p 5 0 (natToBytes w (s.load sp a w))) ctx)) ∧
     (p.type_ = 2 → s.hostRefuses sp a p.op p.atype = false → exec .ratomPacket s = .next (State.pulse ((u.store sp a w (atomicNew p.op p.atype (s.load sp a w)
       (if p.op = 1 then x / 2 ^ (8 * w) else x % 2 ^ (8 * w)) (x % 2 ^ (8 * w)))).respond n p (if p.ord then 4 else 5) 0
       (if p.ord then [] else natToBytes w (s.load sp a w))) ctx)) ∧
     (p.type_ = 3 → (sp = .main → a < hostBase) → exec .rfaddPacket s = .next (State.pulse (State.respond
       (if s.load sp a 8 + x % 2 ^ 64 ≤ x / 2 ^ 64 then u.store sp a 8 (s.load sp a 8 + x % 2 ^ 64) else u) n p 5 0 (natToBytes 8 (s.load sp a 8))) ctx))) ∧
  (∀ (s : State) (op : RemoteOp) (land : State → Nat → Nat → State), s.inert op.b = false → (op.kind ≠ .relay ∧ ∀ id, op.kind ≠ .coll id) →
     land = (fun u status x => if (s.block op.b).place = .moving then { u with landed := u.landed ++ [{ op := op, status := status, data := x }] }
       else u.finishRemote op status x) →
     (∀ (n : Nat) (p : Packet), s.cur = .port n → Table.find s.remote p.tag = some op → s.peerPackage op.so op.pkg % 1024 = p.src →
       (s.head n 1 4 = some p → exec .ack s = .next (land (State.pulse { s.popPacket n 1 with remote := Table.erase s.remote p.tag } op.ctx) p.status
         (bytesToNat p.body))) ∧
       (s.head n 1 5 = some p → exec .rdata s = .next (land (State.pulse { s.popPacket n 1 with remote := Table.erase s.remote p.tag } op.ctx) p.status
         (bytesToNat p.body)))) ∧
     (∀ tag, Table.find s.remote tag = some op → op.since + 1000 * (if (s.context op.ctx).timeout = 0 then 100000 else (s.context op.ctx).timeout) ≤ s.time →
       exec (.remoteTimeoutExpiry tag) s = .next
         (land { s with remote := Table.erase s.remote tag, late := Table.put s.late tag () } 4 0)) ∧
     (∀ (l : LaneReq) (status x : Nat), op.lanes = [l] →
       (l.into ≠ .nothing → status = 0 → s.finishRemote op status x = s.fillInto op.b op.g l (extendBytes l.ext x)) ∧
       (l.into ≠ .nothing → status ≠ 0 → s.finishRemote op status x = s.markInto op.b op.g l
         { code := if status = 2 then 5 else if status = 4 then 12 else 11, src := 2, origin := op.origin
           tval := BitVec.ofNat 64 (if status = 2 then l.va / 128 * 128 else l.va), info := if status = 2 then 0 else status }) ∧
       (l.into = .nothing → status = 0 ∨ status = 2 → s.finishRemote op status x = s) ∧
       (∀ th, l.into = .nothing → status ≠ 0 → status ≠ 2 → Table.find s.threads (tkey (gkey op.b op.g) l.t) = some th → th.exited = true →
         s.finishRemote op status x = s.trapExited op.b op.g l.t
           { code := if status = 4 then 12 else 11, tval := BitVec.ofNat 64 l.va, info := BitVec.ofNat 64 status, origin := some op.origin, src := 2 }) ∧
       (∀ th, l.into = .nothing → status ≠ 0 → status ≠ 2 → Table.find s.threads (tkey (gkey op.b op.g) l.t) = some th → th.exited = false →
         s.finishRemote op status x = s.setThread (tkey (gkey op.b op.g) l.t) { th with pendRemote := match th.pendRemote with
           | some q => some { q with more := true }
           | none => some { code := if status = 4 then 12 else 11, tval := BitVec.ofNat 64 l.va, info := BitVec.ofNat 64 status, origin := some op.origin, src := 2 } })))

/-- 10 R295 to R298; 08 R233, R244: a COLL whose descriptor, sides and barrier object are well formed and whose source can be read starts; a collective packet
that can be taken is acknowledged and reaches its hop; a COLL whose packets are acknowledged, whose copy out is written, the first of its block, counts into
its barrier object. -/
def Obligations.CollectivesComplete : Prop :=
  (∀ (f : RForm) (sh : Shape) (s : State) (i : Issue) (x c rs rd da unit : Nat) (src dst : CopySide) (bo : Space × Nat) (sp : Space) (h : CollPkt),
    LegalR s i 0xD5 f sh → Once s i f.ext → Clear s i →
    s.readUniform i (firstLane i.path) [(f.a, f.ea, sh.a, none), (extC f.ext, extEc f.ext, sh.c, none)] = .vals [x, c] →
    (s.group i.gk).sideRecord f.b.toNat f.eb = .val rs → (s.group i.gk).sideRecord f.d.toNat false = .val rd → c % 32 = 0 →
    s.sharedTarget i.b c 32 = some (sp, da) → (∀ e ∈ s.reqs, e.2.b ≠ i.b ∨ e.2.g ≠ i.g ∨ e.2.kind.writes = false) →
    badDescriptor (s.load sp da 32) = false → h = CollPkt.ofHeader (s.load sp da 32) [] → unit = fmtBytes h.fmt →
    s.collSide i f.b.toNat (x % 2 ^ 32) (x / 2 ^ 64 % 2 ^ 32) unit (BitVec.ofNat 128 rs) = .ok src →
    s.collSide i f.d.toNat (x / 2 ^ 32 % 2 ^ 32) (x / 2 ^ 64 % 2 ^ 32) unit (BitVec.ofNat 128 rd) = .ok dst → x / 2 ^ 64 % 2 ^ 32 % unit = 0 →
    s.boTarget i.b (x / 2 ^ 96) = .ok bo → s.sourceFault (s.block i.b).ctx i.b src (x / 2 ^ 64 % 2 ^ 32) = none →
    exec (.coll f) s = .next ((s.startColl
      { b := i.b, ctx := (s.block i.b).ctx, core := (s.block i.b).core, cid := h.cid, src := src, dst := dst
        len := x / 2 ^ 64 % 2 ^ 32, unit := unit, bo := bo, head := h, pieces := if h.hops = [] then 0 else max 1 ((x / 2 ^ 64 % 2 ^ 32 + 255) / 256)
        want := h.hops.any (fun h => h.op == 5 && h.pkg == s.package) }).endPass i)) ∧
  (∀ (s : State) (n : Nat) (p : Packet) (q : CollPkt), s.cur = .port n → s.head n 3 6 = some p →
    q = CollPkt.ofHeader (bytesToNat (p.body.take 32)) (p.body.drop 32) → s.canTake n q = true →
    exec .collPacket s = .next (((s.popPacket n 3).respond n p 4 0 []).hopArrive 9 (some n) q)) ∧
  (∀ (s : State) (id : Nat) (c : Coll), Table.find s.colls id = some c → c.pieces ≤ c.sent → (∀ e ∈ s.remote, e.2.kind ≠ .coll id) →
    (c.want = true → ∃ n, c.last = some n ∧ ∀ k ≤ n, k ∈ c.steps) → (∀ e ∈ s.colls, e.2.b = c.b → id ≤ e.1) → c.todo = [] →
    (∀ e ∈ s.early, e.waitsFor c.cid = false) →
    exec (.collCompletion id) s = .next ({ s with colls := Table.erase s.colls id }.store c.bo.1 c.bo.2 16
      (boUpdate (s.load c.bo.1 c.bo.2 16) (c.covered : Int) false (if c.fc ≠ 0 then c.fc else if c.mm then 7 else 0) c.flags.toNat)))

/-- 10 R277 to R279, R301, R303: what a port makes of a flit, good or bad, of a failed lane, a datagram, and silence; when it tells the far end to stop and
to go; and how the counter is kept by SYNC packets of the master, their loss and the grandmaster's time. The layout of a SYNC packet, the rate and what
an interval without a packet counts for are the model's choice (log 18), and so is the polynomial of the CRC-32 (log 17). -/
def Obligations.LinkEventsComplete : Prop :=
  ∀ (s : State) (n : Nat),
    (∀ (f : Flit) (idle : Bool) (u : State), (s.port n).lanes ≠ 0 → s.portFrozen n = false → f.crc = Config.linkCrc f.data f.seq f.vc f.stop f.go →
      u = s.setPort n { s.port n with
        rxSeq := if idle then (s.port n).rxSeq else (s.port n).rxSeq + 1#12, stopped := ((s.port n).stopped ||| f.stop) &&& ~~~f.go } →
      (idle = true → exec (.flitReceive n f true none) s = .next ((List.range 5).foldl (fun v vc => if (v.port n).stopped.getLsbD vc = true then v
        else v.flush n vc) u)) ∧
      (idle = false → f.seq = (s.port n).rxSeq → f.vc < 5 →
        exec (.flitReceive n f false none) s = .next (State.tellFlow (State.assemble ((List.range 5).foldl (fun v vc =>
          if (v.port n).stopped.getLsbD vc = true then v else v.flush n vc) u) n f.vc (natToBytes 64 f.data.toNat)) n))) ∧
    (∀ (f : Flit), (s.port n).lanes ≠ 0 → s.portFrozen n = false →
      (f.crc ≠ Config.linkCrc f.data f.seq f.vc f.stop f.go ∨ f.seq ≠ (s.port n).rxSeq) →
      exec (.flitReceive n f false none) s = .next { s with outbox := s.outbox ++ [.replayFrom n (s.port n).rxSeq] }) ∧
    s.tellFlow n = (if n < 64 ∧ ((s.port n).stops &&& ~~~(s.port n).told ≠ 0#5 ∨ (s.port n).goes &&& (s.port n).told ≠ 0#5)
      then { s.setPort n { s.port n with told := ((s.port n).told ||| (s.port n).stops) &&& ~~~(s.port n).goes } with
             outbox := s.outbox ++ [.flow n ((s.port n).stops &&& ~~~(s.port n).told) ((s.port n).goes &&& (s.port n).told)] } else s) ∧
    (∀ (vc : Nat) (bs : List Byte) (h : BitVec 128), h = BitVec.ofNat 128 (bytesToNat ((Table.get [] (s.port n).parts vc ++ bs).take 16)) →
      s.assemble n vc bs = (if (Table.get [] (s.port n).parts vc ++ bs).length < 16 + bodyLength h
        then s.setPort n { s.port n with parts := Table.put (s.port n).parts vc (Table.get [] (s.port n).parts vc ++ bs) }
        else (s.setPort n { s.port n with parts := Table.erase (s.port n).parts vc }).received n
          { hdr := h, body := ((Table.get [] (s.port n).parts vc ++ bs).drop 16).take (bodyLength h) })) ∧
    exec (.laneFailure n) s = .next ((s.setPort n { s.port n with lanes := (s.port n).lanes - 1 }).event 10 3 n 0 0 0) ∧
    (∀ (seq ack : BitVec 32) (ps : List Packet), ∃ t far, exec (.scaleOutDatagram n seq ack ps) s = .next t ∧ Table.find t.fars n = some far ∧
      far.unacked = (Table.get ({} : Far) s.fars n).unacked.filter (fun e => decide ((e.1 - ack).toNat < 2 ^ 31)) ∧
      far.rx = (if ((Table.get ({} : Far) s.fars n).rx - seq).toNat < ps.length then seq + BitVec.ofNat 32 ps.length
        else (Table.get ({} : Far) s.fars n).rx) ∧
      (ps ≠ [] → t.outbox.getLast? = some (.datagram (Table.get {} s.farMap n) 1 far.tx far.rx []))) ∧
    ((Table.get ({} : Far) s.fars n).unacked ≠ [] → (Table.get ({} : Far) s.fars n).since + 20000 ≤ s.time →
      exec (.scaleOutResendTimeout n) s = .next { s with
        outbox := s.outbox ++ (Table.get ({} : Far) s.fars n).unacked.map (fun e => Out.datagram (Table.get {} s.farMap n) e.2.vc e.1 (Table.get ({} : Far) s.fars n).rx [e.2])
        fars := Table.put s.fars n { Table.get ({} : Far) s.fars n with since := s.time } }) ∧
    (∀ (p : Packet) (u : State) (count : Nat), s.cur = .port n → s.head n 4 7 = some p →
      u = { s.popPacket n 4 with heard := Table.put s.heard p.src s.time } → count = bytesToNat (p.body.take 8) + bytesToNat ((p.body.drop 8).take 4) →
      (s.master = true ∨ p.src ≠ u.chosenMaster → exec .sync s = .next u) ∧
      (s.master = false → p.src = u.chosenMaster → ∃ t, exec .sync s = .next t ∧ t.syncAt = s.time ∧ t.syncSeen = true ∧
        t.ptp = (bytesToNat ((p.body.drop 12).take 1) % 2 == 1) ∧ t.time = (if s.stepped = false ∧ s.time + 20 < count then count else s.time) ∧
        t.off = (t.time : Int) - count ∧ t.rate = max (-200) (min 200 (-t.off)) ∧ t.syncGood = (if -20 ≤ t.off ∧ t.off ≤ 20 then s.syncGood else 0) ∧
        (t.lock = true ↔ s.lock = true ∧ -20 ≤ t.off ∧ t.off ≤ 20))) ∧
    (∃ t, exec .syncInterval s = .next t ∧ t.master = (s.chosenMaster == s.package) ∧
      (s.master = false → t.master = false → t.syncSeen = false ∧
        t.syncGood = (if s.syncSeen = true ∧ -20 ≤ s.off ∧ s.off ≤ 20 then s.syncGood + 1 else s.syncGood) ∧
        (t.lock = true ↔ s.lock = true ∨ 16 ≤ t.syncGood))) ∧
    (s.master = false → s.syncAt + 16000 ≤ s.time → exec .syncLossTimeout s = .next { s with lock := false, syncGood := 0 }) ∧
    (∀ x, s.master = true → ∃ t, exec (.ieee1588Message x) s = .next t ∧ t.time = (if s.stepped then s.time else max s.time x) ∧ t.stepped = true ∧
      t.rate = max (-200) (min 200 (x - t.time : Int)) ∧ (t.ptp = true ↔ -20 ≤ (t.time - x : Int) ∧ (t.time - x : Int) ≤ 20))

/-! ### Queues, grids and continuation pools -/

/-- 12 R335 to R337: the packets of a queue. NOP takes effect at parse; IB makes a buffer the next to be parsed; WAITBIT takes effect where its bits are set and
WAITMEM where its word meets the condition, holding the queue otherwise; WRITE and TSTAMP store 8 bytes; an illegal address, count or flag stops the
queue. -/
def Obligations.PacketsTakeEffect : Prop :=
  ∀ (s : State) (slot : Nat) (flags : BitVec 12) (ws : List W32),
    (Parses s slot flags ws none → exec (.nopPacket flags ws) s = .next (s.effect slot flags ws.length none)) ∧
    (Parses s slot flags ws none → (s.queue slot).frames = [] → (s.queue slot).uncommitted = [] → Table.risingFrom 0 s.queues = true →
      ∃ t, exec (.nopPacket flags ws) s = .next t ∧
        t.queue slot = { s.queue slot with head := (s.queue slot).head + 4 * (ws.length + 1), prog := (s.queue slot).head + 4 * (ws.length + 1), held := none } ∧
        t.outbox = s.outbox ++ (if flags.getLsbD 1 then [.msix slot] else [])) ∧
    (Parses s slot flags ws (some 3) → word64 ws 0 % 4 = 0 → word64 ws 0 < 2 ^ 57 → 1 ≤ (ws.getD 2 0#32).toNat → (ws.getD 2 0#32).toNat ≤ 2 ^ 20 →
      (s.queue slot).frames = [] → exec (.ib flags ws) s = .next ((s.setQueue slot { s.queue slot with
        head := (s.queue slot).head + 16
        frames := [{ addr := word64 ws 0, left := (ws.getD 2 0#32).toNat, upTo := some ((s.queue slot).head + 16), irq := flags.getLsbD 1 }] }).pulse
        (s.queue slot).ctx)) ∧
    (Parses s slot flags ws (some 3) → word64 ws 0 % 4 = 0 → word64 ws 0 < 2 ^ 57 → 1 ≤ (ws.getD 2 0#32).toNat → (ws.getD 2 0#32).toNat ≤ 2 ^ 20 →
      4 ≤ (s.queue slot).frames.length → exec (.ib flags ws) s = .next (s.stopQueue slot 4)) ∧
    (Parses s slot flags ws (some 4) → word64 ws 0 % 8 = 0 → word64 ws 0 < 2 ^ 57 → ∀ b,
      s.bitsSet slot (word64 ws 0) (ws.getD 2 0#32).toNat (ws.getD 3 0#32).toNat ((ws.getD 3 0#32).toNat / 64 + 2) = .ok b →
      exec (.waitbit flags ws) s = .next (if b then s.effect slot flags ws.length none
        else s.modQueue slot (fun q => { q with held := some (.waitbit flags ws) }))) ∧
    (Parses s slot flags ws (some 5) → word64 ws 0 % 8 = 0 → word64 ws 0 < 2 ^ 57 → (ws.getD 4 0#32).toNat ≤ 2 → ∀ sp a,
      s.queueGets slot (word64 ws 0) 8 Need.read sp a → exec (.waitmem flags ws) s = .next (
        if waitMet (ws.getD 4 0#32).toNat (s.load sp a 8) (word64 ws 2) then s.effect slot flags ws.length none
        else s.modQueue slot (fun q => { q with held := some (.waitmem flags ws) }))) ∧
    (s.cur = .queue slot → (s.queue slot).state = 1 → (s.queue slot).fault = none → (s.queue slot).held = some (.waitmem flags ws) → ∀ sp a,
      s.queueGets slot (word64 ws 0) 8 Need.read sp a → exec .waitmemRecheck s = .next (
        if waitMet (ws.getD 4 0#32).toNat (s.load sp a 8) (word64 ws 2) then s.effect slot flags ws.length none
        else s.modQueue slot (fun q => { q with held := some (.waitmem flags ws) }))) ∧
    (Parses s slot flags ws (some 4) → word64 ws 0 % 8 = 0 → word64 ws 0 < 2 ^ 57 → ∀ sp a, s.queueGets slot (word64 ws 0) 8 Need.write sp a →
      exec (.write flags ws) s = .next ((s.store sp a 8 (word64 ws 2)).effect slot flags ws.length none)) ∧
    (Parses s slot flags ws (some 2) → word64 ws 0 % 8 = 0 → word64 ws 0 < 2 ^ 57 → (s.queue slot).uncommitted = [] → ∀ sp a,
      s.queueGets slot (word64 ws 0) 8 Need.write sp a →
      exec (.tstamp flags ws) s = .next ((s.store sp a 8 s.time).effect slot flags ws.length none)) ∧
    (Parses s slot flags ws (some 4) → (word64 ws 0 % 8 ≠ 0 ∨ 2 ^ 57 ≤ word64 ws 0) → exec (.write flags ws) s = .next (s.stopQueue slot 10)) ∧
    (s.cur = .queue slot → (s.queue slot).state = 1 → (s.queue slot).enabled = true → (s.queue slot).fault = none → ws.length ≠ 4 →
      exec (.write flags ws) s = .next (s.stopQueue slot 3)) ∧
    (s.cur = .queue slot → (s.queue slot).state = 1 → (s.queue slot).enabled = true → (s.queue slot).fault = none → 4 ≤ flags.toNat →
      exec (.nopPacket flags ws) s = .next (s.stopQueue slot 10))

/-- 12 R339, R340, R344: GRID and CGRID whose record is legal, whose blocks fit some cluster, are accepted under the lowest free handle: the grid stands in the table, its
tile bitmap is registered, and zeroed where the record asks; an illegal record, blocks that fit nowhere and a pool that is open stop the queue. 12 R343; 05 R117; 08 R239; 13 R359: a resident block whose groups, sequencer, accesses, copies, collectives and near work are all done ends: its bit of the tile
bitmap is set, its groups and threads are gone, its grid counts one block more; where it is not the grid's last, no more happens. -/
def Obligations.GridsAreAcceptedAndBlocksEnd : Prop :=
  (∀ (s : State) (slot : Nat) (flags : BitVec 12) (ws : List W32) (cont : Bool) (e : Instr) (x : Nat) (l : Launch), Parses s slot flags ws (some 32) →
     e = (if cont then .cgrid flags ws else .grid flags ws) → x = ws.foldr (fun w acc => w.toNat + 2 ^ 32 * acc) 0 → l = Launch.ofBits x →
     (launchLegal cont x = false → exec e s = .next (s.stopQueue slot 6)) ∧
     (launchLegal cont x = true → s.clusterFits l (s.queue slot).ctx = false → exec e s = .next (s.stopQueue slot 7)) ∧
     (launchLegal cont x = true → s.clusterFits l (s.queue slot).ctx = true → cont = true → (s.poolGrid (s.queue slot).ctx l.own).isSome →
       exec e s = .next (s.stopQueue slot 9)) ∧
     (∀ (h : Nat) (u : State), launchLegal cont x = true → s.clusterFits l (s.queue slot).ctx = true →
       (cont = true → s.poolGrid (s.queue slot).ctx l.own = none) → h < 1024 → Table.find s.grids (gridKey (s.queue slot).ctx h) = none →
       (∀ k < h, (Table.find s.grids (gridKey (s.queue slot).ctx k)).isSome) →
       (if l.clear = true ∧ l.tiles ≠ 0 then s.zeroWords slot l.tiles ((l.blocks + 63) / 64) else .ok s) = .ok u →
       exec e s = .next (State.effect { u with
         grids := Table.put u.grids (gridKey (s.queue slot).ctx h) { ctx := (s.queue slot).ctx, queue := slot, order := u.nextId, cont := cont, l := l }
         nextId := u.nextId + 1
         bitmaps := if l.tiles = 0 then u.bitmaps else ((s.queue slot).ctx, l.tiles, l.blocks) :: u.bitmaps } slot flags 32 (some (gridKey (s.queue slot).ctx h))))) ∧
  (∀ (s u : State) (b : Nat) (bl : Block), Table.find s.blocks b = some bl → bl.place = .resident → s.blockDone b = true →
     (s.nearDone b = true → s.setTileBit bl = .ok u → (u.grid bl.gridKey).cont = false → (Table.find u.grids bl.gridKey).isSome →
       (u.grid bl.gridKey).ended + 1 ≠ (u.grid bl.gridKey).l.blocks →
       exec (.blockEnd b) s = .next (State.pulse (State.modGrid (State.freeCluster ((u.clearBlock b).modBlock b (fun x => { x with place := .ended })) bl) bl.gridKey
         (fun g => { g with ended := g.ended + 1 })) bl.ctx)) ∧
     ((s.grid bl.gridKey).l.tiles = 0 → s.setTileBit bl = .ok s) ∧
     (∀ sp a o, (s.grid bl.gridKey).l.tiles ≠ 0 →
       s.reachNow bl.ctx none ((s.grid bl.gridKey).l.tiles + 8 * (bl.lin / 64)) 8 { r := true, w := true } = .ok sp a o →
       s.setTileBit bl = .ok ((s.store sp a 8 (s.load sp a 8 ||| 2 ^ (bl.lin % 64))).postChange bl.ctx)) ∧
     (∀ k, (∃ th, Table.find (s.clearBlock b).threads k = some th) → k / 1024 ≠ b))

/-- 12 R338, R344 to R348; 09 R272: LAUNCH, once the earlier stores of its group are performed, appends the packet at b to the ring of a device-fed queue of
its context, an event for the command cores, d receiving 0, or 1 where the ring has no room; POSTC of a pool with room posts each active thread's record, and the thread exits. A record joins the open bin of its die, pool and
program counter or opens one; a full or expired bin forms a group. -/
def Obligations.LaunchesAndPostsComplete : Prop :=
  (∀ (f : RForm) (sh : Shape) (s u : State) (i : Issue) (a b c p : Nat) (sp : Space) (ws : List Nat), LegalR s i 0xD6 f sh → Once s i f.ext → Clear s i →
    s.eachReady i (Fields.ofR f) sh = true → s.readUniform i (firstLane i.path) (boSources f sh) = .vals [a, b] →
    (s.queue a).feeds (s.block i.b).ctx = true → b % 4 = 0 → s.sharedTarget i.b b 4 = some (sp, p) → c = fieldOf (s.load sp p 4) 12 12 → c ≤ 63 →
    s.storesDone i s.nextId = true → (s.sharedTarget i.b b (4 * (c + 1))).isSome → ws = (List.range (c + 1)).map (fun k => s.load sp (p + 4 * k) 4) →
    (2 ^ (s.queue a).n < (s.queue a).tail - (s.queue a).head + 4 * (c + 1) →
      exec (.launch f) s = .next ((s.putEach i (Fields.ofR f) sh 1).endPass i)) ∧
    ((s.queue a).tail - (s.queue a).head + 4 * (c + 1) ≤ 2 ^ (s.queue a).n → s.ringWrite (s.queue a) (s.queue a).tail ws = .ok u →
      exec (.launch f) s = .next (((((u.setQueue a { s.queue a with tail := (s.queue a).tail + 4 * (c + 1) }).post (.queue a))).putEach i
        (Fields.ofR f) sh 0).endPass i))) ∧
  (∀ (f : RForm) (sh : Shape) (s : State) (i : Issue) (t x y key : Nat), LegalR s i 0xD7 f sh → Begins s i → s.active i (extGuard f.ext) = [t] →
    s.readAll i t [(f.a, f.ea, sh.a, if extXo f.ext == 1 then some (extXs f.ext) else none), (f.b, f.eb, sh.b, none)] = .vals [x, y] →
    x % 4 = 0 → x < 2 ^ 57 → s.poolRoom i.b = some key → (s.thread (i.tk t)).pending = none → (s.thread (i.tk t)).role = .live → s.performed i [t] = true →
    exec (.postc f) s = .next ((State.exitThread { s with
      posted := Table.put s.posted s.nextId { die := (s.block i.b).core / 128, grid := key, pc := BitVec.ofNat 64 x
                                              words := (List.range 14).map (fun k => if k < sh.b.n then BitVec.ofNat 32 (y / 2 ^ (32 * k)) else 0#32) }
      nextId := s.nextId + 1 } i.b i.g t).endPass i)) ∧
  (∀ (s : State) (id : Nat) (p : Posted), Table.find s.posted id = some p → (∀ e ∈ s.posted, e.2.die = p.die → id ≤ e.1) →
    (∀ k bn, s.bins.find? (fun e => e.2.die == p.die && e.2.grid == p.grid && e.2.pc == p.pc) = some (k, bn) →
      exec (.continuationRecordArrival id) s = .next (if bn.recs.length + 1 = 32
        then State.formGroup { s with posted := Table.erase s.posted id, bins := Table.put s.bins k { bn with recs := bn.recs ++ [p.words] } } k
        else { s with posted := Table.erase s.posted id, bins := Table.put s.bins k { bn with recs := bn.recs ++ [p.words] } })) ∧
    (s.bins.find? (fun e => e.2.die == p.die && e.2.grid == p.grid && e.2.pc == p.pc) = none → (s.bins.filter (fun e => e.2.die == p.die)).length < 256 →
      exec (.continuationRecordArrival id) s = .next { s with
        posted := Table.erase s.posted id, nextId := s.nextId + 1
        bins := Table.put s.bins s.nextId { die := p.die, grid := p.grid, pc := p.pc, recs := [p.words], deadline := s.time + 1000 * (s.grid p.grid).l.timer } })) ∧
  (∀ (s : State) (id : Nat) (bn : Bin), Table.find s.bins id = some bn →
    s.formGroup id = State.modGrid { s with bins := Table.erase s.bins id } bn.grid (fun g =>
      { g with formed := g.formed ++ [{ serial := g.serial, die := bn.die, pc := bn.pc, recs := bn.recs }], serial := (g.serial + 1) % 2 ^ 32 }) ∧
    (bn.deadline ≤ s.time → exec (.binFlushTimeout id) s = .next ((s.formGroup id).testPool bn.grid)))

/-! ### Near work, streamed contexts and searches -/

/-- 13 R363 to R365, R369, R371 to R373: NLAUNCH and NOPEN of a record and affinity record that pass every check, with their pages held and the group's
stores released, send a launch packet to each stack of a slice; NOPEN waits for its handle and writes it. NCMD sends a command for each active thread and
waits for the answers; NCLOSE closes an open of its own or answers at once; SEARCH hands its search to the home. -/
def Obligations.NearWordsComplete : Prop :=
  (∀ (f : RForm) (op : Nat) (sh : Shape) (s : State) (i : Issue) (plan : List PagePlan) (w : NearWork), LegalR s i op f sh → Once s i f.ext → Clear s i →
    PixFree s i → s.holdOf i = none → Launches s i f (op == 0xDA) plan w →
    (op = 0xD9 → exec (.nlaunch f) s = .next (if s.storesDone i s.nextId then ((s.setPix i 0).sendLaunch w).1.endPass i
      else (s.setPix i plan.length).holdPath i .fence)) ∧
    (op = 0xDA → s.eachReady i (Fields.ofR f) sh = true → s.storesDone i s.nextId = true →
      exec (.nopen f) s = .next (((s.setPix i 0).sendLaunch w).1.holdPath i (.nopen s.nextId)))) ∧
  (∀ (f : RForm) (sh : Shape) (s : State) (i : Issue) (x : Nat), LegalR s i 0xDA f sh → Once s i f.ext → Clear s i → s.holdOf i = some (.opened x) →
    exec (.nopen f) s = .next ((s.putEach i (Fields.ofR f) sh x).endPass i)) ∧
  (∀ (f : RForm) (sh : Shape) (s : State) (i : Issue) (x y r : Nat → Nat), LegalR s i 0xDB f sh → Begins s i → s.holdOf i = none →
    s.storesDone i s.nextId = true → s.commandsOf i = false → Filed s →
    (∀ t ∈ s.active i (extGuard f.ext), (s.thread (i.tk t)).pending = none ∧
      s.read i t f.a f.ea sh.a (if extXo f.ext == 1 then some (extXs f.ext) else none) = .val (x t) ∧
      s.read i t f.b f.eb sh.b (if extXo f.ext == 2 then some (extXs f.ext) else none) = .val (y t) ∧
      locate (s.thread (i.tk t)) f.d sh.d (if extXo f.ext == 3 then some (extXs f.ext) else none) = .ok (.v (r t)) ∧
      s.destReady i t (.v (r t)) 2 = true) →
    exec (.ncmd f) s = .next (
      let u := (s.active i (extGuard f.ext)).foldl (fun u t => if (s.thread (i.tk t)).role = .helper
        then (u.writeCells i t (.v (r t)) 2 0).modThread (i.tk t) (fun th => { th with p := th.p &&& ~~~(1#8 <<< (extRnd f.ext % 8)) })
        else { u with commands := Table.put u.commands u.nextId { b := i.b, g := i.g, t := t, reg := r t, pn := extRnd f.ext % 8, handle := x t
                                                                  operand := BitVec.ofNat 64 (y t), code := extSub f.ext }
                      nextId := u.nextId + 1 }) s
      if u.commandsOf i then (u.modGroup i.gk (fun gr => { gr with pass := none })).holdPath i .ncmd else u.endPass i)) ∧
  (∀ (f : RForm) (sh : Shape) (s : State) (i : Issue), LegalR s i 0xDB f sh → s.cur = .group i → s.holdOf i = some .ncmd → s.commandsOf i = false →
    exec (.ncmd f) s = .next (s.endPass i)) ∧
  (∀ (f : RForm) (sh : Shape) (s : State) (i : Issue) (h : Nat), LegalR s i 0xDC f sh → Once s i f.ext → Clear s i → s.holdOf i = none →
    s.readUniform i (firstLane i.path) [(f.a, f.ea, sh.a, none)] = .vals [h] → s.eachReady i (Fields.ofR f) sh = true →
    (s.openOf h = none → exec (.nclose f) s = .next ((s.putEach i (Fields.ofR f) sh 2).endPass i)) ∧
    (∀ o, s.openOf h = some o → (o.b ≠ i.b ∨ o.g ≠ i.g) → exec (.nclose f) s = .next ((s.putEach i (Fields.ofR f) sh 1).endPass i)) ∧
    (∀ o, s.openOf h = some o → o.b = i.b → o.g = i.g → o.stopped = true →
      exec (.nclose f) s = .next ((State.putEach { s with opens := Table.erase s.opens (handleSerial h) } i (Fields.ofR f) sh 3).endPass i)) ∧
    (∀ o, s.openOf h = some o → o.b = i.b → o.g = i.g → o.stopped = false → (∀ e ∈ s.commands, e.2.handle = h → e.2.answer.isSome) →
      exec (.nclose f) s = .next (State.holdPath { s with opens := Table.put s.opens (handleSerial h) { o with closing := true } } i
        (.nclose (handleSerial h))))) ∧
  (∀ (f : RForm) (sh : Shape) (s : State) (i : Issue) (n : Nat), LegalR s i 0xDC f sh → Once s i f.ext → Clear s i → s.holdOf i = some (.nclose n) →
    Table.find s.opens n = none → exec (.nclose f) s = .next ((s.putEach i (Fields.ofR f) sh 0).endPass i)) ∧
  (∀ (f : RForm) (sh : Shape) (s : State) (i : Issue) (a x pa : Nat) (sp : Space) (bo : Space × Nat) (w : Search) (pages : List (Nat × Nat))
    (entries : List W64), LegalR s i 0xD8 f sh → Once s i f.ext → Clear s i → PixFree s i →
    s.readUniform i (firstLane i.path) [(f.a, f.ea, Opd.one, none)] = .vals [a] → a % 128 = 0 → s.sharedTarget i.b a 128 = some (sp, pa) →
    x = s.load sp pa 128 → searchBound x = false → s.boTarget i.b (byteField x 52 4) = .ok bo →
    w = searchOf i (s.block i.b).ctx (firstLane i.path) x bo → s.pageLoop (s.block i.b).ctx (w.plan (byteField x 56 8)) 0 0 [] = .held pages →
    s.storesDone i s.nextId = true →
    entries = (List.range (w.nq * w.perQuery)).map (fun k => BitVec.ofNat 64 (bytesToNat (s.heldBytes pages (byteField x 56 8 + 8 * k) 8))) →
    (∀ e ∈ entries, bitAt w.stackSet (e.toNat / 2 ^ 60) ≠ 0) →
    exec (.search f) s = .next (State.endPass { s.setPix i 0 with
      searches := Table.put s.searches s.nextId { w with pages := pages, entries := entries }, nextId := s.nextId + 1 } i))

/-- 13 R361, R362, R364, R367 to R370: a launch packet whose slices lie in the partition's memory takes a code-store slot and its blocks wait for their
engines; a second streamed context of an engine is refused. The first waiter of an engine starts on a free context from 1 to 3 where its window fits, a
streamed one under a new handle. A column command reaches an open context of its owner in issue order, or is refused; an answer fills d and pn, and a frozen core discards it (15 R417). 13 R374, R377 to R380: the first search not yet admitted is taken in where
everything it needs is free; one with a slice outside the partition's memory is an isolation violation (15 R416). The head walker of an engine starts on a free
context, or is discarded where the query's dispatches have reached the budget (the model's choice, log 131); its home grants a hop or spawn within the budget
and the live limit, and discards another; a granted message is stored at its target and its
sender goes on; an end lowers the live count; with no walker left the query's heaps are merged into its result block, which is counted. -/
def Obligations.NearAndSearchEventsComplete : Prop :=
  ((∀ (s u : State) (id work stack : Nat) (w : NearWork) (js : List Nat), Table.find s.nearPackets id = some (work, stack) →
     Table.find s.nearWork work = some w → js = (List.range w.blocks).filter (fun j => w.engine s.lsplit j / 64 == stack) →
     u = { s with nearPackets := Table.erase s.nearPackets id } →
     ((∃ j ∈ js, ∃ a ∈ w.frames j, (s.partition (s.context w.ctx).partition).owns s.lsplit a = false) →
       exec (.nearLaunchPacket id) s = .next (u.isolate 3 0 (s.block w.b).core w.ctx w.base)) ∧
     ((∀ j ∈ js, ∀ a ∈ w.frames j, (s.partition (s.context w.ctx).partition).owns s.lsplit a = true) →
       (w.streamed = true → s.streamedOn (w.engine s.lsplit 0) = true →
         exec (.nearLaunchPacket id) s = .next { u.tellOpen w work 0x80000001 with nearWork := Table.erase s.nearWork work }) ∧
       (w.streamed = false ∨ s.streamedOn (w.engine s.lsplit 0) = false → codeSlots s stack < 16 →
         exec (.nearLaunchPacket id) s = .next { u with
           images := Table.put s.images (16 * work + stack) (s.imageWords w.pages w.code)
           nearQueue := Table.put s.nearQueue stack (Table.get [] s.nearQueue stack ++ js.map (fun j => (work, j))) }))) ∧
   (∀ (s u : State) (stack be c work j : Nat) (w : NearWork), s.nearWaiter stack be = some (work, j, w) → 1 ≤ c → c ≤ 3 →
     Table.find s.engines (beKey stack be c) = none → s.windowUse stack + w.winSize ≤ 14 * 2 ^ 20 →
     u = { s with
       nearQueue := Table.put s.nearQueue stack ((Table.get [] s.nearQueue stack).filter (fun x => x != (work, j)))
       engines := Table.put s.engines (beKey stack be c) (s.freshContext w work j) } →
     (w.streamed = false → exec (.nearBlockStart stack be c) s = .next u) ∧
     (w.streamed = true → exec (.streamedContextStart stack be c) s = .next {
       u.tellOpen w work (handleOf (s.openSerial % 2 ^ 19) (beKey stack be c)) with
       opens := Table.put s.opens (s.openSerial % 2 ^ 19) { b := w.b, g := w.g, key := beKey stack be c, work := work }
       openSerial := s.openSerial + 1 })) ∧
   (∀ (s : State) (id : Nat) (c : Command), Table.find s.commands id = some c → c.arrived = false →
     (∀ e ∈ s.commands, e.1 < id → e.2.b = c.b → e.2.g = c.g → e.2.handle = c.handle → e.2.arrived = true) →
     (∀ o, s.openOf c.handle = some o → o.b = c.b → o.g = c.g → o.stopped = false → o.closing = false →
       exec (.columnCommand id) s = .next { s with commands := Table.put s.commands id { c with arrived := true } }) ∧
     (∀ x, x = (match s.openOf c.handle with
         | none => 2
         | some o => if o.b ≠ c.b ∨ o.g ≠ c.g then 1 else if o.stopped = true then 3 else if o.closing = true then 2 else 0) → x ≠ 0 →
       exec (.columnCommand id) s = .next { s with
         commands := Table.put s.commands id { c with arrived := true, answer := some (BitVec.ofNat 64 x, false) } })) ∧
   (∀ (s : State) (id : Nat) (c : Command) (x : W64) (ok : Bool), Table.find s.commands id = some c → c.answer = some (x, ok) →
     (s.block c.b).place ≠ .moving →
     (s.inert c.b = true → exec (.ncmdAnswer id) s = .next { s with commands := Table.erase s.commands id, discarded := s.discarded + 1 }) ∧
     (s.inert c.b = false → exec (.ncmdAnswer id) s = .next { State.modThread (s.writeCells (groupOnly c.b c.g) c.t (.v c.reg) 2 x.toNat) (tkey (gkey c.b c.g) c.t) (fun th =>
       { th with p := if ok then th.p ||| (1#8 <<< c.pn) else th.p &&& ~~~(1#8 <<< c.pn) }) with commands := Table.erase s.commands id }))) ∧
  ((∀ (s : State) (id : Nat) (w : Search), s.searches.find? (fun e => !e.2.admitted) = some (id, w) →
     (s.searchViolates w = true ↔ ∃ k < 64 * w.stackList.length * w.slice,
       (s.partition (s.context w.ctx).partition).owns s.lsplit (heldAddr w.pages (w.base + 65536 * k)) = false) ∧
     exec .searchAdmission s = .next (if s.searchViolates w
       then State.isolate { s with searches := Table.erase s.searches id } 3 0 (s.block w.b).core w.ctx w.base
       else if s.searchFits w then s.takeIn id w else s)) ∧
   (∀ (s : State) (stack be c : Nat) (w : Walker) (rest : List Walker) (q : Search) (x : Query), Table.get [] s.walkers (64 * stack + be) = w :: rest →
     c ≤ 3 → Table.find s.engines (beKey stack be c) = none → (c = 0 ∨ s.nearWaiter stack be = none) → s.search w.search = some q →
     q.queries[w.q]? = some x →
     (q.budget ≠ 0 → q.budget ≤ x.dispatches → exec (.walkerDispatch stack be c) s = .next { s with
       walkers := Table.set [] s.walkers (64 * stack + be) rest
       searches := Table.modify s.searches w.search (fun q => q.modQuery w.q (fun y => { y with truncated := true, live := y.live - 1 })) }) ∧
     (q.budget = 0 ∨ x.dispatches < q.budget → exec (.walkerDispatch stack be c) s = .next { s with
       walkers := Table.set [] s.walkers (64 * stack + be) rest
       engines := (Table.put s.engines (beKey stack be c)
         { who := .walker w.search w.q
           g := (w.g.foldl (fun (acc : Table W64 × Nat) y => (Table.set 0#64 acc.1 acc.2 y, acc.2 + 1)) ([], 8)).1
           frames := q.frames (64 * stack + be), winSize := q.qsize, win := Memory.writeList [] 0 x.buffer })
       searches := Table.put s.searches w.search (q.modQuery w.q (fun y => { y with dispatches := y.dispatches + 1 })) })) ∧
   (∀ (s : State) (id : Nat) (r : Registration) (w : Search) (x : Query) (spent : Prop), Table.find s.registrations id = some r →
     s.search r.walker.search = some w → w.queries[r.walker.q]? = some x → r.granted = false →
     (spent ↔ (w.budget ≠ 0 ∧ w.budget ≤ x.dispatches) ∨ (r.hop = false ∧ w.wq ≤ x.live)) →
     (spent → exec (.walkerRegistration id) s = .next (State.sendDone { s with
       searches := Table.modify s.searches r.walker.search (fun w => w.modQuery r.walker.q (fun x =>
         { x with truncated := true, live := if r.hop then x.live - 1 else x.live }))
       registrations := Table.erase s.registrations id } r)) ∧
     (¬spent → exec (.walkerRegistration id) s = .next { s with
       searches := Table.modify s.searches r.walker.search (fun w => w.modQuery r.walker.q (fun x =>
         { x with live := if r.hop then x.live else x.live + 1 }))
       registrations := Table.put s.registrations id { r with granted := true } })) ∧
   (∀ (s : State) (id : Nat) (r : Registration), Table.find s.registrations id = some r → r.granted = true →
     exec (.walkerMessage id) s = .next (State.sendDone { s with
       registrations := Table.erase s.registrations id
       walkers := Table.put s.walkers r.target (Table.get [] s.walkers r.target ++ [r.walker]) } r)) ∧
   (∀ (s : State) (id search q : Nat) (stopped : Bool), Table.find s.endNotices id = some (search, q, stopped) →
     exec (.walkerEndNotice id) s = .next { s with
       endNotices := Table.erase s.endNotices id
       searches := Table.modify s.searches search (fun w => w.modQuery q (fun x => { x with live := x.live - 1, stopped := x.stopped || stopped })) }) ∧
   (∀ (s : State) (search q : Nat) (w : Search) (x : Query) (hs : List BeHeap) (es : List Entry), s.search search = some w → w.queries[q]? = some x →
     w.admitted = true → x.merged = false → x.live = 0 →
     hs = w.stackList.map (fun k => Table.get ({ engine := 0, cap := 0 } : BeHeap) s.heaps (queryHeap search q k)) →
     es = hs.foldl (fun l h => h.entries.foldl (offerEntry w.k) l) [] →
     exec (.queryMerge search q) s = .next (State.freeSearch
       { (s.putHeld w.pages (w.result + q * w.block) (resultBlock w.k es ((hs.map BeHeap.nan).sum) x)).sendCount
           { space := w.bo.1, addr := w.bo.2, n := w.block, near := some w.b } with
         searches := Table.put s.searches search (w.modQuery q (fun x => { x with merged := true })) }
       search (w.modQuery q (fun x => { x with merged := true })))))

/-! ### Bank-engine words -/

/-- 06 R178 to R181, R170, R173: the control words of a bank-engine context, its register arithmetic, and what going on to a word does. A branch whose
target lies outside the image, taken or not, and a word that decodes to none, stop the context as illegal. -/
def Obligations.BurrowControlComplete : Prop :=
  ∀ (s : State) (key : Nat) (c : BeCtx), Runs s key c →
    (∀ (n : Nat) (g : BeCtx → BeCtx), Table.risingFrom 0 s.engines = true →
      Table.find (s.beGo key n g).engines key = some { g c with upc := n % 16384, state := .ready } ∧
      (∀ k, k ≠ key → Table.find (s.beGo key n g).engines k = Table.find s.engines k) ∧
      { s.beGo key n g with engines := s.engines, contexts := s.contexts } = s) ∧
    (∀ f, brLegal 0x01 f = true → exec (.bnop f) s = .next (s.beGo key (c.upc + 1) id)) ∧
    (∀ f (t : Int), bjLegal 0x02 f = true → t = c.upc + f.off.toInt →
      (0 ≤ t → t < (s.imageOf key c).length → exec (.br f) s = .next (s.beGo key
        (if beCond f.cond.toNat (c.reg f.a) (c.reg f.b) then t.toNat else c.upc + 1) id)) ∧
      (t < 0 ∨ (s.imageOf key c).length ≤ t → exec (.br f) s = .next (s.beStop key 1 {}))) ∧
    (∀ f (t : Int), bjLegal 0x03 f = true → t = c.upc + f.off.toInt →
      (0 ≤ t → t < (s.imageOf key c).length → exec (.bcall f) s = .next (s.beGo key t.toNat (fun c => c.setReg f.a (BitVec.ofNat 64 (c.upc + 1))))) ∧
      (t < 0 ∨ (s.imageOf key c).length ≤ t → exec (.bcall f) s = .next (s.beStop key 1 {}))) ∧
    (∀ f, brLegal 0x04 f = true → exec (.bjr f) s = .next (if (c.reg f.a).toNat < (s.imageOf key c).length then s.beGo key (c.reg f.a).toNat id
      else s.beStop key 1 {})) ∧
    (∀ f, brLegal 0x05 f = true → exec (.bend f) s = .next (s.endContext key none)) ∧
    (∀ f, biLegal 0x06 f = true → exec (.btrap f) s = .next (s.beStop key 10 { row := f.imm.toNat })) ∧
    exec .illegalBurrowWord s = .next (s.beStop key 1 {}) ∧
    (∀ f, brLegal 0x08 f = true → exec (.galu f) s = .next (s.beGo key (c.upc + 1) (fun c => c.setReg f.d (galuValue f.sub.toNat (c.reg f.a) (c.reg f.b))))) ∧
    (∀ f, biLegal 0x09 f = true → exec (.galui f) s = .next (s.beGo key (c.upc + 1) (fun c =>
      c.setReg f.d (galuValue f.sub.toNat (c.reg f.a) (f.imm.signExtend 64))))) ∧
    (∀ (code : Nat) (w : Where) (b g t ctx : Nat) (origin : W64), s.launcher c = some (b, g, t, ctx, origin) → Table.risingFrom 0 s.engines = true →
      s.beStop key code w = State.endContext (((s.modEngine key (fun c => { c with state := .stopped, nfr := nfrBits code c.upc w })).latchNear b g t origin
        (nfrBits code c.upc w) ({ c with state := .stopped } : BeCtx).bst).faultReport (beStack key) ctx (4 * 2 ^ 16 + 14) (nfrBits code c.upc w).toNat)
        key (some (nfrBits code c.upc w, ({ c with state := .stopped } : BeCtx).bst)))

/-- 06 R182 to R184: WLD and WST move up to 8 bytes between a register and the window; ALD and AST move whole atoms between window and slice; HRD and HWR move
a row of the slice; HMOV, HWIN, HGET and HPUT act on row buffers. What AST and HWR store, and nothing else in memory, changes. 06 R185 to R194: the associative row processor, the truth tables, the distance unit and the heaps: what each word leaves in row buffers, tags, tables,
registers and heaps. DIST offers the distances of its vectors one by one, vpr counting them. -/
def Obligations.BurrowMovesAndRowsComplete : Prop :=
  (∀ (s : State) (key : Nat) (c : BeCtx), Runs s key c →
     (∀ (f : BmForm) (a n : Nat), a = windowAddress c f → n = 2 ^ f.size.toNat → a % n = 0 → c.inWindow a n = true →
       (c.windowBad a n = false → exec (.wld f) s = .next (s.beGo key (c.upc + 1) (fun c => c.setReg f.d (BitVec.ofNat 64 (c.win.readNat a n))))) ∧
       (c.isWalker = false → exec (.wst f) s = .next (s.beGo key (c.upc + 1) (fun c => { c with win := c.win.writeNat a n (c.reg f.d).toNat })))) ∧
     (∀ (f : BrForm) (w a n : Nat), w = (c.reg f.a).toNat → a = (c.reg f.b).toNat → n = f.sub.toNat + 1 → w % 8 = 0 → a % 128 = 0 →
       c.inSlice a (128 * n) = true → c.inWindow w (128 * n) = true → c.isWalker = false →
       (brLegal 0x12 f = true → s.poisonedAtom c a n = none → exec (.ald f) s = .next (s.beGo key (c.upc + 1) (fun c => c.putWindow (c.reg f.a).toNat (s.atoms c a n)))) ∧
       (brLegal 0x13 f = true → c.windowBad w (128 * n) = false → exec (.ast f) s = .next ((s.putAtoms c a n (c.win.readList w (128 * n))).beNext key id))) ∧
     (∀ (f : BhForm) (r : Nat), r = (c.reg f.a).toNat → r < c.rows →
       (bhLegal 0x14 f = true → s.poisonedAtom c (1024 * r) 8 = none →
         exec (.hrd f) s = .next (s.beGo key (c.upc + 1) (fun c => c.setRow f.h (s.atoms c (1024 * r) 8)))) ∧
       (bhLegal 0x15 f = true → exec (.hwr f) s = .next ((s.putAtoms c (1024 * r) 8 (c.row f.h)).beNext key id))) ∧
     (∀ (f : BhForm) (r : Nat), r = (c.reg f.a).toNat → c.rows ≤ r → bhLegal 0x14 f = true →
       exec (.hrd f) s = .next (s.beStop key 2 (c.outside (1024 * r)))) ∧
     (∀ f : BhForm, bhLegal 0x16 f = true → exec (.hmov f) s = .next (s.beGo key (c.upc + 1) (fun c => c.setRow f.h (match f.sub.toNat with
       | 0 => c.row f.h2
       | 1 => c.ofWords (List.replicate c.words c.key.toNat)
       | _ => zeroRow)))) ∧
     (∀ (f : BhForm) (a : Nat), bhLegal 0x17 f = true → a = (c.reg f.a).toNat → a % 8 = 0 → c.inWindow a 1024 = true →
       (f.sub = 0#8 → c.windowBad a 1024 = false → exec (.hwin f) s = .next (s.beGo key (c.upc + 1) (fun c => c.setRow f.h (c.win.readList a 1024)))) ∧
       (f.sub = 1#8 → c.isWalker = false → exec (.hwin f) s = .next (s.beGo key (c.upc + 1) (fun c => c.putWindow a (c.row f.h))))) ∧
     (∀ f : BhForm, bhLegal 0x18 f = true → exec (.hget f) s = .next (s.beGo key (c.upc + 1) (fun c =>
       c.setReg f.b (BitVec.ofNat 64 ((c.wordsOf f.h).getD ((c.reg f.a).toNat % c.words) 0))))) ∧
     (∀ f : BhForm, bhLegal 0x19 f = true → exec (.hput f) s = .next (s.beGo key (c.upc + 1) (fun c =>
       c.setRow f.h (c.ofWords ((c.wordsOf f.h).set ((c.reg f.a).toNat % c.words) (c.reg f.b).toNat))))) ∧
     (∀ (n a x : Nat) (bs : List Byte), { s.putAtoms c a n bs with mem := s.mem, poison := s.poison } = s ∧
       (s.mem.wf = true → (∀ k < n, x < c.sliceAddr (a + 128 * k) ∨ c.sliceAddr (a + 128 * k) + 128 ≤ x) →
         (s.putAtoms c a n bs).mem.byte x = s.mem.byte x))) ∧
  (∀ (s : State) (key : Nat) (c : BeCtx), Runs s key c →
     (∀ f : BrForm, brLegal 0x1A f = true → exec (.kset f) s = .next (s.beGo key (c.upc + 1) (fun c => { c with
       key := c.reg f.a, mask := c.reg f.b, wd := f.sub.toNat % 4, tags := if f.sub.toNat % 4 == c.wd then c.tags else 0#1024 }))) ∧
     (∀ f : BhForm, bhLegal 0x1B f = true → exec (.glint f) s = .next (s.beGo key (c.upc + 1) (fun c =>
       let r := glintStep c (f.sub.toNat % 4) (decide (4 ≤ f.sub.toNat)) (c.reg f.a).toNat (c.reg f.b).toNat (c.wordsOf f.h)
       { c.setRow f.h (c.ofWords r.2) with tags := tagsOf r.1 }))) ∧
     (∀ f : BhForm, bhLegal 0x1C f = true → exec (.top f) s = .next (s.beGo key (c.upc + 1) (fun c => match f.sub.toNat with
       | 0 => { c with tags := c.allTags }
       | 1 => { c with tags := 0#1024 }
       | 2 => { c with tags := ~~~c.tags &&& c.allTags }
       | 3 => c.setReg f.c (BitVec.ofNat 64 c.tagBits.length)
       | 4 => c.setReg f.c (c.tagBits.head?.elim (BitVec.allOnes 64) (BitVec.ofNat 64))
       | 5 => c.setReg f.c ((c.tags >>> c.tagPiece (c.reg f.a)).setWidth 64)
       | 6 => { c with tags := (c.tags &&& ~~~((0xFFFFFFFFFFFFFFFF#1024) <<< c.tagPiece (c.reg f.a)))
                                 ||| ((c.reg f.b).setWidth 1024 <<< c.tagPiece (c.reg f.a)) }
       | _ => { c with tags := c.tagBits.head?.elim c.tags (fun n => c.tags &&& ~~~(1#1024 <<< n)) }))) ∧
     (∀ f : BhForm, bhLegal 0x1E f = true → positionsOk (c.reg f.a).toNat (f.sub.toNat % 64 + 1) c.width = true →
       exec (.ttp f) s = .next (s.beGo key (c.upc + 1) (fun c => c.setRow f.h (c.ofWords ((c.wordsOf f.h).mapIdx (fun k x =>
         if c.tags.getLsbD k then (List.range (f.sub.toNat % 64 + 1)).foldl (fun x j => truthStep (tableRows (Table.get 0#128 c.tables f.c.toNat))
           (c.reg f.a).toNat (f.sub.toNat % 64 + 1) j (decide (64 ≤ f.sub.toNat)) x) x else x)))))) ∧
     (∀ (f : BrForm) (p : DistPlan) (g h : Nat), brLegal 0x20 f = true → distPlan c f = .ok p → g = (c.reg f.c).toNat → 1 ≤ g % 2 ^ 32 → g % 2 ^ 32 ≤ 2 ^ 20 →
       1 ≤ g / 2 ^ 32 → g / 2 ^ 32 ≤ 64 → p.bytes ≤ 128 * (g / 2 ^ 32) → s.heapOf key c (f.sub.toNat / 32) = some h → c.inWindow p.window p.bytes = true →
       exec (.dist f) s = .next (s.distFrom key h p (c.reg f.b).toNat (g / 2 ^ 32) (c.reg f.d) (g % 2 ^ 32 - c.vpr))) ∧
     (∀ (p : DistPlan) (h base stride n : Nat) (ident : W64), s.distFrom key h p base stride ident 0 = s.beGo key (c.upc + 1) (fun c => { c with vpr := 0 }) ∧
       s.distFrom key h p base stride ident (n + 1) = (match s.vectorDistance c p (base + 128 * stride * c.vpr) with
         | .error e => s.beStop key e.1 e.2
         | .ok d => State.distFrom ((s.modHeap h (fun q => q.offer { dist := d.1, tag := BitVec.ofNat 32 c.vpr, id := ident + BitVec.ofNat 64 c.vpr })).modEngine
             key (fun x => { x with vpr := c.vpr + 1, flags := x.flags ||| d.2 })) key h p base stride ident n)) ∧
     (∀ (f : BrForm) (p : DistPlan) (d : BitVec 32 × Flags), brLegal 0x21 f = true → distPlan c f = .ok p → c.inWindow p.window p.bytes = true →
       s.vectorDistance c p (c.reg f.b).toNat = .ok d →
       exec (.distg f) s = .next (s.beGo key (c.upc + 1) (fun c => { c.setReg f.d (d.1.setWidth 64) with flags := c.flags ||| d.2 }))) ∧
     (∀ f : BrForm, brLegal 0x22 f = true →
       (f.sub = 0#8 → c.isWalker = false → 1 ≤ (c.reg f.a).toNat → (c.reg f.a).toNat ≤ 1024 →
         exec (.heap f) s = .next ((s.heapInit key f.c.toNat (c.reg f.a).toNat).1.beNext key (fun x =>
           x.setReg f.d (if (s.heapInit key f.c.toNat (c.reg f.a).toNat).2 then 0#64 else 1#64)))) ∧
       (∀ (k : Nat) (h : BeHeap), s.heapOf key c f.c.toNat = some k → Table.find s.heaps k = some h →
         (f.sub = 1#8 → c.isWalker = false → exec (.heap f) s = .next (State.beNext { s with heaps := Table.erase s.heaps k } key id)) ∧
         (f.sub = 2#8 → exec (.heap f) s = .next ((s.modHeap k (fun h => { h with entries := [], nan := 0 })).beNext key id)) ∧
         (f.sub = 3#8 → exec (.heap f) s = .next (s.beGo key (c.upc + 1) (fun c => c.setReg f.d (BitVec.ofNat 64 h.entries.length)))) ∧
         (f.sub = 4#8 → exec (.heap f) s = .next (s.beGo key (c.upc + 1) (fun c => c.setReg f.d (BitVec.ofNat 64 h.nan)))) ∧
         (f.sub = 5#8 → exec (.heap f) s = .next (s.beGo key (c.upc + 1) (fun c => c.setReg f.d h.bound))) ∧
         (∀ (j : Nat) (o : BeHeap), f.sub = 6#8 → s.heapOf key c f.b.toNat = some j → Table.find s.heaps j = some o →
           exec (.heap f) s = .next ((s.modHeap k (fun h =>
             { o.entries.foldl BeHeap.offer h with nan := min ((o.entries.foldl BeHeap.offer h).nan + o.nan) (2 ^ 32 - 1) })).beNext key id)))) ∧
     (∀ (f : BrForm) (k : Nat), brLegal 0x23 f = true → s.heapOf key c f.c.toNat = some k →
       exec (.hoffer f) s = .next ((s.modHeap k (fun h =>
         h.offer { dist := (c.reg f.a).setWidth 32, id := c.reg f.b, tag := (c.reg f.d).setWidth 32 })).beNext key id)) ∧
     (∀ (f : BrForm) (k a : Nat) (h : BeHeap), brLegal 0x24 f = true → s.heapOf key c f.c.toNat = some k → Table.find s.heaps k = some h →
       a = (c.reg f.a).toNat → a % 8 = 0 → c.isWalker = false → c.inWindow a (16 * h.entries.length) = true →
       exec (.hout f) s = .next (s.beGo key (c.upc + 1) (fun c => { c.setReg f.d (BitVec.ofNat 64 h.entries.length) with
         win := c.win.writeList a (h.entries.flatMap (fun e => natToBytes 16 e.bits)) }))) ∧
     (∀ f : BrForm, (brLegal 0x23 f = true → s.heapOf key c f.c.toNat = none → exec (.hoffer f) s = .next (s.beStop key 5 {})) ∧
       (brLegal 0x24 f = true → s.heapOf key c f.c.toNat = none → exec (.hout f) s = .next (s.beStop key 5 {}))))

/-- 06 R176, R195 to R199; 13 R375, R377, R378: POST writes its bytes of the window where its destination translates whole, and counts them where it names a
barrier object; WHOP and WSPAWN register with the query's home and wait; VISIT tells whether the node was visited and marks it; CWAIT answers the last
command, takes the next one, ends a closing context or waits; CREPLY answers; RDS reads a status. -/
def Obligations.BurrowSendsComplete : Prop :=
  ∀ (s : State) (key : Nat) (c : BeCtx), Runs s key c →
    (∀ (f : BrForm) (b g t ctx src n va : Nat) (origin : W64) (ps : List (Space × Nat × Nat)), brLegal 0x28 f = true → s.launcher c = some (b, g, t, ctx, origin) →
      src = (c.reg f.a).toNat → n = (c.reg f.b).toNat → va = (c.reg f.c).toNat → src % 8 = 0 → n % 8 = 0 → va % 8 = 0 → c.inWindow src n = true →
      c.windowBad src n = false → s.postPieces ctx (spanFuel n) va n = .ok ps →
      (f.sub = 0#8 → exec (.post f) s = .next ((s.putPieces ps (c.win.readList src n)).beNext key id)) ∧
      (∀ sp a, f.sub ≠ 0#8 → (s.putPieces ps (c.win.readList src n)).boTarget b (c.reg f.d).toNat = .ok (sp, a) →
        exec (.post f) s = .next (((s.putPieces ps (c.win.readList src n)).sendCount { space := sp, addr := a, n := n }).beNext key id))) ∧
    (∀ (f : BrForm) (op x id q : Nat) (w : Search) (r : Registration), c.who = .walker id q → s.search id = some w → c.registration = none →
      brLegal op f = true → x = (c.reg f.a).toNat → x < 1024 → x % 16 < 12 → bitAt w.stackSet (x % 16) = 1 →
      r = { sender := key, hop := op == 0x29, walker := c.message w id q, target := 64 * (x % 16) + x / 16 } →
      op = 0x29 ∨ op = 0x2A →
      exec (if op = 0x29 then .whop f else .wspawn f) s = .next { s with
        engines := Table.modify s.engines key (fun c => { c with registration := some s.nextId, state := .waiting })
        registrations := Table.put s.registrations s.nextId r, nextId := s.nextId + 1 }) ∧
    (∀ (f : BrForm) (n id q k : Nat) (w : Search), brLegal 0x2B f = true → c.who = .walker id q → s.search id = some w → n = (c.reg f.a).toNat →
      n / 2 ^ 60 = beStack key → n % 2 ^ 54 < w.nmax → k = visitKey q (beStack key) (n / 2 ^ 54 % 64) (n % 2 ^ 54) →
      exec (.visit f) s = .next (State.beNext { s with searches := Table.put s.searches id { w with visited := Table.put w.visited k () } } key
        (fun c => c.setReg f.d (if (Table.find w.visited k).isSome then 1#64 else 0#64)))) ∧
    (∀ (f : BrForm) (u : State) (n : Nat), brLegal 0x2C f = true → c.isStreamed = true → u = s.replyZero key c → u.serialOf c = some n →
      (∀ id m, u.nextCommand n = some (id, m) → exec (.cwait f) s = .next (u.beNext key (fun c =>
        { (c.setReg f.d m.operand).setReg f.a (BitVec.ofNat 64 m.code) with cmd := some id }))) ∧
      (u.nextCommand n = none → ∀ o, Table.find u.opens n = some o → exec (.cwait f) s = .next (if o.closing then u.endContext key none
        else u.modEngine key (fun c => { c with state := .waiting })))) ∧
    (∀ (f : BrForm) (id : Nat), brLegal 0x2D f = true → c.cmd = some id →
      exec (.creply f) s = .next ((s.answerCommand id (c.reg f.a) true).beNext key (fun c => { c with cmd := none }))) ∧
    (∀ f : BrForm, brLegal 0x2D f = true → c.cmd = none → exec (.creply f) s = .next (s.beStop key 1 {})) ∧
    (∀ (f : BrForm) (x : W64), brLegal 0x2E f = true → s.beStatus key { c with state := .ready } (f.sub.toNat % 16) = some x →
      exec (.rds f) s = .next (s.beGo key (c.upc + 1) (fun c => { c.setReg f.d x with flags := if 128 ≤ f.sub.toNat then 0#6 else c.flags })))

/-- 06 R180, R181, R188: the words of GSET, GCMP and TTLD decode by the fields of their forms, a GCMP with a reserved condition or a nonzero c and a
TTLD with a nonzero d or sub being refused as words. GSET places its immediate in a halfword of gd and clears or keeps the rest; GCMP sets gd to 1 or 0;
TTLD loads the eight rows of a table, or stops the context as illegal, changing no table, where bits 15:12 of some row are not zero. -/
def Obligations.BankRegisterWords : Prop :=
  (∀ w : W32, w.extractLsb' 26 6 = 0x0A#6 → w.extractLsb' 16 3 = 0#3 → decodeBurrow w = .ok (.gset
    { d := w.extractLsb' 22 4, hw := w.extractLsb' 20 2, keep := w.getLsbD 19, imm := w.extractLsb' 0 16 })) ∧
  (∀ w : W32, w.extractLsb' 26 6 = 0x0B#6 → w.extractLsb' 8 2 = 0#2 →
    (w.extractLsb' 10 4 = 0#4 ∧ (w.extractLsb' 0 8).toNat ≤ 5 → decodeBurrow w = .ok (.gcmp
      { d := w.extractLsb' 22 4, a := w.extractLsb' 18 4, b := w.extractLsb' 14 4, c := 0#4, sub := w.extractLsb' 0 8 })) ∧
    (w.extractLsb' 10 4 ≠ 0#4 ∨ 6 ≤ (w.extractLsb' 0 8).toNat → ∃ r, decodeBurrow w = .error r)) ∧
  (∀ w : W32, w.extractLsb' 26 6 = 0x1D#6 → w.extractLsb' 8 2 = 0#2 →
    (w.extractLsb' 22 4 = 0#4 ∧ w.extractLsb' 0 8 = 0#8 → decodeBurrow w = .ok (.ttld
      { d := 0#4, a := w.extractLsb' 18 4, b := w.extractLsb' 14 4, c := w.extractLsb' 10 4, sub := 0#8 })) ∧
    (w.extractLsb' 22 4 ≠ 0#4 ∨ w.extractLsb' 0 8 ≠ 0#8 → ∃ r, decodeBurrow w = .error r)) ∧
  (∀ (s : State) (key : Nat) (c : BeCtx), Runs s key c →
    (∀ f, ∃ x : W64, exec (.gset f) s = .next (s.beGo key (c.upc + 1) (fun c => c.setReg f.d x)) ∧
      (f.keep = false → x.toNat = f.imm.toNat * 2 ^ (16 * f.hw.toNat)) ∧
      (f.keep = true → ∀ j < 64, x.getLsbD j = if 16 * f.hw.toNat ≤ j ∧ j < 16 * f.hw.toNat + 16 then f.imm.getLsbD (j - 16 * f.hw.toNat)
        else (c.reg f.d).getLsbD j)) ∧
    (∀ (f : BrForm) (holds : Prop), f.c = 0#4 → f.sub.toNat ≤ 5 →
      (holds ↔ match f.sub.toNat with
        | 0 => c.reg f.a = c.reg f.b
        | 1 => c.reg f.a ≠ c.reg f.b
        | 2 => (c.reg f.a).toInt < (c.reg f.b).toInt
        | 3 => (c.reg f.a).toInt ≤ (c.reg f.b).toInt
        | 4 => (c.reg f.a).toNat < (c.reg f.b).toNat
        | _ => (c.reg f.a).toNat ≤ (c.reg f.b).toNat) →
      (holds → exec (.gcmp f) s = .next (s.beGo key (c.upc + 1) (fun c => c.setReg f.d 1#64))) ∧
      (¬holds → exec (.gcmp f) s = .next (s.beGo key (c.upc + 1) (fun c => c.setReg f.d 0#64)))) ∧
    (∀ f : BrForm, f.d = 0#4 → f.sub = 0#8 →
      ((∀ k < 4, (c.reg f.a).extractLsb' (16 * k + 12) 4 = 0#4 ∧ (c.reg f.b).extractLsb' (16 * k + 12) 4 = 0#4) →
        ∃ t : BitVec 128, exec (.ttld f) s = .next (s.beGo key (c.upc + 1) (fun c => { c with tables := Table.set 0#128 c.tables f.c.toNat t })) ∧
          ∀ k < 4, tableRow t k = ((c.reg f.a).extractLsb' (16 * k) 16).toNat ∧ tableRow t (k + 4) = ((c.reg f.b).extractLsb' (16 * k) 16).toNat) ∧
      ((∃ k < 4, (c.reg f.a).extractLsb' (16 * k + 12) 4 ≠ 0#4 ∨ (c.reg f.b).extractLsb' (16 * k + 12) 4 ≠ 0#4) →
        exec (.ttld f) s = .next (s.beStop key 1 {}) ∧ (Table.risingFrom 0 s.engines = true →
          ∀ x, Table.find (s.beStop key 1 {}).engines key = some x → x.tables = c.tables))))

/-! ### The matrix sequencer and engine -/

/-- 05 R141, R143 to R151: the control words of a block's sequencer: what each leaves in its registers, predicates, joins, arrivals and program counter.
A wait keeps the word it waits in, which is not fetched again (R116). A word that breaks its rules, and one that decodes to none, stop it as illegal. -/
def Obligations.MatrixControlComplete : Prop :=
  ∀ (s : State) (b : Nat) (m : Msq), s.cur = .msq b → m = (s.block b).msq →
    exec .mnop s = .next (s.msqNext b) ∧
    exec .mwait s = .next (s.msqNext b) ∧
    exec .mend s = .next ((s.modBlock b (fun bl => { bl with mjoin := 0#16, msq := { bl.msq with state := .ended } })).testBarriers b) ∧
    exec .illegalMatrixWord s = .next (s.msqStop b { code := 1 }) ∧
    (∀ cond qa off (take : Bool), cond.toNat < 5 → (cond = 0#3 → qa = 0#5) →
      take = (match cond.toNat with
        | 0 => true
        | 1 => m.reg qa.toNat == 0#64
        | 2 => m.reg qa.toNat != 0#64
        | 3 => (m.reg qa.toNat).msb
        | _ => !(m.reg qa.toNat).msb) →
      exec (.mbr cond qa off) s = .next (s.modMsq b (fun m =>
        if take then { m.next with mpc := (m.mpc + 8#64 * off.signExtend 64) &&& 0x1FFFFFFFFFFFFF8#64 } else m.next))) ∧
    (∀ qa off, exec (.mbr 5#3 qa off) s = .next (s.modMsq b (fun x =>
      if m.reg qa.toNat - 1#64 ≠ 0#64
      then { (x.setReg qa.toNat (m.reg qa.toNat - 1#64)).next with mpc := (x.mpc + 8#64 * off.signExtend 64) &&& 0x1FFFFFFFFFFFFF8#64 }
      else (x.setReg qa.toNat (m.reg qa.toNat - 1#64)).next))) ∧
    (∀ cond qa off, cond.toNat ≤ 5 → cond.toNat = 0 → qa ≠ 0#5 → exec (.mbr cond qa off) s = .next (s.msqStop b { code := 1 })) ∧
    (∀ qd qa qb op bimm imm, op.toNat ≤ 9 → (bimm = true → qb = 0#5) → (bimm = false → imm = 0#32) →
      exec (.malu qd qa qb op bimm imm) s = .next (s.modMsq b (fun x =>
        (x.setReg qd.toNat (maluValue op.toNat (x.reg qa.toNat) (if bimm then imm.signExtend 64 else m.reg qb.toNat))).next))) ∧
    (∀ qd qa n off a, qd.toNat + (n.toNat + 1) ≤ 32 → a = mqAddress m qa off → a % 8 = 0 →
      (∀ x, s.msqElements b a (n.toNat + 1) 64 6 = .ok x → exec (.mldq qd qa n off) s = .next (s.modMsq b (fun y =>
        ((List.range (n.toNat + 1)).foldl (fun y j => y.setReg (qd.toNat + j) (BitVec.ofNat 64 (x / 2 ^ (64 * j)))) y).next))) ∧
      (∀ ps, s.span b (spanFuel (8 * (n.toNat + 1))) a (8 * (n.toNat + 1)) Need.write 6 = .ok ps → exec (.mstq qd qa n off) s = .next
        ((s.putPieces ps ((List.range (n.toNat + 1)).flatMap (fun j => natToBytes 8 (m.reg (qd.toNat + j)).toNat))).msqNext b))) ∧
    (∀ sel qa useq count,
      (∀ c, sel.toNat < 2 → (useq = false → qa = 0#5) → c = (if useq then (m.reg qa.toNat).toNat else count.toNat) → c ≤ 128 →
        exec (.mpred sel qa useq count) s = .next (s.modMsq b (fun x =>
          (if sel = 0#2 then { x with mrp := lowMask c } else { x with mcp := lowMask c }).next))) ∧
      (2 ≤ sel.toNat → qa.toNat % 2 = 0 → useq = false → count = 0#8 → exec (.mpred sel qa useq count) s = .next (s.modMsq b (fun x =>
        (if sel = 2#2 then { x with mrp := (m.reg qa.toNat).setWidth 128 ||| ((m.reg (qa.toNat + 1)).setWidth 128 <<< 64) }
         else { x with mcp := (m.reg qa.toNat).setWidth 128 ||| ((m.reg (qa.toNat + 1)).setWidth 128 <<< 64) }).next)))) ∧
    (∀ mask, exec (.mbar 3#2 0#4 mask) s = .next (((s.modBlock b (fun bl => { bl with mjoin := mask })).testBarriers b).msqNext b)) ∧
    (∀ (nb : BitVec 4) (x : NBarrier) (u : State) (stay : Instr → State), (s.block b).mjoin.getLsbD nb.toNat = true → x = Table.get {} (s.block b).nb nb.toNat →
      u = (s.modBlock b (fun bl => { bl with nb := (Table.set {} bl.nb nb.toNat { x with msq := true })
                                             msq := { bl.msq with arrivals := Table.put bl.msq.arrivals nb.toNat x.phase } })).testBarrier b nb.toNat →
      stay = (fun e => s.modMsq b (fun m => { m with fetched := some e })) →
      (exec (.mbar 0#2 nb 0#16) s = .next (if x.msq then stay (.mbar 0#2 nb 0#16) else u.msqNext b)) ∧
      (exec (.mbar 1#2 nb 0#16) s = .next (if (s.block b).msqPast nb.toNat then s.modMsq b (fun m => { m.next with wtd := false })
        else stay (.mbar 1#2 nb 0#16))) ∧
      (m.wtd = false → exec (.mbar 2#2 nb 0#16) s = .next (if x.msq then stay (.mbar 2#2 nb 0#16)
        else (u.modMsq b (fun m => { m with wtd := true })).msqWait b nb.toNat (.mbar 2#2 nb 0#16))) ∧
      (m.wtd = true → exec (.mbar 2#2 nb 0#16) s = .next (if (s.block b).msqPast nb.toNat then s.modMsq b (fun m => { m.next with wtd := false })
        else stay (.mbar 2#2 nb 0#16)))) ∧
    (∀ qd sel clr x, (clr = true → sel = 0#3) → x = (match sel.toNat with
        | 0 => some m.mst
        | 1 => some (BitVec.ofNat 64 m.mrow)
        | 2 => some m.mpc
        | 3 => some (BitVec.ofNat 64 s.time)
        | 4 => some m.mfa
        | 5 => some ((s.block b).mjoin.setWidth 64)
        | _ => none) →
      exec (.mrds qd sel clr) s = .next (match x with
        | none => s.msqStop b { code := 1 }
        | some y => s.modMsq b (fun m => ({ m with flags := if clr then 0#7 else m.flags }.setReg qd.toNat y).next)))

/-- 05 R115, R119, R129 to R134, R152 to R157: MZERO fills the enabled elements of a tile; MMA, MMAS, MLDT and MSTT that pass their checks become the engine's
work, which commits the bands with an enabled row one by one, in ascending order, and ends after the last, MSTT counting its bytes; a failing check or
band stops the sequencer, which is delivered unless the fault service takes it. -/
def Obligations.MatrixEngineComplete : Prop :=
  (∀ (s : State) (b : Nat) (m : Msq), s.cur = .msq b → m = (s.block b).msq →
    (∀ t fill qa, (fill = false → qa = 0#5) → exec (.mzero t fill qa) s = .next (State.msqNext (((List.range 128).filter (fun i => m.mrp.getLsbD i)).foldl
      (fun u i => u.putRow b t.toNat i (m.cols.map (fun _ => if fill then (m.reg qa.toNat).setWidth 32 else 0#32))) s) b)) ∧
    (∀ (e : Instr) (stop : Option Stop), ((∃ f, e = .mma f ∧ stop = stopOf (m.plan f none)) ∨
        (∃ f n qm, e = .mmas f n qm ∧ stop = stopOf (m.plan f (some (n.toNat + 1, qm.toNat)))) ∨
        (∃ t fmt qa, e = .mldt t fmt qa ∧ stop = stopOf (m.mldtPlan fmt.toNat qa.toNat)) ∨ (∃ f, e = .mstt f ∧ stop = stopOf (m.msttPlan f))) →
      exec e s = .next (match stop with
        | none => s.modMsq b (fun m => { m with job := some e })
        | some p => s.msqStop b p))) ∧
  (∀ (s : State) (b band : Nat) (rest : List Nat) (e : Instr), (s.block b).msq.job = some e → (s.block b).place = .resident →
    (s.block b).msq.state = .running → (s.block b).msq.bandsLeft = band :: rest →
    (∀ u, s.commitBand b band e = .ok u → exec (.mmaBandCommit b) s = .next (if rest = [] then (u.pulse (u.block b).ctx).endJob b e
      else (u.pulse (u.block b).ctx).modMsq b (fun m => { m with mrow := 16 * band + 16 }))) ∧
    (∀ p, s.commitBand b band e = .error p → exec (.mmaBandCommit b) s = .next (s.msqStop b p))) ∧
  (∀ (s : State) (b : Nat) (e : Instr), (s.block b).msq.job = some e → (s.block b).place = .resident → (s.block b).msq.state = .running →
    (s.block b).msq.bandsLeft = [] → exec (.mmaBandCommit b) s = .next (s.endJob b e)) ∧
  (∀ (m : Msq), m.bandsLeft.Pairwise (· < ·) ∧ ∀ k, k ∈ m.bandsLeft ↔ k < 8 ∧ m.mrow ≤ 16 * k ∧ ∃ i, i < 16 ∧ m.mrp.getLsbD (16 * k + i) = true) ∧
  (∀ (s : State) (b : Nat) (p : Stop), Table.risingFrom 0 s.blocks = true → (Table.find s.blocks b).isSome → p.code ≠ 2 → p.code ≠ 4 →
    ((s.msqStop b p).block b).msq = { (s.block b).msq with
      state := .stopped, fcode := p.code, fop := p.fop, job := none, fetched := none, delivered := true, fault := none
      mfa := match p.mfa with
        | some a => BitVec.ofNat 64 (a % 2 ^ 57)
        | none => (s.block b).msq.mfa })

/-- 05 R145: an MLI word decodes by its fields, mode 3 being refused; mode 0 loads the immediate sign-extended, mode 1 zero-extended, and mode 2
replaces the upper half of the register and keeps its lower half. -/
def Obligations.SequencerImmediates : Prop :=
  (∀ w : W64, w.extractLsb' 56 8 = 0x04#8 → w.extractLsb' 32 17 = 0#17 →
    (w.extractLsb' 49 2 ≠ 3#2 → decodeMatrix w = .ok (.mli (w.extractLsb' 51 5) (w.extractLsb' 49 2) (w.extractLsb' 0 32))) ∧
    (w.extractLsb' 49 2 = 3#2 → ∃ r, decodeMatrix w = .error r)) ∧
  (∀ (s : State) (b : Nat) (qd : BitVec 5) (mode : BitVec 2) (imm : BitVec 32), s.cur = .msq b → mode ≠ 3#2 → ∃ x : W64,
    exec (.mli qd mode imm) s = .next (s.modMsq b (fun m => (m.setReg qd.toNat x).next)) ∧
    (mode = 0#2 → x.toInt = imm.toInt) ∧ (mode = 1#2 → x.toNat = imm.toNat) ∧
    (mode = 2#2 → x.extractLsb' 32 32 = imm ∧ x.extractLsb' 0 32 = ((s.block b).msq.reg qd.toNat).extractLsb' 0 32))

/-! ### Scheduling, binding and the watchdog -/

/-- 11 R307; 12 R349 to R357; 05 R138, R139; 15 R412: what the scheduler's events do: the rotation quantum and the track limits, 4,096 cycles of the
arithmetic clock being counted for a claim (R3); the tick, every 50 µs; a bind record that starts, switches out or resumes a block, or whose image reads
poisoned; the end of a drain; the slots of the matrix engines; the watchdog. -/
def Obligations.SchedulingEventsComplete : Prop :=
  (∀ (s : State) (b g : Nat), exec (.rotationQuantumExpiry b g) s = .next (if 128 ≤ (s.group (gkey b g)).rotation ∧ s.otherPaths (gkey b g) = true
      then s.modGroup (gkey b g) (fun gr => { gr with pick := .age }) else s) ∧
    exec (.trackPassLimit b g) s = .next (if (s.group (gkey b g)).pass = none ∧ 512 ≤ (s.group (gkey b g)).trackPasses ∧ s.othersWait (gkey b g) = true
      then s.dropTrack (gkey b g) else s) ∧
    (∀ w k, (s.group (gkey b g)).waitSince = some w → 4096 * 1000 ≤ (s.time - w) * s.clock ((s.block b).core / 128) →
      (∀ j ∈ s.groupsOn (s.block b).core, j ≠ gkey b g → (s.group j).track = none → ∀ v, (s.group j).waitSince = some v → v < w →
        s.hasClaim (s.block b).core j = true) →
      (s.group (gkey b g)).track = none → (s.block b).place = .resident → s.freeTracks (s.block b).core = [] →
      (∀ j ∈ s.groupsOn (s.block b).core, (s.group j).claimedBy ≠ some (gkey b g)) → s.claimTarget (s.block b).core = some k →
      exec (.trackClaim b g) s = .next (s.modGroup k (fun gr => { gr with claimedBy := some (gkey b g) })))) ∧
  (∀ (s : State) (gk tr c : Nat), (s.group gk).track = some tr → (s.group gk).claimedBy = some c →
    s.dropTrack gk = (s.modGroup gk (fun gr => { gr with track := none, trackPasses := 0, claimedBy := none, waitSince := some s.time })).modGroup c
      (fun gr => { gr with track := some tr, trackPasses := 0, trackSince := s.time, waitSince := none })) ∧
  (∀ (s u v : State), 50000 * (s.ticks + 1) ≤ s.time →
    u = (((State.reportUnfit { s with ticks := s.ticks + 1 }).queues.filter (fun e => (State.reportUnfit { s with ticks := s.ticks + 1 }).waitDue e.1)).foldl
      (fun w e => w.post (.change e.1)) (State.reportUnfit { s with ticks := s.ticks + 1 })) →
    v = u.eldersInOrder.foldl (fun w b => (w.resumeElder b).reportUnsavable (w.block b).ctx) u → exec .schedulingTick s = .next (v.gridsInOrder.foldl (fun w k => w.bindGrid k) v)) ∧
  (∀ (s : State) (cc die : Nat) (r : BitVec 128) (d : BindRec) (core : Nat), d = BindRec.ofBits r → core = 128 * die + d.core →
    (∀ m ∈ s.frozenMasters, m.1 ≠ 4 ∨ m.2.1 ≠ cc) →
    (s.bindViolates core d.ctx (some d.grid) = true → d.op = 1 → exec (.bindStart cc die r) s = .next (s.isolate 1 4 cc d.ctx 0)) ∧
    (∀ (sp : Spot) (m : Nat) (u : State), d.op = 1 → s.bindViolates core d.ctx (some d.grid) = false → (s.grid (gridKey d.ctx d.grid)).cont = false →
      d.ref < (s.grid (gridKey d.ctx d.grid)).l.blocks → Table.find (s.grid (gridKey d.ctx d.grid)).bound d.ref = none →
      macroRun (s.blocksOn core []) ((s.grid (gridKey d.ctx d.grid)).l.needs d.ctx) = some m →
      s.bindFits core d ((s.grid (gridKey d.ctx d.grid)).l.needs d.ctx) = true →
      s.suits core d.ctx d.grid (d.ref / (s.grid (gridKey d.ctx d.grid)).l.c) none = true →
      sp = { core := core, slot := d.slot, tag := d.tag, shm := d.shm, macros := m } → s.startBlock sp (gridKey d.ctx d.grid) d.ref none = some u →
      exec (.bindStart cc die r) s = .next u) ∧
    (∀ (b : Nat) (bl : Block), d.op = 3 → s.bindViolates core d.ctx none = false →
      s.blocks.find? (fun e => e.2.core == core && e.2.slot == d.slot && e.2.ctx == d.ctx && e.2.place == .resident) = some (b, bl) →
      d.ng = 0 → d.tag = 0 → d.ntag = 0 → d.shm = 0 → d.grid = 0 → d.ref = 0 → exec (.bindSwitchOut cc die r) s = .next (s.beginOut b)) ∧
    (∀ (b m : Nat) (bl : Block), d.op = 2 → s.bindViolates core d.ctx (some d.grid) = false →
      s.blocks.find? (fun e => e.2.place == .out && e.2.image == d.ref && e.2.ctx == d.ctx && e.2.grid == d.grid) = some (b, bl) →
      macroRun (s.blocksOn core []) bl.needs = some m → s.bindFits core d bl.needs = true → s.suitsBlock core b = true →
      (s.imagePoisoned bl = false →
        exec (.bindResume cc die r) s = .next (s.beginResume b { core := core, slot := d.slot, tag := d.tag, shm := d.shm, macros := m })) ∧
      ((s.block b) = bl → s.imagePoisoned bl = true →
        exec (.bindResume cc die r) s = .next ((s.event 0 4 0 bl.ctx 13 bl.image).beginDestroy bl.ctx)))) ∧
  (∀ (s u : State) (b : Nat), (s.block b).place = .moving → (s.block b).arriving = false → s.drained b = true → u = (s.finishOut b).settleLanded b →
    ((u.core (s.block b).core).grant = none → exec (.switchOutDrainComplete b) s = .next u) ∧
    (∀ ctx, (u.core (s.block b).core).grant = some ctx → (u.core (s.block b).core).owner = none →
      (∀ c v, u.engineClaim (s.block b).core (fun x => x == ctx) = some c → u.takeEngine (s.block b).core c = some v →
        exec (.switchOutDrainComplete b) s = .next (v.modCore (s.block b).core (fun x => { x with grant := none }))) ∧
      (u.engineClaim (s.block b).core (fun x => x == ctx) = none →
        exec (.switchOutDrainComplete b) s = .next (u.modCore (s.block b).core (fun x => { x with grant := none }))))) ∧
  (∀ (s : State), exec .matrixSlotBoundary s = .next ((List.range 2).foldl (fun u die => if Table.get 0 u.slotSeen die = u.slotNow die then u
    else (List.range 128).foldl (fun v k => v.slotEngine (128 * die + k) (u.slotEntry die (u.slotNow die % 64)))
      { u with slotSeen := Table.set 0 u.slotSeen die (u.slotNow die) }) s)) ∧
  (∀ (s : State) (die n x : Nat), x = Table.get 0 s.slotTable (64 * die + n) → s.slotEntry die n = if bitAt x 31 = 1 then some (x % 4096) else none) ∧
  (∀ (s u : State), 1000000 * (s.samples + 1) ≤ s.time → u = { s with
    samples := s.samples + 1
    contexts := s.contexts.map (fun e => (e.1, { e.2 with
      pulsed := false, idle := if e.2.pulsed then 0 else if e.2.watchdog ≠ 0 ∧ s.busy e.1 = true then e.2.idle + 1 else e.2.idle })) } →
    exec .watchdogSample s = .next ((u.contexts.filter (fun e => e.2.watchdog != 0 && decide (e.2.watchdog ≤ e.2.idle))).foldl
      (fun w e => w.post (.context e.1)) u)) ∧
  (∀ (s u v : State) (ctx : Nat), (s.context ctx).watchdog ≠ 0 → (s.context ctx).watchdog ≤ (s.context ctx).idle →
    u = (s.blocks.filter (fun e => e.2.ctx == ctx && e.2.place == .resident)).foldl (fun s e => s.beginOut e.1) s →
    v = (u.queues.filter (fun e => e.2.ctx == ctx && (e.2.enabled || e.2.state != 0) && e.2.state != 3)).foldl (fun s e => s.stopQueue e.1 8) u →
    exec (.watchdogExpiry ctx) s = .next (State.event { v with
      contexts := Table.modify v.contexts ctx (fun c => { c with idle := 0, halted := true }) } 0 4 0 ctx 8 0))

/-! ### Translation, faults and hand-over -/

/-- 14 R393 to R402: a walk ends with a leaf, which the cache keeps, or with a cause, which the passes waiting for it take; a new fault is written to its
partition's ring, or held while that has no room; an answer of the host retries or delivers it; an invalidation empties the cache and completes once the
accesses before it are done; a hand-over command marks the leaves of its range and invalidates it, and ends when that is complete. -/
def Obligations.FaultServiceCompletes : Prop :=
  (∀ (s u : State) (ctx page : Nat), (Table.find s.walks (pageKey ctx (page * 65536))).isSome → u = { s with walks := Table.erase s.walks (pageKey ctx (page * 65536)) } →
    (∀ l, u.walk ctx (page * 65536) = .ok l →
      exec (.pageWalkComplete ctx page) s = .next { u.walkEnds (pageKey ctx (page * 65536)) none with tlb := Table.put s.tlb (pageKey ctx (page * 65536)) l }) ∧
    (∀ c, u.walk ctx (page * 65536) = .error c →
      exec (.pageWalkComplete ctx page) s = .next (u.walkEnds (pageKey ctx (page * 65536)) (some c)))) ∧
  (∀ (s : State) (id : Nat) (f : FaultRec), Table.find s.faults id = some f →
    ((s.page (s.context f.ctx).partition).ringRoom = true → s.heldEarlier id f = false →
      (f.stage = 0 → exec (.faultEvent id) s = .next ((s.writeRecord id f).pulse f.ctx)) ∧
      (f.stage = 1 → exec (.faultRecordDeferred id) s = .next (s.writeRecord id f))) ∧
    ((s.page (s.context f.ctx).partition).ringRoom = false → f.stage = 0 →
      exec (.faultEvent id) s = .next { s with faults := Table.put s.faults id { f with stage := 1 } }) ∧
    (s.mem.wf = true → ∀ (p : Page) (a : Nat), p = s.page (s.context f.ctx).partition → a = hostBase + p.reg 0 + 32 * (p.frtail % 2 ^ p.reg 8) →
      (s.writeRecord id f).mem.readNat a 32 = f.bytes p.serial s.time % 2 ^ 256 ∧
      (∀ x, x < a ∨ a + 32 ≤ x → (s.writeRecord id f).mem.byte x = s.mem.byte x) ∧
      ((s.writeRecord id f).page (s.context f.ctx).partition).frtail = (p.frtail + 1) % 2 ^ 32)) ∧
  (∀ (s : State) (p ctx serial id : Nat) (v : W64) (f : FaultRec), ctx = v.toNat / 2 ^ 48 % 2 ^ 12 → serial = v.toNat % 2 ^ 32 → s.contextIn p ctx = true →
    s.faults.find? (fun e => e.2.stage == 2 && e.2.ctx == ctx && e.2.serial == serial) = some (id, f) →
    (v.getLsbD 60 = false → exec (.faultRetry p v) s = .next ((s.retryFault id).pulse ctx)) ∧
    (v.getLsbD 60 = true → exec (.faultDeliver p v) s = .next ((s.deliverFault id f).pulse ctx))) ∧
  (∀ (s : State) (p : Nat) (i : Inval), i = { ctx := ((s.page p).reg 0x88) / 2 ^ 32 % 2 ^ 12, page := ((s.page p).reg 0x80) / 2 ^ 16 % 2 ^ 41
                                              pages := (s.page p).reg 0x88 % 2 ^ 32, upto := s.nextId + 1, counted := true } →
    (s.contextIn p i.ctx = true → exec (.tlbInvalidate p) s = .next ((s.startInval i).modPage p (fun pg => { pg with invals := pg.invals ++ [i] }))) ∧
    (s.contextIn p i.ctx = false → exec (.tlbInvalidate p) s = .next (s.event 0 4 0 i.ctx 15 0))) ∧
  (∀ (s : State) (i : Inval) (k : Nat) (l : Leaf), (k, l) ∈ (s.startInval i).tlb ↔ (k, l) ∈ s.tlb ∧ i.touches k l = false) ∧
  (∀ (s : State) (p : Nat) (i : Inval) (rest : List Inval), s.cur = .partition p → (s.page p).invals = i :: rest →
    exec .tlbInvalidateComplete s = .next (if s.invalDone i then (s.startInval i).modPage p (fun pg =>
      { pg with invals := rest, tlbdone := (pg.tlbdone + (if i.counted then 1 else 0)) % 2 ^ 64 }) else s)) ∧
  (∀ (s : State) (p : Nat) (ws : List W64) (rest : List (List W64)) (h : Handover), s.cur = .partition p → (s.page p).handovers = ws :: rest →
    h = Handover.ofWords ws → (s.page p).acquiring = none →
    (s.handoverOk p ws = false → exec (if h.release then .handoverRelease else .handoverAcquire) s = .next
      ((s.modPage p (fun pg => { pg with handovers := rest })).handoverDone p h.serial 1)) ∧
    (s.handoverOk p ws = true → s.leafBeyond h = true → exec (if h.release then .handoverRelease else .handoverAcquire) s = .next
      ((s.modPage p (fun pg => { pg with handovers := rest })).handoverDone p h.serial 2)) ∧
    (s.handoverOk p ws = true → s.leafBeyond h = false → h.release = false → exec .handoverAcquire s = .next
      (((s.setHost h true).startInval { h.inval (s.nextId + 1) with taken := s.handoverTakes h }).modPage p (fun pg =>
        { pg with acquiring := some { h.inval (s.nextId + 1) with taken := s.handoverTakes h } }))) ∧
    (s.handoverOk p ws = true → s.leafBeyond h = false → h.release = true → exec .handoverRelease s = .next
      (((s.setHost h false).startInval (h.inval (s.nextId + 1))).modPage p (fun pg => { pg with acquiring := some (h.inval (s.nextId + 1)) })))) ∧
  (∀ (s : State) (p : Nat) (i : Inval) (ws : List W64) (rest : List (List W64)) (h : Handover), s.cur = .partition p → (s.page p).handovers = ws :: rest →
    h = Handover.ofWords ws → (s.page p).acquiring = some i → s.invalDone i = true →
    (h.release = false → s.rangeQuiet i = true → exec .handoverAcquireComplete s = .next
      ((State.modPage { s.startInval i with cores := s.cores.map (fun e => (e.1, { e.2 with near := [], nearPoison := [] })) } p
        (fun pg => { pg with acquiring := none, handovers := rest })).handoverDone p h.serial 0)) ∧
    (h.release = true → ∀ u v, u = (s.startInval i).modPage p (fun pg => { pg with acquiring := none, handovers := rest }) →
      v = (u.faults.filter (fun e => e.2.cause == 4 && i.covers e.2.ctx (e.2.va / 65536))).foldl (fun s e => s.retryFault e.1) u →
      exec .handoverRelease s = .next (v.handoverDone p h.serial 0)))

/-! ### Contexts, queues and partitions -/

/-- 15 R404, R406 to R411, R415 to R418; 12 R333, R334; 14 R403; 05 R138; 07 R216: the commands of a partition, whose status goes to cdone; the host's
writes of tails and registers and its accesses to BAR2; partition descriptors; and the release of a frozen master. A command that breaks a rule is refused
with status 1; a register of a protected region takes writes from its own masters only. -/
def Obligations.HostCommandsComplete : Prop :=
  (∀ (s : State) (p : Nat) (ws : List W64) (rest : List (List W64)) (c : Command3) (e : Instr), s.cur = .partition p → (s.page p).commands = ws :: rest →
    c = Command3.ofWords ws → (s.page p).destroying = none →
    ((c.op, e) ∈ [(0, Instr.contextCreate), (1, .contextReload), (2, .contextDestroy), (3, .queueEnable), (4, .queueDisable), (5, .slotEntry), (6, .classQuotas)] →
      s.commandOk p c = false → exec e s = .next ((s.modPage p (fun pg => { pg with commands := rest })).commandDone p c.serial 1)) ∧
    (s.commandOk p c = true → ∀ fin : State → State, fin = (fun u => (u.modPage p (fun pg => { pg with commands := rest })).commandDone p c.serial 0) →
      (∀ r x, c.op = 0 → x = s.mem.readNat c.a 64 → s.ownedAt p c.a 64 = true → s.contextRecordOk p x = true → s.remapSpot p = some r →
        exec .contextCreate s = .next (fin { s with contexts := Table.put s.contexts c.ctx (Context.load { partition := p, remap := r } c.a x) })) ∧
      (∀ x, c.op = 0 → x = s.mem.readNat c.a 64 → s.ownedAt p c.a 64 = true → s.contextRecordOk p x = true → s.remapSpot p = none →
        exec .contextCreate s = .next s) ∧
      (∀ i x, c.op = 1 → x = s.mem.readNat c.a 64 → s.ownedAt p c.a 64 = true → s.contextRecordOk p x = true →
        i = { ctx := c.ctx, page := 0, pages := 0, upto := s.nextId + 1, counted := false } → (s.page p).reloading = none →
        exec .contextReload s = .next ((State.startInval { s with contexts := Table.modify s.contexts c.ctx (fun k => k.load c.a x) } i).modPage p
          (fun pg => { pg with reloading := some i }))) ∧
      (∀ i, c.op = 1 → (s.page p).reloading = some i → exec .contextReload s = .next (if s.invalDone i
        then fin ((s.startInval i).modPage p (fun pg => { pg with reloading := none })) else s)) ∧
      (c.op = 2 → exec .contextDestroy s = .next ((s.beginDestroy c.ctx).modPage p (fun pg =>
        { pg with destroying := some (c.ctx, c.serial), commands := rest }))) ∧
      (∀ x q u, c.op = 3 → x = s.mem.readNat c.b 64 → inRange (s.partition p).slots c.a 1 = true → s.ownedAt p c.b 64 = true → recordLegal x = true →
        (Queue.ofRecord x).ctx = c.ctx → (s.queue c.a).state ≠ 1 → (s.queue c.a).state ≠ 2 → (∀ e ∈ s.queues, e.2.record ≠ c.b ∨ e.2.ctx ≠ c.ctx) →
        q = { Queue.ofRecord x with record := c.b, err := 0, state := 1, tail := (Queue.ofRecord x).captured.getD (Queue.ofRecord x).tail
                                    captured := none, uncommitted := [], frames := [] } →
        u = { s with queues := Table.put s.queues c.a q, contexts := Table.modify s.contexts c.ctx (fun k => { k with halted := false }) } →
        exec .queueEnable s = .next (fin (((u.saveQueue c.a).commitQueue c.a).post (.queue c.a)))) ∧
      (c.op = 4 → inRange (s.partition p).slots c.a 1 = true → (s.queue c.a).ctx = c.ctx → (s.queue c.a).record ≠ 0 →
        exec .queueDisable s = .next (fin ((s.saveQueue c.a).modQueue c.a (fun q => { q with state := 0, held := none, fault := none })))) ∧
      (c.op = 5 → c.a / 512 = 0 → c.a / 2 % 2 = 0 →
        inRange (if c.a % 2 = 0 then (s.partition p).entries0 else (s.partition p).entries1) (c.a / 4 % 64) 1 = true →
        exec .slotEntry s = .next (fin { s with
          slotTable := Table.set 0 s.slotTable (64 * (c.a % 2) + c.a / 4 % 64) (c.ctx + 2 ^ 31 * (c.a / 256 % 2)) })) ∧
      (c.op = 6 → exec .classQuotas s = .next (fin { s with l2cq := Table.put (Table.put s.l2cq p (quotas c.a)) (8 + p) (quotas c.a) })))) ∧
  (∀ (s : State) (p k : Nat) (x : Context), s.cur = .partition p →
    s.contexts.find? (fun e => e.2.ending && e.2.partition == p && s.destroyReady e.1) = some (k, x) →
    (∀ serial, (s.page p).destroying = some (k, serial) → exec .contextDestroyComplete s = .next
      (((s.endDestroy k).modPage p (fun pg => { pg with destroying := none })).commandDone p serial 0)) ∧
    ((s.page p).destroying = none → exec .contextDestroyComplete s = .next (s.endDestroy k))) ∧
  (∀ (s : State) (slot : Nat) (v : W64) (q : Queue) (tail : Nat), Table.find s.queues slot = some q → tail = max q.tail (q.captured.getD q.tail) →
    (q.fed = false → v.toNat % 4 = 0 → tail ≤ v.toNat → v.toNat ≤ q.head + 2 ^ q.n →
      exec (.qtailWrite slot v) s = .next (if q.state = 0 ∨ q.state = 2 then (s.setQueue slot { q with captured := some v.toNat }).saveQueue slot
        else if q.state = 3 then (s.setQueue slot { q with tail := v.toNat }).saveQueue slot
        else (s.setQueue slot { q with tail := v.toNat }).post (.queue slot))) ∧
    (q.fed = false → q.state ≠ 3 → (v.toNat % 4 ≠ 0 ∨ v.toNat < tail ∨ q.head + 2 ^ q.n < v.toNat) →
      exec (.qtailWrite slot v) s = .next (s.stopQueue slot 1)) ∧
    (q.fed = true → exec (.qtailWrite slot v) s = .next (s.event 0 5 slot q.ctx 0 v.toNat))) ∧
  (∀ (s u : State) (p : Nat) (d : Partition), u = { s with partitions := Table.put s.partitions p d } →
    (s.descriptorOk p d = false → exec (.partitionDescriptorWrite p d) s = .next (s.event 0 4 0 0 16 p)) ∧
    (s.descriptorOk p d = true →
      ((∀ die, die < 2 → ∀ q, q < 8 → q ≠ p → (s.wayMask (8 * die + q) &&& d.ways.setWidth 32) = 0#32) → exec (.partitionDescriptorWrite p d) s = .next
        { u with l2wm := Table.put (Table.put s.l2wm p (d.ways.setWidth 32)) (8 + p) (d.ways.setWidth 32) }) ∧
      ((∀ die, die < 2 → ∃ q, q < 8 ∧ q ≠ p ∧ (s.wayMask (8 * die + q) &&& d.ways.setWidth 32) ≠ 0#32) →
        exec (.partitionDescriptorWrite p d) s = .next ((u.event 0 4 0 0 18 p).event 0 4 0 0 18 p)))) ∧
  (∀ (s : State) (off n x : Nat), s.stage = 3 → s.mem.wf = true →
    (s.inDevice off n = true →
      (s.poisonedIn .main off n = false → s.hostRead off n = s.mem.readNat off n) ∧
      exec (.hostBar2Access .read off n x) s = .next { s with outbox := s.outbox ++ [.bar2 (s.hostRead off n)] } ∧
      exec (.hostBar2Access .write off n x) s = .next { s with mem := s.mem.writeNat off n x } ∧
      (∀ op new, n = 4 ∨ n = 8 → off % n = 0 → s.poisoned .main off = false →
        (op, new) ∈ [(BarOp.fetchAdd, (s.mem.readNat off n + x) % 2 ^ (8 * n)), (.swap, x % 2 ^ (8 * n)),
          (.cas, if s.mem.readNat off n = x % 2 ^ (8 * n) then x / 2 ^ (8 * n) % 2 ^ (8 * n) else s.mem.readNat off n)] →
        exec (.hostBar2Access op off n x) s = .next
          { s with outbox := s.outbox ++ [.bar2 (s.hostRead off n)], mem := s.mem.writeNat off n new }) ∧
      (s.mem.writeNat off n x).readNat off n = x % 256 ^ n ∧ ∀ a, a < off ∨ off + n ≤ a → (s.mem.writeNat off n x).byte a = s.mem.byte a) ∧
    (s.inDevice off n = false → ∀ op, exec (.hostBar2Access op off n x) s = .next
      (State.event { s with outbox := s.outbox ++ [.unsupported] } 0 5 0 0 19 off))) ∧
  (∀ (s : State) (m : Master) (v : W64), (∀ f ∈ s.frozenMasters, (f.1, f.2.1) ≠ masterKey m) →
    (∀ off, exec (.registerWrite .host (.bar0 off) v) s = .next (if (5, 0) ∈ s.frozenMasters.map (fun f => (f.1, f.2.1)) then s else s.writeBar0 off v)) ∧
    (∀ n, exec (.registerWrite m (.actreg n) v) s = .next (if m = .power
      then s.modStack n (fun k => { k with lim := max 64 (v.toNat / 2 ^ 16 % 2 ^ 16), win := max 64 (v.toNat % 2 ^ 16) }) else s.violate m n)) ∧
    (∀ die, exec (.registerWrite m (.mslen die) v) s = .next (if m = .management
      then { s with mslen := Table.set 1000 s.mslen die (max 10 (v.toNat % 2 ^ 16)) } else if masterIsCore m then s else s.violate m die)) ∧
    (∀ r, r ∈ [Reg.pmsplit] ∨ (∃ die p, r = .l2wm die p ∨ r = .l2cq die p) ∨ (∃ die n, r = .slot die n) → exec (.registerWrite m r v) s = .next
      (if masterIsCore m then s.coreWrite m r v else s.violate m 0))) ∧
  (∀ (s u : State) (kind index : Nat) (ctx : Option Nat), s.frozenMasters.find? (fun f => f.1 == kind && f.2.1 == index) = some (kind, index, ctx) →
    u = { s with frozenMasters := s.frozenMasters.filter (fun f => !(f.1 == kind && f.2.1 == index)) } →
    exec (.masterRelease kind index) s = .next (match kind with
      | 0 => u.releaseCore index ctx
      | 1 => u.releaseCore index ctx
      | 2 => (u.engines.filter (fun e => beEngine e.1 == index)).foldl (fun s e => s.reportStop e.1) u
      | 3 => { u.setPort index { u.port index with errors := 0 } with outbox := s.outbox ++ [.replayFrom index (s.port index).rxSeq] }
      | 4 => u.dropEvent index
      | _ => u))

/-! ### Errors, power, start and attestation -/

/-- 17 R445 to R455: a detected error marks what it destroyed and starts a self-test of its unit; the test's verdict leads to a repair and a record; a core
waiting for a lower corecap gets it once it is empty; channels run at half width and are restored; power steps go down and up again. -/
def Obligations.RecoveryCompletes : Prop :=
  (∀ (s : State) (site : Site) (corrected : Bool) (u : State), s.dark = false → s.siteExists site = true → u = (if corrected then s else s.contain site) →
    exec (.errorDetect site corrected) s = .next { u with
      nextId := u.nextId + 1, tests := Table.put u.tests u.nextId { site := site, corrected := corrected } }) ∧
  (∀ (s u : State) (id : Nat) (t : Test) (x : Nat × Nat × Nat) (r : State × Nat), s.dark = false → Table.find s.tests id = some t → x = s.siteUnit t.site →
    u = { s with tests := Table.erase s.tests id } →
    exec (.selfTestComplete id true) s = .next (u.event 8 (unitMaster x.1) x.2.1 (u.siteContext t.site) (x.1 + (if t.corrected then 0 else 16) + 256) x.2.2) ∧
    (r = (u.repairSite t.site).1.logRepair x (u.repairSite t.site).2 →
      exec (.selfTestComplete id false) s = .next (r.1.event 8 (unitMaster x.1) x.2.1 (u.siteContext t.site)
        (x.1 + (if t.corrected then 0 else 16) + 256 * r.2) x.2.2))) ∧
  (∀ (s : State) (core : Nat) (cap : W32), (s.core core).pending = some cap → (∀ e ∈ s.blocks, e.2.core = core → e.2.place ≠ .resident ∧ e.2.place ≠ .moving) →
    exec (.repairCorecapChange core) s = .next (s.modCore core (fun c => { c with corecap := cap, pending := none }))) ∧
  (∀ (s : State) (stack ch : Nat), s.dark = false → stack < 12 → ch < 32 →
    exec (.hbmLaneFailure stack ch) s = .next ((s.modStack stack (fun k => { k with lanef := k.lanef ||| BitVec.twoPow 32 ch })).halve stack ch) ∧
    ((s.stack stack).half.getLsbD ch = true → exec (.channelFullWidthRestore stack ch) s = .next ((s.modStack stack (fun k =>
      { k with half := k.half &&& ~~~BitVec.twoPow 32 ch, lanef := k.lanef &&& ~~~BitVec.twoPow 32 ch
               lim := if k.hot then k.cool else k.lim, hot := false })).widthRecord stack ch)) ∧
    ((s.stack stack).hot = false → exec (.stackThermalHigh stack) s = .next (((List.range 32).foldl (fun u c => u.halve stack c) s).modStack stack (fun k =>
      { k with hot := true, cool := k.lim, lim := max 64 (k.limit / 2) })))) ∧
  (∀ (s u : State) (watts hot density : Nat) (exceeded low : Bool) (busy : BitVec 12), s.dark = false → u = { s with watts := watts, hottest := hot } →
    exec (.powerEvaluation watts exceeded low busy (hot, density)) s = .next (if exceeded = true ∨ 3200 < watts ∨ 1500 < density then u.lowerPower busy
      else if low = true ∧ watts < 3000 then u.raisePower else u) ∧
    exec .powerEmergency s = .next (s.stepClocks [0, 1] (min 1000)) ∧
    (∀ die, die < 2 → exec (.thermalClockStep die) s = .next (s.stepClocks [die] (fun c => c - 100)))) ∧
  (∀ (s u : State) (id : Nat) (r : Req), s.dark = false → Table.find s.reqs id = some r → r.logged = none → r.space = .main →
    (∀ l ∈ r.lanes, hostBase ≤ l.addr) → u = { s with reqs := Table.erase s.reqs id } →
    (r.kind = .load ∨ r.kind = .near ∨ r.kind = .literal ∨ (∃ op ty, r.kind = .atomic op ty true) → exec (.pcieCompletionTimeout id) s = .next
      (r.lanes.foldl (fun u l => u.markInto r.b r.g l (poisonMark r.origin l.va)) u)) ∧
    (r.kind = .store ∨ (∃ op ty, r.kind = .atomic op ty false) → exec (.pcieCompletionTimeout id) s = .next
      (r.lanes.foldl (fun u l => u.event 0 0 r.core r.ctx 21 l.addr) u)))

/-- 17 R456 to R461; 15 R419 to R422: a firmware image is taken where it verifies and its SVN is not below the minimum; a start opens full function or stays in
safe mode with its error; power-good, reset and trip leave what survives them; freeze stops the clocks, and only then a scan is taken; the responder answers
the requests of attestation in their order. -/
def Obligations.StartAndTrustComplete : Prop :=
  (∀ (s : State) (m : Master) (ok : Bool) (img : List Byte), s.frozen = false → m = (if s.stage = 3 then .management else .host) →
    img = s.mem.readList (hostBase + s.fwaddr.toNat % 2 ^ 48) s.fwlen.toNat →
    (s.fwlen.toNat < 8192 ∨ 67108864 < s.fwlen.toNat → exec (.firmwareLoad m ok) s = .next { s with fwst := 5 }) ∧
    (8192 ≤ s.fwlen.toNat → s.fwlen.toNat ≤ 67108864 → s.flash.accepts img = false → exec (.firmwareLoad m ok) s = .next { s with fwst := 3 }) ∧
    (8192 ≤ s.fwlen.toNat → s.fwlen.toNat ≤ 67108864 → s.flash.accepts img = true → exec (.firmwareLoad m ok) s = .next { s with
      fwst := if ok then 2 else 4, flash := { s.flash with image := some (if ok then img else []) } })) ∧
  (∀ (s : State) (img : List Byte), s.running = some img →
    exec .svnRaise s = .next { s with flash := { s.flash with minSvn := max s.flash.minSvn (imageSvn img) } }) ∧
  (∀ (s u : State) (ports : BitVec 64) (hub : Bool) (stackSet : BitVec 12) (l : Nat), s.dark = false → s.stage = 0 → s.startErr = 0 →
    (s.flash.startError ≠ 0 → exec (.fullFunctionOpen stackSet hub ports l) s = .next { s with startErr := s.flash.startError }) ∧
    (s.flash.startError = 0 → u = (State.issueAlias { s with running := s.flash.image, stage := 2 }).applyRepairs →
      exec (.fullFunctionOpen stackSet hub ports l) s = .next (if stackSet ≠ BitVec.allOnes 12 then { u with startErr := 4 }
        else if hub = false then { u with startErr := 5 }
        else State.trainPorts { u with lsplit := min l 16, stage := 3, partitions := [(0, Partition.whole (min l 16))] } ports))) ∧
  (∀ (s : State), exec .deviceReset s = .next s.restart ∧ exec .powerGood s = .next { s.restart with froze := false, scanned := false } ∧
    exec .freeze s = .next { s with frozen := true, froze := true } ∧
    (s.tripped = false → ∃ t, exec .thermalTrip s = .next t ∧ t.tripped = true ∧ t.startErr = 6 ∧ t.stage = 0 ∧ t.blocks = [] ∧ t.threads = [] ∧
      t.flash = s.flash ∧ ∀ e ∈ t.mem, hostBase ≤ e.1) ∧
    (s.restart.flash = s.flash ∧ s.restart.stage = 0 ∧ s.restart.time = State.reset.time ∧ s.restart.contexts = [] ∧ s.restart.frozen = false ∧
      s.restart.tripped = false ∧ ∀ a, (s.restart.mem).byte a = if hostBase ≤ a then s.mem.byte a else 0#8) ∧
    (∀ tdi, exec (.jtagBypass tdi) s = .next { s with outbox := s.outbox ++ [.tdo tdi] }) ∧
    exec .jtagIdcode s = .next { s with outbox := s.outbox ++ [.idcode Config.idcode] } ∧
    exec .jtagScan s = .next (if s.frozen then { s with scanned := true, outbox := s.outbox ++ [.scan] } else s)) ∧
  (∀ (s : State), s.alias_ = true →
    exec .getVersion s = .next { s with spdmStage := 1, outbox := s.outbox ++ [.spdm (.version 0x13)] } ∧
    (1 ≤ s.spdmStage → exec .getCapabilities s = .next { s with spdmStage := max s.spdmStage 2, outbox := s.outbox ++ [.spdm .capabilities] }) ∧
    (2 ≤ s.spdmStage → exec (.negotiateAlgorithms true true true) s = .next { s with spdmStage := 3, outbox := s.outbox ++ [.spdm (.algorithms true true true)] }) ∧
    (3 ≤ s.spdmStage →
      (∀ cs, cs = Config.rootCert ++ (Config.deviceCert ++ Config.aliasCert (s.flash.leaf + 2) (sha384 (s.running.getD [])) (imageSvn (s.running.getD []))) →
        exec .getDigests s = .next { s with outbox := s.outbox ++ [.spdm (.digests 1 (bytesToNat (sha384 cs)))] } ∧
        (∀ off n, exec (.getCertificate 0 off n) s = .next { s with
          outbox := s.outbox ++ [.spdm (.certificate ((cs.drop off).take n) (cs.length - off - n))] })) ∧
      (∀ h nonce, h = Config.messageHash s.signed nonce.toNat ((List.range 5).map (fun k => s.measurement (k + 1))) →
        exec (.challenge 0 nonce) s = .next { s with
          signed := s.signed + 1, lastSigned := some h, outbox := s.outbox ++ [.spdm (.challengeAuth nonce (Config.ecdsaSign (s.flash.leaf + 2) h))] }) ∧
      (∀ h nonce, h = Config.messageHash s.signed nonce.toNat [5] → exec (.getMeasurements 0 true nonce) s = .next { s with
        signed := s.signed + 1, lastSigned := some h, outbox := s.outbox ++ [.spdm (.measurements [(0, 5)] (Config.ecdsaSign (s.flash.leaf + 2) h))] }) ∧
      (∀ h nonce n, 1 ≤ n → n ≤ 5 → h = Config.messageHash s.signed nonce.toNat [s.measurement n] →
        exec (.getMeasurements n true nonce) s = .next { s with signed := s.signed + 1, lastSigned := some h, outbox := s.outbox ++ [.spdm
          (.measurements [(n, s.measurement n)] (Config.ecdsaSign (s.flash.leaf + 2) h))] }) ∧
      (∀ h, s.lastSigned = some h → exec (.vendorDefinedRequest 3 Config.vendorId 1) s = .next { s with
        outbox := s.outbox ++ [.spdm (.vendor s.companion (Config.hssSign (s.flash.leaf + 2) (s.signed - 1) h))] }))) ∧
  (∀ (s : State), s.alias_ = false → ∀ e ∈ [Instr.getVersion, .getCapabilities, .getDigests], exec e s = .next { s with outbox := s.outbox ++ [.spdm .error] })

/-! ### Words of the spec, the state after reset, and rules of the whole machine -/

/-- The words that the spec writes out in its worked examples decode to the instructions it names: 02 after R58 (a kernel), 04 after R107 (TWID and BFLY),
05 after R157 (a stream), 06 after R164 (a row program); and packets as R335 lays them out. -/
def Obligations.SpecWordsDecode : Prop :=
  decodeHeader 0x40000000#32 = .ok (.clauseHeader { count := 4, cls := 0, ws := false, wl := false, tag := 0, tv := false, nb := 0, bv := false, yield := 0 }) ∧
  decodeEpael [0xE10210C0#32] = .ok (.xset { d := 1, imm := 0x860 }, []) ∧
  decodeEpael [0x3A080010#32] = .ok (.ldl { d := 4, imm := 8 }, []) ∧
  decodeEpael [0x100A0821#32, 0x00100500#32] = .ok (.iadd { d := 5, a := 2, b := 4, ext := some { ty := 1, xs := 1, xo := 1 } }, []) ∧
  decodeEpael [0x06000000#32] = .ok (.exit {}, []) ∧
  decodeEpael [0x73085001#32, 0x00300003#32] = .ok (.twid { d := 4, a := 20, ext := some { ty := 3, sub := 3 } }, []) ∧
  decodeEpael [0x72100011#32, 0x08300000#32] = .ok (.bfly { d := 8, a := 0, b := 2, ext := some { c := 4, ty := 3 } }, []) ∧
  decodeMatrix 0x0607F80000000000#64 = .ok (.mldq 0 31 7 0) ∧
  decodeMatrix 0x080D000000000000#64 = .ok (.mpred 0 6 true 0) ∧
  decodeMatrix 0x084F000000000000#64 = .ok (.mpred 1 7 true 0) ∧
  decodeMatrix 0x1108802020400000#64 = .ok (.mma { t := 0, fa := 2, fb := 2, qa := 0, qb := 2, qs := 0, sc := false, z := true, k := 64 }) ∧
  decodeMatrix 0x1404800000000000#64 = .ok (.mstt { t := 0, fmt := 1, qa := 4, rnd := 0, bo := false, qbo := 0 }) ∧
  decodeMatrix 0x0904000000000000#64 = .ok (.mbar 0 1 0) ∧
  decodeMatrix 0x0200000000000000#64 = .ok .mend ∧
  decodeBurrow 0x28400572#32 = .ok (.gset { d := 1, hw := 0, keep := false, imm := 0x572 }) ∧
  decodeBurrow 0x28580D74#32 = .ok (.gset { d := 1, hw := 1, keep := true, imm := 0xD74 }) ∧
  decodeBurrow 0x68044000#32 = .ok (.kset { a := 1, b := 1 }) ∧
  decodeBurrow 0x6C00C004#32 = .ok (.glint { h := 0, a := 0, b := 3, sub := 4 }) ∧
  decodeBurrow 0x74040000#32 = .ok (.ttld { c := 0, a := 1, b := 0 }) ∧
  decodeBurrow 0x78080002#32 = .ok (.ttp { h := 0, a := 2, c := 0, sub := 2 }) ∧
  decodePacket [0x06004003#32, 0x1000#32, 0#32, 7#32, 0#32] = .ok (.write 3 [0x1000#32, 0#32, 7#32, 0#32], []) ∧
  decodePacket [0x00000000#32, 0x07002000#32] = .ok (.nopPacket 0 [], [0x07002000#32])

/-- 05 R138; 07 R216; 12 R333, R349; 14 R403; 15 R404, R411; 17 R453, R454, R457, R458: what the registers of the device hold at reset, where the spec gives a value;
memory lists nothing (log 1), and, of the model's own fields, no agent executes and the agenda is empty (log 2). -/
def Obligations.ResetValues : Prop :=
  State.reset.stage = 0 ∧ State.reset.startErr = 0 ∧ State.reset.fwaddr = 0#64 ∧ State.reset.fwlen = 0#64 ∧ State.reset.fwst = 0 ∧
  State.reset.mem = [] ∧ State.reset.canonical = true ∧ State.reset.cur = .none ∧ State.reset.agenda = [] ∧
  (∀ c, ((State.reset.core c).me = true ∧ (State.reset.core c).trk = 32 ∧ (State.reset.core c).gs = 64 ∧ (State.reset.core c).shm = 96 ∧
    (State.reset.core c).reg = 128)) ∧
  (∀ n, (State.reset.queue n).state = 0 ∧ (State.reset.queue n).err = 0 ∧ (State.reset.queue n).tail = 0 ∧ (State.reset.queue n).prog = 0) ∧
  (∀ p off, (State.reset.page p).reg off = 0 ∧ (State.reset.page p).frtail = 0 ∧ (State.reset.page p).hdone = 0#64 ∧ (State.reset.page p).tlbdone = 0 ∧
    (State.reset.page p).cdone = 0#64) ∧
  (∀ p, (State.reset.partition p).valid = (p == 0)) ∧ (State.reset.partition 0).clusters = BitVec.allOnes 32 ∧
  (State.reset.partition 0).stackSet = BitVec.allOnes 12 ∧ (State.reset.partition 0).ways = BitVec.allOnes 16 ∧
  (∀ die p, p < 8 → State.reset.wayMask (8 * die + p) = (if p = 0 then 0xFFFF#32 else 0#32) ∧ State.reset.classQuota (8 * die + p) = 0x84210#32) ∧
  (∀ die n, State.reset.slotLength die = 1000 ∧ State.reset.slotEntry die n = none) ∧
  (∀ k, (State.reset.stack k).lim = 0xFFFF ∧ (State.reset.stack k).win = 1024 ∧ (State.reset.stack k).half = 0#32 ∧ (State.reset.stack k).lanef = 0#32) ∧
  (∀ ctx v, State.reset.remapEntry ctx v = 0#64) ∧
  (∀ n, ({} : Group).set n = { state := .free, member := 0#32, arrived := 0#32 } ∧ Table.get 0#32 ({} : Thread).x n = 0#32) ∧
  ({} : Group).fst = 0#32 ∧ ({} : Thread).tcause = 0#32

/-- 00 R5, R6 and every entry of the spec: no instruction, on any operands and in any state, leaves the machine without a next state; and no step does (log 10). -/
def Obligations.EveryStepGoesOn : Prop :=
  (∀ (e : Instr) (s : State), ∃ t, exec e s = .next t) ∧ ∀ s : State, ∃ t, step s = .next t

/-- 17 R456, R460: while the device is frozen, or its power is removed, only a reset or a cold power-up brings it back: every other step leaves it as it
is in that respect, and moves nothing of the device: threads, groups, blocks, engines, copies, ports, and, unless a trip removes their power, memories. -/
def Obligations.DarkStays : Prop :=
  ∀ s t : State, s.dark = true → step s = .next t → (∀ rest, s.agenda ≠ .event .deviceReset :: rest ∧ s.agenda ≠ .event .powerGood :: rest) →
    t.dark = true ∧ ((∀ rest, s.agenda ≠ .event .thermalTrip :: rest) →
      t.threads = s.threads ∧ t.groups = s.groups ∧ t.blocks = s.blocks ∧ t.engines = s.engines ∧ t.copies = s.copies ∧ t.ports = s.ports ∧
      t.mem = s.mem ∧ t.spaces = s.spaces ∧ t.contexts = s.contexts ∧ t.queues = s.queues ∧ t.time = s.time)
end

