-- ==== Sys2Proof/Laws/State.lean ====
section
/-! SUPPORT. What an update of one table of the state leaves as it was: one lemma per field per update, by computation. -/

namespace Sys2Proof.Machine

@[simp] theorem State.modThread_agenda (s : State) (k : Nat) (f : Thread → Thread) : (s.modThread k f).agenda = s.agenda := rfl
@[simp] theorem State.modThread_cur (s : State) (k : Nat) (f : Thread → Thread) : (s.modThread k f).cur = s.cur := rfl
@[simp] theorem State.modThread_time (s : State) (k : Nat) (f : Thread → Thread) : (s.modThread k f).time = s.time := rfl
@[simp] theorem State.modThread_nextId (s : State) (k : Nat) (f : Thread → Thread) : (s.modThread k f).nextId = s.nextId := rfl
@[simp] theorem State.modThread_groups (s : State) (k : Nat) (f : Thread → Thread) : (s.modThread k f).groups = s.groups := rfl
@[simp] theorem State.modThread_blocks (s : State) (k : Nat) (f : Thread → Thread) : (s.modThread k f).blocks = s.blocks := rfl
@[simp] theorem State.modThread_fills (s : State) (k : Nat) (f : Thread → Thread) : (s.modThread k f).fills = s.fills := rfl
@[simp] theorem State.modThread_mem (s : State) (k : Nat) (f : Thread → Thread) : (s.modThread k f).mem = s.mem := rfl
@[simp] theorem State.modThread_spaces (s : State) (k : Nat) (f : Thread → Thread) : (s.modThread k f).spaces = s.spaces := rfl
@[simp] theorem State.modThread_poison (s : State) (k : Nat) (f : Thread → Thread) : (s.modThread k f).poison = s.poison := rfl
@[simp] theorem State.modThread_reqs (s : State) (k : Nat) (f : Thread → Thread) : (s.modThread k f).reqs = s.reqs := rfl
@[simp] theorem State.modThread_copies (s : State) (k : Nat) (f : Thread → Thread) : (s.modThread k f).copies = s.copies := rfl
@[simp] theorem State.modThread_counts (s : State) (k : Nat) (f : Thread → Thread) : (s.modThread k f).counts = s.counts := rfl
@[simp] theorem State.modThread_engines (s : State) (k : Nat) (f : Thread → Thread) : (s.modThread k f).engines = s.engines := rfl
@[simp] theorem State.modThread_heaps (s : State) (k : Nat) (f : Thread → Thread) : (s.modThread k f).heaps = s.heaps := rfl
@[simp] theorem State.modThread_nearWork (s : State) (k : Nat) (f : Thread → Thread) : (s.modThread k f).nearWork = s.nearWork := rfl
@[simp] theorem State.modThread_tlb (s : State) (k : Nat) (f : Thread → Thread) : (s.modThread k f).tlb = s.tlb := rfl
@[simp] theorem State.modThread_walks (s : State) (k : Nat) (f : Thread → Thread) : (s.modThread k f).walks = s.walks := rfl
@[simp] theorem State.modThread_faults (s : State) (k : Nat) (f : Thread → Thread) : (s.modThread k f).faults = s.faults := rfl
@[simp] theorem State.modThread_contexts (s : State) (k : Nat) (f : Thread → Thread) : (s.modThread k f).contexts = s.contexts := rfl
@[simp] theorem State.modThread_partitions (s : State) (k : Nat) (f : Thread → Thread) : (s.modThread k f).partitions = s.partitions := rfl
@[simp] theorem State.modThread_cores (s : State) (k : Nat) (f : Thread → Thread) : (s.modThread k f).cores = s.cores := rfl
@[simp] theorem State.modThread_queues (s : State) (k : Nat) (f : Thread → Thread) : (s.modThread k f).queues = s.queues := rfl
@[simp] theorem State.modThread_grids (s : State) (k : Nat) (f : Thread → Thread) : (s.modThread k f).grids = s.grids := rfl
@[simp] theorem State.modThread_remote (s : State) (k : Nat) (f : Thread → Thread) : (s.modThread k f).remote = s.remote := rfl
@[simp] theorem State.modThread_colls (s : State) (k : Nat) (f : Thread → Thread) : (s.modThread k f).colls = s.colls := rfl
@[simp] theorem State.modThread_lsplit (s : State) (k : Nat) (f : Thread → Thread) : (s.modThread k f).lsplit = s.lsplit := rfl
@[simp] theorem State.modThread_stage (s : State) (k : Nat) (f : Thread → Thread) : (s.modThread k f).stage = s.stage := rfl
@[simp] theorem State.modThread_frozen (s : State) (k : Nat) (f : Thread → Thread) : (s.modThread k f).frozen = s.frozen := rfl
@[simp] theorem State.modThread_tripped (s : State) (k : Nat) (f : Thread → Thread) : (s.modThread k f).tripped = s.tripped := rfl
@[simp] theorem State.modThread_events (s : State) (k : Nat) (f : Thread → Thread) : (s.modThread k f).events = s.events := rfl
@[simp] theorem State.modThread_commanding (s : State) (k : Nat) (f : Thread → Thread) : (s.modThread k f).commanding = s.commanding := rfl
@[simp] theorem State.modThread_late (s : State) (k : Nat) (f : Thread → Thread) : (s.modThread k f).late = s.late := rfl
@[simp] theorem State.modThread_landed (s : State) (k : Nat) (f : Thread → Thread) : (s.modThread k f).landed = s.landed := rfl
@[simp] theorem State.modThread_discarded (s : State) (k : Nat) (f : Thread → Thread) : (s.modThread k f).discarded = s.discarded := rfl
@[simp] theorem State.modThread_beLast (s : State) (k : Nat) (f : Thread → Thread) : (s.modThread k f).beLast = s.beLast := rfl
@[simp] theorem State.modThread_ports (s : State) (k : Nat) (f : Thread → Thread) : (s.modThread k f).ports = s.ports := rfl
@[simp] theorem State.modThread_farMap (s : State) (k : Nat) (f : Thread → Thread) : (s.modThread k f).farMap = s.farMap := rfl
@[simp] theorem State.modThread_searches (s : State) (k : Nat) (f : Thread → Thread) : (s.modThread k f).searches = s.searches := rfl
@[simp] theorem State.modThread_commands (s : State) (k : Nat) (f : Thread → Thread) : (s.modThread k f).commands = s.commands := rfl
@[simp] theorem State.modThread_frozenMasters (s : State) (k : Nat) (f : Thread → Thread) : (s.modThread k f).frozenMasters = s.frozenMasters := rfl
@[simp] theorem State.modThread_outbox (s : State) (k : Nat) (f : Thread → Thread) : (s.modThread k f).outbox = s.outbox := rfl
@[simp] theorem State.modThread_pages (s : State) (k : Nat) (f : Thread → Thread) : (s.modThread k f).pages = s.pages := rfl
@[simp] theorem State.modThread_slotTable (s : State) (k : Nat) (f : Thread → Thread) : (s.modThread k f).slotTable = s.slotTable := rfl

@[simp] theorem State.setThread_agenda (s : State) (k : Nat) (th : Thread) : (s.setThread k th).agenda = s.agenda := rfl
@[simp] theorem State.setThread_cur (s : State) (k : Nat) (th : Thread) : (s.setThread k th).cur = s.cur := rfl
@[simp] theorem State.setThread_time (s : State) (k : Nat) (th : Thread) : (s.setThread k th).time = s.time := rfl
@[simp] theorem State.setThread_nextId (s : State) (k : Nat) (th : Thread) : (s.setThread k th).nextId = s.nextId := rfl
@[simp] theorem State.setThread_groups (s : State) (k : Nat) (th : Thread) : (s.setThread k th).groups = s.groups := rfl
@[simp] theorem State.setThread_blocks (s : State) (k : Nat) (th : Thread) : (s.setThread k th).blocks = s.blocks := rfl
@[simp] theorem State.setThread_fills (s : State) (k : Nat) (th : Thread) : (s.setThread k th).fills = s.fills := rfl
@[simp] theorem State.setThread_mem (s : State) (k : Nat) (th : Thread) : (s.setThread k th).mem = s.mem := rfl
@[simp] theorem State.setThread_spaces (s : State) (k : Nat) (th : Thread) : (s.setThread k th).spaces = s.spaces := rfl
@[simp] theorem State.setThread_poison (s : State) (k : Nat) (th : Thread) : (s.setThread k th).poison = s.poison := rfl
@[simp] theorem State.setThread_reqs (s : State) (k : Nat) (th : Thread) : (s.setThread k th).reqs = s.reqs := rfl
@[simp] theorem State.setThread_copies (s : State) (k : Nat) (th : Thread) : (s.setThread k th).copies = s.copies := rfl
@[simp] theorem State.setThread_counts (s : State) (k : Nat) (th : Thread) : (s.setThread k th).counts = s.counts := rfl
@[simp] theorem State.setThread_engines (s : State) (k : Nat) (th : Thread) : (s.setThread k th).engines = s.engines := rfl
@[simp] theorem State.setThread_heaps (s : State) (k : Nat) (th : Thread) : (s.setThread k th).heaps = s.heaps := rfl
@[simp] theorem State.setThread_nearWork (s : State) (k : Nat) (th : Thread) : (s.setThread k th).nearWork = s.nearWork := rfl
@[simp] theorem State.setThread_tlb (s : State) (k : Nat) (th : Thread) : (s.setThread k th).tlb = s.tlb := rfl
@[simp] theorem State.setThread_walks (s : State) (k : Nat) (th : Thread) : (s.setThread k th).walks = s.walks := rfl
@[simp] theorem State.setThread_faults (s : State) (k : Nat) (th : Thread) : (s.setThread k th).faults = s.faults := rfl
@[simp] theorem State.setThread_contexts (s : State) (k : Nat) (th : Thread) : (s.setThread k th).contexts = s.contexts := rfl
@[simp] theorem State.setThread_partitions (s : State) (k : Nat) (th : Thread) : (s.setThread k th).partitions = s.partitions := rfl
@[simp] theorem State.setThread_cores (s : State) (k : Nat) (th : Thread) : (s.setThread k th).cores = s.cores := rfl
@[simp] theorem State.setThread_queues (s : State) (k : Nat) (th : Thread) : (s.setThread k th).queues = s.queues := rfl
@[simp] theorem State.setThread_grids (s : State) (k : Nat) (th : Thread) : (s.setThread k th).grids = s.grids := rfl
@[simp] theorem State.setThread_remote (s : State) (k : Nat) (th : Thread) : (s.setThread k th).remote = s.remote := rfl
@[simp] theorem State.setThread_colls (s : State) (k : Nat) (th : Thread) : (s.setThread k th).colls = s.colls := rfl
@[simp] theorem State.setThread_lsplit (s : State) (k : Nat) (th : Thread) : (s.setThread k th).lsplit = s.lsplit := rfl
@[simp] theorem State.setThread_stage (s : State) (k : Nat) (th : Thread) : (s.setThread k th).stage = s.stage := rfl
@[simp] theorem State.setThread_frozen (s : State) (k : Nat) (th : Thread) : (s.setThread k th).frozen = s.frozen := rfl
@[simp] theorem State.setThread_tripped (s : State) (k : Nat) (th : Thread) : (s.setThread k th).tripped = s.tripped := rfl
@[simp] theorem State.setThread_events (s : State) (k : Nat) (th : Thread) : (s.setThread k th).events = s.events := rfl
@[simp] theorem State.setThread_commanding (s : State) (k : Nat) (th : Thread) : (s.setThread k th).commanding = s.commanding := rfl
@[simp] theorem State.setThread_late (s : State) (k : Nat) (th : Thread) : (s.setThread k th).late = s.late := rfl
@[simp] theorem State.setThread_landed (s : State) (k : Nat) (th : Thread) : (s.setThread k th).landed = s.landed := rfl
@[simp] theorem State.setThread_discarded (s : State) (k : Nat) (th : Thread) : (s.setThread k th).discarded = s.discarded := rfl
@[simp] theorem State.setThread_beLast (s : State) (k : Nat) (th : Thread) : (s.setThread k th).beLast = s.beLast := rfl
@[simp] theorem State.setThread_ports (s : State) (k : Nat) (th : Thread) : (s.setThread k th).ports = s.ports := rfl
@[simp] theorem State.setThread_farMap (s : State) (k : Nat) (th : Thread) : (s.setThread k th).farMap = s.farMap := rfl
@[simp] theorem State.setThread_searches (s : State) (k : Nat) (th : Thread) : (s.setThread k th).searches = s.searches := rfl
@[simp] theorem State.setThread_commands (s : State) (k : Nat) (th : Thread) : (s.setThread k th).commands = s.commands := rfl
@[simp] theorem State.setThread_frozenMasters (s : State) (k : Nat) (th : Thread) : (s.setThread k th).frozenMasters = s.frozenMasters := rfl
@[simp] theorem State.setThread_outbox (s : State) (k : Nat) (th : Thread) : (s.setThread k th).outbox = s.outbox := rfl
@[simp] theorem State.setThread_pages (s : State) (k : Nat) (th : Thread) : (s.setThread k th).pages = s.pages := rfl
@[simp] theorem State.setThread_slotTable (s : State) (k : Nat) (th : Thread) : (s.setThread k th).slotTable = s.slotTable := rfl

@[simp] theorem State.modGroup_agenda (s : State) (k : Nat) (f : Group → Group) : (s.modGroup k f).agenda = s.agenda := rfl
@[simp] theorem State.modGroup_cur (s : State) (k : Nat) (f : Group → Group) : (s.modGroup k f).cur = s.cur := rfl
@[simp] theorem State.modGroup_time (s : State) (k : Nat) (f : Group → Group) : (s.modGroup k f).time = s.time := rfl
@[simp] theorem State.modGroup_nextId (s : State) (k : Nat) (f : Group → Group) : (s.modGroup k f).nextId = s.nextId := rfl
@[simp] theorem State.modGroup_threads (s : State) (k : Nat) (f : Group → Group) : (s.modGroup k f).threads = s.threads := rfl
@[simp] theorem State.modGroup_blocks (s : State) (k : Nat) (f : Group → Group) : (s.modGroup k f).blocks = s.blocks := rfl
@[simp] theorem State.modGroup_fills (s : State) (k : Nat) (f : Group → Group) : (s.modGroup k f).fills = s.fills := rfl
@[simp] theorem State.modGroup_mem (s : State) (k : Nat) (f : Group → Group) : (s.modGroup k f).mem = s.mem := rfl
@[simp] theorem State.modGroup_spaces (s : State) (k : Nat) (f : Group → Group) : (s.modGroup k f).spaces = s.spaces := rfl
@[simp] theorem State.modGroup_poison (s : State) (k : Nat) (f : Group → Group) : (s.modGroup k f).poison = s.poison := rfl
@[simp] theorem State.modGroup_reqs (s : State) (k : Nat) (f : Group → Group) : (s.modGroup k f).reqs = s.reqs := rfl
@[simp] theorem State.modGroup_copies (s : State) (k : Nat) (f : Group → Group) : (s.modGroup k f).copies = s.copies := rfl
@[simp] theorem State.modGroup_counts (s : State) (k : Nat) (f : Group → Group) : (s.modGroup k f).counts = s.counts := rfl
@[simp] theorem State.modGroup_engines (s : State) (k : Nat) (f : Group → Group) : (s.modGroup k f).engines = s.engines := rfl
@[simp] theorem State.modGroup_heaps (s : State) (k : Nat) (f : Group → Group) : (s.modGroup k f).heaps = s.heaps := rfl
@[simp] theorem State.modGroup_nearWork (s : State) (k : Nat) (f : Group → Group) : (s.modGroup k f).nearWork = s.nearWork := rfl
@[simp] theorem State.modGroup_tlb (s : State) (k : Nat) (f : Group → Group) : (s.modGroup k f).tlb = s.tlb := rfl
@[simp] theorem State.modGroup_walks (s : State) (k : Nat) (f : Group → Group) : (s.modGroup k f).walks = s.walks := rfl
@[simp] theorem State.modGroup_faults (s : State) (k : Nat) (f : Group → Group) : (s.modGroup k f).faults = s.faults := rfl
@[simp] theorem State.modGroup_contexts (s : State) (k : Nat) (f : Group → Group) : (s.modGroup k f).contexts = s.contexts := rfl
@[simp] theorem State.modGroup_partitions (s : State) (k : Nat) (f : Group → Group) : (s.modGroup k f).partitions = s.partitions := rfl
@[simp] theorem State.modGroup_cores (s : State) (k : Nat) (f : Group → Group) : (s.modGroup k f).cores = s.cores := rfl
@[simp] theorem State.modGroup_queues (s : State) (k : Nat) (f : Group → Group) : (s.modGroup k f).queues = s.queues := rfl
@[simp] theorem State.modGroup_grids (s : State) (k : Nat) (f : Group → Group) : (s.modGroup k f).grids = s.grids := rfl
@[simp] theorem State.modGroup_remote (s : State) (k : Nat) (f : Group → Group) : (s.modGroup k f).remote = s.remote := rfl
@[simp] theorem State.modGroup_colls (s : State) (k : Nat) (f : Group → Group) : (s.modGroup k f).colls = s.colls := rfl
@[simp] theorem State.modGroup_lsplit (s : State) (k : Nat) (f : Group → Group) : (s.modGroup k f).lsplit = s.lsplit := rfl
@[simp] theorem State.modGroup_stage (s : State) (k : Nat) (f : Group → Group) : (s.modGroup k f).stage = s.stage := rfl
@[simp] theorem State.modGroup_frozen (s : State) (k : Nat) (f : Group → Group) : (s.modGroup k f).frozen = s.frozen := rfl
@[simp] theorem State.modGroup_tripped (s : State) (k : Nat) (f : Group → Group) : (s.modGroup k f).tripped = s.tripped := rfl
@[simp] theorem State.modGroup_events (s : State) (k : Nat) (f : Group → Group) : (s.modGroup k f).events = s.events := rfl
@[simp] theorem State.modGroup_commanding (s : State) (k : Nat) (f : Group → Group) : (s.modGroup k f).commanding = s.commanding := rfl
@[simp] theorem State.modGroup_late (s : State) (k : Nat) (f : Group → Group) : (s.modGroup k f).late = s.late := rfl
@[simp] theorem State.modGroup_landed (s : State) (k : Nat) (f : Group → Group) : (s.modGroup k f).landed = s.landed := rfl
@[simp] theorem State.modGroup_discarded (s : State) (k : Nat) (f : Group → Group) : (s.modGroup k f).discarded = s.discarded := rfl
@[simp] theorem State.modGroup_beLast (s : State) (k : Nat) (f : Group → Group) : (s.modGroup k f).beLast = s.beLast := rfl
@[simp] theorem State.modGroup_ports (s : State) (k : Nat) (f : Group → Group) : (s.modGroup k f).ports = s.ports := rfl
@[simp] theorem State.modGroup_farMap (s : State) (k : Nat) (f : Group → Group) : (s.modGroup k f).farMap = s.farMap := rfl
@[simp] theorem State.modGroup_searches (s : State) (k : Nat) (f : Group → Group) : (s.modGroup k f).searches = s.searches := rfl
@[simp] theorem State.modGroup_commands (s : State) (k : Nat) (f : Group → Group) : (s.modGroup k f).commands = s.commands := rfl
@[simp] theorem State.modGroup_frozenMasters (s : State) (k : Nat) (f : Group → Group) : (s.modGroup k f).frozenMasters = s.frozenMasters := rfl
@[simp] theorem State.modGroup_outbox (s : State) (k : Nat) (f : Group → Group) : (s.modGroup k f).outbox = s.outbox := rfl
@[simp] theorem State.modGroup_pages (s : State) (k : Nat) (f : Group → Group) : (s.modGroup k f).pages = s.pages := rfl
@[simp] theorem State.modGroup_slotTable (s : State) (k : Nat) (f : Group → Group) : (s.modGroup k f).slotTable = s.slotTable := rfl

@[simp] theorem State.setGroup_agenda (s : State) (k : Nat) (g : Group) : (s.setGroup k g).agenda = s.agenda := rfl
@[simp] theorem State.setGroup_cur (s : State) (k : Nat) (g : Group) : (s.setGroup k g).cur = s.cur := rfl
@[simp] theorem State.setGroup_time (s : State) (k : Nat) (g : Group) : (s.setGroup k g).time = s.time := rfl
@[simp] theorem State.setGroup_nextId (s : State) (k : Nat) (g : Group) : (s.setGroup k g).nextId = s.nextId := rfl
@[simp] theorem State.setGroup_threads (s : State) (k : Nat) (g : Group) : (s.setGroup k g).threads = s.threads := rfl
@[simp] theorem State.setGroup_blocks (s : State) (k : Nat) (g : Group) : (s.setGroup k g).blocks = s.blocks := rfl
@[simp] theorem State.setGroup_fills (s : State) (k : Nat) (g : Group) : (s.setGroup k g).fills = s.fills := rfl
@[simp] theorem State.setGroup_mem (s : State) (k : Nat) (g : Group) : (s.setGroup k g).mem = s.mem := rfl
@[simp] theorem State.setGroup_spaces (s : State) (k : Nat) (g : Group) : (s.setGroup k g).spaces = s.spaces := rfl
@[simp] theorem State.setGroup_poison (s : State) (k : Nat) (g : Group) : (s.setGroup k g).poison = s.poison := rfl
@[simp] theorem State.setGroup_reqs (s : State) (k : Nat) (g : Group) : (s.setGroup k g).reqs = s.reqs := rfl
@[simp] theorem State.setGroup_copies (s : State) (k : Nat) (g : Group) : (s.setGroup k g).copies = s.copies := rfl
@[simp] theorem State.setGroup_counts (s : State) (k : Nat) (g : Group) : (s.setGroup k g).counts = s.counts := rfl
@[simp] theorem State.setGroup_engines (s : State) (k : Nat) (g : Group) : (s.setGroup k g).engines = s.engines := rfl
@[simp] theorem State.setGroup_heaps (s : State) (k : Nat) (g : Group) : (s.setGroup k g).heaps = s.heaps := rfl
@[simp] theorem State.setGroup_nearWork (s : State) (k : Nat) (g : Group) : (s.setGroup k g).nearWork = s.nearWork := rfl
@[simp] theorem State.setGroup_tlb (s : State) (k : Nat) (g : Group) : (s.setGroup k g).tlb = s.tlb := rfl
@[simp] theorem State.setGroup_walks (s : State) (k : Nat) (g : Group) : (s.setGroup k g).walks = s.walks := rfl
@[simp] theorem State.setGroup_faults (s : State) (k : Nat) (g : Group) : (s.setGroup k g).faults = s.faults := rfl
@[simp] theorem State.setGroup_contexts (s : State) (k : Nat) (g : Group) : (s.setGroup k g).contexts = s.contexts := rfl
@[simp] theorem State.setGroup_partitions (s : State) (k : Nat) (g : Group) : (s.setGroup k g).partitions = s.partitions := rfl
@[simp] theorem State.setGroup_cores (s : State) (k : Nat) (g : Group) : (s.setGroup k g).cores = s.cores := rfl
@[simp] theorem State.setGroup_queues (s : State) (k : Nat) (g : Group) : (s.setGroup k g).queues = s.queues := rfl
@[simp] theorem State.setGroup_grids (s : State) (k : Nat) (g : Group) : (s.setGroup k g).grids = s.grids := rfl
@[simp] theorem State.setGroup_remote (s : State) (k : Nat) (g : Group) : (s.setGroup k g).remote = s.remote := rfl
@[simp] theorem State.setGroup_colls (s : State) (k : Nat) (g : Group) : (s.setGroup k g).colls = s.colls := rfl
@[simp] theorem State.setGroup_lsplit (s : State) (k : Nat) (g : Group) : (s.setGroup k g).lsplit = s.lsplit := rfl
@[simp] theorem State.setGroup_stage (s : State) (k : Nat) (g : Group) : (s.setGroup k g).stage = s.stage := rfl
@[simp] theorem State.setGroup_frozen (s : State) (k : Nat) (g : Group) : (s.setGroup k g).frozen = s.frozen := rfl
@[simp] theorem State.setGroup_tripped (s : State) (k : Nat) (g : Group) : (s.setGroup k g).tripped = s.tripped := rfl
@[simp] theorem State.setGroup_events (s : State) (k : Nat) (g : Group) : (s.setGroup k g).events = s.events := rfl
@[simp] theorem State.setGroup_commanding (s : State) (k : Nat) (g : Group) : (s.setGroup k g).commanding = s.commanding := rfl
@[simp] theorem State.setGroup_late (s : State) (k : Nat) (g : Group) : (s.setGroup k g).late = s.late := rfl
@[simp] theorem State.setGroup_landed (s : State) (k : Nat) (g : Group) : (s.setGroup k g).landed = s.landed := rfl
@[simp] theorem State.setGroup_discarded (s : State) (k : Nat) (g : Group) : (s.setGroup k g).discarded = s.discarded := rfl
@[simp] theorem State.setGroup_beLast (s : State) (k : Nat) (g : Group) : (s.setGroup k g).beLast = s.beLast := rfl
@[simp] theorem State.setGroup_ports (s : State) (k : Nat) (g : Group) : (s.setGroup k g).ports = s.ports := rfl
@[simp] theorem State.setGroup_farMap (s : State) (k : Nat) (g : Group) : (s.setGroup k g).farMap = s.farMap := rfl
@[simp] theorem State.setGroup_searches (s : State) (k : Nat) (g : Group) : (s.setGroup k g).searches = s.searches := rfl
@[simp] theorem State.setGroup_commands (s : State) (k : Nat) (g : Group) : (s.setGroup k g).commands = s.commands := rfl
@[simp] theorem State.setGroup_frozenMasters (s : State) (k : Nat) (g : Group) : (s.setGroup k g).frozenMasters = s.frozenMasters := rfl
@[simp] theorem State.setGroup_outbox (s : State) (k : Nat) (g : Group) : (s.setGroup k g).outbox = s.outbox := rfl
@[simp] theorem State.setGroup_pages (s : State) (k : Nat) (g : Group) : (s.setGroup k g).pages = s.pages := rfl
@[simp] theorem State.setGroup_slotTable (s : State) (k : Nat) (g : Group) : (s.setGroup k g).slotTable = s.slotTable := rfl

@[simp] theorem State.modBlock_agenda (s : State) (k : Nat) (f : Block → Block) : (s.modBlock k f).agenda = s.agenda := rfl
@[simp] theorem State.modBlock_cur (s : State) (k : Nat) (f : Block → Block) : (s.modBlock k f).cur = s.cur := rfl
@[simp] theorem State.modBlock_time (s : State) (k : Nat) (f : Block → Block) : (s.modBlock k f).time = s.time := rfl
@[simp] theorem State.modBlock_nextId (s : State) (k : Nat) (f : Block → Block) : (s.modBlock k f).nextId = s.nextId := rfl
@[simp] theorem State.modBlock_threads (s : State) (k : Nat) (f : Block → Block) : (s.modBlock k f).threads = s.threads := rfl
@[simp] theorem State.modBlock_groups (s : State) (k : Nat) (f : Block → Block) : (s.modBlock k f).groups = s.groups := rfl
@[simp] theorem State.modBlock_fills (s : State) (k : Nat) (f : Block → Block) : (s.modBlock k f).fills = s.fills := rfl
@[simp] theorem State.modBlock_mem (s : State) (k : Nat) (f : Block → Block) : (s.modBlock k f).mem = s.mem := rfl
@[simp] theorem State.modBlock_spaces (s : State) (k : Nat) (f : Block → Block) : (s.modBlock k f).spaces = s.spaces := rfl
@[simp] theorem State.modBlock_poison (s : State) (k : Nat) (f : Block → Block) : (s.modBlock k f).poison = s.poison := rfl
@[simp] theorem State.modBlock_reqs (s : State) (k : Nat) (f : Block → Block) : (s.modBlock k f).reqs = s.reqs := rfl
@[simp] theorem State.modBlock_copies (s : State) (k : Nat) (f : Block → Block) : (s.modBlock k f).copies = s.copies := rfl
@[simp] theorem State.modBlock_counts (s : State) (k : Nat) (f : Block → Block) : (s.modBlock k f).counts = s.counts := rfl
@[simp] theorem State.modBlock_engines (s : State) (k : Nat) (f : Block → Block) : (s.modBlock k f).engines = s.engines := rfl
@[simp] theorem State.modBlock_heaps (s : State) (k : Nat) (f : Block → Block) : (s.modBlock k f).heaps = s.heaps := rfl
@[simp] theorem State.modBlock_nearWork (s : State) (k : Nat) (f : Block → Block) : (s.modBlock k f).nearWork = s.nearWork := rfl
@[simp] theorem State.modBlock_tlb (s : State) (k : Nat) (f : Block → Block) : (s.modBlock k f).tlb = s.tlb := rfl
@[simp] theorem State.modBlock_walks (s : State) (k : Nat) (f : Block → Block) : (s.modBlock k f).walks = s.walks := rfl
@[simp] theorem State.modBlock_faults (s : State) (k : Nat) (f : Block → Block) : (s.modBlock k f).faults = s.faults := rfl
@[simp] theorem State.modBlock_contexts (s : State) (k : Nat) (f : Block → Block) : (s.modBlock k f).contexts = s.contexts := rfl
@[simp] theorem State.modBlock_partitions (s : State) (k : Nat) (f : Block → Block) : (s.modBlock k f).partitions = s.partitions := rfl
@[simp] theorem State.modBlock_cores (s : State) (k : Nat) (f : Block → Block) : (s.modBlock k f).cores = s.cores := rfl
@[simp] theorem State.modBlock_queues (s : State) (k : Nat) (f : Block → Block) : (s.modBlock k f).queues = s.queues := rfl
@[simp] theorem State.modBlock_grids (s : State) (k : Nat) (f : Block → Block) : (s.modBlock k f).grids = s.grids := rfl
@[simp] theorem State.modBlock_remote (s : State) (k : Nat) (f : Block → Block) : (s.modBlock k f).remote = s.remote := rfl
@[simp] theorem State.modBlock_colls (s : State) (k : Nat) (f : Block → Block) : (s.modBlock k f).colls = s.colls := rfl
@[simp] theorem State.modBlock_lsplit (s : State) (k : Nat) (f : Block → Block) : (s.modBlock k f).lsplit = s.lsplit := rfl
@[simp] theorem State.modBlock_stage (s : State) (k : Nat) (f : Block → Block) : (s.modBlock k f).stage = s.stage := rfl
@[simp] theorem State.modBlock_frozen (s : State) (k : Nat) (f : Block → Block) : (s.modBlock k f).frozen = s.frozen := rfl
@[simp] theorem State.modBlock_tripped (s : State) (k : Nat) (f : Block → Block) : (s.modBlock k f).tripped = s.tripped := rfl
@[simp] theorem State.modBlock_events (s : State) (k : Nat) (f : Block → Block) : (s.modBlock k f).events = s.events := rfl
@[simp] theorem State.modBlock_commanding (s : State) (k : Nat) (f : Block → Block) : (s.modBlock k f).commanding = s.commanding := rfl
@[simp] theorem State.modBlock_late (s : State) (k : Nat) (f : Block → Block) : (s.modBlock k f).late = s.late := rfl
@[simp] theorem State.modBlock_landed (s : State) (k : Nat) (f : Block → Block) : (s.modBlock k f).landed = s.landed := rfl
@[simp] theorem State.modBlock_discarded (s : State) (k : Nat) (f : Block → Block) : (s.modBlock k f).discarded = s.discarded := rfl
@[simp] theorem State.modBlock_beLast (s : State) (k : Nat) (f : Block → Block) : (s.modBlock k f).beLast = s.beLast := rfl
@[simp] theorem State.modBlock_ports (s : State) (k : Nat) (f : Block → Block) : (s.modBlock k f).ports = s.ports := rfl
@[simp] theorem State.modBlock_farMap (s : State) (k : Nat) (f : Block → Block) : (s.modBlock k f).farMap = s.farMap := rfl
@[simp] theorem State.modBlock_searches (s : State) (k : Nat) (f : Block → Block) : (s.modBlock k f).searches = s.searches := rfl
@[simp] theorem State.modBlock_commands (s : State) (k : Nat) (f : Block → Block) : (s.modBlock k f).commands = s.commands := rfl
@[simp] theorem State.modBlock_frozenMasters (s : State) (k : Nat) (f : Block → Block) : (s.modBlock k f).frozenMasters = s.frozenMasters := rfl
@[simp] theorem State.modBlock_outbox (s : State) (k : Nat) (f : Block → Block) : (s.modBlock k f).outbox = s.outbox := rfl
@[simp] theorem State.modBlock_pages (s : State) (k : Nat) (f : Block → Block) : (s.modBlock k f).pages = s.pages := rfl
@[simp] theorem State.modBlock_slotTable (s : State) (k : Nat) (f : Block → Block) : (s.modBlock k f).slotTable = s.slotTable := rfl

@[simp] theorem State.setBlock_agenda (s : State) (k : Nat) (b : Block) : (s.setBlock k b).agenda = s.agenda := rfl
@[simp] theorem State.setBlock_cur (s : State) (k : Nat) (b : Block) : (s.setBlock k b).cur = s.cur := rfl
@[simp] theorem State.setBlock_time (s : State) (k : Nat) (b : Block) : (s.setBlock k b).time = s.time := rfl
@[simp] theorem State.setBlock_nextId (s : State) (k : Nat) (b : Block) : (s.setBlock k b).nextId = s.nextId := rfl
@[simp] theorem State.setBlock_threads (s : State) (k : Nat) (b : Block) : (s.setBlock k b).threads = s.threads := rfl
@[simp] theorem State.setBlock_groups (s : State) (k : Nat) (b : Block) : (s.setBlock k b).groups = s.groups := rfl
@[simp] theorem State.setBlock_fills (s : State) (k : Nat) (b : Block) : (s.setBlock k b).fills = s.fills := rfl
@[simp] theorem State.setBlock_mem (s : State) (k : Nat) (b : Block) : (s.setBlock k b).mem = s.mem := rfl
@[simp] theorem State.setBlock_spaces (s : State) (k : Nat) (b : Block) : (s.setBlock k b).spaces = s.spaces := rfl
@[simp] theorem State.setBlock_poison (s : State) (k : Nat) (b : Block) : (s.setBlock k b).poison = s.poison := rfl
@[simp] theorem State.setBlock_reqs (s : State) (k : Nat) (b : Block) : (s.setBlock k b).reqs = s.reqs := rfl
@[simp] theorem State.setBlock_copies (s : State) (k : Nat) (b : Block) : (s.setBlock k b).copies = s.copies := rfl
@[simp] theorem State.setBlock_counts (s : State) (k : Nat) (b : Block) : (s.setBlock k b).counts = s.counts := rfl
@[simp] theorem State.setBlock_engines (s : State) (k : Nat) (b : Block) : (s.setBlock k b).engines = s.engines := rfl
@[simp] theorem State.setBlock_heaps (s : State) (k : Nat) (b : Block) : (s.setBlock k b).heaps = s.heaps := rfl
@[simp] theorem State.setBlock_nearWork (s : State) (k : Nat) (b : Block) : (s.setBlock k b).nearWork = s.nearWork := rfl
@[simp] theorem State.setBlock_tlb (s : State) (k : Nat) (b : Block) : (s.setBlock k b).tlb = s.tlb := rfl
@[simp] theorem State.setBlock_walks (s : State) (k : Nat) (b : Block) : (s.setBlock k b).walks = s.walks := rfl
@[simp] theorem State.setBlock_faults (s : State) (k : Nat) (b : Block) : (s.setBlock k b).faults = s.faults := rfl
@[simp] theorem State.setBlock_contexts (s : State) (k : Nat) (b : Block) : (s.setBlock k b).contexts = s.contexts := rfl
@[simp] theorem State.setBlock_partitions (s : State) (k : Nat) (b : Block) : (s.setBlock k b).partitions = s.partitions := rfl
@[simp] theorem State.setBlock_cores (s : State) (k : Nat) (b : Block) : (s.setBlock k b).cores = s.cores := rfl
@[simp] theorem State.setBlock_queues (s : State) (k : Nat) (b : Block) : (s.setBlock k b).queues = s.queues := rfl
@[simp] theorem State.setBlock_grids (s : State) (k : Nat) (b : Block) : (s.setBlock k b).grids = s.grids := rfl
@[simp] theorem State.setBlock_remote (s : State) (k : Nat) (b : Block) : (s.setBlock k b).remote = s.remote := rfl
@[simp] theorem State.setBlock_colls (s : State) (k : Nat) (b : Block) : (s.setBlock k b).colls = s.colls := rfl
@[simp] theorem State.setBlock_lsplit (s : State) (k : Nat) (b : Block) : (s.setBlock k b).lsplit = s.lsplit := rfl
@[simp] theorem State.setBlock_stage (s : State) (k : Nat) (b : Block) : (s.setBlock k b).stage = s.stage := rfl
@[simp] theorem State.setBlock_frozen (s : State) (k : Nat) (b : Block) : (s.setBlock k b).frozen = s.frozen := rfl
@[simp] theorem State.setBlock_tripped (s : State) (k : Nat) (b : Block) : (s.setBlock k b).tripped = s.tripped := rfl
@[simp] theorem State.setBlock_events (s : State) (k : Nat) (b : Block) : (s.setBlock k b).events = s.events := rfl
@[simp] theorem State.setBlock_commanding (s : State) (k : Nat) (b : Block) : (s.setBlock k b).commanding = s.commanding := rfl
@[simp] theorem State.setBlock_late (s : State) (k : Nat) (b : Block) : (s.setBlock k b).late = s.late := rfl
@[simp] theorem State.setBlock_landed (s : State) (k : Nat) (b : Block) : (s.setBlock k b).landed = s.landed := rfl
@[simp] theorem State.setBlock_discarded (s : State) (k : Nat) (b : Block) : (s.setBlock k b).discarded = s.discarded := rfl
@[simp] theorem State.setBlock_beLast (s : State) (k : Nat) (b : Block) : (s.setBlock k b).beLast = s.beLast := rfl
@[simp] theorem State.setBlock_ports (s : State) (k : Nat) (b : Block) : (s.setBlock k b).ports = s.ports := rfl
@[simp] theorem State.setBlock_farMap (s : State) (k : Nat) (b : Block) : (s.setBlock k b).farMap = s.farMap := rfl
@[simp] theorem State.setBlock_searches (s : State) (k : Nat) (b : Block) : (s.setBlock k b).searches = s.searches := rfl
@[simp] theorem State.setBlock_commands (s : State) (k : Nat) (b : Block) : (s.setBlock k b).commands = s.commands := rfl
@[simp] theorem State.setBlock_frozenMasters (s : State) (k : Nat) (b : Block) : (s.setBlock k b).frozenMasters = s.frozenMasters := rfl
@[simp] theorem State.setBlock_outbox (s : State) (k : Nat) (b : Block) : (s.setBlock k b).outbox = s.outbox := rfl
@[simp] theorem State.setBlock_pages (s : State) (k : Nat) (b : Block) : (s.setBlock k b).pages = s.pages := rfl
@[simp] theorem State.setBlock_slotTable (s : State) (k : Nat) (b : Block) : (s.setBlock k b).slotTable = s.slotTable := rfl

/-- What posting an event does: it is pending afterwards, once (12 R338). -/
theorem State.post_cases (s : State) (e : CmdEvent) :
    e ∈ s.events ∧ s.post e = s ∨ e ∉ s.events ∧ s.post e = { s with events := s.events ++ [e] } := by
  unfold State.post
  split
  · rename_i h; exact .inl ⟨by simpa using h, rfl⟩
  · rename_i h; exact .inr ⟨by simpa using h, rfl⟩
theorem State.post_pending (s : State) (e : CmdEvent) : e ∈ (s.post e).events := by
  rcases s.post_cases e with ⟨h, he⟩ | ⟨_, he⟩ <;> rw [he]
  · exact h
  · simp
theorem State.post_frame (s : State) (e : CmdEvent) : { s.post e with events := s.events } = s := by
  rcases s.post_cases e with ⟨_, he⟩ | ⟨_, he⟩ <;> rw [he]

/-- A master that is frozen stands among the frozen ones, with the context named, if one is (15 R417). -/
theorem State.mem_freeze (s : State) (code master index : Nat) (ctx : Option Nat) (addr : Nat) :
    (master, index, ctx) ∈ (s.freeze code master index ctx addr).frozenMasters := by
  unfold State.freeze
  cases ctx <;> simp [State.post]

end Sys2Proof.Machine
end

