-- ==== Sys2Proof/Laws/Table.lean ====
section
/-! SUPPORT. Sparse tables: reading after a write, and the canonical form that every operation keeps. -/

namespace Sys2Proof.Machine

variable {α : Type}

theorem Table.find_put_self (m : Table α) (k : Nat) (v : α) : Table.find (Table.put m k v) k = some v := by
  induction m with
  | nil => simp [Table.put, Table.find]
  | cons e m ih =>
    obtain ⟨j, w⟩ := e
    simp only [Table.put]
    split
    · simp [Table.find]
    · split
      · simp [Table.find]
      · simp only [Table.find]
        split
        · omega
        · exact ih

theorem Table.find_put_ne (m : Table α) (k j : Nat) (v : α) (h : j ≠ k) :
    Table.find (Table.put m k v) j = Table.find m j := by
  induction m with
  | nil => simp [Table.put, Table.find]; omega
  | cons e m ih =>
    obtain ⟨a, w⟩ := e
    simp only [Table.put]
    split
    · rename_i hk; subst hk
      simp only [Table.find]
      split
      · omega
      · rfl
    · split
      · simp only [Table.find]
        by_cases h1 : k = j
        · omega
        · rw [if_neg h1]
          by_cases h2 : j < k
          · rw [if_pos h2, if_neg (by omega), if_pos (by omega)]
          · rw [if_neg h2]
      · simp only [Table.find, ih]

theorem Table.find_put (m : Table α) (k j : Nat) (v : α) :
    Table.find (Table.put m k v) j = if j = k then some v else Table.find m j := by
  split
  · subst_vars; exact Table.find_put_self ..
  · exact Table.find_put_ne _ _ _ _ ‹_›

@[simp] theorem Table.get_put_self (d : α) (m : Table α) (k : Nat) (v : α) : Table.get d (Table.put m k v) k = v := by
  simp [Table.get, Table.find_put_self]

theorem Table.get_put_ne (d : α) (m : Table α) (k j : Nat) (v : α) (h : j ≠ k) :
    Table.get d (Table.put m k v) j = Table.get d m j := by
  simp [Table.get, Table.find_put_ne _ _ _ _ h]

theorem Table.find_modify (m : Table α) (k j : Nat) (f : α → α) :
    Table.find (Table.modify m k f) j = if j = k then (Table.find m k).map f else Table.find m j := by
  unfold Table.modify
  split
  · rename_i v h; rw [Table.find_put]; split <;> simp [h]
  · rename_i h; split
    · subst_vars; simp [h]
    · rfl

theorem Table.get_modify_ne (d : α) (m : Table α) (k j : Nat) (f : α → α) (h : j ≠ k) :
    Table.get d (Table.modify m k f) j = Table.get d m j := by
  simp [Table.get, Table.find_modify, h]

/-- A property of the entry that `f` keeps. -/
theorem Table.get_modify_of (d : α) (m : Table α) (k j : Nat) (f : α → α) {β : Type} (g : α → β) (h : ∀ x, g (f x) = g x) :
    g (Table.get d (Table.modify m k f) j) = g (Table.get d m j) := by
  simp only [Table.get, Table.find_modify]
  split
  · subst_vars; cases Table.find m j <;> simp [h]
  · rfl

theorem Table.get_modify_self (d : α) (m : Table α) (k : Nat) (f : α → α) (h : (Table.find m k).isSome) :
    Table.get d (Table.modify m k f) k = f (Table.get d m k) := by
  simp only [Table.get, Table.find_modify]
  cases hf : Table.find m k <;> simp_all

/-! ### The canonical form -/

theorem Table.risingFrom_mono {m : Table α} {a b : Nat} (h : a ≤ b) (hb : Table.risingFrom b m = true) : Table.risingFrom a m = true := by
  cases m with
  | nil => rfl
  | cons e m =>
    obtain ⟨j, w⟩ := e
    simp only [Table.risingFrom, Bool.and_eq_true, decide_eq_true_eq] at hb ⊢
    exact ⟨by omega, hb.2⟩

/-- No key of a rising table lies below its bound. -/
theorem Table.find_below {m : Table α} {lo k : Nat} (h : Table.risingFrom lo m = true) (hk : k < lo) : Table.find m k = none := by
  cases m with
  | nil => rfl
  | cons e m =>
    obtain ⟨j, w⟩ := e
    simp only [Table.risingFrom, Bool.and_eq_true, decide_eq_true_eq] at h
    simp only [Table.find]
    rw [if_neg (by omega), if_pos (by omega)]

theorem Table.risingFrom_put (m : Table α) (lo k : Nat) (v : α) (h : Table.risingFrom lo m = true) (hk : lo ≤ k) :
    Table.risingFrom lo (Table.put m k v) = true := by
  induction m generalizing lo with
  | nil => simp [Table.put, Table.risingFrom, hk]
  | cons e m ih =>
    obtain ⟨j, w⟩ := e
    simp only [Table.risingFrom, Bool.and_eq_true, decide_eq_true_eq] at h
    simp only [Table.put]
    split
    · subst_vars; simp [Table.risingFrom, h]
    · split
      · simp only [Table.risingFrom, Bool.and_eq_true, decide_eq_true_eq]
        exact ⟨hk, by omega, h.2⟩
      · simp only [Table.risingFrom, Bool.and_eq_true, decide_eq_true_eq]
        exact ⟨h.1, ih _ h.2 (by omega)⟩

theorem Table.risingFrom_erase (m : Table α) (lo k : Nat) (h : Table.risingFrom lo m = true) :
    Table.risingFrom lo (Table.erase m k) = true := by
  induction m generalizing lo with
  | nil => simpa [Table.erase] using h
  | cons e m ih =>
    obtain ⟨j, w⟩ := e
    have h' := h
    simp only [Table.risingFrom, Bool.and_eq_true, decide_eq_true_eq] at h
    simp only [Table.erase]
    split
    · exact Table.risingFrom_mono (by omega) h.2
    · split
      · exact h'
      · simp only [Table.risingFrom, Bool.and_eq_true, decide_eq_true_eq]
        exact ⟨h.1, ih _ h.2⟩

theorem Table.find_erase {m : Table α} {lo : Nat} (h : Table.risingFrom lo m = true) (k j : Nat) :
    Table.find (Table.erase m k) j = if j = k then none else Table.find m j := by
  induction m generalizing lo with
  | nil => simp [Table.erase, Table.find]
  | cons e m ih =>
    obtain ⟨a, w⟩ := e
    simp only [Table.risingFrom, Bool.and_eq_true, decide_eq_true_eq] at h
    simp only [Table.erase]
    split
    · subst_vars
      split
      · subst_vars; exact Table.find_below h.2 (by omega)
      · rename_i hj
        simp only [Table.find]
        rw [if_neg (by omega)]
        split
        · exact Table.find_below h.2 (by omega)
        · rfl
    · split
      · split
        · subst_vars; simp only [Table.find]; rw [if_neg (by omega), if_pos (by omega)]
        · rfl
      · simp only [Table.find, ih h.2]
        by_cases h1 : j = k
        · subst h1; rw [if_neg (by omega), if_neg (by omega), if_pos rfl, if_pos rfl]
        · simp [h1]

theorem Table.get_set [DecidableEq α] {d : α} {m : Table α} (h : Table.wf d m = true) (k j : Nat) (v : α) :
    Table.get d (Table.set d m k v) j = if j = k then v else Table.get d m j := by
  simp only [Table.wf, Bool.and_eq_true] at h
  unfold Table.set Table.get
  split
  · rw [Table.find_erase h.1]; split <;> simp_all
  · rw [Table.find_put]; split <;> simp

theorem Table.mem_put {m : Table α} {k : Nat} {v : α} {e : Nat × α} (h : e ∈ Table.put m k v) : e = (k, v) ∨ e ∈ m := by
  induction m with
  | nil => simpa [Table.put] using h
  | cons a m ih =>
    obtain ⟨j, w⟩ := a
    simp only [Table.put] at h
    split at h
    · rcases List.mem_cons.mp h with h | h <;> simp [h]
    · split at h
      · rcases List.mem_cons.mp h with h | h <;> simp_all
      · rcases List.mem_cons.mp h with h | h
        · simp [h]
        · rcases ih h with h | h <;> simp [h]

theorem Table.mem_erase {m : Table α} {k : Nat} {e : Nat × α} (h : e ∈ Table.erase m k) : e ∈ m := by
  induction m with
  | nil => simp [Table.erase] at h
  | cons a m ih =>
    obtain ⟨j, w⟩ := a
    simp only [Table.erase] at h
    split at h
    · exact List.mem_cons_of_mem _ h
    · split at h
      · exact h
      · rcases List.mem_cons.mp h with h | h
        · simp [h]
        · exact List.mem_cons_of_mem _ (ih h)

theorem Table.wf_put [DecidableEq α] {d : α} {m : Table α} (h : Table.wf d m = true) (k : Nat) {v : α} (hv : v ≠ d) :
    Table.wf d (Table.put m k v) = true := by
  simp only [Table.wf, Bool.and_eq_true, List.all_eq_true, decide_eq_true_eq] at h ⊢
  refine ⟨Table.risingFrom_put _ _ _ _ h.1 (Nat.zero_le _), fun e he => ?_⟩
  rcases Table.mem_put he with rfl | he
  · exact hv
  · exact h.2 e he

theorem Table.wf_erase [DecidableEq α] {d : α} {m : Table α} (h : Table.wf d m = true) (k : Nat) :
    Table.wf d (Table.erase m k) = true := by
  simp only [Table.wf, Bool.and_eq_true, List.all_eq_true, decide_eq_true_eq] at h ⊢
  exact ⟨Table.risingFrom_erase _ _ _ h.1, fun e he => h.2 e (Table.mem_erase he)⟩

theorem Table.wf_set [DecidableEq α] {d : α} {m : Table α} (h : Table.wf d m = true) (k : Nat) (v : α) :
    Table.wf d (Table.set d m k v) = true := by
  unfold Table.set
  split
  · exact Table.wf_erase h k
  · exact Table.wf_put h k ‹_›

theorem Table.wf_nil [DecidableEq α] (d : α) : Table.wf d ([] : Table α) = true := rfl

end Sys2Proof.Machine
end

