-- ==== Sys2Proof/Laws/Lanes.lean ====
section
/-! SUPPORT. Threads of a mask, their keys, and reading a thread, group or block after an update of one. -/

namespace Sys2Proof.Machine

/-! ### Masks -/

theorem mem_lanesOf (m : W32) (t : Nat) : t ∈ lanesOf m ↔ t < 32 ∧ m.getLsbD t = true := by
  simp [lanesOf, List.mem_filter]

theorem lanesOf_lt {m : W32} {t : Nat} (h : t ∈ lanesOf m) : t < 32 := ((mem_lanesOf m t).mp h).1

theorem lanesOf_nodup (m : W32) : (lanesOf m).Nodup := List.Pairwise.filter _ List.nodup_range

theorem active_nodup (s : State) (i : Issue) (g : Thread → Bool) : (s.active i g).Nodup := List.Pairwise.filter _ (lanesOf_nodup _)

theorem mem_active (s : State) (i : Issue) (g : Thread → Bool) (t : Nat) :
    t ∈ s.active i g ↔ t ∈ lanesOf i.path ∧ (s.thread (i.tk t)).em = true ∧ g (s.thread (i.tk t)) = true := by
  simp [State.active, List.mem_filter]

theorem active_lt {s : State} {i : Issue} {g : Thread → Bool} {t : Nat} (h : t ∈ s.active i g) : t < 32 :=
  lanesOf_lt ((mem_active s i g t).mp h).1

/-- Lanes of one group have keys of their own. -/
theorem tk_inj (i : Issue) {t u : Nat} (h : i.tk t = i.tk u) : t = u := by
  simp only [Issue.tk, tkey] at h; omega

/-! ### Reading after an update -/

theorem State.thread_modThread (s : State) (k j : Nat) (f : Thread → Thread) :
    (s.modThread k f).thread j = if j = k ∧ (Table.find s.threads k).isSome then f (s.thread j) else s.thread j := by
  simp only [State.thread, State.modThread, Table.get, Table.find_modify]
  by_cases h : j = k
  · subst h; cases h1 : Table.find s.threads j <;> simp
  · simp [h]

theorem State.thread_modThread_ne (s : State) {k j : Nat} (f : Thread → Thread) (h : j ≠ k) : (s.modThread k f).thread j = s.thread j := by
  simp [State.thread_modThread, h]

/-- What every update of a thread by `f` keeps. -/
theorem State.thread_modThread_of (s : State) (k j : Nat) (f : Thread → Thread) {β : Type} (g : Thread → β) (h : ∀ x, g (f x) = g x) :
    g ((s.modThread k f).thread j) = g (s.thread j) :=
  Table.get_modify_of ({} : Thread) s.threads k j f g h

theorem State.thread_setThread (s : State) (k j : Nat) (th : Thread) : (s.setThread k th).thread j = if j = k then th else s.thread j := by
  simp only [State.thread, State.setThread, Table.get, Table.find_put]; split <;> simp

theorem State.group_modGroup (s : State) (k j : Nat) (f : Group → Group) :
    (s.modGroup k f).group j = if j = k ∧ (Table.find s.groups k).isSome then f (s.group j) else s.group j := by
  simp only [State.group, State.modGroup, Table.get, Table.find_modify]
  by_cases h : j = k
  · subst h; cases h1 : Table.find s.groups j <;> simp
  · simp [h]

theorem State.group_modGroup_ne (s : State) {k j : Nat} (f : Group → Group) (h : j ≠ k) : (s.modGroup k f).group j = s.group j := by
  simp [State.group_modGroup, h]

theorem State.group_modGroup_of (s : State) (k j : Nat) (f : Group → Group) {β : Type} (g : Group → β) (h : ∀ x, g (f x) = g x) :
    g ((s.modGroup k f).group j) = g (s.group j) :=
  Table.get_modify_of ({} : Group) s.groups k j f g h

@[simp] theorem State.group_modThread (s : State) (k j : Nat) (f : Thread → Thread) : (s.modThread k f).group j = s.group j := rfl
@[simp] theorem State.group_setThread (s : State) (k j : Nat) (th : Thread) : (s.setThread k th).group j = s.group j := rfl
@[simp] theorem State.thread_modGroup (s : State) (k j : Nat) (f : Group → Group) : (s.modGroup k f).thread j = s.thread j := rfl
@[simp] theorem State.thread_modBlock (s : State) (k j : Nat) (f : Block → Block) : (s.modBlock k f).thread j = s.thread j := rfl
@[simp] theorem State.group_modBlock (s : State) (k j : Nat) (f : Block → Block) : (s.modBlock k f).group j = s.group j := rfl
@[simp] theorem State.block_modThread (s : State) (k j : Nat) (f : Thread → Thread) : (s.modThread k f).block j = s.block j := rfl
@[simp] theorem State.block_setThread (s : State) (k j : Nat) (th : Thread) : (s.setThread k th).block j = s.block j := rfl
@[simp] theorem State.block_modGroup (s : State) (k j : Nat) (f : Group → Group) : (s.modGroup k f).block j = s.block j := rfl

/-! ### A pass over threads -/

theorem maskOf_foldl (l : List Nat) (m : W32) : l.foldl (fun m t => m ||| ((1#32) <<< t)) m = m ||| maskOf l := by
  induction l generalizing m with
  | nil => simp [maskOf]
  | cons a l ih =>
    have h : maskOf (a :: l) = (1#32) <<< a ||| maskOf l := by
      show List.foldl _ (0#32 ||| (1#32) <<< a) l = _
      rw [ih, BitVec.zero_or]
    rw [List.foldl_cons, ih, h, BitVec.or_assoc]

theorem maskOf_cons (t : Nat) (l : List Nat) : maskOf (t :: l) = ((1#32) <<< t) ||| maskOf l := by
  rw [maskOf, List.foldl_cons, maskOf_foldl, BitVec.zero_or]

/-- A pass in which every turn is done is a fold of the turns. -/
theorem runLanes_done (i : Issue) (f : State → Nat → List Nat → Turned) (g : State → Nat → State) (lanes : List Nat) (s : State) (took : W32)
    (acc : List Nat) (h : ∀ pre t post, lanes = pre ++ t :: post → f (pre.foldl g s) t acc = .done (g (pre.foldl g s) t) acc) :
    runLanes i f lanes s took acc = (lanes.foldl g s, [], took ||| maskOf lanes, acc) := by
  induction lanes generalizing s took with
  | nil => simp [runLanes, maskOf]
  | cons t rest ih =>
    have h0 := h [] t rest rfl
    simp only [List.foldl_nil] at h0
    rw [runLanes, h0]
    simp only
    rw [ih (g s t) _ (fun pre u post e => by simpa using h (t :: pre) u post (by simp [e]))]
    rw [maskOf_cons, BitVec.or_assoc, List.foldl_cons]

end Sys2Proof.Machine
end

