-- ==== Sys2Proof/Laws/Memory.lean ====
section
/-! SUPPORT. Memory: every operation keeps the canonical form, a read after a write, and the bytes a write leaves alone. -/

namespace Sys2Proof.Machine

theorem Memory.wf_setByte {m : Memory} (h : m.wf = true) (a : Nat) (b : Byte) : (m.setByte a b).wf = true :=
  Table.wf_set h a b

theorem Memory.byte_setByte {m : Memory} (h : m.wf = true) (a k : Nat) (b : Byte) :
    (m.setByte a b).byte k = if k = a then b else m.byte k :=
  Table.get_set h a k b

theorem Memory.wf_writeNat {m : Memory} (h : m.wf = true) (a n x : Nat) : (m.writeNat a n x).wf = true := by
  induction n generalizing m a x with
  | zero => exact h
  | succ n ih => exact ih (Memory.wf_setByte h ..) _ _

theorem Memory.wf_writeList {m : Memory} (h : m.wf = true) (a : Nat) (bs : List Byte) : (m.writeList a bs).wf = true := by
  induction bs generalizing m a with
  | nil => exact h
  | cons b bs ih => exact ih (Memory.wf_setByte h ..) _

/-- A write of `n` bytes leaves every other byte as it was. -/
theorem Memory.byte_writeNat_outside {m : Memory} (h : m.wf = true) (a n x k : Nat) (hk : k < a ∨ a + n ≤ k) :
    (m.writeNat a n x).byte k = m.byte k := by
  induction n generalizing m a x with
  | zero => rfl
  | succ n ih =>
    rw [Memory.writeNat, ih (Memory.wf_setByte h ..) _ _ (by omega), Memory.byte_setByte h, if_neg (by omega)]

/-- Byte `j` of a number written is its byte `j`. -/
theorem Memory.byte_writeNat_inside {m : Memory} (h : m.wf = true) (a n x j : Nat) (hj : j < n) :
    (m.writeNat a n x).byte (a + j) = BitVec.ofNat 8 (x / 256 ^ j) := by
  induction n generalizing m a x j with
  | zero => omega
  | succ n ih =>
    rw [Memory.writeNat]
    cases j with
    | zero =>
      rw [Memory.byte_writeNat_outside (Memory.wf_setByte h ..) _ _ _ _ (by omega), Memory.byte_setByte h]
      simp
    | succ j =>
      have := ih (m := m.setByte a (BitVec.ofNat 8 x)) (Memory.wf_setByte h ..) (a + 1) (x / 256) j (by omega)
      rw [show a + (j + 1) = a + 1 + j by omega, this, Nat.div_div_eq_div_mul, Nat.pow_succ, Nat.mul_comm]

theorem Memory.byte_writeList_outside {m : Memory} (h : m.wf = true) (a : Nat) (bs : List Byte) (k : Nat)
    (hk : k < a ∨ a + bs.length ≤ k) : (m.writeList a bs).byte k = m.byte k := by
  induction bs generalizing m a with
  | nil => rfl
  | cons b bs ih =>
    simp only [List.length_cons] at hk
    rw [Memory.writeList, ih (Memory.wf_setByte h ..) _ (by omega), Memory.byte_setByte h, if_neg (by omega)]

theorem Memory.byte_writeList_inside {m : Memory} (h : m.wf = true) (a : Nat) (bs : List Byte) (j : Nat) (hj : j < bs.length) :
    (m.writeList a bs).byte (a + j) = bs[j] := by
  induction bs generalizing m a j with
  | nil => simp at hj
  | cons b bs ih =>
    rw [Memory.writeList]
    cases j with
    | zero =>
      rw [Memory.byte_writeList_outside (Memory.wf_setByte h ..) _ _ _ (by omega), Memory.byte_setByte h]
      simp
    | succ j =>
      have := ih (m := m.setByte a b) (Memory.wf_setByte h ..) (a + 1) j (by simpa using hj)
      rw [show a + (j + 1) = a + 1 + j by omega, this]; rfl

/-- Two memories that agree on `n` bytes from `a` read the same number there. -/
theorem Memory.readNat_congr {m m' : Memory} (a n : Nat) (h : ∀ k, a ≤ k → k < a + n → m'.byte k = m.byte k) :
    m'.readNat a n = m.readNat a n := by
  induction n generalizing a with
  | zero => rfl
  | succ n ih =>
    rw [Memory.readNat, Memory.readNat, h a (by omega) (by omega), ih (a + 1) (fun k h1 h2 => h k (by omega) (by omega))]

/-- Reading back what was written. -/
theorem Memory.readNat_writeNat {m : Memory} (h : m.wf = true) (a n x : Nat) : (m.writeNat a n x).readNat a n = x % 256 ^ n := by
  induction n generalizing m a x with
  | zero => simp [Memory.readNat, Nat.mod_one]
  | succ n ih =>
    have h0 : (m.writeNat a (n + 1) x).byte a = BitVec.ofNat 8 (x / 256 ^ 0) := Memory.byte_writeNat_inside h a (n + 1) x 0 (by omega)
    rw [Memory.readNat, h0, Memory.writeNat, ih (Memory.wf_setByte h ..)]
    have h1 : x % (256 * 256 ^ n) = x % 256 + 256 * (x / 256 % 256 ^ n) := Nat.mod_mul
    rw [show 256 ^ (n + 1) = 256 * 256 ^ n by omega, h1, Nat.pow_zero, Nat.div_one]
    rfl

/-! ### Spaces -/

theorem State.memOf_setMem_self (s : State) (sp : Space) (m : Memory) (h : Table.risingFrom 0 s.spaces = true) :
    (s.setMem sp m).memOf sp = m := by
  cases sp with
  | main => rfl
  | _ =>
    simp only [State.setMem, State.memOf, Table.set, Table.get]
    split
    · rw [Table.find_erase h]; simp_all
    · simp [Table.find_put_self]

end Sys2Proof.Machine
end

