-- ==== Sys2Proof/Laws/Quiet.lean ====
section
/-! SUPPORT. What the end of a pass, a trap, a hold and a track do not touch: registers, memory, and every field beside threads and groups. -/

namespace Sys2Proof.Machine

theorem SameThread.refl (a : Thread) : SameThread a a := ⟨rfl, rfl, rfl, rfl, rfl⟩
theorem SameGroup.refl (a : Group) : SameGroup a a := ⟨rfl, rfl, rfl, rfl, rfl, rfl, rfl, rfl, rfl⟩
theorem Quiet.refl (s : State) : Quiet s s := ⟨rfl, fun _ => .refl _, fun _ => .refl _⟩

theorem SameThread.trans {a b c : Thread} (h : SameThread a b) (g : SameThread b c) : SameThread a c :=
  ⟨g.v.trans h.v, g.x.trans h.x, g.p.trans h.p, g.em.trans h.em, g.role.trans h.role⟩
theorem SameGroup.trans {a b c : Group} (h : SameGroup a b) (g : SameGroup b c) : SameGroup a c :=
  ⟨g.s.trans h.s, g.b.trans h.b, g.fst.trans h.fst, g.ssp.trans h.ssp, g.thv.trans h.thv, g.tmst.trans h.tmst, g.tmpc.trans h.tmpc,
    g.live.trans h.live, g.help.trans h.help⟩
theorem Quiet.trans {s t u : State} (h : Quiet s t) (g : Quiet t u) : Quiet s u :=
  ⟨g.rest.trans h.rest, fun k => (h.thread k).trans (g.thread k), fun k => (h.group k).trans (g.group k)⟩

theorem Quiet.foldl {β : Type} (f : State → β → State) (h : ∀ s b, Quiet s (f s b)) (l : List β) (s : State) : Quiet s (l.foldl f s) := by
  induction l generalizing s with
  | nil => exact .refl s
  | cons b l ih => exact (h s b).trans (ih _)

/-- A state whose threads and groups are those of `s` and which differs in nothing that `rest` shows. -/
theorem Quiet.of_tables {s t : State} (hr : t.rest = s.rest) (ht : t.threads = s.threads) (hg : t.groups = s.groups) : Quiet s t :=
  ⟨hr, fun k => by simp only [State.thread, ht]; exact .refl _, fun k => by simp only [State.group, hg]; exact .refl _⟩

theorem Quiet.modThread (s : State) (k : Nat) (f : Thread → Thread) (h : ∀ th, SameThread th (f th)) : Quiet s (s.modThread k f) := by
  refine ⟨rfl, fun j => ?_, fun j => .refl _⟩
  rw [State.thread_modThread]; split
  · exact h _
  · exact .refl _

theorem Quiet.setThread (s : State) (k : Nat) (th : Thread) (h : SameThread (s.thread k) th) : Quiet s (s.setThread k th) := by
  refine ⟨rfl, fun j => ?_, fun j => .refl _⟩
  rw [State.thread_setThread]; split
  · subst_vars; exact h
  · exact .refl _

theorem Quiet.modGroup (s : State) (k : Nat) (f : Group → Group) (h : ∀ gr, SameGroup gr (f gr)) : Quiet s (s.modGroup k f) := by
  refine ⟨rfl, fun j => .refl _, fun j => ?_⟩
  rw [State.group_modGroup]; split
  · exact h _
  · exact .refl _

theorem Quiet.pulse (s : State) (c : Nat) : Quiet s (s.pulse c) := .of_tables rfl rfl rfl

theorem Quiet.deviceEvent (s : State) (r : List W32) : Quiet s (s.deviceEvent r) := by
  unfold State.deviceEvent
  simp only
  split
  · exact .of_tables rfl rfl rfl
  · split <;> exact .of_tables rfl rfl rfl

theorem Quiet.event (s : State) (a b c d e f : Nat) : Quiet s (s.event a b c d e f) := Quiet.deviceEvent ..

theorem Quiet.unhandled (s : State) (b g t c : Nat) (x : W64) : Quiet s (s.unhandled b g t c x) := Quiet.event ..

theorem Quiet.reportCause (s : State) (a b c d : Nat) : Quiet s (s.reportCause a b c d) := by
  unfold State.reportCause; split
  · exact Quiet.event ..
  · exact .refl _

theorem Quiet.raise (s : State) (k : Nat) (r : TrapRec) : Quiet s (s.raise k r) := by
  unfold State.raise
  refine Quiet.trans ?_ (Quiet.modThread _ _ _ ?_)
  · split
    · exact Quiet.reportCause ..
    · exact .refl _
  · intro th; cases h : th.role <;> exact ⟨rfl, rfl, rfl, rfl, by simp [h]⟩

theorem Quiet.deliver (s : State) (b g t : Nat) (r : TrapRec) (n w : W64) : Quiet s (s.deliver b g t r n w) := by
  unfold State.deliver
  simp only
  split
  · exact Quiet.setThread _ _ _ ⟨rfl, rfl, rfl, rfl, rfl⟩
  · split
    · refine Quiet.trans (Quiet.setThread s (tkey (gkey b g) t) _ ?_) (Quiet.unhandled ..)
      exact ⟨rfl, rfl, rfl, rfl, rfl⟩
    · refine Quiet.trans (Quiet.setThread s (tkey (gkey b g) t) _ ?_) (Quiet.modGroup _ _ _ fun _ => ⟨rfl, rfl, rfl, rfl, rfl, rfl, rfl, rfl, rfl⟩)
      exact ⟨rfl, rfl, rfl, rfl, rfl⟩

theorem Quiet.dropPix (s : State) (gk : Nat) (ts : List Nat) : Quiet s (s.dropPix gk ts) :=
  Quiet.modGroup _ _ _ fun gr => by split <;> exact ⟨rfl, rfl, rfl, rfl, rfl, rfl, rfl, rfl, rfl⟩

theorem Quiet.deliverAll (s : State) (i : Issue) : Quiet s (s.deliverAll i) := by
  unfold State.deliverAll
  simp only
  split
  · exact .refl _
  · exact Quiet.trans (Quiet.foldl _ (fun _ _ => Quiet.deliver ..) _ s) (Quiet.dropPix ..)

theorem Quiet.ageGroup (s : State) (i : Issue) : Quiet s (s.ageGroup i) := by
  unfold State.ageGroup
  refine Quiet.foldl _ (fun s t => Quiet.modThread _ _ _ ?_) _ _
  exact fun _ => ⟨rfl, rfl, rfl, rfl, rfl⟩

theorem Quiet.orphan (s : State) (b g t c : Nat) : Quiet s (s.orphan b g t c) := by
  unfold State.orphan; split
  · exact .refl _
  · exact Quiet.deliver ..

theorem Quiet.orphanAll (s : State) (b g : Nat) (w : SetWait) : Quiet s (s.orphanAll b g w) := by
  unfold State.orphanAll
  exact Quiet.foldl _ (fun _ _ => Quiet.orphan ..) _ _

theorem Quiet.orphanCheck (s : State) (b g : Nat) : Quiet s (s.orphanCheck b g) := by
  unfold State.orphanCheck
  simp only
  split
  · refine Quiet.trans (Quiet.modGroup s (gkey b g) _ ?_) (Quiet.foldl _ ?_ _ _)
    · exact fun _ => ⟨rfl, rfl, rfl, rfl, rfl, rfl, rfl, rfl, rfl⟩
    · exact fun _ _ => Quiet.orphan ..
  · exact .refl _

theorem Quiet.release (s : State) (gk : Nat) (w : SetWait) : Quiet s (s.release gk w) := by
  unfold State.release
  refine Quiet.foldl _ (fun s t => Quiet.modThread _ _ _ fun th => ?_) _ _
  cases h : th.wait <;> exact ⟨rfl, rfl, rfl, rfl, rfl⟩

theorem Quiet.testComplete (s : State) (gk n : Nat) : Quiet s (s.testComplete gk n) := by
  unfold State.testComplete
  simp only
  split
  · refine Quiet.trans (Quiet.modGroup s gk _ ?_) (Quiet.release ..)
    exact fun _ => ⟨rfl, rfl, rfl, rfl, rfl, rfl, rfl, rfl, rfl⟩
  · exact .refl _

theorem Quiet.dropTrack (s : State) (gk : Nat) : Quiet s (s.dropTrack gk) := by
  unfold State.dropTrack
  simp only
  split
  · exact .refl _
  · split
    · exact Quiet.modGroup _ _ _ fun _ => ⟨rfl, rfl, rfl, rfl, rfl, rfl, rfl, rfl, rfl⟩
    · refine Quiet.trans (Quiet.modGroup s gk _ ?_) (Quiet.modGroup _ _ _ ?_)
      · exact fun _ => ⟨rfl, rfl, rfl, rfl, rfl, rfl, rfl, rfl, rfl⟩
      · exact fun _ => ⟨rfl, rfl, rfl, rfl, rfl, rfl, rfl, rfl, rfl⟩

theorem Quiet.settleTrack (s : State) (i : Issue) : Quiet s (s.settleTrack i) := by
  unfold State.settleTrack
  simp only
  split
  · exact Quiet.dropTrack ..
  · exact .refl _

theorem Quiet.endGroup (s : State) (i : Issue) :
    Quiet s (if s.allExited i.gk then s.modGroup i.gk (fun gr => { gr with ended := true }) else s) := by
  split
  · exact Quiet.modGroup _ _ _ fun _ => ⟨rfl, rfl, rfl, rfl, rfl, rfl, rfl, rfl, rfl⟩
  · exact .refl _

/-- The end of a pass touches no register and no memory. -/
theorem Quiet.closePass (s : State) (i : Issue) : Quiet s (s.closePass i) := by
  unfold State.closePass
  simp only
  refine Quiet.trans ?_ (Quiet.settleTrack ..)
  refine Quiet.trans ?_ (Quiet.endGroup ..)
  refine Quiet.trans ?_ (Quiet.pulse ..)
  refine Quiet.trans ?_ (Quiet.orphanCheck ..)
  refine Quiet.trans ?_ (Quiet.modGroup _ _ _ fun _ => ⟨rfl, rfl, rfl, rfl, rfl, rfl, rfl, rfl, rfl⟩)
  exact Quiet.trans (Quiet.deliverAll ..) (Quiet.ageGroup ..)

theorem Issue.advance_same (i : Issue) (th : Thread) : SameThread th (i.advance th) := by
  unfold Issue.advance
  split
  · split
    · split <;> exact ⟨rfl, rfl, rfl, rfl, rfl⟩
    · exact ⟨rfl, rfl, rfl, rfl, rfl⟩
  · exact .refl _

theorem Quiet.endPassFor (s : State) (i : Issue) (m : W32) : Quiet s (s.endPassFor i m) := by
  unfold State.endPassFor
  refine Quiet.trans (Quiet.foldl _ ?_ _ _) (Quiet.closePass ..)
  exact fun _ _ => Quiet.modThread _ _ _ i.advance_same

theorem Quiet.endPass (s : State) (i : Issue) : Quiet s (s.endPass i) := Quiet.endPassFor ..

theorem Quiet.trapPath (s : State) (i : Issue) (r : TrapRec) : Quiet s (s.trapPath i r) := by
  unfold State.trapPath State.raiseAll
  refine Quiet.trans (Quiet.foldl _ ?_ _ _) (Quiet.closePass ..)
  exact fun _ _ => Quiet.raise ..

theorem Quiet.trapActive (s : State) (i : Issue) (act : List Nat) (r : TrapRec) : Quiet s (s.trapActive i act r) := by
  unfold State.trapActive
  refine Quiet.trans (Quiet.foldl _ ?_ _ _) (Quiet.endPass ..)
  exact fun _ _ => Quiet.raise ..

theorem Quiet.illegal (s : State) (i : Issue) (x : Option Ext) : Quiet s (s.illegal i x) := Quiet.trapActive ..

theorem Quiet.holdPath (s : State) (i : Issue) (w : HoldKind) : Quiet s (s.holdPath i w) := by
  unfold State.holdPath
  refine Quiet.trans (Quiet.modGroup _ _ _ ?_) (Quiet.settleTrack ..)
  exact fun _ => ⟨rfl, rfl, rfl, rfl, rfl, rfl, rfl, rfl, rfl⟩

theorem Quiet.holdPass (s : State) (i : Issue) (rest : List Nat) (took : W32) (acc : List Nat) : Quiet s (s.holdPass i rest took acc) :=
  Quiet.modGroup _ _ _ fun _ => ⟨rfl, rfl, rfl, rfl, rfl, rfl, rfl, rfl, rfl⟩

end Sys2Proof.Machine
end

