-- ==== Sys2Proof/Laws/Passes.lean ====
section
/-! SUPPORT. How threads stand after the end of a pass: folds of updates over lanes, and passes in which no thread has trapped. -/

namespace Sys2Proof.Machine

theorem State.find_modThread (s : State) (k j : Nat) (f : Thread → Thread) :
    Table.find (s.modThread k f).threads j = if j = k then (Table.find s.threads k).map f else Table.find s.threads j := by
  simp [State.modThread, Table.find_modify]

/-- the fold that advances -/
theorem fold_mod (i : Issue) (f : Nat → Thread → Thread) (l : List Nat) (hn : l.Nodup) (s : State) (t : Nat) :
    Table.find (l.foldl (fun s t => s.modThread (i.tk t) (f t)) s).threads (i.tk t)
      = if t ∈ l then (Table.find s.threads (i.tk t)).map (f t) else Table.find s.threads (i.tk t) := by
  induction l generalizing s with
  | nil => simp
  | cons a l ih =>
    rw [List.nodup_cons] at hn
    rw [List.foldl_cons, ih hn.2, State.find_modThread]
    by_cases h : t = a
    · subst h; simp [hn.1]
    · have : i.tk t ≠ i.tk a := fun e => h (tk_inj i e)
      simp [h, this]

theorem fold_mod_ne (i : Issue) (f : Nat → Thread → Thread) (l : List Nat) (s : State) (k : Nat) (hk : ∀ t ∈ l, k ≠ i.tk t) :
    Table.find (l.foldl (fun s t => s.modThread (i.tk t) (f t)) s).threads k = Table.find s.threads k := by
  induction l generalizing s with
  | nil => rfl
  | cons a l ih =>
    rw [List.foldl_cons, ih _ (fun t ht => hk t (by simp [ht])), State.find_modThread, if_neg (hk a (by simp))]

theorem fold_mod_group (i : Issue) (f : Nat → Thread → Thread) (l : List Nat) (s : State) :
    (l.foldl (fun s t => s.modThread (i.tk t) (f t)) s).groups = s.groups := by
  induction l generalizing s with
  | nil => rfl
  | cons a l ih => rw [List.foldl_cons, ih]; rfl

theorem deliverAll_calm (s : State) (i : Issue) (h : ∀ t < 32, s.raisedBy i t = none) : s.deliverAll i = s := by
  unfold State.deliverAll
  have : (List.range 32).filterMap (fun t => (s.raisedBy i t).map (fun r => (t, r))) = [] := by
    rw [List.filterMap_eq_nil_iff]
    intro t ht
    rw [h t (List.mem_range.mp ht)]; rfl
  simp only [this, List.isEmpty_nil, if_true]

theorem mem_lanesWhere (s : State) (gk : Nat) (f : Thread → Bool) (t : Nat) :
    t ∈ s.lanesWhere gk f ↔ t < 32 ∧ ∃ th, Table.find s.threads (tkey gk t) = some th ∧ f th = true := by
  unfold State.lanesWhere
  rw [List.mem_filter, List.mem_range]
  cases Table.find s.threads (tkey gk t) <;> simp

/-- Every update that keeps role and running keeps the group from a deadlock. -/
theorem not_deadlocked {s : State} {gk t : Nat} {th : Thread} (ht : t < 32) (h : Table.find s.threads (tkey gk t) = some th)
    (hr : th.role = .live) (hg : th.running = true) : s.deadlocked gk = false := by
  unfold State.deadlocked
  have : t ∈ s.lanesWhere gk (fun th => th.role == Role.live && th.running) := by
    rw [mem_lanesWhere]; exact ⟨ht, th, h, by simp [hr, hg]⟩
  have h2 : (s.lanesWhere gk (fun th => th.role == Role.live && th.running)).isEmpty = false := by
    cases hh : s.lanesWhere gk (fun th => th.role == Role.live && th.running)
    · rw [hh] at this; cases this
    · rfl
  simp [h2]

theorem find_ageGroup (s : State) (i : Issue) (k : Nat) :
    (Table.find (s.ageGroup i).threads k).map Thread.ageless = (Table.find s.threads k).map Thread.ageless := by
  unfold State.ageGroup
  generalize s.lanesWhere i.gk (fun th => !th.exited) = l
  induction l generalizing s with
  | nil => rfl
  | cons a l ih =>
    rw [List.foldl_cons, ih, State.find_modThread]
    split
    · subst_vars; rw [Option.map_map]; rfl
    · rfl

theorem settleTrack_threads (s : State) (i : Issue) : (s.settleTrack i).threads = s.threads := by
  unfold State.settleTrack State.dropTrack
  simp only
  split
  · split
    · rfl
    · split <;> rfl
  · rfl

theorem endGroup_threads (s : State) (i : Issue) :
    (if s.allExited i.gk then s.modGroup i.gk (fun gr => { gr with ended := true }) else s).threads = s.threads := by
  split <;> rfl

theorem closePass_threads (s : State) (i : Issue) (h : ∀ t < 32, s.raisedBy i t = none)
    {t : Nat} {th : Thread} (ht : t < 32) (hf : Table.find s.threads (i.tk t) = some th)
    (hr : th.role = .live) (hg : th.running = true) : (s.closePass i).threads = (s.ageGroup i).threads := by
  unfold State.closePass
  simp only [settleTrack_threads, deliverAll_calm s i h]
  have hd : ∀ s' : State, s'.threads = (s.ageGroup i).threads → s'.orphanCheck i.b i.g = s' := by
    intro s' hs
    unfold State.orphanCheck
    simp only
    have h1 := find_ageGroup s i (i.tk t)
    rw [hf] at h1
    cases h2 : Table.find (s.ageGroup i).threads (i.tk t) with
    | none => rw [h2] at h1; cases h1
    | some x =>
      rw [h2] at h1
      simp only [Option.map_some, Option.some.injEq, Thread.ageless] at h1
      have hx : x.role = th.role := by simpa using congrArg Thread.role h1
      have e1 : x.exited = th.exited := by simpa using congrArg Thread.exited h1
      have e2 : x.park = th.park := by simpa using congrArg Thread.park h1
      have e3 : x.wait = th.wait := by simpa using congrArg Thread.wait h1
      have hy : x.running = th.running := by simp [Thread.running, e1, e2, e3]
      rw [if_neg]
      rw [not_deadlocked (s := s') (gk := gkey i.b i.g) (t := t) (th := x) ht (by rw [hs]; exact h2) (hx.trans hr) (hy.trans hg)]
      decide
  rw [endGroup_threads, hd]
  · rfl
  · rfl

end Sys2Proof.Machine
end

