-- ==== Sys2Proof/Laws/Words.lean ====
section
/-! SUPPORT. Register-only words: what executes them, what reading a thread depends on, and what writing one thread's result leaves alone. -/

namespace Sys2Proof.Machine

theorem regWord_exec (e : Instr) (w : RegWord) (s : State) (h : regWord e = some w) :
    exec e s = .next (s.onGroup (fun i => s.alu i w.legal w.shape w.fields w.dest (w.value s))) := by
  cases e
  case pmov f =>
    simp only [regWord] at h
    split at h
    · rename_i h0
      cases h
      simp only [exec, execPmov, h0]
      rfl
    · cases h
  all_goals simp only [regWord, reduceCtorEq] at h
  all_goals (cases h; rfl)

/-- reading depends on thread and group registers only -/
theorem readAll_congr (s u : State) (i : Issue) (t : Nat) (h1 : u.thread (i.tk t) = s.thread (i.tk t))
    (h2 : (u.group i.gk).s = (s.group i.gk).s) (l) : u.readAll i t l = s.readAll i t l := by
  have hr : ∀ code e o x, u.read i t code e o x = s.read i t code e o x := by
    intro code e o x
    have hc : ∀ l n, u.cells i t l n = s.cells i t l n := by
      intro l n
      simp only [State.cells]
      congr 1
      funext j
      cases l <;> simp [State.cell, h1, h2]
    simp [State.read, h1, hc]
  induction l with
  | nil => rfl
  | cons a l ih => obtain ⟨c, e, o, x⟩ := a; simp only [State.readAll, hr, ih]

theorem destReady_congr (s u : State) (i : Issue) (t : Nat) (h1 : u.thread (i.tk t) = s.thread (i.tk t))
    (h2 : (u.group i.gk).s = (s.group i.gk).s) (l n) : u.destReady i t l n = s.destReady i t l n := by
  have hc : ∀ l n, u.cells i t l n = s.cells i t l n := by
    intro l n
    simp only [State.cells]
    congr 1
    funext j
    cases l <;> simp [State.cell, h1, h2]
  simp [State.destReady, h1, hc]

theorem foldl_keep {β γ : Type} (f : State → β → State) (g : State → γ) (h : ∀ s b, g (f s b) = g s) (l : List β) (s : State) :
    g (l.foldl f s) = g s := by
  induction l generalizing s with
  | nil => rfl
  | cons b l ih => rw [List.foldl_cons, ih, h]

/-- l is in the v file, or nothing is written -/
def InV (l : Loc) (n : Nat) : Prop := (∃ r, l = .v r) ∨ n = 0

theorem setCell_v_thread (s : State) (i : Issue) (t r j c k) (h : k ≠ i.tk t) : (s.setCell i t (.v r) j c).thread k = s.thread k := by
  simp [State.setCell, State.thread_modThread_ne _ _ h]
theorem setCell_v_group (s : State) (i : Issue) (t r j c k) : (s.setCell i t (.v r) j c).group k = s.group k := rfl

theorem writeCells_thread (s : State) (i : Issue) (t l n x k) (hl : InV l n) (h : k ≠ i.tk t) : (s.writeCells i t l n x).thread k = s.thread k := by
  rcases hl with ⟨r, rfl⟩ | rfl
  · exact foldl_keep _ (fun s => s.thread k) (fun s j => setCell_v_thread s i t r j _ k h) _ _
  · rfl
theorem writeCells_group (s : State) (i : Issue) (t l n x k) (hl : InV l n) : (s.writeCells i t l n x).group k = s.group k := by
  rcases hl with ⟨r, rfl⟩ | rfl
  · exact foldl_keep _ (fun s => s.group k) (fun s j => setCell_v_group s i t r j _ k) _ _
  · rfl
theorem emptyCells_thread (s : State) (i : Issue) (t l n k) (hl : InV l n) (h : k ≠ i.tk t) : (s.emptyCells i t l n).thread k = s.thread k := by
  rcases hl with ⟨r, rfl⟩ | rfl
  · exact foldl_keep _ (fun s => s.thread k) (fun s j => setCell_v_thread s i t r j _ k h) _ _
  · rfl
theorem emptyCells_group (s : State) (i : Issue) (t l n k) (hl : InV l n) : (s.emptyCells i t l n).group k = s.group k := by
  rcases hl with ⟨r, rfl⟩ | rfl
  · exact foldl_keep _ (fun s => s.group k) (fun s j => setCell_v_group s i t r j _ k) _ _
  · rfl

theorem setSticky_thread (s : State) (gk fl k) : (s.setSticky gk fl).thread k = s.thread k := by
  unfold State.setSticky; split <;> rfl
theorem setSticky_s (s : State) (gk fl k) : ((s.setSticky gk fl).group k).s = (s.group k).s := by
  unfold State.setSticky; split
  · rfl
  · exact State.group_modGroup_of s gk k _ Group.s (fun _ => rfl)

theorem put_thread (w : RegWord) (sh : Shape) (s : State) (i : Issue) (t l r k) (hl : InV l sh.d.n) (h : k ≠ i.tk t) :
    (w.put sh s i t false l r).thread k = s.thread k := by
  unfold RegWord.put
  split
  · simp only [State.deposit, setSticky_thread, State.thread_modThread_ne _ _ h]
  · rename_i kk hk
    cases hd : w.dest <;> simp only [State.deposit]
    · simp only [setSticky_thread, writeCells_thread _ _ _ _ _ _ _ hl h]
    · exact absurd hd hk
    · exact emptyCells_thread s i t l _ k hl h

theorem put_s (w : RegWord) (sh : Shape) (s : State) (i : Issue) (t l r k) (hl : InV l sh.d.n) :
    ((w.put sh s i t false l r).group k).s = (s.group k).s := by
  unfold RegWord.put
  split
  · simp only [State.deposit, setSticky_s]; rfl
  · rename_i kk hk
    cases hd : w.dest <;> simp only [State.deposit]
    · simp only [setSticky_s, writeCells_group _ _ _ _ _ _ _ hl]
    · exact absurd hd hk
    · exact congrArg Group.s (emptyCells_group s i t l _ k hl)


theorem put_fold (w : RegWord) (sh : Shape) (i : Issue) (r : Nat → Nat) (v : State → Nat → Nat × Flags) (pre : List Nat) (s : State) (t : Nat) (h : t ∉ pre) :
    (pre.foldl (fun u t => w.put sh u i t false (.v (r t)) (v u t)) s).thread (i.tk t) = s.thread (i.tk t)
    ∧ ((pre.foldl (fun u t => w.put sh u i t false (.v (r t)) (v u t)) s).group i.gk).s = (s.group i.gk).s := by
  induction pre generalizing s with
  | nil => exact ⟨rfl, rfl⟩
  | cons a pre ih =>
    simp only [List.mem_cons, not_or] at h
    rw [List.foldl_cons]
    obtain ⟨h1, h2⟩ := ih (w.put sh s i a false (.v (r a)) (v s a)) h.2
    rw [h1, h2, put_thread _ _ _ _ _ _ _ _ (.inl ⟨_, rfl⟩) (fun e => h.1 (tk_inj i e)), put_s _ _ _ _ _ _ _ _ (.inl ⟨_, rfl⟩)]
    exact ⟨rfl, rfl⟩


end Sys2Proof.Machine
end

