-- ==== Sys2Proof/Tests/Slice0.lean ====
section
/-! SUPPORT. Tests: words written out from the encodings of the spec decode to their instructions, the checks of well-formedness refuse, and a
state meets the hypotheses of each statement. -/

namespace Sys2Proof.Tests

open Sys2Proof Sys2Proof.Machine

set_option Elab.async false

theorem test_reset_canonical : State.reset.canonical = true := by decide

/-! ### Decoding: words laid out as the opcode table and the forms of 02 R42 to R46, 05 R143 to R157, 06 R169 and 12 R335 say -/

/-- Each list of words decodes to its instruction, with no word left. -/
def epaelReads (l : List (List W32 × Instr)) : Bool :=
  l.all (fun e => match decodeEpael e.1 with | .ok (i, []) => i == e.2 | _ => false)
/-- Likewise for matrix words, burrow words and packets. -/
def matrixReads (l : List (W64 × Instr)) : Bool := l.all (fun e => match decodeMatrix e.1 with | .ok i => i == e.2 | _ => false)
def burrowReads (l : List (W32 × Instr)) : Bool := l.all (fun e => match decodeBurrow e.1 with | .ok i => i == e.2 | _ => false)
def packetReads (l : List (List W32 × Instr)) : Bool :=
  l.all (fun e => match decodePacket e.1 with | .ok (i, []) => i == e.2 | _ => false)

theorem test_decode_paths : epaelReads
  [([0x015FFFFE#32], .bra { guard := 2, gn := true, off := 1048574 }),
   ([0x025FFFFE#32], .bru { guard := 2, gn := true, off := 1048574 }),
   ([0x03002004#32], .brx { a := 8, ea := true }),
   ([0x045FFFFE#32], .call { guard := 2, gn := true, off := 1048574 }),
   ([0x05002004#32], .ret { a := 8, ea := true }),
   ([0x06500000#32], .exit { guard := 2, gn := true }),
   ([0x07000000#32], .nop),
   ([0x08060000#32], .jenter { d := 3 }),
   ([0x09060000#32], .jquit { d := 3 }),
   ([0x0A060000#32], .jwait { d := 3 }),
   ([0x0B060000#32], .jfree { d := 3 }),
   ([0x0C060000#32], .jpush { d := 3 }),
   ([0x0D060000#32], .jpop { d := 3 }),
   ([0x0E080C00#32], .jread { d := 4, a := 3 })] = true := by decide +kernel

theorem test_decode_integer0 : epaelReads
  [([0x10082064#32], .iadd { d := 4, a := 8, b := 12, ea := true }),
   ([0x11082064#32], .isub { d := 4, a := 8, b := 12, ea := true }),
   ([0x12082064#32], .imul { d := 4, a := 8, b := 12, ea := true }),
   ([0x13082064#32], .imulh { d := 4, a := 8, b := 12, ea := true }),
   ([0x15082064#32], .iminmax { d := 4, a := 8, b := 12, ea := true }),
   ([0x16082064#32], .iabsd { d := 4, a := 8, b := 12, ea := true }),
   ([0x18082064#32], .iaddsh { d := 4, a := 8, b := 12, ea := true }),
   ([0x20082064#32], .tlog { d := 4, a := 8, b := 12, ea := true }),
   ([0x21082064#32], .shift { d := 4, a := 8, b := 12, ea := true }),
   ([0x22082064#32], .bfx { d := 4, a := 8, b := 12, ea := true }),
   ([0x24082004#32], .popc { d := 4, a := 8, ea := true }),
   ([0x25082004#32], .clz { d := 4, a := 8, ea := true }),
   ([0x26082004#32], .brev { d := 4, a := 8, ea := true }),
   ([0x27062064#32], .icmp { d := 3, a := 8, b := 12, ea := true }),
   ([0x28082064#32], .sel { d := 4, a := 8, b := 12, ea := true }),
   ([0x2A082004#32], .mov { d := 4, a := 8, ea := true })] = true := by decide +kernel

theorem test_decode_integer1 : epaelReads
  [([0x2B080000#32], .pmov { d := 4 }),
   ([0x30082468#32], .iaddi { d := 4, imm := 4660 }),
   ([0x31082468#32], .imuli { d := 4, imm := 4660 }),
   ([0x32082468#32], .andi { d := 4, imm := 4660 }),
   ([0x33082468#32], .ori { d := 4, imm := 4660 }),
   ([0x34082468#32], .xori { d := 4, imm := 4660 }),
   ([0x35082468#32], .shli { d := 4, imm := 4660 }),
   ([0x36082468#32], .shri { d := 4, imm := 4660 }),
   ([0x37082468#32], .srai { d := 4, imm := 4660 }),
   ([0x38082468#32], .movi { d := 4, imm := 4660 }),
   ([0x39082468#32], .movhi { d := 4, imm := 4660 }),
   ([0x3A082468#32], .ldl { d := 4, imm := 4660 }),
   ([0x3B082468#32], .imini { d := 4, imm := 4660 }),
   ([0x3C082468#32], .imaxi { d := 4, imm := 4660 })] = true := by decide +kernel

theorem test_decode_float0 : epaelReads
  [([0x40082064#32], .fadd { d := 4, a := 8, b := 12, ea := true }),
   ([0x41082064#32], .fsub { d := 4, a := 8, b := 12, ea := true }),
   ([0x42082064#32], .fmul { d := 4, a := 8, b := 12, ea := true }),
   ([0x44082064#32], .fmin { d := 4, a := 8, b := 12, ea := true }),
   ([0x45082064#32], .fmax { d := 4, a := 8, b := 12, ea := true }),
   ([0x46062064#32], .fcmp { d := 3, a := 8, b := 12, ea := true }),
   ([0x47082004#32], .fclass { d := 4, a := 8, ea := true }),
   ([0x48082004#32], .frnd { d := 4, a := 8, ea := true }),
   ([0x49082064#32], .fldexp { d := 4, a := 8, b := 12, ea := true }),
   ([0x50082004#32], .fabs { d := 4, a := 8, ea := true }),
   ([0x51082004#32], .fneg { d := 4, a := 8, ea := true }),
   ([0x52082064#32], .fcsgn { d := 4, a := 8, b := 12, ea := true }),
   ([0x53082004#32], .fsat { d := 4, a := 8, ea := true }),
   ([0x63082064#32], .bscale { d := 4, a := 8, b := 12, ea := true }),
   ([0x65082468#32], .faddi { d := 4, imm := 4660 }),
   ([0x66082468#32], .fmuli { d := 4, imm := 4660 })] = true := by decide +kernel

theorem test_decode_float1 : epaelReads
  [([0x68082468#32], .fmini { d := 4, imm := 4660 }),
   ([0x69082468#32], .fmaxi { d := 4, imm := 4660 }),
   ([0x74082064#32], .idiv { d := 4, a := 8, b := 12, ea := true }),
   ([0x75082064#32], .irem { d := 4, a := 8, b := 12, ea := true }),
   ([0x76082064#32], .fdiv { d := 4, a := 8, b := 12, ea := true }),
   ([0x77082004#32], .fsqrt { d := 4, a := 8, ea := true }),
   ([0x78082004#32], .frsqrt { d := 4, a := 8, ea := true }),
   ([0x79082004#32], .ftrans { d := 4, a := 8, ea := true })] = true := by decide +kernel

theorem test_decode_exchange : epaelReads
  [([0x80082064#32], .prev { d := 4, a := 8, b := 12, ea := true }),
   ([0x81082064#32], .scan { d := 4, a := 8, b := 12, ea := true }),
   ([0x82082064#32], .sscan { d := 4, a := 8, b := 12, ea := true }),
   ([0x84082004#32], .bcast { d := 4, a := 8, ea := true }),
   ([0x85080000#32], .vote { d := 4 }),
   ([0x86082004#32], .qxch { d := 4, a := 8, ea := true }),
   ([0x87082004#32], .qred { d := 4, a := 8, ea := true }),
   ([0x88082004#32], .xmatch { d := 4, a := 8, ea := true })] = true := by decide +kernel

theorem test_decode_memory : epaelReads
  [([0x9008201C#32], .ld { d := 4, a := 8, b := 3, ea := true }),
   ([0x9108201C#32], .st { d := 4, a := 8, b := 3, ea := true }),
   ([0x92082004#32], .lds { d := 4, a := 8, ea := true }),
   ([0x93082004#32], .sts { d := 4, a := 8, ea := true }),
   ([0x94082004#32], .ldx { d := 4, a := 8, ea := true }),
   ([0x95082004#32], .stx { d := 4, a := 8, ea := true }),
   ([0x99080000#32], .spld { d := 4 }),
   ([0x9A080000#32], .spst { d := 4 }),
   ([0x9B00201C#32], .pref { a := 8, b := 3, ea := true }),
   ([0x9C08201C#32], .ldnc { d := 4, a := 8, b := 3, ea := true }),
   ([0xA006202C#32], .bld { d := 3, a := 8, b := 5, ea := true }),
   ([0xA106202C#32], .bst { d := 3, a := 8, b := 5, ea := true }),
   ([0xA2062004#32], .bset { d := 3, a := 8, ea := true }),
   ([0xA308001A#32], .bget { d := 4, b := 3, eb := true })] = true := by decide +kernel

theorem test_decode_copies : epaelReads
  [([0xB0062084#32], .copy { d := 3, a := 8, b := 16, ea := true }),
   ([0xB1002064#32], .kick { a := 8, b := 12, ea := true }),
   ([0xB2002004#32], .twany { a := 8, ea := true }),
   ([0xB3002004#32], .twall { a := 8, ea := true }),
   ([0xB4082004#32], .tfirst { d := 4, a := 8, ea := true }),
   ([0xB5002004#32], .tclr { a := 8, ea := true }),
   ([0xB6002064#32], .boinit { a := 8, b := 12, ea := true }),
   ([0xB7002004#32], .boarrive { a := 8, ea := true }),
   ([0xB8002064#32], .boexpect { a := 8, b := 12, ea := true }),
   ([0xB9002064#32], .bowait { a := 8, b := 12, ea := true }),
   ([0xBA082064#32], .botest { d := 4, a := 8, b := 12, ea := true }),
   ([0xC1060000#32], .bar { d := 3 }),
   ([0xC2060000#32], .bararv { d := 3 }),
   ([0xC4080000#32], .time { d := 4 })] = true := by decide +kernel

theorem test_decode_fabric : epaelReads
  [([0xD0082004#32], .rst { d := 4, a := 8, ea := true }),
   ([0xD1082004#32], .rld { d := 4, a := 8, ea := true }),
   ([0xD4000000#32], .rfence {}),
   ([0xD6082064#32], .launch { d := 4, a := 8, b := 12, ea := true }),
   ([0xD7002064#32], .postc { a := 8, b := 12, ea := true }),
   ([0xD8002004#32], .search { a := 8, ea := true }),
   ([0xD900201C#32], .nlaunch { a := 8, b := 3, ea := true }),
   ([0xDA08201C#32], .nopen { d := 4, a := 8, b := 3, ea := true }),
   ([0xDC082004#32], .nclose { d := 4, a := 8, ea := true })] = true := by decide +kernel

theorem test_decode_system : epaelReads
  [([0xE10620C8#32], .xset { d := 3, imm := 4196 }),
   ([0xE2062004#32], .xadd { d := 3, a := 8, ea := true }),
   ([0xE3080C00#32], .xget { d := 4, a := 3 }),
   ([0xF0000000#32], .trap {}),
   ([0xF1020000#32], .eret { d := 1 }),
   ([0xF2082008#32], .csrr { d := 4, a := 8, b := 1 }),
   ([0xF310200C#32], .csrw { d := 8, a := 8, b := 1, ea := true }),
   ([0xF4000000#32], .bkpt {}),
   ([0xF5002004#32], .sleep { a := 8, ea := true }),
   ([0xF6000000#32], .yield {})] = true := by decide +kernel

theorem test_decode_extensions0 : epaelReads
  [([0x14082065#32, 0x20100000#32], .imad { d := 4, a := 8, b := 12, ea := true, ext := (some { c := 16, ty := 1 }) }),
   ([0x17082061#32, 0x20200000#32], .isum { d := 4, a := 8, b := 12, ext := (some { c := 16, ty := 2 }) }),
   ([0x23082061#32, 0x20000000#32], .bfi { d := 4, a := 8, b := 12, ext := (some { c := 16 }) }),
   ([0x29040C21#32, 0x0A000096#32], .plop { d := 2, a := 3, b := 4, ext := (some { c := 5, sub := 150 }) }),
   ([0x43082061#32, 0x20320000#32], .ffma { d := 4, a := 8, b := 12, ext := (some { c := 16, ty := 3, rnd := 2 }) }),
   ([0x60082001#32, 0x000200A9#32], .cvt { d := 4, a := 8, ext := (some { rnd := 2, sub := 169 }) }),
   ([0x61082061#32, 0x00700000#32], .pack { d := 4, a := 8, b := 12, ext := (some { ty := 7 }) }),
   ([0x62082001#32, 0x00700000#32], .unpack { d := 4, a := 8, ext := (some { ty := 7 }) }),
   ([0x64082061#32, 0x20000000#32], .bshuf { d := 4, a := 8, b := 12, ext := (some { c := 16 }) }),
   ([0x67087F01#32, 0x20300000#32], .ffmai { d := 4, imm := 16256, ext := (some { c := 16, ty := 3 }) }),
   ([0x70082061#32, 0x20D00004#32], .dot { d := 4, a := 8, b := 12, ext := (some { c := 16, ty := 13, sub := 4 }) }),
   ([0x71082061#32, 0x20300000#32], .cfma { d := 4, a := 8, b := 12, ext := (some { c := 16, ty := 3 }) }),
   ([0x72100011#32, 0x08300000#32], .bfly { d := 8, b := 2, ext := (some { c := 4, ty := 3 }) }),
   ([0x73085001#32, 0x00300003#32], .twid { d := 4, a := 20, ext := (some { ty := 3, sub := 3 }) }),
   ([0x83082061#32, 0x20000000#32], .xread { d := 4, a := 8, b := 12, ext := (some { c := 16 }) }),
   ([0x9608201D#32, 0x20000000#32], .atom { d := 4, a := 8, b := 3, ea := true, ext := (some { c := 16 }) })] = true := by decide +kernel

theorem test_decode_extensions1 : epaelReads
  [([0x97082001#32, 0x20000000#32], .atoms { d := 4, a := 8, ext := (some { c := 16 }) }),
   ([0x98082001#32, 0x20000000#32], .atomx { d := 4, a := 8, ext := (some { c := 16 }) }),
   ([0xA4003001#32, 0x00000018#32], .wset { a := 12, ext := (some { sub := 24 }) }),
   ([0xC0000001#32, 0x00050070#32], .fence { ext := (some { rnd := 5, sub := 112 }) }),
   ([0xC3082019#32, 0x20000000#32], .waitw { d := 4, a := 8, b := 3, ext := (some { c := 16 }) }),
   ([0xD2082001#32, 0x20000000#32], .ratom { d := 4, a := 8, ext := (some { c := 16 }) }),
   ([0xD3082001#32, 0x20000000#32], .rfadd { d := 4, a := 8, ext := (some { c := 16 }) }),
   ([0xD5202081#32, 0x18000000#32], .coll { d := 16, a := 8, b := 16, ext := (some { c := 12 }) }),
   ([0xDB082061#32, 0x00030002#32], .ncmd { d := 4, a := 8, b := 12, ext := (some { rnd := 3, sub := 2 }) }),
   ([0xE0000001#32, 0x00000007#32], .mcall { ext := (some { sub := 7 }) })] = true := by decide +kernel

theorem test_decode_burrow0 : burrowReads
  [(0x04000000#32, .bnop {}),
   (0x0A697FFE#32, .br { a := 9, b := 10, cond := 2, off := 32766 }),
   (0x0D407FFE#32, .bcall { a := 5, b := 0, cond := 0, off := 32766 }),
   (0x10240000#32, .bjr { a := 9 }),
   (0x14000000#32, .bend {}),
   (0x18001234#32, .btrap { imm := 4660 }),
   (0x21668003#32, .galu { d := 5, a := 9, b := 10, sub := 3 }),
   (0x25651234#32, .galui { d := 5, a := 9, sub := 4, imm := 4660 }),
   (0x29781234#32, .gset { d := 5, hw := 3, keep := true, imm := 4660 }),
   (0x2D668002#32, .gcmp { d := 5, a := 9, b := 10, sub := 2 }),
   (0x41661234#32, .wld { d := 5, a := 9, size := 2, imm := 4660 }),
   (0x45661234#32, .wst { d := 5, a := 9, size := 2, imm := 4660 }),
   (0x48268007#32, .ald { a := 9, b := 10, sub := 7 }),
   (0x4C268007#32, .ast { a := 9, b := 10, sub := 7 }),
   (0x52240000#32, .hrd { h := 2, a := 9 }),
   (0x56240000#32, .hwr { h := 2, a := 9 })] = true := by decide +kernel

theorem test_decode_burrow1 : burrowReads
  [(0x5A400000#32, .hmov { h := 2, h2 := 1 }),
   (0x5E240001#32, .hwin { h := 2, a := 9, sub := 1 }),
   (0x62268000#32, .hget { h := 2, a := 9, b := 10 }),
   (0x66268000#32, .hput { h := 2, a := 9, b := 10 }),
   (0x68268002#32, .kset { a := 9, b := 10, sub := 2 }),
   (0x6E268006#32, .glint { h := 2, a := 9, b := 10, sub := 6 }),
   (0x70001C03#32, .top { h := 0, c := 7, sub := 3 }),
   (0x74268C00#32, .ttld { a := 9, b := 10, c := 3 }),
   (0x7A240C47#32, .ttp { h := 2, a := 9, c := 3, sub := 71 }),
   (0x81668C2A#32, .dist { d := 5, a := 9, b := 10, c := 3, sub := 42 }),
   (0x8566800A#32, .distg { d := 5, a := 9, b := 10, sub := 10 }),
   (0x89640C00#32, .heap { d := 5, a := 9, c := 3 }),
   (0x8D668C00#32, .hoffer { d := 5, a := 9, b := 10, c := 3 }),
   (0x91640C00#32, .hout { d := 5, a := 9, c := 3 }),
   (0xA1668C01#32, .post { d := 5, a := 9, b := 10, c := 3, sub := 1 }),
   (0xA4240000#32, .whop { a := 9 })] = true := by decide +kernel

theorem test_decode_burrow2 : burrowReads
  [(0xA8240000#32, .wspawn { a := 9 }),
   (0xAD640000#32, .visit { d := 5, a := 9 }),
   (0xB1640000#32, .cwait { d := 5, a := 9 }),
   (0xB4240000#32, .creply { a := 9 }),
   (0xB9400004#32, .rds { d := 5, sub := 4 })] = true := by decide +kernel

theorem test_decode_matrix : matrixReads
  [(0x0100000000000000#64, .mnop),
   (0x0200000000000000#64, .mend),
   (0x0345000000FFFFFE#64, .mbr 2 5 0xFFFFFE),
   (0x043C000089ABCDEF#64, .mli 7 2 0x89ABCDEF),
   (0x053A126000000000#64, .malu 7 8 9 3 false 0),
   (0x053A00D00000000C#64, .malu 7 8 0 6 true 12),
   (0x0607F80000000000#64, .mldq 0 31 7 0),
   (0x07279000FFFFFFF8#64, .mstq 4 30 2 0xFFFFFFF8),
   (0x080D000000000000#64, .mpred 0 6 true 0),
   (0x08D0000000000000#64, .mpred 3 8 false 0),
   (0x0984000000000000#64, .mbar 2 1 0),
   (0x09C0000000008002#64, .mbar 3 0 0x8002),
   (0x0A00000000000000#64, .mwait),
   (0x0B30800000000000#64, .mrds 6 0 true),
   (0x10A7000000000000#64, .mzero 2 true 7),
   (0x1148C86440400000#64, .mma { t := 1, fa := 2, fb := 3, qa := 4, qb := 6, qs := 8, sc := true, z := false, k := 64 }),
   (0x125E086020607A80#64, .mmas { t := 1, fa := 7, fb := 8, qa := 4, qb := 6, qs := 0, sc := false, z := true, k := 96 } 15 10),
   (0x13DD400000000000#64, .mldt 3 7 10),
   (0x1491874800000000#64, .mstt { t := 2, fmt := 4, qa := 12, rnd := 3, bo := true, qbo := 9 })] = true := by decide +kernel

theorem test_decode_packets : packetReads
  [([0x2002#32, 0x5#32, 0x6#32], .nopPacket 2 [0x5#32, 0x6#32]),
   ([0x1020001#32, 0x0#32, 0x1#32, 0x2#32, 0x3#32, 0x4#32, 0x5#32, 0x6#32, 0x7#32, 0x8#32, 0x9#32, 0xA#32, 0xB#32, 0xC#32, 0xD#32, 0xE#32, 0xF#32, 0x10#32, 0x11#32, 0x12#32, 0x13#32, 0x14#32, 0x15#32, 0x16#32, 0x17#32, 0x18#32, 0x19#32, 0x1A#32, 0x1B#32, 0x1C#32, 0x1D#32, 0x1E#32, 0x1F#32], .grid 1 [0x0#32, 0x1#32, 0x2#32, 0x3#32, 0x4#32, 0x5#32, 0x6#32, 0x7#32, 0x8#32, 0x9#32, 0xA#32, 0xB#32, 0xC#32, 0xD#32, 0xE#32, 0xF#32, 0x10#32, 0x11#32, 0x12#32, 0x13#32, 0x14#32, 0x15#32, 0x16#32, 0x17#32, 0x18#32, 0x19#32, 0x1A#32, 0x1B#32, 0x1C#32, 0x1D#32, 0x1E#32, 0x1F#32]),
   ([0x2020000#32, 0x0#32, 0x1#32, 0x2#32, 0x3#32, 0x4#32, 0x5#32, 0x6#32, 0x7#32, 0x8#32, 0x9#32, 0xA#32, 0xB#32, 0xC#32, 0xD#32, 0xE#32, 0xF#32, 0x10#32, 0x11#32, 0x12#32, 0x13#32, 0x14#32, 0x15#32, 0x16#32, 0x17#32, 0x18#32, 0x19#32, 0x1A#32, 0x1B#32, 0x1C#32, 0x1D#32, 0x1E#32, 0x1F#32], .cgrid 0 [0x0#32, 0x1#32, 0x2#32, 0x3#32, 0x4#32, 0x5#32, 0x6#32, 0x7#32, 0x8#32, 0x9#32, 0xA#32, 0xB#32, 0xC#32, 0xD#32, 0xE#32, 0xF#32, 0x10#32, 0x11#32, 0x12#32, 0x13#32, 0x14#32, 0x15#32, 0x16#32, 0x17#32, 0x18#32, 0x19#32, 0x1A#32, 0x1B#32, 0x1C#32, 0x1D#32, 0x1E#32, 0x1F#32]),
   ([0x3003003#32, 0x1000#32, 0x0#32, 0x10#32], .ib 3 [0x1000#32, 0x0#32, 0x10#32]),
   ([0x4004000#32, 0x1000#32, 0x1#32, 0x3#32, 0x46#32], .waitbit 0 [0x1000#32, 0x1#32, 0x3#32, 0x46#32]),
   ([0x5005001#32, 0x8#32, 0x0#32, 0x7#32, 0x0#32, 0x2#32], .waitmem 1 [0x8#32, 0x0#32, 0x7#32, 0x0#32, 0x2#32]),
   ([0x6004003#32, 0x8#32, 0x0#32, 0x7#32, 0x1#32], .write 3 [0x8#32, 0x0#32, 0x7#32, 0x1#32]),
   ([0x7002002#32, 0x10#32, 0x0#32], .tstamp 2 [0x10#32, 0x0#32])] = true := by decide +kernel

theorem test_decode_header : decodeHeader 0x4495CD00#32 = .ok (.clauseHeader
    { count := 4, cls := 4, ws := true, wl := false, tag := 21, tv := true, nb := 9, bv := true, yield := 1 }) := rfl

/-- Opcodes and numbers that the maps mark as unassigned are refused. -/
theorem test_decode_refuses : ([0x2C000000#32, 0xCF000000#32, 0xFF000000#32].all (fun w => (answer (decodeEpael [w])).isNone) &&
    [0x00000000#32, 0x1C000000#32, 0xC0000000#32].all (fun w => (answer (decodeBurrow w)).isNone) &&
    [0x0000000000000000#64, 0x0C00000000000000#64, 0x1500000000000000#64].all (fun w => (answer (decodeMatrix w)).isNone) &&
    (answer (decodePacket [0x08000000#32])).isNone && (answer (decodeHeader 0x00000000#32)).isNone) = true := by decide +kernel

theorem test_ill_formed_integer : (List.all
  [.iadd { d := 4, a := 8, b := 12, ext := (some { ty := 3 }) },
   .iadd { d := 4, a := 8, b := 12, ext := (some { ty := 1, rnd := 1 }) },
   .iadd { d := 4, a := 8, b := 12, ext := (some { ty := 1, sub := 1 }) },
   .iadd { d := 4, a := 9, b := 12, ext := (some { ty := 4 }) },
   .iadd { d := 4, a := 8, b := 12, ext := (some { ty := 1, c := 1 }) },
   .iadd { d := 4, a := 8, b := 12, ext := (some { ty := 1, xs := 1 }) },
   .imulh { d := 4, a := 8, b := 12, ext := (some { ty := 1, rnd := 5 }) },
   .imul { d := 4, a := 8, b := 12, ext := (some { ty := 13 }) },
   .imad { d := 4, a := 8, b := 12 },
   .iminmax { d := 4, a := 8, b := 12, ext := (some { ty := 1, sub := 2 }) },
   .iabsd { d := 4, a := 8, b := 12, ext := (some {}) },
   .isum { d := 4, a := 8, b := 12 },
   .iaddsh { d := 4, a := 8, b := 12, ext := (some { ty := 2, sub := 32 }) },
   .tlog { d := 4, a := 8, b := 12, ext := (some { ty := 1 }) },
   .shift { d := 4, a := 8, b := 12, ext := (some { sub := 5 }) },
   .bfx { d := 4, a := 8, b := 12, ext := (some { ty := 5 }) },
   .bfi { d := 4, a := 8, b := 12 },
   .popc { d := 4, a := 8, b := 12 },
   .clz { d := 4, a := 8, ext := (some { ty := 1 }) },
   .brev { d := 4, a := 8, ext := (some { sub := 1 }) },
   .icmp { d := 8, a := 8, b := 12 },
   .icmp { d := 3, a := 8, b := 12, ext := (some { ty := 1, sub := 6 }) },
   .sel { d := 4, a := 8, b := 12, ext := (some { sub := 16 }) },
   .plop {},
   .plop { d := 2, a := 8, ext := (some {}) },
   .mov { d := 4, a := 8, ext := (some { rnd := 1 }) },
   .pmov { d := 4, ext := (some { sub := 3 }) }] (fun e => !Instr.wellFormed e)) = true := by decide +kernel

theorem test_ill_formed_immediate : (List.all
  [.iaddi { d := 4, ext := (some { sub := 1, ty := 1 }) },
   .iaddi { d := 4, ext := (some { ty := 3 }) },
   .iaddi { d := 4, ext := (some { ty := 1, xo := 1 }) },
   .imuli { d := 4, ext := (some { ty := 13 }) },
   .andi { d := 4, ext := (some { rnd := 5 }) },
   .shli { d := 4, ext := (some { ty := 1 }) },
   .movi { d := 4, ext := (some { rnd := 1 }) },
   .movhi { d := 4, ext := (some { ty := 1 }) },
   .ldl { d := 4, ext := (some { ty := 3 }) },
   .imini { d := 4, ext := (some { ty := 1, rnd := 5 }) },
   .faddi { d := 4, ext := (some {}) },
   .ffmai { d := 4 },
   .fmini { d := 4, ext := (some { ty := 3, rnd := 1 }) },
   .xset { d := 4 }] (fun e => !Instr.wellFormed e)) = true := by decide +kernel

theorem test_ill_formed_float : (List.all
  [.fadd { d := 4, a := 8, b := 12, ext := (some {}) },
   .fadd { d := 4, a := 8, b := 12, ext := (some { ty := 3, rnd := 5 }) },
   .ffma { d := 4, a := 8, b := 12 },
   .fmin { d := 4, a := 8, b := 12, ext := (some { ty := 3, sub := 2 }) },
   .fcmp { d := 3, a := 8, b := 12, ext := (some { ty := 7 }) },
   .fcmp { d := 3, a := 8, b := 12, ext := (some { ty := 3, sub := 8 }) },
   .fclass { d := 4, a := 8, ext := (some { ty := 7 }) },
   .frnd { d := 4, a := 8, ext := (some { ty := 3, sub := 2 }) },
   .fldexp { d := 4, a := 8, b := 12, ext := (some { ty := 7 }) },
   .fabs { d := 4, a := 8, ext := (some { ty := 3, rnd := 1 }) },
   .fcsgn { d := 4, a := 8, b := 12, ext := (some { ty := 3, sub := 3 }) },
   .cvt { d := 4, a := 8 },
   .cvt { d := 4, a := 8, ext := (some { ty := 1, sub := 169 }) },
   .pack { d := 4, a := 8, b := 12, ext := (some { ty := 3 }) },
   .pack { d := 4, a := 8, b := 12, ext := (some { ty := 9, sub := 2 }) },
   .unpack { d := 4, a := 8, ext := (some { ty := 7, sub := 2 }) },
   .bscale { d := 4, a := 8, b := 12, ext := (some { ty := 6 }) },
   .bshuf { d := 4, a := 8, b := 12 },
   .dot { d := 4, a := 8, b := 12, ext := (some { ty := 7 }) },
   .dot { d := 4, a := 8, b := 12, ext := (some { ty := 7, sub := 17 }) },
   .dot { d := 4, a := 8, b := 12, ext := (some { ty := 13, sub := 132 }) },
   .dot { d := 4, a := 93, b := 12, ext := (some { ty := 7, sub := 4 }) },
   .cfma { d := 4, a := 8, b := 12, ext := (some { ty := 6 }) },
   .bfly { d := 4, a := 8, b := 12, ext := (some { ty := 3, sub := 2 }) },
   .twid { d := 4, a := 8, ext := (some { ty := 3, sub := 25 }) },
   .idiv { d := 4, a := 8, b := 12, ext := (some { ty := 11 }) },
   .fdiv { d := 4, a := 8, b := 12, ext := (some { ty := 7 }) },
   .fsqrt { d := 4, a := 8, ext := (some { ty := 3, sub := 1 }) },
   .ftrans { d := 4, a := 8, ext := (some { ty := 3, sub := 7 }) }] (fun e => !Instr.wellFormed e)) = true := by decide +kernel

theorem test_ill_formed_control : (List.all
  [.prev { d := 96, a := 8, b := 12 },
   .scan { d := 4, a := 8, b := 12, ext := (some { ty := 1, sub := 6 }) },
   .scan { d := 4, a := 8, b := 12, ext := (some { ty := 1, sub := 16 }) },
   .sscan { d := 4, a := 8, b := 12, ext := (some { ty := 3, sub := 3 }) },
   .xread { d := 4, a := 8, b := 12 },
   .bcast { d := 4, a := 8, ext := (some { sub := 1 }) },
   .vote { d := 4, ext := (some { sub := 64 }) },
   .qxch { d := 4, a := 8, ext := (some { sub := 8 }) },
   .qred { d := 4, a := 8, ext := (some { ty := 1, sub := 8 }) },
   .xmatch { d := 4, a := 8, ext := (some { ty := 1 }) },
   .exit { off := 1 },
   .brx { a := 8, ext := (some { sub := 1 }) },
   .ret { a := 9 },
   .jenter { d := 16 },
   .jread { d := 4, a := 16 },
   .jread { d := 4, ext := (some { sub := 3 }) },
   .mcall {},
   .xadd { d := 4, a := 8 },
   .xget { d := 4, ext := (some {}) },
   .trap { ext := (some { ty := 1 }) },
   .eret { d := 2 },
   .csrr { d := 4, b := 11 },
   .csrr { d := 5, a := 8, b := 1 },
   .csrw { a := 8 },
   .sleep { a := 8, ext := (some { sub := 1 }) },
   .yield { ext := (some { sub := 2 }) }] (fun e => !Instr.wellFormed e)) = true := by decide +kernel

theorem test_ill_formed_memory : (List.all
  [.ld { d := 4, a := 8, b := 3, ext := (some { sub := 7 }) },
   .ld { d := 4, a := 8, b := 16 },
   .ld { d := 4, a := 8, ext := (some { rnd := 6 }) },
   .ld { d := 4, a := 8, ext := (some { sub := 8 }) },
   .st { d := 4, a := 8, ext := (some { sub := 2 }) },
   .lds { d := 4, a := 8, b := 1 },
   .ldx { d := 4, a := 8, ext := (some { rnd := 5, sub := 56 }) },
   .atom { d := 4, a := 8 },
   .atoms { d := 4, a := 8, ext := (some { sub := 1, c := 9 }) },
   .atomx { d := 4, a := 8, ext := (some { sub := 13, c := 8 }) },
   .atoms { d := 4, a := 8, ext := (some { sub := 10, c := 8 }) },
   .spld { d := 4, ext := (some { rnd := 1 }) },
   .pref { a := 8, ext := (some { sub := 2 }) },
   .ldnc { d := 4, a := 8, ext := (some { rnd := 5 }) },
   .bld { d := 16, a := 8 },
   .bst { d := 3, a := 8, b := 1, ext := (some { sub := 1 }) },
   .bset { d := 3, a := 8, ext := (some { sub := 4 }) },
   .bget { d := 4, b := 16 },
   .wset {},
   .wset { a := 16, b := 32, ext := (some { sub := 255, rnd := 3 }) },
   .wset { d := 3, ext := (some {}) },
   .wset { d := 95, ext := (some { sub := 2 }) }] (fun e => !Instr.wellFormed e)) = true := by decide +kernel

theorem test_ill_formed_async : (List.all
  [.copy { d := 18, a := 8 },
   .copy { d := 3, a := 9 },
   .copy { d := 3, a := 8, ext := (some { rnd := 5, ty := 1 }) },
   .copy { d := 3, a := 8, ext := (some { sub := 1 }) },
   .copy { d := 3, a := 8, ext := (some { rnd := 5, ty := 9, sub := 128 }) },
   .kick { a := 8, b := 12, ext := (some { sub := 1 }) },
   .twany { a := 9 },
   .tfirst { d := 4, a := 8, ext := (some { sub := 2 }) },
   .boinit { a := 8, b := 12, ext := (some { sub := 1 }) },
   .boarrive { a := 8, ext := (some { sub := 4 }) },
   .boarrive { a := 8, ext := (some { sub := 8 }) },
   .bowait { a := 8, b := 12, ext := (some { rnd := 6 }) },
   .botest { d := 4, a := 8, b := 12, ext := (some { sub := 1 }) },
   .fence { ext := (some {}) },
   .fence { ext := (some { rnd := 5, sub := 56 }) },
   .fence { ext := (some { rnd := 5, sub := 1 }) },
   .bar { d := 16 },
   .bar { ext := (some { sub := 2 }) },
   .bararv { ext := (some { sub := 1 }) },
   .waitw { d := 4, a := 8 },
   .waitw { d := 4, a := 8, ext := (some { rnd := 6, c := 8 }) },
   .time { d := 4, ext := (some { sub := 2 }) }] (fun e => !Instr.wellFormed e)) = true := by decide +kernel

theorem test_ill_formed_fabric : (List.all
  [.rst { d := 4, a := 8, ext := (some { sub := 2 }) },
   .rst { d := 4, a := 8, ext := (some { sub := 16 }) },
   .rld { d := 4, a := 8, ext := (some { sub := 7 }) },
   .ratom { d := 4, a := 8, ext := (some { sub := 13, c := 8 }) },
   .ratom { d := 4, a := 8, ext := (some { sub := 32, c := 8 }) },
   .rfadd { d := 4, a := 8 },
   .rfadd { d := 4, a := 8, ext := (some { c := 10 }) },
   .rfence { ext := (some { sub := 1 }) },
   .coll { d := 16, a := 8 },
   .coll { d := 18, a := 8, ext := (some { c := 8 }) },
   .launch { d := 4, a := 8, b := 12, ext := (some { sub := 1 }) },
   .postc { a := 8, ext := (some { sub := 15 }) },
   .postc { a := 8, b := 96, ext := (some { sub := 1 }) },
   .search { a := 8, ext := (some { sub := 1 }) },
   .nlaunch { a := 8, b := 16 },
   .nopen { d := 4, a := 8, b := 16 },
   .ncmd { d := 4, a := 8, b := 12, ext := (some { rnd := 8 }) },
   .ncmd { d := 4, a := 8, b := 12 },
   .nclose { d := 4, a := 8, ext := (some { rnd := 1 }) }] (fun e => !Instr.wellFormed e)) = true := by decide +kernel

theorem test_ill_formed_engines : (List.all
  [.clauseHeader { count := 0, cls := 0, ws := false, wl := false, tag := 0, tv := false, nb := 0, bv := false, yield := 0 },
   .clauseHeader { count := 1, cls := 9, ws := false, wl := false, tag := 0, tv := false, nb := 0, bv := false, yield := 0 },
   .clauseHeader { count := 1, cls := 0, ws := false, wl := false, tag := 1, tv := false, nb := 0, bv := false, yield := 0 },
   .clauseHeader { count := 1, cls := 0, ws := false, wl := false, tag := 0, tv := false, nb := 1, bv := false, yield := 0 },
   .clauseHeader { count := 1, cls := 0, ws := false, wl := false, tag := 0, tv := false, nb := 0, bv := false, yield := 3 },
   .mbr 6 0 0,
   .mbr 0 1 0,
   .mli 0 3 0,
   .malu 0 0 0 10 false 0,
   .malu 0 0 1 0 true 0,
   .malu 0 0 0 0 false 1,
   .mldq 31 0 1 0,
   .mstq 26 0 6 0,
   .mpred 0 1 false 0,
   .mpred 0 0 false 129,
   .mpred 2 1 false 0,
   .mpred 3 0 true 0,
   .mbar 0 0 1,
   .mbar 3 1 0,
   .mrds 0 6 false,
   .mrds 0 1 true,
   .mzero 0 false 1,
   .mma { t := 0, fa := 9, fb := 0, qa := 0, qb := 2, qs := 0, sc := false, z := true, k := 64 },
   .mma { t := 0, fa := 7, fb := 2, qa := 0, qb := 2, qs := 0, sc := false, z := true, k := 64 },
   .mma { t := 0, fa := 2, fb := 2, qa := 1, qb := 2, qs := 0, sc := false, z := true, k := 64 },
   .mma { t := 0, fa := 2, fb := 2, qa := 0, qb := 2, qs := 0, sc := false, z := true, k := 0 },
   .mma { t := 0, fa := 2, fb := 2, qa := 0, qb := 2, qs := 0, sc := false, z := true, k := 4097 },
   .mma { t := 0, fa := 2, fb := 2, qa := 0, qb := 2, qs := 4, sc := false, z := true, k := 64 },
   .mma { t := 0, fa := 0, fb := 0, qa := 0, qb := 2, qs := 4, sc := true, z := true, k := 64 },
   .mmas { t := 0, fa := 2, fb := 2, qa := 0, qb := 2, qs := 0, sc := false, z := true, k := 33 } 0 0,
   .mmas { t := 0, fa := 2, fb := 2, qa := 0, qb := 2, qs := 0, sc := false, z := true, k := 64 } 0 1,
   .mldt 0 3 0,
   .mldt 0 8 0,
   .mstt { t := 0, fmt := 1, qa := 0, rnd := 4, bo := false, qbo := 0 },
   .mstt { t := 0, fmt := 0, qa := 0, rnd := 1, bo := false, qbo := 0 },
   .mstt { t := 0, fmt := 1, qa := 0, rnd := 0, bo := false, qbo := 1 }] (fun e => !Instr.wellFormed e)) = true := by decide +kernel

theorem test_ill_formed_burrow : (List.all
  [.bnop { d := 1 },
   .br { a := 0, b := 0, cond := 7, off := 0 },
   .br { a := 1, b := 0, cond := 0, off := 0 },
   .bcall { a := 0, b := 1, cond := 0, off := 0 },
   .bjr { d := 1 },
   .bend { sub := 1 },
   .btrap { d := 1 },
   .galu { sub := 16 },
   .galu { c := 1 },
   .galui { sub := 14 },
   .gcmp { sub := 6 },
   .ald { d := 1 },
   .ast { c := 1 },
   .hrd { h := 0, b := 1 },
   .hwr { h := 0, h2 := 1 },
   .hmov { h := 0, sub := 3 },
   .hmov { h := 0, h2 := 1, sub := 1 },
   .hwin { h := 0, sub := 2 },
   .hget { h := 0, c := 1 },
   .hput { h := 0, sub := 1 },
   .kset { sub := 4 },
   .glint { h := 0, sub := 8 },
   .glint { h := 0, a := 1 },
   .top { h := 1 },
   .top { h := 0, sub := 8 },
   .top { h := 0, a := 1 },
   .ttld { d := 1 },
   .ttp { h := 0, sub := 128 },
   .ttp { h := 0, b := 1 },
   .dist { sub := 2 + 16 },
   .dist { sub := 5 },
   .distg { sub := 32 },
   .heap { c := 8 },
   .heap { sub := 7 },
   .heap { sub := 6 },
   .hoffer { sub := 1 },
   .hout { c := 8 },
   .post { sub := 2 },
   .post { d := 1 },
   .whop { d := 1 },
   .wspawn { b := 1 },
   .visit { c := 1 },
   .cwait { d := 1, a := 1 },
   .creply { d := 1 },
   .rds { sub := 9 },
   .rds { sub := 129 }] (fun e => !Instr.wellFormed e)) = true := by decide +kernel

theorem test_ill_formed_packet : Instr.wellFormed (.ib 0#12 (List.replicate 4096 0#32)) = false := by
  show decide ((List.replicate 4096 0#32).length < 4096) = false
  rw [List.length_replicate]
  rfl

/-- 14, after R386: the home of physical address 0x50_0002_0000 with lsplit 4. -/
theorem test_home : rowOf 4 0x5000020000 = (4, 53, 436906) ∧ homeOf 4 0x5000020000 = (0, 214) := by decide +kernel

/-! ### Witnesses: for each statement with hypotheses, states and operands that meet them together -/

/-- An answer that the kernel can compare. -/
def isOk {ε α : Type} [DecidableEq α] (e : Except ε α) (x : α) : Bool := match e with | .ok y => y == x | .error _ => false
def isError {ε α : Type} [DecidableEq ε] (e : Except ε α) (x : ε) : Bool := match e with | .error y => y == x | .ok _ => false
theorem ok_of {ε α : Type} [DecidableEq α] {e : Except ε α} {x : α} (h : isOk e x = true) : e = .ok x := by
  cases e <;> simp_all [isOk]
theorem error_of {ε α : Type} [DecidableEq ε] {e : Except ε α} {x : ε} (h : isError e x = true) : e = .error x := by
  cases e <;> simp_all [isError]

/-- A two-word register word under way, the second word of a clause of two at 0x100, for threads 0 and 1 of group 0 of block 0. -/
def issue0 : Issue := { b := 0, g := 0, path := 3#32, hdr := mkPc 0x100#64 0, count := 2, widx := 1, len := 2, word := 0#64 }

/-- Full function; block 0 of context 0 on core 0 with 160 registers a thread and 1 KiB of shared memory; page 0 translated to itself; group 0 with
two live threads, that issues. -/
def state0 : State := { State.reset with
  stage := 3, cur := .group issue0, tlb := [(0, identityLeaf)], contexts := [(0, {})], cores := [(0, {})]
  blocks := [(0, { nreg := 160, shm := 1024 })]
  groups := [(0, { live := 3#32, track := some 0 })]
  threads := [(0, { tpc := mkPc 0x104#64 1, p := 1#8 }), (1, { tpc := mkPc 0x104#64 1 })] }

/-- The same with another group 0, and with other threads. -/
def withGroup (gr : Group) : State := { state0 with groups := [(0, gr)] }
def withThreads (a b : Thread) : State := { state0 with threads := [(0, a), (1, b)] }

theorem lanes2 {P : Nat → Prop} {l : List Nat} (h : l = [0, 1]) (h0 : P 0) (h1 : P 1) : ∀ t ∈ l, P t := by
  subst h; simp [h0, h1]

theorem begins0 : Begins state0 issue0 := ⟨rfl, rfl⟩

/-- An extension that says nothing. -/
def ext0 : Ext := {}

/-! Turns. A group that issues a word, and one that stands on a header. -/

def placed : State := State.reset.placeTableWord 32 0x07000000
def placedHeader : State := State.reset.placeHeader 0x10000000#32

def pathOf (s : State) : State × Path :=
  ((({ s with agenda := [] }.giveTracks 0).expire 0).choosePath 0).getD (s, { mask := 0#32, tpc := 0#64, tmw := 0#5, mac := false })

theorem witness_issues (s : State) (h : s.agenda = [.group 0 0] ∧ s.dark = false ∧ (Table.find s.groups 0).isSome ∧ (s.group 0).ended = false ∧
    s.coreFrozen (s.block 0).core = false ∧ (s.group 0).pass = none ∧ (s.block 0).place = .resident ∧ (s.group 0).loads = [] ∧
    (({ s with agenda := [] }.giveTracks (s.block 0).core).group 0).track.isSome ∧
    (({ s with agenda := [] }.giveTracks (s.block 0).core).expire 0).choosePath 0 = some (pathOf s) ∧
    (pathOf s).1.heldWord 0 (pathOf s).2 = none ∧ (pathOf s).2.mac = false ∧ (pathOf s).2.mask ≠ 0#32) :
    Issues s (pathOf s).1 [] 0 0 (pathOf s).2 := by
  obtain ⟨h1, h2, h3, h4, h5, h6, h7, h8, h9, h10, h11, h12, h13⟩ := h
  exact ⟨h1, h2, h3, h4, h5, h6, h7, h8, h9, h10, h11, h12, h13⟩

theorem witness_StepRunsGroupWord_header : Issues placedHeader (pathOf placedHeader).1 [] 0 0 (pathOf placedHeader).2 ∧
    (pathOf placedHeader).1.fetchWord ((pathOf placedHeader).1.block 0).ctx (pathOf placedHeader).2.header.toNat = .word 0x10000000#32 ∧
    (readHeader 0x10000000#32).legal = true ∧ pcWidx (pathOf placedHeader).2.tpc = 0 :=
  ⟨witness_issues _ (by decide +kernel), by decide +kernel, by decide +kernel, by decide +kernel⟩

theorem witness_StepRunsGroupWord : Issues placed (pathOf placed).1 [] 0 0 (pathOf placed).2 ∧
    (pathOf placed).1.fetchWord ((pathOf placed).1.block 0).ctx (pathOf placed).2.header.toNat = .word 0x18000000#32 ∧
    (readHeader 0x18000000#32).legal = true ∧ pcWidx (pathOf placed).2.tpc ≠ 0 ∧
    pcWidx (pathOf placed).2.tpc ≤ (0x18000000#32 : W32).extractLsb' 28 4 ∧
    (pathOf placed).1.fetchWord ((pathOf placed).1.block 0).ctx (pcAddr (pathOf placed).2.tpc).toNat = .word 0x07000000#32 ∧
    hasExt 0x07000000#32 = false ∧ decodeEpael [0x07000000#32, 0#32] = .ok (.nop, [0#32]) ∧
    classAccepts (readHeader 0x18000000#32).cls.toNat 0x07000000#32 none = true ∧ isTransfer (epaelOp 0x07000000#32) = false := by
  refine ⟨witness_issues _ (by decide +kernel), ?_, ?_, ?_, ?_, ?_, ?_, rfl, ?_⟩ <;> decide +kernel

/-! The other turns: an event; a matrix word; a burrow word; a packet at the head of a queue's ring. -/

def placedMatrix : State := State.reset.placeTableWord 64 0x0100000000000000
def placedBurrow : State := State.reset.placeBurrow 0x04000000#32
def queue0 : Queue := { state := 1, enabled := true, base := 0x2000, tail := 8 }
def placedPacket : State := { state0 with cur := .none, agenda := [.queue 0], queues := [(0, queue0)], mem := State.reset.mem.writeNat 0x2000 4 0x00001000 }

theorem witness_StepRunsOtherTurns_event : ({ State.reset with agenda := [.event .schedulingTick] } : State).dark = false ∧
    awake .deviceReset = true := ⟨rfl, rfl⟩

theorem witness_StepRunsOtherTurns_matrix : placedMatrix.agenda = [.msq 0] ∧ placedMatrix.dark = false ∧ (placedMatrix.block 0).msq.state = .running ∧
    (placedMatrix.block 0).place = .resident ∧ placedMatrix.coreFrozen (placedMatrix.block 0).core = false ∧ (placedMatrix.block 0).msq.job = none ∧
    (placedMatrix.block 0).msq.fetched = none ∧ (placedMatrix.block 0).msq.mpc.toNat % 8 = 0 ∧
    { placedMatrix with agenda := [] }.msqRead 0 (placedMatrix.block 0).msq.mpc.toNat 8 0 = .ok 0x0100000000000000 ∧
    decodeMatrix (BitVec.ofNat 64 0x0100000000000000) = .ok .mnop :=
  ⟨rfl, rfl, rfl, rfl, rfl, rfl, rfl, rfl, ok_of (by decide +kernel), rfl⟩

theorem witness_StepRunsOtherTurns_burrow : ∃ x : BeCtx, placedBurrow.agenda = [.engine 0 0 0] ∧ placedBurrow.dark = false ∧
    Table.find placedBurrow.engines (beKey 0 0 0) = some x ∧ { placedBurrow with agenda := [] }.beTurn (beEngine (beKey 0 0 0)) = some 0 ∧
    placedBurrow.foreignEngine (beEngine (beKey 0 0 0)) (placedBurrow.beContext x) = false ∧
    placedBurrow.frozenMasters.any (fun m => m.1 == 2 && m.2.1 == beEngine (beKey 0 0 0)) = false ∧
    ({ placedBurrow with agenda := [] }.imageOf (beKey 0 0 0) x)[x.upc]? = some 0x04000000#32 ∧ decodeBurrow 0x04000000#32 = .ok (.bnop {}) :=
  ⟨{ who := .block 0 0, frames := [0], winSize := 4096 }, rfl, rfl, rfl, by decide +kernel, by decide +kernel, rfl, rfl, rfl⟩

theorem witness_StepRunsOtherTurns_packet : placedPacket.agenda = [.queue 0] ∧ placedPacket.dark = false ∧ (placedPacket.queue 0).state = 1 ∧
    (placedPacket.queue 0).fault = none ∧ (placedPacket.queue 0).held = none ∧ (placedPacket.queue 0).frames = [] ∧
    packetCount 0x00001000#32 + 1 ≤ ((placedPacket.queue 0).tail - (placedPacket.queue 0).head) / 4 ∧ [0#32].length = packetCount 0x00001000#32 ∧
    { placedPacket with agenda := [] }.queueWords 0 (fun j => (placedPacket.queue 0).base + ((placedPacket.queue 0).head + 4 * j) % 2 ^ (placedPacket.queue 0).n)
      (packetCount 0x00001000#32 + 1) = .ok (0x00001000#32 :: [0#32]) ∧ decodePacket (0x00001000#32 :: [0#32]) = .ok (.nopPacket 0#12 [0#32], []) :=
  ⟨rfl, rfl, rfl, rfl, rfl, rfl, by decide +kernel, rfl, ok_of (by decide +kernel), ok_of (by decide +kernel)⟩

/-! Round trips. -/

theorem witness_EpaelRoundTrip : (Instr.bra { guard := 7, gn := true, off := -1 }).wellFormed = true ∧
    encodeEpael (.bra { guard := 7, gn := true, off := -1 }) ≠ [] ∧ ∀ h, Instr.bra { guard := 7, gn := true, off := -1 } ≠ .clauseHeader h :=
  ⟨rfl, by decide, fun _ e => by cases e⟩

theorem witness_HeaderEngineAndPacketRoundTrips : (readHeader 0x10000000#32).legal = true ∧ Instr.mend.wellFormed = true ∧
    encodeMatrix .mend = some 0x0200000000000000#64 ∧ (Instr.bnop {}).wellFormed = true ∧ encodeBurrow (.bnop {}) = some 0x04000000#32 ∧
    (Instr.nopPacket 3#12 []).wellFormed = true ∧ encodePacket (.nopPacket 3#12 []) ≠ [] :=
  ⟨by decide +kernel, rfl, by decide +kernel, rfl, by decide +kernel, rfl, by decide⟩

/-! Passes and traps. -/

theorem witness_PassEnds : Plain state0 issue0 ∧ Lives state0 issue0 :=
  ⟨⟨rfl, by decide +kernel⟩, ⟨0, by decide +kernel, rfl, rfl, rfl⟩⟩

def trap0 : TrapRec := { code := 1 }
def trapped : State := { withThreads { park := .raised trap0 } {} with groups := [(0, { live := 3#32, thv := 0x4000#64 })] }
def trappedTwice : State := withThreads { park := .raised trap0, th := true } { park := .raised trap0 }

theorem witness_TrapIsDelivered : (0 ∈ lanesOf issue0.path) ∧ Present trapped issue0 0 ∧ (trapped.thread (issue0.tk 0)).role = .live ∧
    (trapped.thread (issue0.tk 0)).park = .raised trap0 ∧ (trapped.group issue0.gk).thv ≠ 0#64 ∧ (trapped.thread (issue0.tk 0)).th = false :=
  ⟨by decide +kernel, rfl, rfl, rfl, by decide, rfl⟩

theorem witness_TrapIsUnhandled : (0 ∈ lanesOf issue0.path) ∧ Present trappedTwice issue0 0 ∧ (trappedTwice.thread (issue0.tk 0)).role = .live ∧
    (trappedTwice.thread (issue0.tk 0)).park = .raised trap0 ∧
    ((trappedTwice.group issue0.gk).thv = 0#64 ∨ (trappedTwice.thread (issue0.tk 0)).th = true) ∧
    (trappedTwice.thread (tkey (gkey 0 0) 0)).role = .live ∧ ((trappedTwice.group (gkey 0 0)).thv = 0#64 ∨ (trappedTwice.thread (tkey (gkey 0 0) 0)).th = true) :=
  ⟨by decide +kernel, rfl, rfl, rfl, .inl rfl, rfl, .inr rfl⟩

/-! Register words. Threads 0 and 1 hold 5 and 7 in v8; p0 of thread 0 is set. -/

def value (x : W32) : Cell := { val := x }
def state1 : State := withThreads { tpc := mkPc 0x104#64 1, p := 1#8, v := [(8, value 5#32), (12, value 2#32)] }
  { tpc := mkPc 0x104#64 1, v := [(8, value 7#32)] }

theorem begins1 : Begins state1 issue0 := ⟨rfl, rfl⟩

/-- A legal word of the R form, for a group of a block with 160 registers. -/
theorem legal160 {s : State} {op : Nat} {f : RForm} {sh : Shape} (hn : (s.block 0).nreg = 160)
    (h : rShape op f = some sh ∧ rLegal op f = true ∧ (Fields.ofR f).belowNreg sh 160 = true) : LegalR s issue0 op f sh :=
  ⟨h.1, h.2.1, by rw [show (s.block issue0.b).nreg = 160 from hn]; exact h.2.2⟩

def add0 : RForm := { d := 4, a := 8, b := 12 }
/-- IADD with d and both sources, and ICMP with a predicate. -/
theorem witness_RegisterWordsComplete : ∃ w w' sh sh', regWord (.iadd add0) = some w ∧ w.shape = some sh ∧ w.legal = true ∧
    w.fields.belowNreg sh (state1.block 0).nreg = true ∧ w.fields.uniform sh = false ∧ Begins state1 issue0 ∧
    (∀ t ∈ state1.active issue0 (extGuard w.fields.ext), w.Ready sh state1 issue0 t (if t = 0 then [5, 2, 0, 0] else [7, 0, 0, 0]) 4) ∧
    regWord (.icmp { d := 3, a := 8, b := 12 }) = some w' ∧ w'.shape = some sh' ∧ w'.dest = .pred ∧
    (∀ t ∈ state1.active issue0 (extGuard w'.fields.ext), w'.Ready sh' state1 issue0 t (if t = 0 then [5, 2, 0, 0] else [7, 0, 0, 0]) 0) := by
  refine ⟨_, _, { d := Opd.one, a := Opd.one, b := Opd.one }, { d := Opd.rawField, a := Opd.one, b := Opd.one }, rfl, by decide +kernel, by decide +kernel,
    by decide +kernel, by decide +kernel, begins1, lanes2 (by decide +kernel) ?_ ?_, rfl, by decide +kernel, rfl, lanes2 (by decide +kernel) ?_ ?_⟩
  all_goals exact ⟨by decide +kernel, rfl, by decide +kernel⟩

/-- IADD with d in s, unguarded, and guarded by a predicate the first thread has clear. -/
def addS (guard : BitVec 3) : RForm := { d := 96, a := 8, b := 12, ext := some { ty := 0, guard := guard } }
theorem witness_UniformWordsComplete : ∃ w w' sh, regWord (.iadd (addS 0)) = some w ∧ regWord (.iadd (addS 5)) = some w' ∧ w.shape = some sh ∧ w'.shape = some sh ∧
    w.legal = true ∧ w'.legal = true ∧ w.fields.belowNreg sh (state1.block 0).nreg = true ∧ w.fields.uniform sh = true ∧ w'.fields.uniform sh = true ∧
    Begins state1 issue0 ∧ extGuard w'.fields.ext (state1.thread (issue0.tk (firstLane issue0.path))) = false ∧
    extGuard w.fields.ext (state1.thread (issue0.tk (firstLane issue0.path))) = true ∧
    state1.readUniform issue0 (firstLane issue0.path) (sources w.fields sh) = .vals [5, 2, 0, 0] ∧
    state1.destReady issue0 (firstLane issue0.path) (.s (w.fields.d.toNat - 96)) sh.d.n = true := by
  refine ⟨_, _, { d := Opd.one, a := Opd.one, b := Opd.one }, rfl, rfl, ?_, ?_, ?_, ?_, ?_, ?_, ?_, begins1, ?_⟩ <;> decide +kernel

/-- IADD with an undefined type, with a reserved field, with a register past nreg; and a word that is none. -/
theorem witness_IllegalWordsTrap : ∃ w w' w'' sh, regWord (.iadd { ext := some { ty := 3 } }) = some w ∧ w.shape = none ∧
    regWord (.popc { b := 1 }) = some w' ∧ w'.legal = false ∧ regWord (.iadd { d := 33 }) = some w'' ∧ w''.shape = some sh ∧
    w''.fields.belowNreg sh (({ state0 with blocks := [(0, {})] } : State).block issue0.b).nreg = false ∧
    state0.cur = .group issue0 ∧ issue0.body = none ∧ issue0.widx ≠ 0 ∧ issue0.widx ≤ issue0.count :=
  ⟨_, _, _, { d := Opd.one, a := Opd.one, b := Opd.one }, rfl, by decide +kernel, rfl, by decide +kernel, rfl, by decide +kernel, by decide +kernel, rfl, rfl,
    by decide, by decide⟩

theorem witness_ResultLands : Present state1 issue0 0 ∧ Table.wf {} (state1.thread (issue0.tk 0)).v = true ∧
    (Table.find state1.groups issue0.gk).isSome ∧ Table.wf {} (state1.group issue0.gk).s = true := ⟨rfl, by decide +kernel, rfl, rfl⟩

/-- Fills of a uniform destination, of a thread, and of a thread that has exited. -/
def filling : State := { withThreads {} { exited := true } with fills := [(3, { g := 0, lane := none, first := 4, n := 1, value := 9, flags := 1#6 }),
  (4, { g := 0, k := 1, lane := some 0, first := 4, n := 2, value := 9, flags := 0#6 }), (5, { g := 0, k := 2, lane := some 1, first := 4, n := 1, value := 9, flags := 0#6 })] }
theorem witness_LongLatencyFillLands : ∃ p q r, Table.find filling.fills 3 = some p ∧ p.lane = none ∧ Table.find filling.fills 4 = some q ∧ q.lane = some 0 ∧
    (filling.thread (tkey (gkey (q.g / 32) (q.g % 32)) 0)).exited = false ∧ Table.find filling.fills 5 = some r ∧ r.lane = some 1 ∧
    (filling.thread (tkey (gkey (r.g / 32) (r.g % 32)) 1)).exited = true ∧ filling.fillReady 3 p = true ∧ filling.inert (p.g / 32) = false ∧
    filling.fillReady 4 q = true ∧ filling.fillReady 5 r = true := ⟨_, _, _, rfl, rfl, rfl, rfl, rfl, rfl, rfl, rfl, by decide +kernel⟩

theorem filed_of {s : State} (ht : ∀ e ∈ s.threads, Table.wf {} e.2.v = true) (hg : ∀ e ∈ s.groups, Table.wf {} e.2.s = true) : Filed s := by
  have find_mem : ∀ {α : Type} (m : Table α) (k : Nat) (x : α), Table.find m k = some x → ∃ e ∈ m, e.2 = x := by
    intro α m k x
    induction m with
    | nil => intro h; cases h
    | cons e m ih =>
      obtain ⟨j, w⟩ := e
      simp only [Table.find]
      split
      · intro h; exact ⟨(j, w), by simp, by simpa using h⟩
      · split
        · intro h; cases h
        · intro h; obtain ⟨e, he, h2⟩ := ih h; exact ⟨e, by simp [he], h2⟩
  refine ⟨fun k => ?_, fun k => ?_⟩
  · simp only [State.thread, Table.get]
    cases h : Table.find s.threads k with
    | none => rfl
    | some x => obtain ⟨e, he, rfl⟩ := find_mem _ _ _ h; exact ht e he
  · simp only [State.group, Table.get]
    cases h : Table.find s.groups k with
    | none => rfl
    | some x => obtain ⟨e, he, rfl⟩ := find_mem _ _ _ h; exact hg e he

theorem filed0 : Filed state0 := filed_of (by decide +kernel) (by decide +kernel)

theorem witness_RegisterWordsFrame : ∃ w t, regWord (.iadd add0) = some w ∧ Filed state1 ∧ state1.cur = .group issue0 ∧ exec (.iadd add0) state1 = .next t :=
  ⟨_, _, rfl, filed_of (by decide +kernel) (by decide +kernel), rfl, rfl⟩

def indexed : State := withThreads { x := [(2, 0x0360#32)], v := [(8, value 61#32)] } { x := [(2, 0x0360#32)], v := [(8, value 61#32)] }

/-- PMOV of predicates and of em; XSET within its bounds and past them; XADD by 5. -/
theorem witness_PredicateAndIndexWordsComplete :
    LegalR state1 issue0 0x2B { a := 8, ext := some { sub := 1 } } { a := Opd.one } ∧ LegalR state1 issue0 0x2B { a := 8, ext := some { sub := 2 } } { a := Opd.one } ∧
    (∀ t ∈ state1.active issue0 (extGuard (some { sub := 1 })), state1.read issue0 t 8#7 false Opd.one (if (0 : Nat) == 1 then some 0 else none) =
      .val (if t = 0 then 5 else 7)) ∧
    (∀ t ∈ lanesOf issue0.path, extGuard (some { sub := 2 }) (state1.thread (issue0.tk t)) = true →
      state1.read issue0 t 8#7 false Opd.one (if (0 : Nat) == 1 then some 0 else none) = .val (if t = 0 then 5 else 7)) ∧
    iLegal 0xE1 { d := 1, imm := 0x4060 } = true ∧ (96 ≤ 0x4060 % 256 ∧ 0x4060 % 256 + 0x4060 / 256 ≤ (state1.block issue0.b).nreg) ∧
    iLegal 0xE1 { d := 1, imm := 0x4061 } = true ∧ ¬ 0x4061 % 256 + 0x4061 / 256 ≤ (state1.block issue0.b).nreg ∧
    LegalR indexed issue0 0xE2 { d := 2, a := 8 } { d := Opd.rawField, a := Opd.one, xoOk := false } ∧ Begins indexed issue0 ∧
    (∀ t ∈ indexed.active issue0 (fun _ => true), indexed.read issue0 t 8#7 false Opd.one none = .val 61 ∧
      0x0360#32 = Table.get 0#32 (indexed.thread (issue0.tk t)).x ((2#7 : BitVec 7).toNat % 4) ∧ 1 ≤ xLimit 0x0360#32 ∧ xLimit 0x0360#32 ≤ 160 ∧
      96 ≤ (xBase 0x0360#32 : Int) + bitsToInt true 32 61 ∧
      (xBase 0x0360#32 : Int) + bitsToInt true 32 61 + xLimit 0x0360#32 ≤ (indexed.block issue0.b).nreg) := by
  refine ⟨legal160 rfl (by decide +kernel), legal160 rfl (by decide +kernel), lanes2 (by decide +kernel) (by decide +kernel) (by decide +kernel),
    lanes2 (by decide +kernel) (fun _ => by decide +kernel) (fun _ => by decide +kernel), ?_, ?_, ?_, ?_, legal160 rfl (by decide +kernel), ⟨rfl, rfl⟩,
    lanes2 (by decide +kernel) (by decide +kernel) (by decide +kernel)⟩ <;> decide +kernel

/-! Exchanges, control flow and rejoin sets. -/

theorem pixFree1 : PixFree state1 issue0 := ⟨rfl, rfl⟩

/-- The one-pass exchange forms, with a and b in v8 and v12, and d in v4. -/
def ex (sub ty : Nat) : RForm := { d := 4, a := 8, b := 12, ext := some { c := 12, sub := BitVec.ofNat 8 sub, ty := BitVec.ofNat 4 ty } }
def one3 : Shape := { d := Opd.one, a := Opd.one, b := Opd.one, uni := false }
def qx (sub ty : Nat) : RForm := { d := 4, a := 8, ext := some { sub := BitVec.ofNat 8 sub, ty := BitVec.ofNat 4 ty } }
/-- Both threads take their turns where these checks of each hold. -/
theorem ready1 {f : RForm} {sh : Shape} {xs ys : List Nat} (hl : state1.active issue0 (extGuard f.ext) = [0, 1])
    (h : state1.readAll issue0 0 (sources (Fields.ofR f) sh) = .vals xs ∧ state1.readAll issue0 1 (sources (Fields.ofR f) sh) = .vals ys ∧
      state1.destReady issue0 0 (.v 4) sh.d.n = true ∧ state1.destReady issue0 1 (.v 4) sh.d.n = true)
    (hp : ∀ th, locate th f.d sh.d (if extXo f.ext == 3 then some (extXs f.ext) else none) = .ok (.v 4)) :
    ∀ t ∈ state1.active issue0 (extGuard f.ext), TurnReady (Fields.ofR f) sh state1 issue0 t (if t = 0 then xs else ys) 4 :=
  lanes2 hl ⟨h.1, hp _, h.2.2.1⟩ ⟨h.2.1, hp _, h.2.2.2⟩

theorem witness_ExchangesVotesAndQuadsComplete_one : Begins state1 issue0 ∧ LegalR state1 issue0 0x80 { d := 4, a := 8, b := 12, ext := some {} } one3 ∧
    LegalR state1 issue0 0x81 { d := 4, a := 8, b := 12, ext := some { ty := 1 } } one3 ∧
    LegalR state1 issue0 0x82 { d := 4, a := 8, b := 12, ext := some { ty := 1, sub := 8 } } one3 ∧
    LegalR state1 issue0 0x83 (ex 0 0) { one3 with c := Opd.one } ∧
    (∀ t ∈ state1.active issue0 (extGuard (ex 0 0).ext), TurnReady (Fields.ofR (ex 0 0)) { one3 with c := Opd.one } state1 issue0 t
      (if t = 0 then [5, 2, 2, 0] else [7, 0, 0, 0]) 4) ∧
    LegalR state1 issue0 0x84 { d := 4, a := 8, ext := some {} } { d := Opd.one, a := Opd.one } :=
  ⟨begins1, legal160 rfl (by decide +kernel), legal160 rfl (by decide +kernel), legal160 rfl (by decide +kernel), legal160 rfl (by decide +kernel),
    ready1 (by decide +kernel) (by decide +kernel) (fun _ => rfl), legal160 rfl (by decide +kernel)⟩

/-- The two-pass forms: XREAD.two, BCAST.last, BCAST.lane of thread 1 and of an absent one, MATCH. -/
theorem witness_ExchangesVotesAndQuadsComplete_two : Begins state1 issue0 ∧ PixFree state1 issue0 ∧ LegalR state1 issue0 0x83 (ex 1 0) { one3 with c := Opd.one } ∧
    (∀ t ∈ state1.active issue0 (extGuard (ex 1 0).ext), TurnReady (Fields.ofR (ex 1 0)) { one3 with c := Opd.one } state1 issue0 t
      (if t = 0 then [5, 2, 2, 0] else [7, 0, 0, 0]) 4) ∧ (Fields.ofR (ex 1 0)).uniform { one3 with c := Opd.one } = false ∧
    LegalR state1 issue0 0x84 { d := 4, a := 8, ext := some { sub := 32 } } { d := Opd.one, a := Opd.one } ∧
    LegalR state1 issue0 0x84 { d := 4, a := 8, ext := some { sub := 65 } } { d := Opd.one, a := Opd.one } ∧
    LegalR state1 issue0 0x84 { d := 4, a := 8, ext := some { sub := 95 } } { d := Opd.one, a := Opd.one } ∧
    LegalR state1 issue0 0x88 { d := 4, a := 8, ext := some {} } { d := Opd.one, a := Opd.one, uni := false } :=
  ⟨begins1, pixFree1, legal160 rfl (by decide +kernel), ready1 (by decide +kernel) (by decide +kernel) (fun _ => rfl), by decide +kernel,
    legal160 rfl (by decide +kernel),
    legal160 rfl (by decide +kernel), legal160 rfl (by decide +kernel), legal160 rfl (by decide +kernel)⟩

/-- VOTE with d in s and in v, and the quad forms. -/
theorem witness_ExchangesVotesAndQuadsComplete_votes : Begins state1 issue0 ∧ LegalR state1 issue0 0x85 { d := 96, ext := some { sub := 0 } } { d := Opd.one } ∧
    (Fields.ofR { d := 96, ext := some { sub := 0 } }).uniform { d := Opd.one } = true ∧ state1.uniformGuard issue0 (some { sub := 0 }) = true ∧
    state1.destReady issue0 0 (.s 0) 1 = true ∧ LegalR state1 issue0 0x85 { d := 4, ext := some { sub := 48 } } { d := Opd.one } ∧
    (Fields.ofR { d := 4, ext := some { sub := 48 } }).uniform { d := Opd.one } = false ∧
    (∀ t ∈ state1.active issue0 (extGuard (some { sub := 48 })), TurnReady (Fields.ofR { d := 4, ext := some { sub := 48 } }) { d := Opd.one } state1 issue0 t
      (List.replicate 4 0) 4) ∧
    LegalR state1 issue0 0x86 (qx 1 0) { d := Opd.one, a := Opd.one, uni := false } ∧ LegalR state1 issue0 0x87 (qx 0 1) { d := Opd.one, a := Opd.one, uni := false } ∧
    (∀ t ∈ state1.active issue0 (extGuard (qx 1 0).ext), TurnReady (Fields.ofR (qx 1 0)) { d := Opd.one, a := Opd.one, uni := false } state1 issue0 t
      (if t = 0 then [5, 0, 0, 0] else [7, 0, 0, 0]) 4) :=
  ⟨begins1, legal160 rfl (by decide +kernel), by decide +kernel, by decide +kernel, by decide +kernel, legal160 rfl (by decide +kernel),
    by decide +kernel, lanes2 (by decide +kernel) ⟨by decide +kernel, rfl, by decide +kernel⟩ ⟨by decide +kernel, rfl, by decide +kernel⟩,
    legal160 rfl (by decide +kernel), legal160 rfl (by decide +kernel), ready1 (by decide +kernel) (by decide +kernel) (fun _ => rfl)⟩

/-- Threads in their handler, with a code address in v8 and v9. -/
def handling : State := withThreads { th := true, tpc := mkPc 0x104#64 1, p := 1#8, v := [(8, value 0x200#32)] } { th := true, tpc := mkPc 0x104#64 1, v := [(8, value 0x200#32)] }
theorem witness_BranchesAndExitComplete : Begins handling issue0 ∧ bGuard {} (handling.thread (issue0.tk (firstLane issue0.path))) = true ∧
    bGuard { guard := 5 } (handling.thread (issue0.tk (firstLane issue0.path))) = false ∧
    (∀ t ∈ handling.active issue0 (bGuard {}), handling.destReady issue0 t (.v 30) 2 = true) ∧
    LegalR handling issue0 0x03 { a := 8 } { a := Opd.one } ∧
    (∀ t ∈ handling.active issue0 (extGuard none), handling.read issue0 t 8#7 false Opd.one none = .val 0x200) ∧
    LegalR handling issue0 0x05 { a := 8 } { a := Opd.pair } ∧
    (∀ t ∈ handling.active issue0 (extGuard none), handling.read issue0 t 8#7 false Opd.pair none = .val 0x200 ∧ 0x200 % 4 = 0 ∧ 0x200 < 2 ^ 57) ∧
    LegalR handling issue0 0xF1 {} { d := Opd.rawField, xoOk := false } ∧ LegalR handling issue0 0xF1 { d := 1 } { d := Opd.rawField, xoOk := false } ∧
    (∀ t ∈ handling.active issue0 (fun _ => true), (handling.thread (issue0.tk t)).th = true) ∧
    (∀ t ∈ handling.active issue0 (bGuard {}), (handling.thread (issue0.tk t)).pending = none) ∧ Present handling issue0 0 :=
  ⟨⟨rfl, rfl⟩, rfl, rfl, by decide +kernel, legal160 rfl (by decide +kernel), by decide +kernel, legal160 rfl (by decide +kernel), by decide +kernel,
    legal160 rfl (by decide +kernel), legal160 rfl (by decide +kernel), by decide +kernel, by decide +kernel, rfl⟩

/-- Set 3 open with members 0 and 1, both arrived, thread 0 waiting. -/
def wait3 : Waiting := { on := .set 3, jn := 3, next := mkPc 0x10C#64 0, word := 0#64 }
def complete : State := { withThreads { wait := some wait3 } {} with groups := [(0, { j := [(3, { state := .opened, member := 3#32, arrived := 3#32 })] })] }
theorem witness_RejoinSetEvents : (1#32 : W32) ≠ 0#32 ∧ (Table.find complete.groups 0).isSome ∧ Table.wf {} (complete.group 0).j = true ∧
    ((complete.group 0).set 3).state = .opened ∧ ((complete.group 0).set 3).member ≠ 0#32 ∧ ((complete.group 0).set 3).member = ((complete.group 0).set 3).arrived ∧
    (complete.thread (tkey 0 0)).wait = some wait3 ∧ wait3.on = .set 3 := ⟨by decide, rfl, by decide +kernel, rfl, by decide, rfl, rfl, rfl⟩

/-- Set 3 with members 0 and 1, and a spill region of four slots at 0x8000; and the same with set 3 pushed. -/
def spillGroup : Group := { live := 3#32, track := some 0, spillBase := 0x8000#64, spillCap := 4 }
def joined : State := withGroup { spillGroup with j := [(3, { state := .opened, member := 3#32 })] }
def pushed : State := { withGroup { spillGroup with ssp := 128#32 } with mem := State.reset.mem.writeNat 0x8000 12 0x10000000000000003 }
def set3 : RForm := { d := 3 }
def setShape : Shape := { d := Opd.rawField, xoOk := false }
theorem once0 {s : State} (h : s.cur = .group issue0 ∧ (s.group issue0.gk).pass = none ∧ (s.thread (issue0.tk (firstLane issue0.path))).role = .live) :
    Once s issue0 none := ⟨⟨h.1, h.2.1⟩, rfl, h.2.2⟩

theorem witness_RejoinWordsAndSpillsComplete : Begins joined issue0 ∧
    [0, 1] = (joined.active issue0 (extGuard set3.ext)).filter (fun t => (joined.thread (issue0.tk t)).role == Role.live) ∧
    LegalR joined issue0 0x08 set3 setShape ∧ LegalR joined issue0 0x09 set3 setShape ∧ LegalR joined issue0 0x0B set3 setShape ∧
    LegalR joined issue0 0x0A set3 setShape ∧ (∀ t ∈ [0, 1], ((joined.group issue0.gk).set 3).member.getLsbD t = true) ∧
    (∀ t ∈ lanesOf issue0.path, (joined.thread (issue0.tk t)).running = true → t ∈ [0, 1] ∨ (joined.thread (issue0.tk t)).role = .helper) ∧
    LegalR joined issue0 0x0B { d := 3, ext := some { guard := 5 } } setShape ∧
    extGuard (some { guard := 5 }) (joined.thread (issue0.tk (firstLane issue0.path))) = false ∧ ((joined.group issue0.gk).set 3).arrived = 0#32 ∧
    LegalR joined issue0 0x0C set3 setShape ∧ Once joined issue0 none ∧ (joined.group issue0.gk).ssp.toNat / 128 = 0 ∧ 0 + 1 ≤ (joined.group issue0.gk).spillCap ∧
    joined.spillReach issue0 ((joined.group issue0.gk).slotAddr 0 0) 128 Need.write = .ok .main 0x8000 1 ∧
    joined.unlogged issue0 ((joined.group issue0.gk).slotAddr 0 0) .main ∧
    LegalR pushed issue0 0x0D set3 setShape ∧ Once pushed issue0 none ∧ (pushed.group issue0.gk).ssp.toNat / 128 = 0 + 1 ∧
    ((pushed.group issue0.gk).set 3).arrived = 0#32 ∧
    pushed.spillReach issue0 ((pushed.group issue0.gk).slotAddr 0 0) 128 Need.read = .ok .main 0x8000 1 ∧ pushed.groupTouches issue0 0x8000 128 = false ∧
    pushed.mayAccess issue0 .main ((pushed.group issue0.gk).slotAddr 0 0) 0x8000 128 false false = true ∧ pushed.poisoned .main 0x8000 = false :=
  ⟨⟨rfl, rfl⟩, by decide +kernel, legal160 rfl (by decide +kernel), legal160 rfl (by decide +kernel), legal160 rfl (by decide +kernel),
    legal160 rfl (by decide +kernel), by decide +kernel, by decide +kernel, legal160 rfl (by decide +kernel), by decide +kernel, by decide +kernel,
    legal160 rfl (by decide +kernel), once0 ⟨rfl, rfl, rfl⟩, by decide +kernel, by decide +kernel, by decide +kernel, .inr (by decide +kernel),
    legal160 rfl (by decide +kernel), once0 ⟨rfl, rfl, rfl⟩, by decide +kernel⟩

/-! Memory words. Record 1 names sixteen 4-byte elements at 0x8000, record 2 four of 16 bytes; v8 holds 5 in thread 0 and 99, past both, in thread 1. -/

def recordOf (base lsz extent : Nat) : BCell := { val := BitVec.ofNat 128 (base + lsz * 2 ^ 57 + extent * 2 ^ 64) }
def thread5 : Thread := { tpc := mkPc 0x104#64 1, p := 1#8, v := [(8, value 5#32), (12, value 7#32)] }
def thread99 : Thread := { tpc := mkPc 0x104#64 1, v := [(8, value 99#32), (12, value 9#32)] }
def group2 : Group := { live := 3#32, track := some 0, b := [(1, recordOf 0x8000 2 16), (2, recordOf 0x8000 4 16)], spillBase := 0x9000#64, spillCap := 4
                        ssp := 128#32 }
def state2 : State := { withThreads thread5 thread99 with groups := [(0, group2)] }
def helpers2 : State := { withThreads thread5 { thread99 with role := .helper } with groups := [(0, group2)] }

theorem begins2 : Begins state2 issue0 := ⟨rfl, rfl⟩

def ld (d : BitVec 7) : RForm := { d := d, a := 8, b := 1 }
def loadShape : Shape := { d := Opd.one, a := Opd.one, b := Opd.recField }
def access2 (ord : Nat) (t : Nat) : Access := if t = 0 then .at_ 0x8014 0x8014 .main ord else .dropped
def recordNat (base lsz extent : Nat) : Nat := base + lsz * 2 ^ 57 + extent * 2 ^ 64

/-- LD with d in v: one thread in range, one not. LDS with d in s, once and not at all. -/
theorem witness_LoadsComplete : (Instr.ld (ld 4), 0x90, Via.record 1 false, ReqKind.load) ∈ loadForms (ld 4) ∧ LegalR state2 issue0 0x90 (ld 4) loadShape ∧
    Begins state2 issue0 ∧ Turns (Fields.ofR (ld 4)) loadShape state2 issue0 [0, 1] ∧
    (∀ t ∈ [0, 1], ((∃ r, Loc.v 4 = .v r) ∨ (Fields.ofR (ld 4)).uniform loadShape = true) ∧
      LoadReady (Fields.ofR (ld 4)) loadShape (.record 1 false) (sizeBytes (extSub (ld 4).ext % 8)) Need.read state2 issue0 t (.v 4) (access2 1 t)) ∧
    (Instr.lds { d := 96, a := 8 }, 0x92, Via.shared, ReqKind.load) ∈ loadForms { d := 96, a := 8 } ∧
    LegalR state1 issue0 0x92 { d := 96, a := 12, ext := some { guard := 5 } } { d := Opd.one, a := Opd.one } ∧
    (Fields.ofR { d := 96, a := 12, ext := some { guard := 5 } }).uniform { d := Opd.one, a := Opd.one } = true ∧
    extGuard (some { guard := 5 }) (state1.thread (issue0.tk (firstLane issue0.path))) = false := by
  refine ⟨by simp [loadForms, ld], legal160 rfl (by decide +kernel), begins2, ⟨fun _ => by decide +kernel, fun h => absurd h (by decide +kernel)⟩, ?_,
    by simp [loadForms], legal160 rfl (by decide +kernel), by decide +kernel, by decide +kernel⟩
  refine lanes2 rfl ⟨.inl ⟨4, rfl⟩, rfl, by decide +kernel, ⟨5, recordNat 0x8000 2 16, ?_⟩, .inl rfl⟩ ⟨.inl ⟨4, rfl⟩, rfl, by decide +kernel, ⟨99, recordNat 0x8000 2 16, ?_⟩, .inl rfl⟩
  · exact ⟨by decide +kernel, by decide +kernel, by decide +kernel, by decide +kernel⟩
  · exact ⟨by decide +kernel, by decide +kernel, by show _ = Formed.drop; decide +kernel⟩

/-- ST: one thread in range, one not; and a helper in range. -/
theorem witness_StoresComplete : (Instr.st (ld 12), 0x91, Via.record 1 false) ∈ storeForms (ld 12) ∧ LegalR state2 issue0 0x91 (ld 12) loadShape ∧
    (∀ t ∈ state2.active issue0 (extGuard (ld 12).ext),
      StoreReady (Fields.ofR (ld 12)) loadShape (.record 1 false) (sizeBytes (extSub (ld 12).ext % 8)) state2 issue0 t (if t = 0 then 7 else 9) (access2 1 t)) ∧
    StoreReady (Fields.ofR (ld 12)) loadShape (.record 1 false) 4 (withThreads { thread5 with role := .helper } thread5 |> fun s => { s with groups := [(0, group2)] })
      issue0 0 7 .dropped := by
  refine ⟨by simp [storeForms, ld], legal160 rfl (by decide +kernel), lanes2 (by decide +kernel) ⟨5, recordNat 0x8000 2 16, ?_⟩ ⟨99, recordNat 0x8000 2 16, ?_⟩,
    ⟨5, recordNat 0x8000 2 16, ?_⟩⟩
  · exact ⟨by decide +kernel, by decide +kernel, by decide +kernel, by decide +kernel, by decide +kernel, by decide +kernel, .inr (by decide +kernel)⟩
  · exact ⟨by decide +kernel, by decide +kernel, .inl (by decide +kernel)⟩
  · exact ⟨by decide +kernel, by decide +kernel, .inr ⟨⟨0x8014, by decide +kernel⟩, rfl, by decide +kernel⟩⟩

/-- ATOM add of u32, returning and not. -/
def atom0 (nr : Bool) : RForm := { d := if nr then 0 else 4, a := 8, b := 1, ext := some { c := 12, ty := 2, sub := if nr then 0x12 else 2 } }
def atomShape (nr : Bool) : Shape := { d := if nr then Opd.dash else Opd.one, a := Opd.one, b := Opd.recField, c := Opd.one }
theorem atomReady2 (nr : Bool) : ∀ t ∈ state2.active issue0 (extGuard (atom0 nr).ext),
    AtomReady (Fields.ofR (atom0 nr)) (atomShape nr) (.record 1 false) (extSub (atom0 nr).ext % 16) (extTy 0 (atom0 nr).ext) state2 issue0 t
      (if t = 0 then 7 else 9) (access2 1 t) := by
  cases nr <;> refine lanes2 (by decide +kernel) ⟨⟨5, recordNat 0x8000 2 16, ?_⟩, rfl⟩ ⟨⟨99, recordNat 0x8000 2 16, ?_⟩, rfl⟩
  all_goals first
    | exact ⟨by decide +kernel, by decide +kernel, by decide +kernel, by decide +kernel, by decide +kernel, by decide +kernel⟩
    | exact ⟨by decide +kernel, by decide +kernel, by decide +kernel, by show _ = Formed.drop; decide +kernel⟩

theorem witness_AtomicsComplete : (Instr.atom (atom0 false), 0x96, Via.record 1 false) ∈ atomicForms (atom0 false) ∧
    LegalR state2 issue0 0x96 (atom0 false) (atomShape false) ∧ LegalR state2 issue0 0x96 (atom0 true) (atomShape true) ∧
    Turns (Fields.ofR (atom0 false)) (atomShape false) state2 issue0 (state2.active issue0 (extGuard (atom0 false).ext)) ∧
    Turns (Fields.ofR (atom0 true)) (atomShape true) state2 issue0 (state2.active issue0 (extGuard (atom0 true).ext)) ∧
    extSub (atom0 false).ext / 16 % 2 = 0 ∧ extSub (atom0 true).ext / 16 % 2 = 1 ∧ state2.unlogged issue0 0x8014 .main ∧
    (∀ t ∈ state2.active issue0 (extGuard (atom0 false).ext), ((∃ r, Loc.v 4 = .v r) ∨ (Fields.ofR (atom0 false)).uniform (atomShape false) = true) ∧
      state2.destReady issue0 t (.v 4) 1 = true ∧
      locate (state2.thread (issue0.tk t)) 4#7 Opd.one (if extXo (atom0 false).ext == 3 then some (extXs (atom0 false).ext) else none) = .ok (.v 4)) :=
  ⟨by simp [atomicForms, atom0], legal160 rfl (by decide +kernel), legal160 rfl (by decide +kernel), ⟨fun _ => rfl, fun h => absurd h (by decide +kernel)⟩,
    ⟨fun _ => rfl, fun h => absurd h (by decide +kernel)⟩, by decide, by decide, .inr (by decide +kernel),
    lanes2 (by decide +kernel) ⟨.inl ⟨4, rfl⟩, by decide +kernel, rfl⟩ ⟨.inl ⟨4, rfl⟩, by decide +kernel, rfl⟩⟩

/-- LDL into v and into s; BLD, BST, BSET and BGET of records 2 and 3; PREF. v8 of the first thread holds 5. -/
def ldl0 (d : BitVec 7) : IForm := { d := d, imm := 8 }
theorem witness_LiteralRecordAndWorkingSetWordsComplete_records :
    LegalI state2 issue0 0x3A (ldl0 4) { d := Opd.one, xoOk := false } ∧ LegalI state2 issue0 0x3A (ldl0 100) { d := Opd.one, xoOk := false } ∧
    (∀ t ∈ state2.active issue0 (fun _ => true), locate (state2.thread (issue0.tk t)) 4#7 Opd.one none = .ok (.v 4) ∧
      state2.destReady issue0 t (.v 4) 1 = true ∧ (state2.thread (issue0.tk t)).park = .none) ∧
    (∀ j < 1, state2.reach (state2.block issue0.b).ctx (some issue0.b) []
      (((pcAddr (issue0.hdr + BitVec.ofInt 64 (4 * (ldl0 4).imm.toInt))).toNat + 4 * j) % 2 ^ 57) 4 Need.exec = .ok .main 0x120 1) ∧
    LegalR state2 issue0 0x9B { a := 8, b := 1, ext := some { sub := 1 } } { a := Opd.one, b := Opd.recField } ∧
    (∀ t ∈ state2.active issue0 (extGuard (some { sub := 1 })), state2.readA issue0 t { a := 8, b := 1, ext := some { sub := 1 } } Opd.one =
      .val (if t = 0 then 5 else 99)) ∧ (state2.group issue0.gk).record 1 false = .val (recordNat 0x8000 2 16) ∧
    LegalR state2 issue0 0xA0 { d := 3, a := 8, b := 2 } { d := Opd.rawField, a := Opd.one, b := Opd.recField } ∧ Once state2 issue0 none ∧
    state2.recordReady issue0 (firstLane issue0.path) 3 = true ∧ state2.readA issue0 (firstLane issue0.path) { d := 3, a := 8, b := 2 } Opd.one = .val 5 ∧
    state2.viaRecord issue0 (recordMoveVia { d := 3, a := 8, b := 2 }) = .val (recordNat 0x8000 4 16) ∧
    state2.form issue0 (recordMoveVia { d := 3, a := 8, b := 2 }) 5 16 (BitVec.ofNat 128 (recordNat 0x8000 4 16)) = .addr 0x8050 ∧
    state2.target issue0 (recordMoveVia { d := 3, a := 8, b := 2 }) 0x8050 16 Need.read = .ok .main 0x8050 1 ∧
    (state2.thread (issue0.tk (firstLane issue0.path))).park = .none ∧
    LegalR state2 issue0 0xA1 { d := 1, a := 8, b := 2 } { d := Opd.rawField, a := Opd.one, b := Opd.recField } ∧
    state2.target issue0 (recordMoveVia { d := 1, a := 8, b := 2 }) 0x8050 16 Need.write = .ok .main 0x8050 1 ∧ state2.unlogged issue0 0x8050 .main ∧
    LegalR state2 issue0 0xA2 { d := 1, a := 8, ext := some { sub := 3 } } { d := Opd.rawField, a := Opd.one } ∧
    LegalR state2 issue0 0xA3 { d := 4, b := 1, ext := some { sub := 2 } } { d := Opd.one, b := Opd.recField } ∧
    Turns (Fields.ofR { d := 4, b := 1, ext := some { sub := 2 } }) { d := Opd.one, b := Opd.recField } state2 issue0 [0, 1] := by
  refine ⟨⟨by decide +kernel, by decide +kernel, by decide +kernel⟩, ⟨by decide +kernel, by decide +kernel, by decide +kernel⟩,
    lanes2 (by decide +kernel) ⟨rfl, by decide +kernel, rfl⟩ ⟨rfl, by decide +kernel, rfl⟩, ?_, legal160 rfl (by decide +kernel),
    lanes2 (by decide +kernel) (by decide +kernel) (by decide +kernel), ?_, legal160 rfl (by decide +kernel), once0 ⟨rfl, rfl, rfl⟩, ?_, ?_, ?_, ?_, ?_,
    rfl, legal160 rfl (by decide +kernel), ?_, .inr (by decide +kernel), legal160 rfl (by decide +kernel), legal160 rfl (by decide +kernel),
    ⟨fun _ => by decide +kernel, fun h => absurd h (by decide +kernel)⟩⟩ <;> decide +kernel

/-- WSET of v0 to v3, and the state in which its copy is under way and done. -/
def wset0 : RForm := { ext := some { sub := 4 } }
def copying (b : Bool) : State := withGroup { group2 with wsetCopying := b, holds := [{ mask := 3#32, why := .wset }] }
theorem witness_LiteralRecordAndWorkingSetWordsComplete_wset :
    LegalR state2 issue0 0xA4 wset0 { d := Opd.rawField, a := Opd.rawField, b := Opd.rawField, c := Opd.rawField, xoOk := false } ∧ Begins state2 issue0 ∧
    PixFree state2 issue0 ∧ state2.holdOf issue0 ≠ some .wset ∧ wsetRegs (wsetRanges wset0) ≠ [] ∧
    (∀ r ∈ wsetRegs (wsetRanges wset0), r < (state2.block issue0.b).nreg) ∧ ((copying true).group (gkey 0 0)).wsetCopying = true ∧
    Begins (copying false) issue0 ∧ (copying false).holdOf issue0 = some .wset ∧ ((copying false).group issue0.gk).wsetCopying = false :=
  ⟨legal160 rfl (by decide +kernel), begins2, ⟨rfl, rfl⟩, by decide +kernel, by decide +kernel, by decide +kernel, rfl, ⟨rfl, rfl⟩, by decide +kernel, rfl⟩

/-- Requests: answered, a load of a clean and of a poisoned sector, a load through the near cache, a store, atomics. -/
def req (kind : ReqKind) (ls : List LaneReq) : Req := { b := 0, g := 0, ctx := 0, core := 0, kind := kind, space := .main, lanes := ls, origin := 0x104#64 }
def requesting (r : Req) : State := { state2 with
  reqs := [(7, r)], poison := [(Space.sectorKey .main (sectorOf 0x8100), ())], mem := State.reset.mem.writeNat 0x8014 4 0x11223344
  cores := [(0, { near := [(sectorOf 0x8000, List.replicate 128 0x55#8)] })] }
def lane (t a : Nat) (into : Into) : LaneReq := { t := t, va := a, addr := a, w := 4, data := 0xAABB, into := into }
def loads : Req := req .load [lane 0 0x8014 (.v 4 1), lane 1 0x8104 (.v 4 1)]
def storing : Req := req .store [lane 0 0x8014 .nothing, lane 1 0x8016 .nothing]
def adding (ret : Bool) : Req := req (.atomic 2 2 ret) [lane 0 0x8014 .nothing]
theorem witness_MemoryRequestsArePerformed : (∃ r, Table.find (requesting (req .answered [lane 0 0x8014 (.v 4 1)])).reqs 7 = some r ∧ r.kind = .answered ∧
      (requesting r).foreign r.core r.ctx = false ∧ (requesting r).inert r.b = false) ∧
    (Table.find (requesting loads).reqs 7 = some loads ∧ (requesting loads).reqReady 7 loads = true) ∧
    (∃ r, r = { req .near [lane 0 0x8014 (.v 4 1)] with so := true } ∧ Table.find (requesting r).reqs 7 = some r ∧ (requesting r).reqReady 7 r = true) ∧
    (∃ r, r = req .near [lane 0 0x8014 (.v 4 1)] ∧ Table.find (requesting r).reqs 7 = some r ∧ (requesting r).reqReady 7 r = true ∧ r.so = false ∧ r.space = .main ∧
      ∀ l ∈ r.lanes, 0 < l.w ∧ (Table.find (Table.get ({} : Core) (requesting r).cores r.core).near (sectorOf l.addr)).isSome ∧
        Table.find (Table.get ({} : Core) (requesting r).cores r.core).nearPoison (sectorOf l.addr) = none) ∧
    (Table.find (requesting storing).reqs 7 = some storing ∧ (requesting storing).reqReady 7 storing = true ∧ (requesting storing).canonical = true ∧
      Table.wf [] (requesting storing).spaces = true ∧ Table.risingFrom 0 (requesting storing).reqs = true) ∧
    (Table.find (requesting (adding true)).reqs 7 = some (adding true) ∧ (requesting (adding true)).reqReady 7 (adding true) = true ∧
      (requesting (adding true)).canonical = true ∧ (requesting (adding true)).poisoned .main 0x8014 = false) :=
  ⟨⟨_, rfl, rfl, rfl, rfl⟩, ⟨rfl, by decide +kernel⟩, ⟨_, rfl, rfl, by decide +kernel⟩, ⟨_, rfl, rfl, by decide +kernel, rfl, rfl, by decide +kernel⟩,
    ⟨rfl, by decide +kernel, by decide +kernel, rfl, rfl⟩, ⟨rfl, by decide +kernel, by decide +kernel, by decide +kernel⟩⟩

theorem witness_MemoryWordsFrame : ∃ t, (∃ op via kind, (Instr.ld (ld 4), op, via, kind) ∈ loadForms (ld 4)) ∧ exec (.ld (ld 4)) state2 = .next t :=
  ⟨_, ⟨0x90, .record 1 false, .load, by simp [loadForms, ld]⟩, rfl⟩

/-- SPST.grow into a new slot, and SPLD.shrink of the only slot; a live thread and a helper. -/
def access3 (va : Nat) (t : Nat) : Access := if t = 0 then .at_ va va .main 1 else .dropped
def spill (rnd : Nat) : RForm := { d := 12, ext := some { rnd := BitVec.ofNat 4 rnd } }
theorem witness_SpillsComplete : LegalR helpers2 issue0 0x9A (spill 5) { d := Opd.one } ∧ LegalR helpers2 issue0 0x99 (spill 5) { d := Opd.one } ∧
    Begins helpers2 issue0 ∧ (∃ t ∈ lanesOf issue0.path, (helpers2.thread (issue0.tk t)).slot = none) ∧
    (∀ t ∈ lanesOf issue0.path, (helpers2.thread (issue0.tk t)).slot = none) ∧ extSub (spill 5).ext < 1 ∧
    (helpers2.group issue0.gk).ssp.toNat / 128 + 1 = 2 ∧ 2 ≤ (helpers2.group issue0.gk).spillCap ∧
    (∀ t ∈ helpers2.active issue0 (extGuard (spill 5).ext),
      helpers2.read issue0 t 12#7 false Opd.one (if extXo (spill 5).ext == 3 then some (extXs (spill 5).ext) else none) = .val (if t = 0 then 7 else 9) ∧
      (match access3 0x9080 t with
        | .dropped => (helpers2.thread (issue0.tk t)).role = .helper
        | .at_ va pa sp _ => (helpers2.thread (issue0.tk t)).role = .live ∧ va = (helpers2.group issue0.gk).slotAddr (2 - 1 - 0) t ∧
            helpers2.spillReach issue0 va 4 Need.write = .ok sp pa 1 ∧ helpers2.unlogged issue0 va sp)) ∧
    Turns (Fields.ofR (spill 5)) { d := Opd.one } helpers2 issue0 [0, 1] ∧
    (∀ t ∈ [0, 1], helpers2.destReady issue0 t (.v 12) 1 = true ∧
      locate (helpers2.thread (issue0.tk t)) 12#7 Opd.one (if extXo (spill 5).ext == 3 then some (extXs (spill 5).ext) else none) = .ok (.v 12) ∧
      (match access3 0x9000 t with
        | .dropped => (helpers2.thread (issue0.tk t)).role = .helper
        | .at_ va pa sp _ => (helpers2.thread (issue0.tk t)).role = .live ∧ va = (helpers2.group issue0.gk).slotAddr (1 - 1 - 0) t ∧
            helpers2.spillReach issue0 va 4 Need.read = .ok sp pa 1)) :=
  ⟨legal160 rfl (by decide +kernel), legal160 rfl (by decide +kernel), ⟨rfl, rfl⟩, ⟨0, by decide +kernel, rfl⟩, by decide +kernel, by decide, by decide, by decide,
    lanes2 (by decide +kernel) ⟨by decide +kernel, rfl, by decide +kernel, by decide +kernel, .inr (by decide +kernel)⟩ ⟨by decide +kernel, rfl⟩,
    ⟨fun _ => by decide +kernel, fun h => absurd h (by decide +kernel)⟩,
    lanes2 rfl ⟨by decide +kernel, rfl, rfl, by decide +kernel, by decide +kernel⟩ ⟨by decide +kernel, rfl, rfl⟩⟩

/-! Copies, tags and barrier objects. The first thread's quad at v8 asks for 32 bytes of shared memory to move from 0 to 64, counted into the object at
0x80; v12 and v13 hold a mask of tags; v14 names the object, v15 is a count. Tags 0 and 1 belong to the block, tag 1 is complete. -/

def thread3 : Thread := { tpc := mkPc 0x104#64 1, p := 1#8, v := [(9, value 64#32), (10, value 32#32), (11, value 0x40000080#32), (12, value 3#32),
  (14, value 0x40000080#32), (15, value 1#32)] }
def block3 : Block := { nreg := 160, shm := 1024, tgal := 3#64, tgm := 2#64 }
def boOf (phase apend bpend : Nat) : Nat := bpend + apend * 2 ^ 48 + phase * 2 ^ 64 + 2 * 2 ^ 96
def state3 : State := { withThreads thread3 thread3 with blocks := [(0, block3)], spaces := [(1, (State.reset.mem.writeNat 0 8 0x1122334455667788).writeNat 0x80 16 (boOf 0 2 0))] }
def state3' (x : Nat) : State := { state3 with spaces := [(1, State.reset.mem.writeNat 0x80 16 x)] }
def group3 (holds : List Hold) : List (Nat × Group) := [(0, { live := 3#32, track := some 0, holds := holds })]

theorem once3 {s : State} {x : Option Ext} (h : s.cur = .group issue0 ∧ (s.group issue0.gk).pass = none ∧ (s.thread (issue0.tk (firstLane issue0.path))).role = .live ∧
    extGuard x (s.thread (issue0.tk (firstLane issue0.path))) = true) : Once s issue0 x := ⟨⟨h.1, h.2.1⟩, h.2.2.2, h.2.2.1⟩

def copy0 : RForm := { d := 16, a := 8, b := 16, ext := some { sub := 193 } }
def copyShape : Shape := { d := Opd.rawField, a := { n := 4, align := 4 }, b := Opd.recField }
def copyQuad : Nat := 64 * 2 ^ 32 + 32 * 2 ^ 64 + 0x40000080 * 2 ^ 96
/-- COPY with room; with a full tag; with a full engine. -/
theorem witness_CopiesAndKicksAreAccepted_copy : LegalR state3 issue0 0xB0 copy0 copyShape ∧ Once state3 issue0 copy0.ext ∧
    some 1 = (if extSub copy0.ext / 64 % 2 = 1 then some (extSub copy0.ext % 64) else none) ∧ (∀ n, some 1 = some n → (state3.block issue0.b).tgal.getLsbD n = true) ∧
    state3.readA issue0 (firstLane issue0.path) copy0 copyShape.a = .val copyQuad ∧ (state3.group issue0.gk).sideRecord 16 false = .val 0 ∧
    state3.copySide issue0 16 (copyQuad % 2 ^ 32) (copyQuad / 2 ^ 64 % 2 ^ 32) (extTy 0 copy0.ext) (redCode (extRnd copy0.ext) != 0) (BitVec.ofNat 128 0) =
      .ok (.other (.shared 0) 0) ∧
    state3.copySide issue0 16 (copyQuad / 2 ^ 32 % 2 ^ 32) (copyQuad / 2 ^ 64 % 2 ^ 32) (extTy 0 copy0.ext) (redCode (extRnd copy0.ext) != 0) (BitVec.ofNat 128 0) =
      .ok (.other (.shared 0) 64) ∧
    copyQuad / 2 ^ 64 % 2 ^ 32 % 16 = 0 ∧ copyQuad / 2 ^ 64 % 2 ^ 32 ≠ 0 ∧ state3.boTarget issue0.b (copyQuad / 2 ^ 96) = .ok (.shared 0, 0x80) ∧
    state3.tagFull issue0.b (some 1) = false ∧ state3.slotFree issue0 = true ∧
    { state3 with blocks := [(0, { block3 with tcount := [(1, 4095)] })] }.tagFull issue0.b (some 1) = true ∧
    { state3 with groups := group3 [{ mask := 3#32, why := .ceSlot false }] }.slotFree issue0 = false :=
  ⟨legal160 rfl (by decide +kernel), once3 ⟨rfl, rfl, rfl, rfl⟩, by decide, by intro n h; cases h; decide, by decide +kernel, by decide +kernel,
    ok_of (by decide +kernel), ok_of (by decide +kernel), by decide, by decide, ok_of (by decide +kernel), by decide +kernel, by decide +kernel, by decide +kernel,
    by decide +kernel⟩

/-- KICK of one request block at 0x100 of shared memory: an element of 16 bytes from 0 to 64 of shared memory. -/
def requestBlock : Nat := 4 * 2 ^ 8 + 1 * 2 ^ 28 + 1 * 2 ^ 30 + 64 * 2 ^ 128 + 1 * 2 ^ 192
def kicking : State := { withThreads { v := [(8, value 0x100#32), (12, value 1#32)] } {} with
  blocks := [(0, block3)], spaces := [(1, State.reset.mem.writeNat 0x100 128 requestBlock)] }
theorem witness_CopiesAndKicksAreAccepted_kick : LegalR kicking issue0 0xB1 { a := 8, b := 12 } { a := Opd.one, b := Opd.one, xoOk := false } ∧
    Once kicking issue0 none ∧ PixFree kicking issue0 ∧
    kicking.readUniform issue0 (firstLane issue0.path) (boSources { a := 8, b := 12 } { a := Opd.one, b := Opd.one, xoOk := false }) = .vals [0x100, 1] ∧
    kicking.sharedTarget issue0.b (0x100 + 128 * 0) 128 = some (.shared 0, 0x100) ∧ kicking.writesPending issue0 (.shared 0) 0x100 128 = false ∧
    kicking.refuseBlock issue0.b (kicking.load (.shared 0) 0x100 128) = none ∧
    kicking.tagFull issue0.b (kicking.blockCopy issue0 (kicking.load (.shared 0) 0x100 128)).tag = false ∧ kicking.slotFree issue0 = true :=
  ⟨legal160 rfl (by decide +kernel), once0 ⟨rfl, rfl, rfl⟩, ⟨rfl, rfl⟩, by decide +kernel⟩

/-- Copies under way: not begun, of which 16 of 32 bytes remain; all moved, with neither object nor tag, with an object, with a tag. -/
def copyA (started : Bool) (done : Nat) (bo : Option (Space × Nat)) (tag : Option Nat) : Copy :=
  { b := 0, g := 0, ctx := 0, core := 0, src := .other (.shared 0) 0, dst := .other (.shared 0) 64, len := 32, bo := bo, tag := tag, started := started, done := done }
def copies3 : State := { state3 with copies := [(5, copyA false 1 none none), (6, copyA true 2 none none), (7, copyA true 2 (some (.shared 0, 0x80)) none),
  (8, copyA true 2 none (some 1))] }
def waiting3 : State := { state3 with groups := group3 [{ mask := 3#32, why := .ceSlot false }] }
theorem witness_CopiesMoveBytes : waiting3.engineLoad (waiting3.block 0).core < 64 ∧
    (waiting3.group (gkey 0 0)).holds.find? (fun h => h.why == .ceSlot false) = some { mask := 3#32, why := .ceSlot false } ∧
    (∃ c, Table.find copies3.copies 5 = some c ∧ c.block = none ∧ c.red = 0 ∧ c.stuck = none ∧ c.saved = false ∧
      copies3.coreFrozen c.core = false ∧ copies3.foreign c.core c.ctx = false ∧ copies3.copyHeld c = false ∧
      { copies3 with copies := Table.put copies3.copies 5 { c with started := true } }.ceTurn c.core = some c.b ∧
      copies3.sourceReady 5 c = true ∧ c.src = .other (.shared 0) 0 ∧
      c.dst = .other (.shared 0) 64 ∧ 16 * c.done + 16 ≤ c.len ∧ copies3.poisoned (.shared 0) (0 + 16 * c.done) = false ∧ copies3.canonical = true ∧
      Table.wf [] copies3.spaces = true) ∧
    (∃ c, Table.find copies3.copies 6 = some c ∧ c.started = true ∧ c.stuck = none ∧ c.chunks ≤ c.done ∧ c.tag = none ∧ c.bo = none) ∧
    (∃ c, Table.find copies3.copies 7 = some c ∧ c.started = true ∧ c.stuck = none ∧ c.chunks ≤ c.done ∧ c.tag = none ∧ c.bo = some (.shared 0, 0x80)) ∧
    (∃ c, Table.find copies3.copies 8 = some c ∧ c.started = true ∧ c.stuck = none ∧ c.chunks ≤ c.done ∧ c.tag = some 1 ∧ c.bo = none) :=
  ⟨by decide +kernel, by decide +kernel,
    ⟨_, rfl, rfl, rfl, rfl, rfl, rfl, rfl, rfl, by decide +kernel, by decide +kernel, rfl, rfl, by decide +kernel⟩, ⟨_, rfl, rfl, rfl, by decide, rfl, rfl⟩,
    ⟨_, rfl, rfl, rfl, by decide, rfl, rfl⟩, ⟨_, rfl, rfl, rfl, by decide, rfl, rfl⟩⟩

def mask0 : RForm := { a := 12 }
def tagShape : Shape := { a := Opd.pair, xoOk := false }
def first0 (sub : Nat) : RForm := { d := 4, a := 12, ext := some { sub := BitVec.ofNat 8 sub } }
def firstShape : Shape := { d := Opd.one, a := Opd.pair, xoOk := false }
theorem witness_TagAndBarrierObjectWordsComplete_tags : LegalR state3 issue0 0xB2 mask0 tagShape ∧ LegalR state3 issue0 0xB3 mask0 tagShape ∧
    LegalR state3 issue0 0xB5 mask0 tagShape ∧ LegalR state3 issue0 0xB4 (first0 0) firstShape ∧ LegalR state3 issue0 0xB4 (first0 1) firstShape ∧ Begins state3 issue0 ∧
    extGuard none (state3.thread (issue0.tk (firstLane issue0.path))) = true ∧ state3.readA issue0 (firstLane issue0.path) mask0 Opd.pair = .val (3#64 : W64).toNat ∧
    3#64 &&& ~~~(state3.block issue0.b).tgal = 0#64 ∧ LegalR state3 issue0 0xB2 { a := 6 } tagShape ∧
    state3.readA issue0 (firstLane issue0.path) { a := 6 } Opd.pair = .val (0#64 : W64).toNat ∧
    state3.eachReady issue0 (Fields.ofR (first0 0)) firstShape = true ∧ (3#64 &&& (state3.block issue0.b).tgm).getLsbD 1 = true ∧
    (∀ k < 1, (3#64 &&& (state3.block issue0.b).tgm).getLsbD k = false) ∧
    1#64 &&& (state3.block issue0.b).tgm = 0#64 :=
  ⟨legal160 rfl (by decide +kernel), legal160 rfl (by decide +kernel), legal160 rfl (by decide +kernel), legal160 rfl (by decide +kernel),
    legal160 rfl (by decide +kernel), ⟨rfl, rfl⟩, rfl, by decide +kernel, by decide, legal160 rfl (by decide +kernel), by decide +kernel, by decide +kernel,
    by decide, by decide, by decide⟩

def bo0 (d : BitVec 7) (rnd sub : Nat) : RForm := { d := d, a := 14, b := 15, ext := some { rnd := BitVec.ofNat 4 rnd, sub := BitVec.ofNat 8 sub } }
def boShape (d : Nat) : Shape := { d := { n := d }, a := Opd.one, b := Opd.one }
theorem witness_TagAndBarrierObjectWordsComplete_objects :
    LegalR state3 issue0 0xB6 (bo0 0 0 0) (boShape 0) ∧ LegalR state3 issue0 0xB7 (bo0 4 6 3) (boShape 1) ∧ LegalR state3 issue0 0xB8 (bo0 0 0 0) (boShape 0) ∧
    LegalR state3 issue0 0xB9 (bo0 0 5 0) (boShape 0) ∧ LegalR state3 issue0 0xBA (bo0 4 0 0) (boShape 1) ∧
    LegalR state3 issue0 0xBA { d := 4, a := 14, ext := some { sub := 128 } } { d := Opd.one, a := Opd.one } ∧ Once state3 issue0 (bo0 0 0 0).ext ∧
    (∀ t ∈ lanesOf issue0.path, (state3.thread (issue0.tk t)).pending = none) ∧ issue0.path ≠ 0#32 ∧
    state3.readUniform issue0 (firstLane issue0.path) (boSources (bo0 4 6 3) (boShape 1)) = .vals [0x40000080, 1] ∧
    state3.boTarget issue0.b 0x40000080 = .ok (.shared 0, 0x80) ∧ state3.mayAccess issue0 (.shared 0) 0x80 0x80 16 false false = true ∧
    state3.eachReady issue0 (Fields.ofR (bo0 4 6 3)) (boShape 1) = true ∧ state3.performed issue0 (state3.liveOf issue0) = true ∧
    boPhase (state3.load (.shared 0) 0x80 16) ≠ 1 % 2 ∧ boFc (state3.load (.shared 0) 0x80 16) = 0 ∧
    boPhase ((state3' (boOf 1 2 0)).load (.shared 0) 0x80 16) = 1 % 2 :=
  ⟨legal160 rfl (by decide +kernel), legal160 rfl (by decide +kernel), legal160 rfl (by decide +kernel), legal160 rfl (by decide +kernel),
    legal160 rfl (by decide +kernel), legal160 rfl (by decide +kernel), once3 ⟨rfl, rfl, rfl, rfl⟩, by decide +kernel, by decide, by decide +kernel,
    ok_of (by decide +kernel), by decide +kernel⟩

/-- Counts on their way: to a memory that stays; to a block of context 0, virtual core 0, resident, moving and gone. -/
def counting (bs : List (Nat × Block)) : State := { state3 with
  blocks := bs, counts := [(4, { space := .scratch 0 0, addr := 0x80, n := 3 }), (5, { space := .shared 0, dest := some (0, 0), addr := 0x80, n := 3 })] }
theorem witness_TagAndBarrierObjectWordsComplete_counts : ∃ c d, (∀ bs, Table.find (counting bs).counts 4 = some c ∧ Table.find (counting bs).counts 5 = some d) ∧
    c.dest = none ∧ d.dest = some (0, 0) ∧ (counting [(0, block3)]).blockAt (0, 0) = some 0 ∧ (counting [(0, block3)]).inert 0 = false ∧
    ((counting [(0, block3)]).block 0).place ≠ .moving ∧ (counting [(0, { block3 with place := .moving })]).blockAt (0, 0) = some 0 ∧
    (counting []).blockAt (0, 0) = none :=
  ⟨_, _, fun _ => ⟨rfl, rfl⟩, rfl, rfl, by decide +kernel⟩

/-- Updates: refused for an arrival with none pending; counted; flipped. -/
theorem witness_BarrierObjectUpdates : boOf 0 0 5 < 2 ^ 128 ∧ 0x3D &&& 0x3D = 0x3D ∧ boApend (boOf 0 0 5) = 0 ∧ boBpend (boOf 0 1 5) + -5 = 0 ∧
    boApend (boOf 0 1 5) - true.toNat = 0 ∧ boBpend (boOf 0 2 5) + -5 = 0 ∧ boApend (boOf 0 2 5) - true.toNat ≠ 0 ∧ 2 ^ 47 ≤ boBpend (boOf 0 0 (2 ^ 47 - 1)) + 1 :=
  ⟨by decide, by decide, by decide +kernel⟩

/-! Order, barriers, headers and system words. -/

def fenceShape : Shape := { xoOk := false }
def fence0 (ord : Nat) : RForm := { ext := some { rnd := BitVec.ofNat 4 ord } }
/-- A load of thread 0 is under way. -/
def loading : State := { state0 with reqs := [(7, req .load [lane 0 0x8014 (.v 4 1)])] }
def bar0 (sub : Nat) : RForm := { d := 2, ext := some { sub := BitVec.ofNat 8 sub } }
def barShape : Shape := { d := Opd.rawField, xoOk := false }
/-- A third thread of the block has yet to arrive at barrier 2, whose phase is 4. -/
def three : State := { state0 with threads := [(0, {}), (1, {}), (2, {})], blocks := [(0, { nreg := 160, nb := [(2, { phase := 4 })] })] }
/-- The threads have arrived in phase 3 of barrier 2, which is complete. -/
def waited : State := { withThreads { arrivals := [(2, 3)] } { arrivals := [(2, 3)] } with blocks := [(0, { nreg := 160, nb := [(2, { phase := 4 })] })] }

/-- Fences with nothing to wait for, and with a load to wait for; arrivals that complete a phase and that do not; a wait that is over. -/
theorem witness_FencesAndBarriersComplete : LegalR state0 issue0 0xC0 (fence0 6) fenceShape ∧ Begins state0 issue0 ∧
    extGuard none (state0.thread (issue0.tk (firstLane issue0.path))) = true ∧ state0.liveOf issue0 = [0, 1] ∧
    (releases (extRnd (fence0 6).ext) = true → state0.performed issue0 (state0.liveOf issue0) = true) ∧
    (acquires (extRnd (fence0 6).ext) = true → state0.loadsBound issue0 (state0.liveOf issue0) = true) ∧
    (withThreads { role := .helper } { role := .helper }).liveOf issue0 = [] ∧
    releases (extRnd (fence0 6).ext) = true ∧ loading.performed issue0 (loading.liveOf issue0) = false ∧
    LegalR state0 issue0 0xC1 (bar0 0) barShape ∧ LegalR three issue0 0xC2 (bar0 0) barShape ∧ LegalR waited issue0 0xC1 (bar0 1) barShape ∧
    state0.holdOf issue0 = none ∧ (state0.block issue0.b).broken 2 = false ∧ three.liveOf issue0 ≠ [] ∧ three.performed issue0 (three.liveOf issue0) = true ∧
    (∀ t ∈ three.liveOf issue0, 32 * issue0.g + t ∉ (Table.get {} (three.block issue0.b).nb 2).arrived) ∧
    (∀ t ∈ lanesOf issue0.path, ∀ p, Table.find (waited.thread (issue0.tk t)).arrivals 2 = some p → p < (Table.get {} (waited.block issue0.b).nb 2).phase) :=
  ⟨legal160 rfl (by decide +kernel), begins0, rfl, by decide +kernel, fun _ => by decide +kernel, fun _ => by decide +kernel, by decide +kernel, by decide,
    by decide +kernel, legal160 rfl (by decide +kernel), legal160 rfl (by decide +kernel), legal160 rfl (by decide +kernel), by decide +kernel, rfl,
    by decide +kernel, by decide +kernel, by decide +kernel,
    lanes2 (by decide +kernel) (fun p h => by cases (show some 3 = some p from h); decide) (fun p h => by cases (show some 3 = some p from h); decide)⟩

theorem witness_BarrierPhases : (Table.find three.blocks 0).isSome ∧ Table.wf {} (three.block 0).nb = true := ⟨rfl, rfl⟩

/-- WAITW on the second of the words of 8 bytes of record 1, at 0x8008 on a page enabled for wake-ups; the word is 0, v8 of the first thread 1. -/
def wait0 (sub : Nat) : RForm := { d := 4, a := 8, b := 1, ext := some { c := 12, sub := BitVec.ofNat 8 sub } }
def waitShape : Shape := { d := Opd.pair, a := Opd.one, b := Opd.recField, c := Opd.pair }
def inbound0 : BitVec 128 := BitVec.ofNat 128 (2 ^ 127 + 2 ^ 123 + 16 * 2 ^ 82)
def waiting (holds : List Hold) : State := { withThreads { v := [(8, value 1#32)], p := 1#8 } {} with
  inbound := [(0, inbound0)], groups := [(0, { live := 3#32, track := some 0, b := [(1, recordOf 0x8000 3 16)], holds := holds })] }
theorem witness_WakeWordsComplete : LegalR (waiting []) issue0 0xC3 (wait0 48) waitShape ∧ Once (waiting []) issue0 (wait0 48).ext ∧ issue0.path ≠ 0#32 ∧
    (∀ t ∈ lanesOf issue0.path, ((waiting []).thread (issue0.tk t)).pending = none) ∧
    (waiting []).readUniform issue0 (firstLane issue0.path) [((wait0 48).a, (wait0 48).ea, waitShape.a, if extXo (wait0 48).ext == 1 then some (extXs (wait0 48).ext) else none),
      (extC (wait0 48).ext, extEc (wait0 48).ext, waitShape.c, none)] = .vals [1, 0] ∧
    ((waiting []).group issue0.gk).record 1 false = .val (recordNat 0x8000 3 16) ∧ waitAddress 1 (BitVec.ofNat 128 (recordNat 0x8000 3 16)) 1 = .addr 0x8008 ∧
    (waiting []).reachNow ((waiting []).block issue0.b).ctx (some issue0.b) 0x8008 8 Need.read = .ok .main 0x8008 1 ∧
    (waiting []).wakeEnabled ((waiting []).block issue0.b).ctx 0x8008 = true ∧ (waiting []).mayAccess issue0 .main 0x8008 0x8008 8 (releases (extRnd (wait0 48).ext)) (1 == 0) = true ∧
    (waiting []).eachReady issue0 (Fields.ofR (wait0 48)) waitShape = true ∧ (waiting []).poisoned .main 0x8008 = false ∧
    (waiting []).load .main 0x8008 8 = 0 ∧ extSub (wait0 48).ext / 8 = 6 ∧ (waiting []).holdOf issue0 = none ∧
    ((waiting []).thread (issue0.tk (firstLane issue0.path))).waitFrom = none ∧ (waiting []).time < (waiting []).time + 2 ^ (extSub (wait0 48).ext / 8) ∧
    (waiting [{ mask := 3#32, why := .waitwOver }]).holdOf issue0 = some .waitwOver ∧
    LegalR (waiting []) issue0 0xC3 (wait0 248) waitShape ∧ extSub (wait0 248).ext / 8 = 31 := by
  refine ⟨legal160 rfl (by decide +kernel), once3 ⟨rfl, rfl, rfl, rfl⟩, by decide, ?_, ?_, ?_, ?_, ?_, ?_, ?_, ?_, ?_, ?_, by decide, ?_, rfl, ?_, ?_,
    legal160 rfl (by decide +kernel), by decide⟩ <;> decide +kernel

/-- Headers that wait for nothing, for stores, for a tag and at a barrier. -/
def header0 (ws wl tv bv : Bool) : Header :=
  { count := 2#4, cls := 0#4, ws := ws, wl := wl, tag := if tv then 1#6 else 0#6, tv := tv, nb := if bv then 2#4 else 0#4, bv := bv, yield := 0#2 }
theorem witness_HeadersComplete : (∀ ws wl tv bv : Bool, (header0 ws wl tv bv).legal = true) ∧ state3.cur = .group issue0 ∧
    state3.holdOf issue0 = none ∧ (∀ t ∈ lanesOf issue0.path, (state3.thread (issue0.tk t)).pending = none) ∧ state3.loadsFilled issue0 state3.nextId = true ∧
    (∀ t ∈ state3.liveOf issue0, state3.markTrap issue0 t = none) ∧ state3.storesDone issue0 state3.nextId = true ∧
    { state3 with nextId := 9, reqs := [(7, storing)] }.storesDone issue0 9 = false ∧
    (state3.block issue0.b).tgal.getLsbD (header0 false true true false).tag.toNat = true ∧ three.holdOf issue0 = none ∧
    (three.block issue0.b).broken (header0 false false false true).nb.toNat = false ∧
    ∃ u p, three.arriveAt issue0 (header0 false false false true).nb.toNat = some (u, p) := by
  refine ⟨?_, rfl, ?_, ?_, ?_, ?_, ?_, ?_, ?_, ?_, rfl, _, _, rfl⟩ <;> decide +kernel

def macros0 : State := { state0 with blocks := [(0, { nreg := 160, macros := [[0x07000000#32]] })] }
def plainShape : Shape := { xoOk := false }
def ext7 (sub : Nat) : RForm := { ext := some { sub := BitVec.ofNat 8 sub } }
/-- NOP, TRAP, BKPT, MCALL of macro 0, SLEEP by v8 of the first thread, before and after its deadline, and YIELD. -/
theorem witness_SystemWordsComplete : Begins state0 issue0 ∧ LegalR state0 issue0 0xF0 (ext7 9) plainShape ∧ LegalR state0 issue0 0xF4 (ext7 9) plainShape ∧
    LegalR macros0 issue0 0xE0 (ext7 0) { d := Opd.rawField, a := Opd.rawField, b := Opd.rawField, c := Opd.rawField, xoOk := false } ∧ issue0.body = none ∧ extSub (ext7 0).ext < (macros0.block issue0.b).macros.length ∧
    macros0.active issue0 (fun _ => true) ≠ [] ∧ LegalR state1 issue0 0xF5 { a := 8 } { plainShape with a := Opd.one } ∧ state1.holdOf issue0 = none ∧ issue0.path ≠ 0#32 ∧
    (state1.thread (issue0.tk (firstLane issue0.path))).waitFrom = none ∧ extGuard none (state1.thread (issue0.tk (firstLane issue0.path))) = true ∧ state1.readA issue0 (firstLane issue0.path) { a := 8 } Opd.one = .val 5 ∧
    (withGroup { holds := [{ mask := 3#32, why := .sleepDone }] }).holdOf issue0 = some .sleepDone ∧ LegalR state0 issue0 0xF6 (ext7 1) plainShape :=
  ⟨begins0, legal160 rfl (by decide +kernel), legal160 rfl (by decide +kernel), legal160 rfl (by decide +kernel), rfl, by decide, by decide +kernel,
    legal160 rfl (by decide +kernel), by decide +kernel, by decide, rfl, rfl, by decide +kernel, by decide +kernel, legal160 rfl (by decide +kernel)⟩

def csrr0 (d : BitVec 7) : RForm := { d := d, a := 0, b := 17 }
def csrrShape (n : Nat) : Shape := { d := { n := n }, a := Opd.rawField, b := Opd.rawField, xoOk := false }
def csrw0 (n : Nat) : RForm := { d := BitVec.ofNat 7 (n / 32), a := 8, b := BitVec.ofNat 7 (n % 32) }
def csrwShape (o : Opd) : Shape := { d := Opd.rawField, a := o, b := Opd.rawField, xoOk := false }
/-- CSRR of pix into v and into s; CSRW of tepc, tnpc, fst, pix, outside a handler and in one, and thv. -/
theorem witness_ControlRegisterWordsComplete : Begins state1 issue0 ∧ LegalR state1 issue0 0xF2 (csrr0 4) (csrrShape 1) ∧
    LegalR state1 issue0 0xF2 (csrr0 100) (csrrShape 1) ∧ (Fields.ofR (csrr0 4)).uniform (csrrShape 1) = false ∧
    (Fields.ofR (csrr0 100)).uniform (csrrShape 1) = true ∧ extGuard none (state1.thread (issue0.tk (firstLane issue0.path))) = true ∧
    (∀ t ∈ state1.active issue0 (extGuard none), locate (state1.thread (issue0.tk t)) 4#7 Opd.one none = .ok (.v 4) ∧ state1.destReady issue0 t (.v 4) 1 = true) ∧
    locate (state1.thread (issue0.tk 0)) 100#7 Opd.one none = .ok (.s 4) ∧ state1.destReady issue0 0 (.s 4) 1 = true ∧
    (∀ n ∈ [0x101, 0x102, 0x108], LegalR state1 issue0 0xF3 (csrw0 n) (csrwShape Opd.pair) ∧ n = 32 * (csrw0 n).d.toNat + (csrw0 n).b.toNat) ∧
    (∀ n ∈ [0x010, 0x011], LegalR state1 issue0 0xF3 (csrw0 n) (csrwShape Opd.one) ∧ n = 32 * (csrw0 n).d.toNat + (csrw0 n).b.toNat) ∧
    (∀ t ∈ state1.active issue0 (extGuard none), state1.readA issue0 t (csrw0 0x101) Opd.pair = .val (if t = 0 then 5 else 7)) ∧
    state1.readA issue0 (firstLane issue0.path) (csrw0 0x10) Opd.one = .val (5#32 : W32).toNat ∧
    state1.readA issue0 (firstLane issue0.path) (csrw0 0x108) Opd.pair = .val (5#64 : W64).toNat ∧
    (state1.thread (issue0.tk (firstLane issue0.path))).th = false ∧
    ((withThreads { th := true } {}).thread (issue0.tk (firstLane issue0.path))).th = true := by
  refine ⟨begins1, legal160 rfl (by decide +kernel), legal160 rfl (by decide +kernel), by decide +kernel, by decide +kernel, rfl,
    lanes2 (by decide +kernel) ⟨rfl, by decide +kernel⟩ ⟨rfl, by decide +kernel⟩, rfl, by decide +kernel, ?_, ?_, lanes2 (by decide +kernel) (by decide +kernel) (by decide +kernel),
    by decide +kernel, by decide +kernel, rfl, rfl⟩
  · simp only [List.mem_cons, List.not_mem_nil, or_false, forall_eq_or_imp, forall_eq]
    exact ⟨⟨legal160 rfl (by decide +kernel), rfl⟩, ⟨legal160 rfl (by decide +kernel), rfl⟩, legal160 rfl (by decide +kernel), rfl⟩
  · simp only [List.mem_cons, List.not_mem_nil, or_false, forall_eq_or_imp, forall_eq]
    exact ⟨⟨legal160 rfl (by decide +kernel), rfl⟩, legal160 rfl (by decide +kernel), rfl⟩

/-! The fabric. Peer 1 is package 3; its window 0 is inbound window 5 there, of 1 MiB by path 0. v8 and v9 name byte 0x100 (and 0x104) of it. -/

def tables7 : Memory := (State.reset.mem.writeNat 0x8008 8 (2 ^ 63 + 2 ^ 58 + 3 * 2 ^ 48 + 0x12)).writeNat 0x9000 8 (2 ^ 63 + 5 * 2 ^ 48 + 20 * 2 ^ 42)
def regs7 (a : W32) : Table Cell := [(8, value a), (9, value 0x400000#32), (12, value 3#32), (16, value 1#32), (18, value 9#32)]
def state7 (remote : Table RemoteOp) : State := { withThreads { p := 2#8, v := regs7 0x100#32 } { v := regs7 0x108#32 } with
  mem := tables7, contexts := [(0, { peers := 0x8000 })], remote := remote }
def route7 : Route := { peer := 1, pkg := 3, iw := 5, paths := [0], so := false }
def addr7 (t : Nat) : Nat := 2 ^ 54 + (if t = 0 then 0x100 else 0x108)
def remote0 (guard : BitVec 3) (sub : Nat) : RForm := { d := 12, a := 8, ext := some { guard := guard, sub := BitVec.ofNat 8 sub } }
def remoteShape0 : Shape := { d := Opd.one, a := Opd.pair }
def ratom0 : RForm := { d := 4, a := 8, ext := some { c := 12, ty := 2, guard := 1, sub := 2 } }
def ratomShape : Shape := { d := Opd.one, a := Opd.pair, c := Opd.one }
def rfadd0 : RForm := { d := 4, a := 8, ext := some { c := 16, guard := 1 } }
def rfaddShape : Shape := { d := Opd.pair, a := Opd.pair, c := { n := 4, align := 4 } }
def op7 (kind : RemoteKind) (into : Into) : RemoteOp :=
  { b := 0, g := 0, ctx := 0, core := 0, kind := kind, peer := 1, pkg := 3, iw := 5, span := 1, path := 0, epoch := false, seq := 0
    lanes := [{ t := 0, va := addr7 0, addr := 0x100, w := 4, into := into, ext := 2 }], origin := 0x104#64, since := 0 }

/-- RST of two threads; RST.fl of one. -/
theorem witness_RemoteWordsComplete_stores : LegalR (state7 []) issue0 0xD0 (remote0 0 0) remoteShape0 ∧ Begins (state7 []) issue0 ∧
    Turns (Fields.ofR (remote0 0 0)) remoteShape0 (state7 []) issue0 [0, 1] ∧ (Fields.ofR (remote0 0 0)).uniform remoteShape0 = false ∧
    (∀ t ∈ (state7 []).active issue0 (extGuard (remote0 0 0).ext), ((state7 []).thread (issue0.tk t)).pending = none ∧
      (state7 []).readA issue0 t (remote0 0 0) Opd.pair = .val (addr7 t) ∧ (state7 []).look ((state7 []).block issue0.b).ctx (addr7 t) 4 = .ok route7 ∧
      (state7 []).read issue0 t 12#7 false Opd.one none = .val 3 ∧
      (((state7 []).thread (issue0.tk t)).role = .live → ∀ n < 32, (state7 []).remoteRoom issue0.b route7 (addr7 t % 2 ^ 46 / 256) n = true)) ∧
    (state7 []).tagsTaken + 32 ≤ 131072 ∧
    LegalR (state7 []) issue0 0xD0 (remote0 1 8) remoteShape0 ∧ Turns (Fields.ofR (remote0 1 8)) remoteShape0 (state7 []) issue0 [0] ∧
    (state7 []).active issue0 (extGuard (remote0 1 8).ext) = [0] ∧ (state7 []).writesTo issue0.b 1 = false :=
  ⟨legal160 rfl (by decide +kernel), ⟨rfl, rfl⟩, ⟨fun _ => by decide +kernel, fun h => absurd h (by decide +kernel)⟩, by decide +kernel,
    lanes2 (by decide +kernel) ⟨rfl, by decide +kernel, by decide +kernel, by decide +kernel, fun _ => by decide +kernel⟩
      ⟨rfl, by decide +kernel, by decide +kernel, by decide +kernel, fun _ => by decide +kernel⟩, by decide +kernel,
    legal160 rfl (by decide +kernel), ⟨fun _ => by decide +kernel, fun h => absurd h (by decide +kernel)⟩, by decide +kernel⟩

theorem goes_one {ready : State → Nat → Prop} {go : State → Nat → State} {s : State} {t : Nat} (h : ready s t) : Goes ready go [t] s := by
  intro pre u post e
  cases pre with
  | nil => cases e; exact h
  | cons _ pre => cases pre <;> cases e

/-- RLD, RATOM and RFADD of the first thread. -/
theorem witness_RemoteWordsComplete_requests : LegalR (state7 []) issue0 0xD1 (remote0 1 0) remoteShape0 ∧
    Turns (Fields.ofR (remote0 1 0)) remoteShape0 (state7 []) issue0 [0] ∧
    (∀ go, Goes (fun u t => RemoteReady (remote0 1 0) remoteShape0 4 true issue0 (addr7 t) 0 route7 (.v 12) u t) go [0] (state7 [])) ∧
    LegalR (state7 []) issue0 0xD2 ratom0 ratomShape ∧ Turns (Fields.ofR ratom0) ratomShape (state7 []) issue0 [0] ∧
    (∀ go, Goes (fun u t => RemoteReady ratom0 ratomShape 4 true issue0 (addr7 t) 3 route7 (.v 4) u t) go [0] (state7 [])) ∧
    LegalR (state7 []) issue0 0xD3 rfadd0 rfaddShape ∧ Turns (Fields.ofR rfadd0) rfaddShape (state7 []) issue0 [0] ∧
    (∀ go, Goes (fun u t => RemoteReady rfadd0 rfaddShape 8 true issue0 (addr7 t) (1 + 9 * 2 ^ 64) route7 (.v 4) u t) go [0] (state7 [])) :=
  ⟨legal160 rfl (by decide +kernel), ⟨fun _ => by decide +kernel, fun h => absurd h (by decide +kernel)⟩,
    fun _ => goes_one ⟨rfl, fun _ => ⟨rfl, by decide +kernel⟩, by decide +kernel, by decide +kernel, by decide +kernel, fun _ => ⟨by decide +kernel, fun _ => by decide +kernel⟩⟩,
    legal160 rfl (by decide +kernel), ⟨fun _ => by decide +kernel, fun h => absurd h (by decide +kernel)⟩,
    fun _ => goes_one ⟨rfl, fun _ => ⟨rfl, by decide +kernel⟩, by decide +kernel, by decide +kernel, by decide +kernel, fun _ => ⟨by decide +kernel, fun _ => by decide +kernel⟩⟩,
    legal160 rfl (by decide +kernel), ⟨fun _ => by decide +kernel, fun h => absurd h (by decide +kernel)⟩,
    fun _ => goes_one ⟨rfl, fun _ => ⟨rfl, by decide +kernel⟩, by decide +kernel, by decide +kernel, by decide +kernel, fun _ => ⟨by decide +kernel, fun _ => by decide +kernel⟩⟩⟩

/-- A request for tag 2, where 0 and 1 are taken; RFENCE with nothing to wait for, and with a store outstanding. -/
def outstanding : Table RemoteOp := [(0, op7 .store .nothing), (1, op7 .load (.v 4 1))]
theorem witness_RemoteWordsComplete_order : (state7 outstanding).freeTag = some 2 ∧
    LegalR (state7 []) issue0 0xD4 {} { xoOk := false } ∧ Clear (state7 []) issue0 ∧
    extGuard none ((state7 []).thread (issue0.tk (firstLane issue0.path))) = true ∧ (state7 []).holdOf issue0 = none ∧
    (∃ k op, (k, op) ∈ ({ state7 outstanding with nextId := 1 } : State).remote ∧ op.b = issue0.b ∧ op.seq < 1 ∧ op.kind ≠ .relay ∧ ∀ id, op.kind ≠ .coll id) :=
  ⟨by decide +kernel, legal160 rfl (by decide +kernel), ⟨by decide +kernel, by decide⟩, rfl, rfl,
    ⟨0, op7 .store .nothing, by decide +kernel, rfl, by decide, by decide, fun _ h => by cases h⟩⟩

/-- Requests at port 3 from package 3 through inbound window 5, to 0x4100 of main memory: a store of 4 bytes, a load, an atomic add, a bounded add. -/
def inbound7 : BitVec 128 := BitVec.ofNat 128 (7 * 2 ^ 124 + 2 ^ 127 + 16 * 2 ^ 82 + 0x4000)
def pkt7 (h : Head) (body : List Byte) : Packet := { hdr := Head.bits h, body := body }
def rstP : Packet := pkt7 { type_ := 0, dst := 0, src := 3, tag := 9, offset := 0x100, window := 5, len := 4 } (natToBytes 4 0x11223344)
def rldP : Packet := pkt7 { type_ := 1, dst := 0, src := 3, tag := 9, offset := 0x100, window := 5, len := 4 } []
def ratomP : Packet := pkt7 { type_ := 2, dst := 0, src := 3, tag := 9, offset := 0x100, window := 5, len := 4, op := 2, atype := 2 } (natToBytes 4 5)
def rfaddP : Packet := pkt7 { type_ := 3, dst := 0, src := 3, tag := 9, offset := 0x100, window := 5, len := 16 } (natToBytes 16 (1 + 2 ^ 68))
def served (vc : Nat) (p : Packet) : State := { state0 with cur := .port 3, ports := [(3, { queues := [(vc, [p])] })], inbound := [(5, inbound7)] }
theorem witness_RequestsAndAnswersComplete_requests : ∀ e ∈ [(2, rstP), (0, rldP), (0, ratomP), (0, rfaddP)],
    (served e.1 e.2).cur = .port 3 ∧ e.2.type_ < 4 ∧ e.1 = (if e.2.type_ = 0 then 2 else 0) ∧ (served e.1 e.2).head 3 e.1 e.2.type_ = some e.2 ∧
    (served e.1 e.2).heldBefore (served e.1 e.2).nextId 3 e.2 = none ∧ windowAdmits (Table.get 0#128 (served e.1 e.2).inbound e.2.window) e.2 = true ∧
    (Table.get 0#128 (served e.1 e.2).inbound e.2.window).toNat / 2 ^ 108 % 2 ^ 12 = 0 ∧ (Table.find (served e.1 e.2).contexts 0).isSome ∧
    ((served e.1 e.2).context 0).ending = false ∧ (served e.1 e.2).windowOwner e.2.window = some ((served e.1 e.2).context 0).partition ∧
    (served e.1 e.2).reachNow 0 none (((Table.get 0#128 (served e.1 e.2).inbound e.2.window).toNat % 2 ^ 57 + e.2.offset) % 2 ^ 57) e.2.width e.2.need =
      .ok .main 0x4100 1 ∧ (served e.1 e.2).poisoned .main 0x4100 = false ∧ (served e.1 e.2).hostRefuses .main 0x4100 e.2.op e.2.atype = false ∧
    0x4100 < hostBase := by
  simp only [List.mem_cons, List.not_mem_nil, or_false, forall_eq_or_imp, forall_eq]
  refine ⟨?_, ?_, ?_, ?_⟩ <;> decide +kernel

/-- Answers to a store and to a load, each under tag 1, of a block that stays or moves; a store that nothing has answered; lanes that fill, that mark
and that latch, of a thread that lives or has exited. -/
def answered (op : RemoteOp) (p : Packet) : State := { state7 [(1, op)] with cur := .port 3, ports := [(3, { queues := [(1, [p])] })], time := 200000000 }
def ackP : Packet := pkt7 { type_ := 4, dst := 0, src := 3, tag := 1, status := 1 } []
def rdataP : Packet := pkt7 { type_ := 5, dst := 0, src := 3, tag := 1, len := 4 } (natToBytes 4 0x11223344)
theorem witness_RequestsAndAnswersComplete_answers : ∀ e ∈ [(op7 .store .nothing, ackP, 4), (op7 .load (.v 4 1), rdataP, 5)],
    (answered e.1 e.2.1).inert e.1.b = false ∧ ({ answered e.1 e.2.1 with blocks := [(0, { place := .moving })] } : State).inert e.1.b = false ∧ e.1.kind ≠ .relay ∧ (∀ id, e.1.kind ≠ .coll id) ∧ (answered e.1 e.2.1).cur = .port 3 ∧
    Table.find (answered e.1 e.2.1).remote e.2.1.tag = some e.1 ∧ (answered e.1 e.2.1).peerPackage e.1.so e.1.pkg % 1024 = e.2.1.src ∧ (answered e.1 e.2.1).head 3 1 e.2.2 = some e.2.1 ∧
    e.1.since + 1000 * (if ((answered e.1 e.2.1).context e.1.ctx).timeout = 0 then 100000 else ((answered e.1 e.2.1).context e.1.ctx).timeout) ≤
      (answered e.1 e.2.1).time ∧ (∃ l, e.1.lanes = [l] ∧ ∃ th, Table.find (answered e.1 e.2.1).threads (tkey (gkey e.1.b e.1.g) l.t) = some th ∧ th.exited = false ∧
      Table.find ({ answered e.1 e.2.1 with threads := [(0, { exited := true })] } : State).threads (tkey (gkey e.1.b e.1.g) l.t) = some { exited := true }) := by
  simp only [List.mem_cons, List.not_mem_nil, or_false, forall_eq_or_imp, forall_eq]
  exact ⟨⟨rfl, rfl, by decide, (fun _ h => by cases h), rfl, by decide +kernel, by decide +kernel, by decide +kernel, by decide +kernel, _, rfl, _, rfl, rfl, rfl⟩,
    rfl, rfl, by decide, (fun _ h => by cases h), rfl, by decide +kernel, by decide +kernel, by decide +kernel, by decide +kernel, _, rfl, _, rfl, rfl, rfl⟩

/-- COLL with a descriptor at 0x100 of shared memory that copies 8 bytes of f32 from 0x200 through one hop, at package 3, to 0x240, counting at 0x80. -/
def desc7 : Nat := 1 * 2 ^ 40 + 3 * 2 ^ 64
def coll0 : RForm := { d := 16, a := 8, b := 16, ext := some { c := 12 } }
def collQuad : Nat := 0x200 + 0x240 * 2 ^ 32 + 8 * 2 ^ 64 + 0x40000080 * 2 ^ 96
def collShape : Shape := { d := Opd.rawField, a := { n := 4, align := 4 }, b := Opd.recField, c := Opd.one, xoOk := false }
def colling : State := { withThreads { p := 1#8, v := [(8, value 0x200#32), (9, value 0x240#32), (10, value 8#32), (11, value 0x40000080#32),
    (12, value 0x100#32)] } {} with blocks := [(0, block3)], spaces := [(1, State.reset.mem.writeNat 0x100 32 desc7)] }
theorem witness_CollectivesComplete_word : LegalR colling issue0 0xD5 coll0 collShape ∧ Once colling issue0 coll0.ext ∧ Clear colling issue0 ∧
    colling.readUniform issue0 (firstLane issue0.path) [(coll0.a, coll0.ea, collShape.a, none), (extC coll0.ext, extEc coll0.ext, collShape.c, none)] =
      .vals [collQuad, 0x100] ∧ (colling.group issue0.gk).sideRecord 16 false = .val 0 ∧ colling.sharedTarget issue0.b 0x100 32 = some (.shared 0, 0x100) ∧
    colling.load (.shared 0) 0x100 32 = desc7 ∧ badDescriptor desc7 = false ∧ fmtBytes (CollPkt.ofHeader desc7 []).fmt = 4 ∧
    colling.collSide issue0 16 0x200 8 4 (BitVec.ofNat 128 0) = .ok (.other (.shared 0) 0x200) ∧
    colling.collSide issue0 16 0x240 8 4 (BitVec.ofNat 128 0) = .ok (.other (.shared 0) 0x240) ∧ collQuad / 2 ^ 64 % 2 ^ 32 = 8 ∧
    colling.boTarget issue0.b (collQuad / 2 ^ 96) = .ok (.shared 0, 0x80) ∧ colling.sourceFault 0 issue0.b (.other (.shared 0) 0x200) 8 = none := by
  refine ⟨legal160 rfl (by decide +kernel), once3 ⟨rfl, rfl, rfl, rfl⟩, ⟨by decide +kernel, by decide⟩, ?_, ?_, ?_, ?_, ?_, ?_, ok_of (by decide +kernel),
    ok_of (by decide +kernel), by decide, ok_of (by decide +kernel), rfl⟩ <;> decide +kernel

/-- A collective packet that forwards to package 3; a COLL whose work is done. -/
def collP : Packet := pkt7 { type_ := 6, dst := 0, src := 3, tag := 1, len := 4 } (natToBytes 32 (2 * 2 ^ 40 + 3 * 2 ^ 88) ++ natToBytes 4 7)
def coll7 : Coll := { b := 0, ctx := 0, core := 0, cid := 0, src := .other (.shared 0) 0, dst := .other (.shared 0) 64, len := 8, unit := 4, bo := (.shared 0, 0x80)
                      head := CollPkt.ofHeader desc7 [], sent := 1, pieces := 1, covered := 8 }
theorem witness_CollectivesComplete_events : (served 3 collP).head 3 3 6 = some collP ∧
    (served 3 collP).canTake 3 (CollPkt.ofHeader (bytesToNat (collP.body.take 32)) (collP.body.drop 32)) = true ∧
    (let s := { state3 with colls := [(4, coll7)] }
     Table.find s.colls 4 = some coll7 ∧ coll7.pieces ≤ coll7.sent ∧ (∀ e ∈ s.remote, e.2.kind ≠ .coll 4) ∧ coll7.want = false ∧
     (∀ e ∈ s.colls, e.2.b = coll7.b → 4 ≤ e.1) ∧ coll7.todo = [] ∧ ∀ e ∈ s.early, e.waitsFor coll7.cid = false) :=
  ⟨by decide +kernel, by decide +kernel, rfl, by decide, (fun _ h => by cases h), rfl, by decide +kernel⟩

/-- A flit in turn and one out of turn, with the CRC the link uses, and one whose CRC is another; a peer that has not acknowledged a packet; a SYNC packet, of the master. -/
def flit7 (seq : BitVec 12) : Flit := { seq := seq, vc := 2, stop := 0#5, go := 3#5, data := 0#512, crc := Config.linkCrc 0#512 seq 2 0#5 3#5 }
theorem witness_LinkEventsComplete : (state0.port 3).lanes ≠ 0 ∧ state0.portFrozen 3 = false ∧ (flit7 0#12).seq = (state0.port 3).rxSeq ∧ (flit7 0#12).vc < 5 ∧
    (∀ q, (flit7 q).crc = Config.linkCrc (flit7 q).data (flit7 q).seq (flit7 q).vc (flit7 q).stop (flit7 q).go) ∧
    (∃ f : Flit, f.crc ≠ Config.linkCrc f.data f.seq f.vc f.stop f.go) ∧ (flit7 5#12).seq ≠ (state0.port 3).rxSeq ∧
    (let s := { state0 with fars := [(3, { unacked := [(1#32, ackP)] })], time := 20000 }
     (Table.get ({} : Far) s.fars 3).unacked ≠ [] ∧ (Table.get ({} : Far) s.fars 3).since + 20000 ≤ s.time ∧ s.master = false ∧ s.syncAt + 16000 ≤ s.time) ∧
    (served 4 (pkt7 { type_ := 7, dst := 0, src := 3, len := 16 } (natToBytes 16 5))).head 3 4 7 = some (pkt7 { type_ := 7, dst := 0, src := 3, len := 16 } (natToBytes 16 5)) ∧
    (∃ m, m ≠ 3 ∧ { served 4 ackP with heard := [(m, 0)] }.chosenMaster = m) ∧ { served 4 ackP with heard := [(3, 0)], package := 5 }.chosenMaster = 3 ∧
    (served 4 ackP).master = false ∧ ({ state0 with master := true } : State).master = true :=
  ⟨by decide +kernel, rfl, rfl, by decide, fun _ => rfl, ⟨{ flit7 0#12 with crc := Config.linkCrc 0#512 0#12 2 0#5 3#5 + 1#32 }, by simp [flit7]⟩, by decide,
    ⟨by decide +kernel, by decide +kernel, rfl, by decide⟩, by decide +kernel, ⟨0, by decide +kernel⟩, by decide +kernel, rfl, rfl⟩

/-! Queues, grids and continuation pools. Queue 0 parses a packet at the head of its ring. -/

def queued (q : Queue) : State := { state0 with cur := .queue 0, queues := [(0, q)] }
def state8 : State := queued queue0
theorem parses8 {flags : BitVec 12} {ws : List W32} {count : Option Nat} {q : Queue} (h : q.state = 1 ∧ q.enabled = true ∧ q.fault = none)
    (hf : flags.toNat < 4 ∧ (flags.getLsbD 0 = true → q.uncommitted = [])) (hc : ∀ n, count = some n → ws.length = n) : Parses (queued q) 0 flags ws count :=
  ⟨rfl, h.1, h.2.1, h.2.2, hf.1, hf.2, hc⟩
/-- Words of a packet that name address `a` and hold `b` and `c`. -/
def words8 (a b : Nat) (rest : List Nat) : List W32 := ([a, 0, b, 0] ++ rest).map (BitVec.ofNat 32)

theorem witness_PacketsTakeEffect : Parses state8 0 3#12 [0#32] none ∧ (state8.queue 0).frames = [] ∧ (state8.queue 0).uncommitted = [] ∧
    Table.risingFrom 0 state8.queues = true ∧ Parses state8 0 0#12 [0x4000#32, 0#32, 2#32] (some 3) ∧ word64 [0x4000#32, 0#32, 2#32] 0 = 0x4000 ∧
    Parses (queued { queue0 with frames := List.replicate 4 { addr := 0x4000, left := 8, upTo := none, irq := false } }) 0 0#12 [0x4000#32, 0#32, 2#32] (some 3) ∧
    Parses state8 0 0#12 [0x4000#32, 0#32, 0#32, 70#32] (some 4) ∧ state8.bitsSet 0 0x4000 0 70 (70 / 64 + 2) = .ok false ∧
    state8.bitsSet 0 0x4000 0 0 (0 / 64 + 2) = .ok true ∧ Parses state8 0 0#12 (words8 0x4000 1 [1]) (some 5) ∧
    state8.queueGets 0 0x4000 8 Need.read .main 0x4000 ∧ state8.queueGets 0 0x4000 8 Need.write .main 0x4000 ∧
    ((queued { queue0 with held := some (.waitmem 0#12 (words8 0x4000 1 [1])) }).queue 0).held = some (.waitmem 0#12 (words8 0x4000 1 [1])) ∧
    Parses state8 0 0#12 (words8 0x4000 1 []) (some 4) ∧ Parses state8 0 0#12 [0x4000#32, 0#32] (some 2) ∧ Parses state8 0 0#12 (words8 0x4001 1 []) (some 4) ∧
    word64 (words8 0x4001 1 []) 0 % 8 ≠ 0 ∧ (words8 0 0 [0]).length ≠ 4 ∧ 4 ≤ (4#12 : BitVec 12).toNat :=
  ⟨parses8 ⟨rfl, rfl, rfl⟩ ⟨by decide, fun _ => rfl⟩ (fun _ h => by cases h), rfl, rfl, rfl,
    parses8 ⟨rfl, rfl, rfl⟩ ⟨by decide, fun _ => rfl⟩ (fun _ h => by cases h; rfl), by decide,
    parses8 ⟨rfl, rfl, rfl⟩ ⟨by decide, fun _ => rfl⟩ (fun _ h => by cases h; rfl),
    parses8 ⟨rfl, rfl, rfl⟩ ⟨by decide, fun _ => rfl⟩ (fun _ h => by cases h; rfl), ok_of (by decide +kernel), ok_of (by decide +kernel),
    parses8 ⟨rfl, rfl, rfl⟩ ⟨by decide, fun _ => rfl⟩ (fun _ h => by cases h; rfl), ⟨⟨1, by decide +kernel⟩, fun _ => by decide +kernel⟩,
    ⟨⟨1, by decide +kernel⟩, fun h => by cases h⟩, rfl,
    parses8 ⟨rfl, rfl, rfl⟩ ⟨by decide, fun _ => rfl⟩ (fun _ h => by cases h; rfl),
    parses8 ⟨rfl, rfl, rfl⟩ ⟨by decide, fun _ => rfl⟩ (fun _ h => by cases h; rfl),
    parses8 ⟨rfl, rfl, rfl⟩ ⟨by decide, fun _ => rfl⟩ (fun _ h => by cases h; rfl), by decide +kernel, by decide, by decide⟩

/-- Launch records: a grid of 1 × 1 × 1 with a tile bitmap to zero, one past every core, a continuation grid that owns pool 7. -/
def record8 (g tiles : Nat) : Nat := 2 ^ (8 * 56) + 2 ^ (8 * 60) + 2 ^ (8 * 64) + 2 ^ (8 * 84) + g * 2 ^ (8 * 82) + 32 * 2 ^ (8 * 83) + 16 * 2 ^ (8 * 85) +
  tiles * 2 ^ (8 * 32) + 2 * 2 ^ (8 * 89)
def contRecord : Nat := 2 ^ (8 * 84) + 2 ^ (8 * 82) + 32 * 2 ^ (8 * 83) + 2 * 2 ^ (8 * 85) + 0x4000 * 2 ^ (8 * 96) + 64 * 2 ^ (8 * 104) + 2 ^ (8 * 108) +
  7 * 2 ^ (8 * 110)
def recordWords (x : Nat) : List W32 := (List.range 32).map (fun k => BitVec.ofNat 32 (x / 2 ^ (32 * k)))
def ofWords (ws : List W32) : Nat := ws.foldr (fun w acc => w.toNat + 2 ^ 32 * acc) 0
def pooled : State := { state8 with grids := [(0, { ctx := 0, queue := 0, order := 0, cont := true, l := Launch.ofBits contRecord })] }
theorem witness_GridsAreAcceptedAndBlocksEnd_grids : Parses state8 0 0#12 (recordWords (record8 1 0x8000)) (some 32) ∧
    launchLegal false (ofWords (recordWords 0)) = false ∧ launchLegal false (ofWords (recordWords (record8 1 0x8000))) = true ∧
    launchLegal false (ofWords (recordWords (record8 32 0))) = true ∧ state8.clusterFits (Launch.ofBits (record8 32 0)) 0 = false ∧
    launchLegal true (ofWords (recordWords contRecord)) = true ∧ pooled.clusterFits (Launch.ofBits contRecord) 0 = true ∧
    (pooled.poolGrid 0 (Launch.ofBits contRecord).own).isSome ∧ state8.clusterFits (Launch.ofBits (record8 1 0x8000)) 0 = true ∧
    state8.poolGrid 0 (Launch.ofBits contRecord).own = none ∧
    Table.find pooled.grids (gridKey 0 1) = none ∧ (∀ k < 1, (Table.find pooled.grids (gridKey 0 k)).isSome) ∧
    (∃ u, (if (Launch.ofBits (record8 1 0x8000)).clear = true ∧ (Launch.ofBits (record8 1 0x8000)).tiles ≠ 0
      then pooled.zeroWords 0 0x8000 ((1 + 63) / 64) else .ok pooled) = .ok u) := by
  refine ⟨parses8 ⟨rfl, rfl, rfl⟩ ⟨by decide, fun _ => rfl⟩ (fun _ h => by cases h; rfl), ?_, ?_, ?_, ?_, ?_, ?_, ?_, ?_, ?_, ?_, ?_, ⟨_,
    ok_of (x := { pooled with mem := pooled.mem }) (by decide +kernel)⟩⟩ <;> decide +kernel

/-- Block 0, the first of two of its grid, has nothing left to do; its grid has a tile bitmap, or none. -/
def ending8 (tiles : Nat) : State := { state0 with groups := [(0, { ended := true })]
                                                   grids := [(0, { ctx := 0, queue := 0, order := 0, cont := false, l := { x := 2, tiles := tiles } })] }
theorem witness_GridsAreAcceptedAndBlocksEnd_blocks : ∃ bl u, Table.find (ending8 0x8000).blocks 0 = some bl ∧ bl.place = .resident ∧
    (ending8 0x8000).blockDone 0 = true ∧ (ending8 0x8000).nearDone 0 = true ∧ (ending8 0x8000).setTileBit bl = .ok u ∧ (u.grid bl.gridKey).cont = false ∧
    (Table.find u.grids bl.gridKey).isSome ∧ (u.grid bl.gridKey).ended + 1 ≠ (u.grid bl.gridKey).l.blocks ∧
    ((ending8 0).grid bl.gridKey).l.tiles = 0 ∧ ((ending8 0x8000).grid bl.gridKey).l.tiles ≠ 0 ∧
    (ending8 0x8000).reachNow bl.ctx none (((ending8 0x8000).grid bl.gridKey).l.tiles + 8 * (bl.lin / 64)) 8 { r := true, w := true } = .ok .main 0x8000 1 ∧
    (∃ th, Table.find ((ending8 0).clearBlock 7).threads 0 = some th) := by
  refine ⟨_, { ending8 0x8000 with mem := [(0x8000, 1#8)] }, rfl, rfl, ?_, ?_, ok_of (by decide +kernel), ?_, ?_, ?_, ?_, ?_, ?_, _, rfl⟩ <;> decide +kernel

/-- LAUNCH of a NOP packet of two words at 0x100 of shared memory to queue 0, which has room, and to queue 1, which has none. -/
def launch0 : RForm := { d := 4, a := 8, b := 12 }
def launchShape : Shape := { d := Opd.one, a := Opd.one, b := Opd.one, xoOk := false }
def launching (slot : W32) : State := { withThreads { v := [(8, value slot), (12, value 0x100#32)] } {} with
  blocks := [(0, block3)], spaces := [(1, State.reset.mem.writeNat 0x100 4 0x1000)], queues := [(0, { queue0 with fed := true }), (1, { queue0 with fed := true, tail := 4096 })] }
theorem witness_LaunchesAndPostsComplete_launch (slot : W32) : (slot = 0#32 ∨ slot = 1#32) → LegalR (launching slot) issue0 0xD6 launch0 launchShape ∧
    Once (launching slot) issue0 launch0.ext ∧ Clear (launching slot) issue0 ∧ (launching slot).eachReady issue0 (Fields.ofR launch0) launchShape = true ∧
    (launching slot).readUniform issue0 (firstLane issue0.path) (boSources launch0 launchShape) = .vals [slot.toNat, 0x100] ∧
    ((launching slot).queue slot.toNat).feeds ((launching slot).block issue0.b).ctx = true ∧ (launching slot).sharedTarget issue0.b 0x100 4 = some (.shared 0, 0x100) ∧
    fieldOf ((launching slot).load (.shared 0) 0x100 4) 12 12 = 1 ∧ ((launching slot).sharedTarget issue0.b 0x100 8).isSome ∧
    (slot = 1#32 → 2 ^ ((launching slot).queue slot.toNat).n < ((launching slot).queue slot.toNat).tail - ((launching slot).queue slot.toNat).head + 4 * (1 + 1)) ∧
    (slot = 0#32 → ((launching slot).queue slot.toNat).tail - ((launching slot).queue slot.toNat).head + 4 * (1 + 1) ≤ 2 ^ ((launching slot).queue slot.toNat).n ∧
      (launching slot).storesDone issue0 (launching slot).nextId = true ∧
      ∃ u, (launching slot).ringWrite ((launching slot).queue slot.toNat) ((launching slot).queue slot.toNat).tail [0x1000, 0] = .ok u) := by
  rintro (rfl | rfl)
  · exact ⟨legal160 rfl (by decide +kernel), once3 ⟨rfl, rfl, rfl, rfl⟩, ⟨by decide +kernel, by decide⟩, by decide +kernel, by decide +kernel, by decide +kernel,
      by decide +kernel, by decide +kernel, by decide +kernel, fun h => absurd h (by decide), fun _ => ⟨by decide +kernel, by decide +kernel, _,
        ok_of (x := { launching 0#32 with mem := State.reset.mem.writeNat 0x2008 4 0x1000 }) (by decide +kernel)⟩⟩
  · exact ⟨legal160 rfl (by decide +kernel), once3 ⟨rfl, rfl, rfl, rfl⟩, ⟨by decide +kernel, by decide⟩, by decide +kernel, by decide +kernel, by decide +kernel,
      by decide +kernel, by decide +kernel, by decide +kernel, fun _ => by decide +kernel, fun h => absurd h (by decide)⟩

/-- POSTC of one word by thread 0 to the pool its block's grid names. -/
def postc0 : RForm := { a := 8, b := 12, ext := some { guard := 1, sub := 1 } }
def postcShape : Shape := { a := Opd.pair, b := Opd.run 1 }
def posting : State := { withThreads { p := 2#8, v := [(8, value 0x200#32), (12, value 5#32)] } {} with
  grids := [(0, { ctx := 0, queue := 0, order := 0, cont := false, l := { pool := some 7 } }), (1, { ctx := 0, queue := 0, order := 1, cont := true, l := Launch.ofBits contRecord })] }
/-- Records on their way: one to a bin with 31 records, one to a bin of its own. -/
def posted8 (pc : W64) : State := { posting with
  posted := [(3, { die := 0, grid := 1, pc := pc, words := [5#32] })], bins := [(2, { die := 0, grid := 1, pc := 0x200#64, recs := List.replicate 31 [0#32], deadline := 0 })] }
theorem witness_LaunchesAndPostsComplete_posts : LegalR posting issue0 0xD7 postc0 postcShape ∧ Begins posting issue0 ∧
    posting.active issue0 (extGuard postc0.ext) = [0] ∧ posting.readAll issue0 0 [(postc0.a, postc0.ea, postcShape.a, if extXo postc0.ext == 1 then some (extXs postc0.ext) else none),
      (postc0.b, postc0.eb, postcShape.b, none)] = .vals [0x200, 5] ∧ posting.poolRoom issue0.b = some 1 ∧ (posting.thread (issue0.tk 0)).pending = none ∧
    (posting.thread (issue0.tk 0)).role = .live ∧ posting.performed issue0 [0] = true ∧
    (∃ p bn, Table.find (posted8 0x200#64).posted 3 = some p ∧ (∀ e ∈ (posted8 0x200#64).posted, e.2.die = p.die → 3 ≤ e.1) ∧
      (posted8 0x200#64).bins.find? (fun e => e.2.die == p.die && e.2.grid == p.grid && e.2.pc == p.pc) = some (2, bn)) ∧
    (∃ p, Table.find (posted8 0x204#64).posted 3 = some p ∧
      (posted8 0x204#64).bins.find? (fun e => e.2.die == p.die && e.2.grid == p.grid && e.2.pc == p.pc) = none ∧
      ((posted8 0x204#64).bins.filter (fun e => e.2.die == p.die)).length < 256) ∧
    ∃ bn, Table.find (posted8 0#64).bins 2 = some bn ∧ bn.deadline ≤ (posted8 0#64).time :=
  ⟨legal160 rfl (by decide +kernel), ⟨rfl, rfl⟩, by decide +kernel, by decide +kernel, by decide +kernel, rfl, rfl, by decide +kernel,
    ⟨_, _, rfl, by decide +kernel, rfl⟩, ⟨_, rfl, by decide +kernel, by decide +kernel⟩, _, rfl, by decide⟩

/-! Near work. Page 16 + k of context 0 is the first page of bank engine k of stack 0, a slice of one page each; v8 of the first thread names the record at
0x100 of shared memory, record 1 is the affinity record of the first slice. -/

def nearLeaf9 (k : Nat) : Leaf := { identityLeaf with frame := localBase + k * 2 ^ 30, near := true }
def tlb9 : Table Leaf := (0, identityLeaf) :: (List.range 64).map (fun k => (16 + k, nearLeaf9 k))
def launchRecord (streamed : Bool) : Nat := 0x1000 + 1 * 2 ^ (8 * 8) + 1 * 2 ^ (8 * 12) + 0x2000 * 2 ^ (8 * 24) + 0x40000080 * 2 ^ (8 * 32) +
  streamed.toNat * 2 ^ (8 * 36)
def near9 (x : Nat) (holds : List Hold) (v : Table Cell) : State := { withThreads { p := 2#8, v := v } {} with
  lsplit := 1, tlb := tlb9, blocks := [(0, block3)], spaces := [(1, State.reset.mem.writeNat 0x100 128 x)]
  groups := [(0, { live := 3#32, track := some 0, b := [(1, recordOf 0x100000 0 65536)], holds := holds })] }
def regs9 : Table Cell := [(8, value 0x100#32), (12, value 9#32)]
def nlaunch0 : RForm := { a := 8, b := 1 }
def nopen0 : RForm := { d := 4, a := 8, b := 1 }
def nlaunchShape : Shape := { a := Opd.one, b := Opd.recField, xoOk := false }
def nopenShape : Shape := { d := Opd.one, a := Opd.one, b := Opd.recField, xoOk := false }

theorem held_of {g : PagesGot} (h : (match g with | .held _ => true | _ => false) = true) : ∃ p, g = .held p := by
  cases g <;> simp_all
theorem launches_of {s : State} {f : RForm} {streamed : Bool} {a r pa : Nat} {sp : Space} {bo : Space × Nat}
    (h1 : s.readUniform issue0 (firstLane issue0.path) [(f.a, f.ea, Opd.one, none)] = .vals [a])
    (h2 : (s.group issue0.gk).record (f.b.toNat % 16) f.eb = .val r) (h3 : a % 64 = 0) (h4 : s.sharedTarget issue0.b a 64 = some (sp, pa))
    (h5 : isOk (s.launchCheck issue0 a (s.load sp pa 64) (f.b.toNat % 16) (BitVec.ofNat 128 r) streamed) bo = true)
    (h6 : (match s.pageLoop (s.block issue0.b).ctx (launchPlan (s.load sp pa 64) (recBase (BitVec.ofNat 128 r))
      (affinityRange (BitVec.ofNat 128 r) / (byteField (s.load sp pa 64) 12 4 * 65536))) 0 0 [] with | .held _ => true | _ => false) = true) :
    ∃ plan w, Launches s issue0 f streamed plan w := by
  obtain ⟨p, hp⟩ := held_of h6
  exact ⟨_, _, ⟨a, r, sp, pa, bo, p, h1, h2, h3, h4, ok_of h5, rfl, hp, rfl⟩⟩

theorem witness_NearWordsComplete_nlaunch : ∃ plan w, Launches (near9 (launchRecord false) [] regs9) issue0 nlaunch0 false plan w :=
  launches_of (a := 0x100) (r := recordNat 0x100000 0 65536) (sp := .shared 0) (pa := 0x100) (bo := (.shared 0, 0x80)) (by decide +kernel)
    (by decide +kernel) (by decide) (by decide +kernel) (by decide +kernel) (by decide +kernel)
theorem witness_NearWordsComplete_nopen : ∃ plan w, Launches (near9 (launchRecord true) [] regs9) issue0 nopen0 true plan w :=
  launches_of (a := 0x100) (r := recordNat 0x100000 0 65536) (sp := .shared 0) (pa := 0x100) (bo := (.shared 0, 0x80)) (by decide +kernel)
    (by decide +kernel) (by decide) (by decide +kernel) (by decide +kernel) (by decide +kernel)

/-- NLAUNCH; NOPEN, before and after its handle; -/
theorem witness_NearWordsComplete_launches :
    LegalR (near9 (launchRecord false) [] regs9) issue0 0xD9 nlaunch0 nlaunchShape ∧ Once (near9 (launchRecord false) [] regs9) issue0 none ∧
    Clear (near9 (launchRecord false) [] regs9) issue0 ∧ PixFree (near9 (launchRecord false) [] regs9) issue0 ∧
    (near9 (launchRecord false) [] regs9).holdOf issue0 = none ∧ (near9 (launchRecord false) [] regs9).storesDone issue0 0 = true ∧
    LegalR (near9 (launchRecord true) [] regs9) issue0 0xDA nopen0 nopenShape ∧ Once (near9 (launchRecord true) [] regs9) issue0 none ∧
    (near9 (launchRecord true) [] regs9).eachReady issue0 (Fields.ofR nopen0) nopenShape = true ∧
    (near9 (launchRecord true) [{ mask := 3#32, why := .opened 7 }] regs9).holdOf issue0 = some (.opened 7) :=
  ⟨legal160 rfl (by decide +kernel), once0 ⟨rfl, rfl, rfl⟩, ⟨by decide +kernel, by decide⟩, ⟨rfl, rfl⟩, rfl, rfl, legal160 rfl (by decide +kernel),
    once0 ⟨rfl, rfl, rfl⟩, by decide +kernel, by decide +kernel⟩

/-- NCMD of thread 0, before its commands and with all answered. -/
def ncmd0 : RForm := { d := 4, a := 8, b := 12, ext := some { guard := 1, rnd := 3, sub := 9 } }
def ncmdShape : Shape := { d := Opd.pair, a := Opd.one, b := Opd.pair, uni := false }
theorem witness_NearWordsComplete_commands : LegalR (near9 0 [] regs9) issue0 0xDB ncmd0 ncmdShape ∧ Begins (near9 0 [] regs9) issue0 ∧
    (near9 0 [] regs9).holdOf issue0 = none ∧ (near9 0 [] regs9).storesDone issue0 0 = true ∧ (near9 0 [] regs9).commandsOf issue0 = false ∧
    Filed (near9 0 [] regs9) ∧ (near9 0 [] regs9).active issue0 (extGuard ncmd0.ext) = [0] ∧ ((near9 0 [] regs9).thread (issue0.tk 0)).pending = none ∧
    (near9 0 [] regs9).read issue0 0 8#7 false Opd.one none = .val 0x100 ∧ (near9 0 [] regs9).read issue0 0 12#7 false Opd.pair none = .val 9 ∧
    locate ((near9 0 [] regs9).thread (issue0.tk 0)) 4#7 Opd.pair none = .ok (.v 4) ∧ (near9 0 [] regs9).destReady issue0 0 (.v 4) 2 = true ∧
    (near9 0 [{ mask := 3#32, why := .ncmd }] regs9).holdOf issue0 = some .ncmd ∧ (near9 0 [{ mask := 3#32, why := .ncmd }] regs9).commandsOf issue0 = false :=
  ⟨legal160 rfl (by decide +kernel), ⟨rfl, rfl⟩, rfl, rfl, rfl, filed_of (by decide +kernel) (by decide +kernel), by decide +kernel, rfl, by decide +kernel,
    by decide +kernel, ok_of (by decide +kernel), by decide +kernel, by decide +kernel, rfl⟩

/-- NCLOSE of no open, of another's, of a stopped one, of one that runs; and once the open has ended. -/
def nclose0 : RForm := { d := 4, a := 8 }
def ncloseShape : Shape := { d := Opd.one, a := Opd.one, xoOk := false }
def opened9 (o : Open) (holds : List Hold) : State := { near9 0 holds [(8, value 0x1400#32)] with opens := [(1, o)] }
theorem witness_NearWordsComplete_closes : LegalR (near9 0 [] regs9) issue0 0xDC nclose0 ncloseShape ∧ Once (near9 0 [] regs9) issue0 none ∧
    (near9 0 [] regs9).readUniform issue0 (firstLane issue0.path) [(8#7, false, Opd.one, none)] = .vals [0x100] ∧
    (near9 0 [] regs9).eachReady issue0 (Fields.ofR nclose0) ncloseShape = true ∧ (near9 0 [] regs9).openOf 0x100 = none ∧
    (∀ g ∈ [0, 1], ∀ stopped : Bool, (opened9 { b := 0, g := g, key := 1, work := 7, stopped := stopped } []).openOf 0x1400 =
      some { b := 0, g := g, key := 1, work := 7, stopped := stopped }) ∧
    (opened9 { b := 0, g := 0, key := 1, work := 7 } []).readUniform issue0 (firstLane issue0.path) [(8#7, false, Opd.one, none)] = .vals [0x1400] ∧
    (near9 0 [{ mask := 3#32, why := .nclose 1 }] regs9).holdOf issue0 = some (.nclose 1) ∧
    Table.find (near9 0 [{ mask := 3#32, why := .nclose 1 }] regs9).opens 1 = none := by
  refine ⟨legal160 rfl (by decide +kernel), once0 ⟨rfl, rfl, rfl⟩, ?_, ?_, ?_, ?_, ?_, ?_, rfl⟩ <;> decide +kernel

/-- SEARCH of one query of one entry over stack 0. -/
def command9 : Nat := 0x100000 + 1 * 2 ^ (8 * 8) + 1 * 2 ^ (8 * 12) + 1 * 2 ^ (8 * 15) + 1 * 2 ^ (8 * 16) + 1 * 2 ^ (8 * 20) + 1 * 2 ^ (8 * 22) +
  1 * 2 ^ (8 * 24) + 1 * 2 ^ (8 * 26) + 0x3000 * 2 ^ (8 * 40) + 8 * 2 ^ (8 * 48) + 0x40000080 * 2 ^ (8 * 52) + 0x4000 * 2 ^ (8 * 56) +
  0x5000 * 2 ^ (8 * 64) + 0x6000 * 2 ^ (8 * 72) + 1 * 2 ^ (8 * 80)
def search9 : Search := searchOf issue0 0 0 command9 (.shared 0, 0x80)
theorem witness_NearWordsComplete_search : LegalR (near9 command9 [] regs9) issue0 0xD8 { a := 8 } { a := Opd.one, xoOk := false } ∧
    Once (near9 command9 [] regs9) issue0 none ∧ (near9 command9 [] regs9).readUniform issue0 (firstLane issue0.path) [(8#7, false, Opd.one, none)] = .vals [0x100] ∧
    (near9 command9 [] regs9).sharedTarget issue0.b 0x100 128 = some (.shared 0, 0x100) ∧ (near9 command9 [] regs9).load (.shared 0) 0x100 128 = command9 ∧
    searchBound command9 = false ∧ PixFree (near9 command9 [] regs9) issue0 ∧ (near9 command9 [] regs9).boTarget issue0.b (byteField command9 52 4) = .ok (.shared 0, 0x80) ∧
    (∃ pages, (near9 command9 [] regs9).pageLoop 0 (search9.plan (byteField command9 56 8)) 0 0 [] = .held pages) ∧
    (near9 command9 [] regs9).storesDone issue0 (near9 command9 [] regs9).nextId = true ∧ bitAt search9.stackSet (0#64 : W64).toNat ≠ 0 := by
  refine ⟨legal160 rfl (by decide +kernel), once0 ⟨rfl, rfl, rfl⟩, ?_, ?_, ?_, ?_, ⟨rfl, rfl⟩, ok_of (by decide +kernel), held_of (by decide +kernel), rfl,
    ?_⟩ <;> decide +kernel

/-! Near and search events. -/

def work9 (streamed : Bool) (base : Nat) : NearWork :=
  { b := 0, g := 0, t := 0, ctx := 0, origin := 0x104#64, streamed := streamed, pages := [(16, localBase), (1, 0x1000), (32, localBase + 2 ^ 27)], code := (0x10000, 1), winSize := 1024
    winImage := 0, status := 0, bo := (.shared 0, 0x80), init := [1#64, 2#64, 3#64], slice := 1, base := base, blocks := 1 }
def packets9 (streamed : Bool) (base : Nat) (opens : Table Open) : State := { near9 0 [] [] with
  nearPackets := [(3, (7, 0))], nearWork := [(7, work9 streamed base)], opens := opens }
def waits9 (streamed : Bool) : State := { near9 0 [] [] with nearWork := [(7, work9 streamed 0x100000)], nearQueue := [(0, [(7, 0)])] }
def command0 (handle : Nat) : Command := { b := 0, g := 0, t := 0, reg := 4, pn := 3, handle := handle, operand := 9#64, code := 9 }
theorem witness_NearAndSearchEventsComplete_near :
    (∃ j ∈ (List.range 1).filter (fun j => (work9 false 0x200000).engine 1 j / 64 == 0), ∃ a ∈ (work9 false 0x200000).frames j,
      (State.partition (packets9 false 0x200000 []) 0).owns 1 a = false) ∧
    (∀ j ∈ (List.range 1).filter (fun j => (work9 true 0x100000).engine 1 j / 64 == 0), ∀ a ∈ (work9 true 0x100000).frames j,
      (State.partition (packets9 true 0x100000 []) 0).owns 1 a = true) ∧
    (packets9 true 0x100000 [(1, { b := 0, g := 1, key := 1, work := 8 })]).streamedOn ((work9 true 0x100000).engine 1 0) = true ∧
    (packets9 true 0x100000 []).streamedOn ((work9 true 0x100000).engine 1 0) = false ∧ codeSlots (packets9 true 0x100000 []) 0 < 16 ∧
    (∀ streamed, (waits9 streamed).nearWaiter 0 0 = some (7, 0, work9 streamed 0x100000) ∧ Table.find (waits9 streamed).engines (beKey 0 0 1) = none ∧
      (waits9 streamed).windowUse 0 + 1024 ≤ 14 * 2 ^ 20) ∧
    (let s := { opened9 { b := 0, g := 0, key := 1, work := 7 } [] with commands := [(5, command0 0x1400), (6, command0 0x2400), (8, { command0 0 with
        arrived := true, answer := some (9#64, true) })] }
     (∃ c o, Table.find s.commands 5 = some c ∧ c.arrived = false ∧ (∀ e ∈ s.commands, e.1 < 5 → e.2.b = c.b → e.2.g = c.g → e.2.handle = c.handle →
       e.2.arrived = true) ∧ s.openOf c.handle = some o ∧ o.b = c.b ∧ o.g = c.g ∧ o.stopped = false ∧ o.closing = false) ∧
     (∃ c, Table.find s.commands 6 = some c ∧ c.arrived = false ∧ (∀ e ∈ s.commands, e.1 < 6 → e.2.b = c.b → e.2.g = c.g → e.2.handle = c.handle →
       e.2.arrived = true) ∧ s.openOf c.handle = none) ∧
     ∃ c x ok, Table.find s.commands 8 = some c ∧ c.answer = some (x, ok) ∧ (s.block c.b).place ≠ .moving ∧ s.inert c.b = false ∧
       { s with frozenMasters := [(0, s.block c.b |>.core, none)] }.inert c.b = true) := by
  refine ⟨by decide +kernel, by decide +kernel, by decide +kernel, by decide +kernel, by decide +kernel,
    by decide +kernel, ⟨_, { b := 0, g := 0, key := 1, work := 7 }, rfl, rfl, by decide +kernel, by decide +kernel, rfl, rfl, rfl, rfl⟩, ⟨_, rfl, rfl, by decide +kernel, by decide +kernel⟩, _, _, _, rfl, rfl, by decide +kernel⟩

/-- A search under way: one query whose walker waits for engine 0, a hop and a spawn on their way, an end, and no walker left. -/
def running9 : Search := { search9 with admitted := true, pages := (List.range 64).map (fun k => (16 + k, localBase + k * 2 ^ 30)) ++ [(0, 0)], entries := [0#64] }
def query9 (live : Nat) : Query := { live := live, dispatches := 1, buffer := [1#8, 0#8, 0#8, 0#8, 0#8, 0#8, 0#8, 0#8] }
def walker9 : Walker := { search := 3, q := 0, g := List.replicate 8 0#64 }
def searching (live : Nat) : State := { near9 0 [] [] with
  searches := [(3, { running9 with queries := [query9 live] })], walkers := [(0, [walker9])], endNotices := [(6, (3, 0, true))]
  engines := [(beKey 0 1 0, { who := .walker 3 0, state := .waiting, registration := some 4 })]
  registrations := [(4, { sender := beKey 0 1 0, hop := true, walker := walker9, target := 0 }),
    (5, { sender := beKey 0 1 0, hop := false, walker := walker9, target := 0 }), (7, { sender := beKey 0 1 0, hop := true, walker := walker9, target := 0, granted := true })] }
/-- The same where its one dispatch was all the budget allows. -/
def spent (live : Nat) : State := { searching live with searches := [(3, { running9 with budget := 1, queries := [query9 live] })] }
theorem witness_NearAndSearchEventsComplete_search :
    { near9 0 [] [] with searches := [(3, search9)] }.searches.find? (fun e => !e.2.admitted) = some (3, search9) ∧
    (∃ w rest q x, Table.get [] (searching 1).walkers (64 * 0 + 0) = w :: rest ∧ Table.find (searching 1).engines (beKey 0 0 0) = none ∧
      (searching 1).search w.search = some q ∧ q.queries[w.q]? = some x ∧ q.budget = 0) ∧
    (∃ q x, (spent 1).search walker9.search = some q ∧ q.queries[walker9.q]? = some x ∧ q.budget ≠ 0 ∧ q.budget ≤ x.dispatches) ∧
    (∃ r w x, Table.find (searching 1).registrations 5 = some r ∧ (searching 1).search r.walker.search = some w ∧ w.queries[r.walker.q]? = some x ∧
      r.granted = false ∧ r.hop = false ∧ w.wq ≤ x.live) ∧
    (∃ r w x, Table.find (searching 1).registrations 4 = some r ∧ (searching 1).search r.walker.search = some w ∧ w.queries[r.walker.q]? = some x ∧
      r.granted = false ∧ ¬(w.budget ≠ 0 ∧ w.budget ≤ x.dispatches) ∧ r.hop = true) ∧
    (∃ r, Table.find (searching 1).registrations 7 = some r ∧ r.granted = true) ∧ Table.find (searching 1).endNotices 6 = some (3, 0, true) ∧
    (∃ w x, (searching 0).search 3 = some w ∧ w.queries[0]? = some x ∧ w.admitted = true ∧ x.merged = false ∧ x.live = 0) :=
  ⟨by decide +kernel, ⟨walker9, [], { running9 with queries := [query9 1] }, query9 1, by decide +kernel⟩,
    ⟨{ running9 with budget := 1, queries := [query9 1] }, query9 1, by decide +kernel⟩,
    ⟨_, { running9 with queries := [query9 1] }, query9 1, rfl, by decide +kernel, by decide +kernel, rfl, rfl, by decide +kernel⟩,
    ⟨_, { running9 with queries := [query9 1] }, query9 1, rfl, by decide +kernel, by decide +kernel, rfl, by decide +kernel, rfl⟩, ⟨_, rfl, rfl⟩, rfl,
    ⟨{ running9 with queries := [query9 0] }, query9 0, by decide +kernel, by decide +kernel, rfl, rfl, rfl⟩⟩

/-! Bank-engine words. Context 1 of engine 0 of stack 0 runs word 5 of a code image of 20 words, for a block of near work 7, with a slice of one page. -/

def regs10 : Table W64 := [(1, 0x80#64), (2, 128#64), (3, 0x100#64), (4, 0x100000001#64), (5, 8#64), (6, 0x100000080#64), (7, 0x4000#64), (8, 0x40000080#64), (9, 3#64), (11, 64#64)]
def be10 : BeCtx := { who := .block 7 0, upc := 5, g := regs10, frames := [localBase], winSize := 4096 }
def heap10 : BeHeap := { engine := 0, cap := 4, entries := [{ dist := 0x3F800000#32, tag := 1#32, id := 2#64 }] }
def engine10 (c : BeCtx) : State := { near9 0 [] [] with
  cur := .engine 0 0 1, engines := [(1, c)], nearWork := [(7, work9 (match c.who with | .streamed _ => true | _ => false) 0x100000)]
  images := [(16 * 7, List.replicate 20 0x04000000#32)], heaps := [(heapKey 1 0, heap10), (heapKey 1 1, { heap10 with entries := [] })] }
def state10 : State := engine10 be10
theorem runs10 (c : BeCtx) : Runs (engine10 c) 1 c := ⟨⟨0, 0, 1, rfl, rfl⟩, rfl⟩

/-- The words are legal; branches within the image and past it; a jump within it and past it; the launching thread of the context. -/
theorem witness_BurrowControlComplete : Runs state10 1 be10 ∧ Table.risingFrom 0 state10.engines = true ∧ brLegal 0x01 {} = true ∧
    bjLegal 0x02 { a := 1, b := 2, cond := 1, off := 0x7FFF#15 } = true ∧ (0 : Int) ≤ be10.upc + (0x7FFF#15).toInt ∧
    be10.upc + (0x7FFF#15).toInt < (state10.imageOf 1 be10).length ∧ (state10.imageOf 1 be10).length ≤ be10.upc + (15#15).toInt ∧
    bjLegal 0x02 { a := 1, b := 2, cond := 1, off := 15#15 } = true ∧ bjLegal 0x03 { a := 1, b := 0, cond := 0, off := 0x7FFF#15 } = true ∧
    bjLegal 0x03 { a := 1, b := 0, cond := 0, off := 15#15 } = true ∧ brLegal 0x04 { a := 5 } = true ∧ (be10.reg 5).toNat < (state10.imageOf 1 be10).length ∧
    brLegal 0x04 { a := 1 } = true ∧ ¬(be10.reg 1).toNat < (state10.imageOf 1 be10).length ∧ brLegal 0x05 {} = true ∧ biLegal 0x06 { imm := 9 } = true ∧
    brLegal 0x08 { d := 0, a := 1, b := 2, sub := 3 } = true ∧ biLegal 0x09 { d := 0, a := 1, sub := 3, imm := 0x3FFF } = true ∧
    state10.launcher be10 = some (0, 0, 0, 0, 0x104#64) :=
  ⟨runs10 be10, rfl, rfl, by decide, by decide, by decide +kernel, by decide +kernel, by decide, by decide, by decide, by decide, by decide +kernel, by decide,
    by decide +kernel, by decide, by decide, by decide, by decide, by decide +kernel⟩

/-- Loads and stores of the window, of atoms and of rows, within their bounds; row 64 lies past the slice. -/
theorem witness_BurrowMovesAndRowsComplete_moves : Runs state10 1 be10 ∧
    (let f : BmForm := { d := 0, a := 1, size := 3, imm := 8 }
     windowAddress be10 f = 0x88 ∧ 0x88 % 2 ^ f.size.toNat = 0 ∧ be10.inWindow 0x88 8 = true ∧ be10.windowBad 0x88 8 = false) ∧ be10.isWalker = false ∧
    (let f : BrForm := { a := 1, b := 2, sub := 1 }
     (be10.reg f.a).toNat % 8 = 0 ∧ (be10.reg f.b).toNat % 128 = 0 ∧ be10.inSlice 128 (128 * 2) = true ∧ be10.inWindow 0x80 (128 * 2) = true ∧
     brLegal 0x12 f = true ∧ state10.poisonedAtom be10 128 2 = none ∧ brLegal 0x13 f = true ∧ be10.windowBad 0x80 (128 * 2) = false) ∧
    (let f : BhForm := { h := 1, a := 9 }
     (be10.reg f.a).toNat < be10.rows ∧ bhLegal 0x14 f = true ∧ state10.poisonedAtom be10 (1024 * 3) 8 = none ∧ bhLegal 0x15 f = true) ∧
    (be10.rows ≤ (be10.reg 11).toNat ∧ bhLegal 0x14 { h := 1, a := 11 } = true) ∧ (∀ sub ∈ [0, 1, 2], bhLegal 0x16 { h := 1, sub := sub } = true) ∧
    (∀ sub ∈ [0, 1], bhLegal 0x17 { h := 1, a := 1, sub := sub } = true) ∧ (be10.reg 1).toNat % 8 = 0 ∧ be10.inWindow 0x80 1024 = true ∧
    be10.windowBad 0x80 1024 = false ∧ bhLegal 0x18 { h := 1, a := 9, b := 0 } = true ∧ bhLegal 0x19 { h := 1, a := 9, b := 1 } = true ∧
    state10.mem.wf = true ∧ (∀ k < 2, 0 < be10.sliceAddr (128 + 128 * k) ∨ be10.sliceAddr (128 + 128 * k) + 128 ≤ 0) :=
  ⟨runs10 be10, by decide +kernel, rfl, by decide +kernel, by decide +kernel, by decide +kernel, by decide, by decide, by decide +kernel, by decide +kernel,
    by decide +kernel, by decide, by decide, by decide +kernel, by decide +kernel⟩

/-- KSET, GLINT, TOP, TTP at positions 3 to 5; DIST and DISTG of one vector of one byte; the heap words on heaps 0 and 1, and on heap 5, which is none. -/
theorem witness_BurrowMovesAndRowsComplete_rows : brLegal 0x1A { a := 1, b := 2, sub := 1 } = true ∧ (∀ sub ∈ [4, 7], bhLegal 0x1B { h := 1, a := 1, b := 2, sub := sub } = true) ∧
    (∀ sub ∈ [0, 1, 2, 7], bhLegal 0x1C { h := 0, sub := sub } = true) ∧ (∀ sub ∈ [3, 4], bhLegal 0x1C { h := 0, c := 3, sub := sub } = true) ∧
    bhLegal 0x1C { h := 0, a := 1, c := 3, sub := 5 } = true ∧ bhLegal 0x1C { h := 0, a := 1, b := 3, sub := 6 } = true ∧
    bhLegal 0x1E { h := 1, a := 0, c := 2, sub := 0 } = true ∧ positionsOk (be10.reg 0).toNat 1 be10.width = true ∧
    brLegal 0x20 { d := 9, a := 6, b := 2, c := 4, sub := 0 } = true ∧ brLegal 0x21 { d := 9, a := 6, b := 2, sub := 0 } = true ∧
    (∃ p d, distPlan be10 { d := 9, a := 6, b := 2, c := 4, sub := 0 } = .ok p ∧ 1 ≤ (be10.reg 4).toNat % 2 ^ 32 ∧ (be10.reg 4).toNat % 2 ^ 32 ≤ 2 ^ 20 ∧
      1 ≤ (be10.reg 4).toNat / 2 ^ 32 ∧ (be10.reg 4).toNat / 2 ^ 32 ≤ 64 ∧ p.bytes ≤ 128 * ((be10.reg 4).toNat / 2 ^ 32) ∧
      state10.heapOf 1 be10 0 = some (heapKey 1 0) ∧ be10.inWindow p.window p.bytes = true ∧ state10.vectorDistance be10 p (be10.reg 2).toNat = .ok d) ∧
    (∀ sub ∈ [0, 1, 2, 3, 4, 5], brLegal 0x22 { a := if sub = 0 then 5 else 0, c := 0, sub := sub } = true) ∧ brLegal 0x22 { b := 1, c := 0, sub := 6 } = true ∧
    1 ≤ (be10.reg 5).toNat ∧ (be10.reg 5).toNat ≤ 1024 ∧ Table.find state10.heaps (heapKey 1 0) = some heap10 ∧ state10.heapOf 1 be10 1 = some (heapKey 1 1) ∧
    (∃ o, Table.find state10.heaps (heapKey 1 1) = some o) ∧ brLegal 0x23 { d := 9, a := 6, b := 2, c := 0 } = true ∧ brLegal 0x24 { d := 9, a := 1, c := 0 } = true ∧
    (be10.reg 1).toNat % 8 = 0 ∧ be10.isWalker = false ∧ be10.inWindow 0x80 (16 * heap10.entries.length) = true ∧
    brLegal 0x23 { c := 5 } = true ∧ brLegal 0x24 { c := 5 } = true ∧ state10.heapOf 1 be10 5 = none :=
  ⟨by decide, by decide, by decide, by decide, by decide, by decide, by decide, by decide +kernel, by decide, by decide,
    ⟨{ etype := 0, metric := 0, window := 0x80, dim := 1, bytes := 1 }, distance 0 0 1 0 0, ok_of (by decide +kernel), by decide +kernel, by decide +kernel,
    by decide +kernel, by decide +kernel, by decide, by decide +kernel, by decide +kernel, ok_of (by decide +kernel)⟩, by decide, by decide,
    by decide +kernel, by decide +kernel, rfl, by decide +kernel, ⟨_, rfl⟩, by decide, by decide, by decide +kernel, rfl, by decide +kernel, by decide,
    by decide, by decide +kernel⟩

/-- POST of 8 bytes, not counted and counted; a walker's words; a streamed context with a command waiting, with none, and answering. -/
def walking : State := { searching 1 with cur := .engine 0 0 1, engines := [(1, { be10 with who := .walker 3 0 })] }
def streaming (c : BeCtx) (commands : Table Command) : State := { engine10 c with
  opens := [(1, { b := 0, g := 0, key := 1, work := 7 })], commands := commands }
def streamed10 : BeCtx := { be10 with who := .streamed 7 }
theorem witness_BurrowSendsComplete : Runs state10 1 be10 ∧ brLegal 0x28 { a := 1, b := 5, c := 7, sub := 0 } = true ∧
    brLegal 0x28 { d := 8, a := 1, b := 5, c := 7, sub := 1 } = true ∧ (be10.reg 1).toNat % 8 = 0 ∧ (be10.reg 5).toNat % 8 = 0 ∧ (be10.reg 7).toNat % 8 = 0 ∧
    be10.inWindow 0x80 8 = true ∧ be10.windowBad 0x80 8 = false ∧ state10.postPieces 0 (spanFuel 8) 0x4000 8 = .ok [(.main, 0x4000, 8)] ∧
    (state10.putPieces [(.main, 0x4000, 8)] (be10.win.readList 0x80 8)).boTarget 0 0x40000080 = .ok (.shared 0, 0x80) ∧
    Runs walking 1 { be10 with who := .walker 3 0 } ∧ (∃ w, walking.search 3 = some w ∧ bitAt w.stackSet ((be10.reg 7).toNat % 16) = 1 ∧ 3 < w.nmax + 3) ∧
    brLegal 0x29 { a := 0 } = true ∧ brLegal 0x2A { a := 0 } = true ∧ brLegal 0x2B { d := 1, a := 0 } = true ∧ (be10.reg 0).toNat / 2 ^ 60 = beStack 1 ∧
    Runs (streaming streamed10 []) 1 streamed10 ∧ brLegal 0x2C { d := 1, a := 2 } = true ∧ (streaming streamed10 []).serialOf streamed10 = some 1 ∧
    (streaming streamed10 []).nextCommand 1 = none ∧ (∃ o, Table.find (streaming streamed10 []).opens 1 = some o) ∧
    (streaming streamed10 [(4, { command0 0x1400 with arrived := true })]).nextCommand 1 = some (4, { command0 0x1400 with arrived := true }) ∧
    brLegal 0x2D { a := 1 } = true ∧ ({ streamed10 with cmd := some 4 }).cmd = some 4 ∧ streamed10.cmd = none ∧ brLegal 0x2E { d := 1, sub := 0x80 } = true ∧
    (∃ x, state10.beStatus 1 { be10 with state := .ready } 0 = some x) := by
  refine ⟨runs10 be10, by decide, by decide, ?_, ?_, ?_, ?_, ?_, ok_of (by decide +kernel), ok_of (by decide +kernel), ⟨⟨0, 0, 1, rfl, rfl⟩, rfl⟩,
    ⟨{ running9 with queries := [query9 1] }, by decide +kernel, by decide +kernel, by decide +kernel⟩, by decide, by decide, by decide, ?_, ⟨⟨0, 0, 1, rfl,
    rfl⟩, rfl⟩, by decide, ?_, ?_, ⟨_, rfl⟩, ?_, by decide, rfl, rfl, by decide, ⟨_, rfl⟩⟩ <;> decide +kernel

/-- Words of GSET, GCMP and TTLD, legal and not; a comparison that holds and one that does not; rows of a table that are legal and not. -/
theorem witness_BankRegisterWords : (let w : W32 := 0x28900000#32; w.extractLsb' 26 6 = 0x0A#6 ∧ w.extractLsb' 16 3 = 0#3) ∧
    (let w : W32 := 0x2C480005#32; w.extractLsb' 26 6 = 0x0B#6 ∧ w.extractLsb' 8 2 = 0#2 ∧ w.extractLsb' 10 4 = 0#4 ∧ (w.extractLsb' 0 8).toNat ≤ 5) ∧
    (let w : W32 := 0x2C480406#32; w.extractLsb' 26 6 = 0x0B#6 ∧ w.extractLsb' 8 2 = 0#2 ∧ w.extractLsb' 10 4 ≠ 0#4) ∧
    (let w : W32 := 0x74040000#32; w.extractLsb' 26 6 = 0x1D#6 ∧ w.extractLsb' 8 2 = 0#2 ∧ w.extractLsb' 22 4 = 0#4 ∧ w.extractLsb' 0 8 = 0#8) ∧
    (let w : W32 := 0x74040001#32; w.extractLsb' 26 6 = 0x1D#6 ∧ w.extractLsb' 8 2 = 0#2 ∧ w.extractLsb' 0 8 ≠ 0#8) ∧ Runs state10 1 be10 ∧
    (be10.reg 1).toInt < (be10.reg 3).toInt ∧ ¬(be10.reg 3).toInt < (be10.reg 1).toInt ∧
    (∀ k < 4, (be10.reg 1).extractLsb' (16 * k + 12) 4 = 0#4 ∧ (be10.reg 3).extractLsb' (16 * k + 12) 4 = 0#4) ∧
    (∃ k < 4, (be10.reg 8).extractLsb' (16 * k + 12) 4 ≠ 0#4) ∧ Table.risingFrom 0 state10.engines = true := by
  refine ⟨?_, ?_, ?_, ?_, ?_, runs10 be10, ?_, ?_, ?_, ?_, rfl⟩ <;> decide +kernel

/-! The matrix sequencer. q0 is a loop count, q2 and q3 describe rows of 4 bytes at 0x4000, q4 is negative; rows and columns 0 and 1 are enabled. -/

def msq11 : Msq := { q := [(0, 2#64), (2, 0x4000#64), (3, 4#64), (4, 0xFFFFFFFFFFFFFFFF#64)], mpc := 0x100#64, mrp := 3#128, mcp := 3#128, state := .running }
def sequencing (m : Msq) : State := { state0 with cur := .msq 0, blocks := [(0, { nreg := 160, shm := 1024, mjoin := 4#16, msq := m })] }
def state11 : State := sequencing msq11

theorem witness_MatrixControlComplete : state11.cur = .msq 0 ∧ msq11 = (state11.block 0).msq ∧ (2#3 : BitVec 3).toNat < 5 ∧ (2#3 = 0#3 → 0#5 = 0#5) ∧
    ((0#3 : BitVec 3).toNat ≤ 5 ∧ 1#5 ≠ 0#5) ∧ (9#4 : BitVec 4).toNat ≤ 9 ∧ (2#5 : BitVec 5).toNat + ((1#3 : BitVec 3).toNat + 1) ≤ 32 ∧
    mqAddress msq11 2 8 = 0x4008 ∧ 0x4008 % 8 = 0 ∧ state11.msqElements 0 0x4008 2 64 6 = .ok 0 ∧
    state11.span 0 (spanFuel 16) 0x4008 16 Need.write 6 = .ok [(.main, 0x4008, 16)] ∧ (msq11.reg 0).toNat ≤ 128 ∧
    (3#2 : BitVec 2).toNat ≥ 2 ∧ (2#5 : BitVec 5).toNat % 2 = 0 ∧ (state11.block 0).mjoin.getLsbD 2 = true ∧ msq11.wtd = false ∧
    (Table.get {} (state11.block 0).nb 2).msq = false ∧ ({ msq11 with wtd := true }).wtd = true :=
  ⟨rfl, rfl, by decide, (fun h => by cases h), by decide, by decide, by decide, by decide +kernel, by decide, ok_of (by decide +kernel), ok_of (by decide +kernel),
    by decide +kernel, by decide, by decide, by decide +kernel, rfl, rfl, rfl⟩

/-- MMA, MMAS, MLDT and MSTT that pass their checks, and MMA with an odd descriptor; bands that commit and that stop. -/
def mma11 (qa : BitVec 5) : MmaForm := { t := 1, fa := 0, fb := 0, qa := qa, qb := 2, qs := 0, sc := false, z := false, k := 2 }
def mmas11 : MmaForm := { mma11 2 with k := 32 }
def mstt11 : MsttForm := { t := 1, fmt := 0, qa := 2, rnd := 0, bo := false, qbo := 0 }
def working (e : Instr) : Msq := { msq11 with job := some e }
/-- MLDT whose rows lie on page 0, and past it, where nothing is mapped. -/
def loading11 (a : W64) : Msq := { working (.mldt 1 0 2) with q := [(2, a), (3, 8#64)] }

theorem isOk_exists {ε α : Type} {e : Except ε α} (h : e.isOk = true) : ∃ u, e = .ok u := by
  cases e with
  | ok u => exact ⟨u, rfl⟩
  | error p => cases h
theorem isError_exists {ε α : Type} {e : Except ε α} (h : e.isOk = false) : ∃ p, e = .error p := by
  cases e with
  | ok u => cases h
  | error p => exact ⟨p, rfl⟩

theorem bands11 : (loading11 0x4000#64).bandsLeft = [0] ∧ ({ working (.mldt 1 0 2) with mrp := 0#128 } : Msq).bandsLeft = [] := by decide +kernel

theorem witness_MatrixEngineComplete : state11.cur = .msq 0 ∧ stopOf (msq11.plan (mma11 2) none) = none ∧ stopOf (msq11.plan (mma11 1) none) = some { code := 1 } ∧
    stopOf (msq11.plan mmas11 (some (2, 2))) = none ∧ stopOf (msq11.mldtPlan 0 2) = none ∧ stopOf (msq11.msttPlan mstt11) = none ∧
    (∀ a : W64, ((sequencing (loading11 a)).block 0).msq.job = some (.mldt 1 0 2) ∧
      ((sequencing (loading11 a)).block 0).place = .resident ∧ ((sequencing (loading11 a)).block 0).msq.state = .running ∧
      ((sequencing (loading11 a)).block 0).msq.bandsLeft = [0]) ∧ (∃ u, (sequencing (loading11 0x4000#64)).commitBand 0 0 (.mldt 1 0 2) = .ok u) ∧
    (∃ p, (sequencing (loading11 0x10000000#64)).commitBand 0 0 (.mldt 1 0 2) = .error p) ∧
    (let m := { working (.mldt 1 0 2) with mrp := 0#128 }
     ((sequencing m).block 0).msq.job = some (.mldt 1 0 2) ∧ ((sequencing m).block 0).place = .resident ∧ ((sequencing m).block 0).msq.state = .running ∧
     ((sequencing m).block 0).msq.bandsLeft = []) ∧ Table.risingFrom 0 state11.blocks = true ∧ (Table.find state11.blocks 0).isSome := by
  refine ⟨rfl, ?_, ?_, ?_, ?_, ?_, fun _ => ⟨rfl, rfl, rfl, bands11.1⟩, isOk_exists (by decide +kernel), isError_exists (by decide +kernel), ⟨rfl, rfl, rfl,
    bands11.2⟩, rfl, rfl⟩ <;> decide +kernel

theorem witness_SequencerImmediates : (let w : W64 := 0x040A0000FFFFFFFE#64; w.extractLsb' 56 8 = 0x04#8 ∧ w.extractLsb' 32 17 = 0#17 ∧ w.extractLsb' 49 2 ≠ 3#2) ∧
    (let w : W64 := 0x040E000000000000#64; w.extractLsb' 56 8 = 0x04#8 ∧ w.extractLsb' 32 17 = 0#17 ∧ w.extractLsb' 49 2 = 3#2) ∧ state11.cur = .msq 0 ∧ (2#2 : BitVec 2) ≠ 3#2 :=
  ⟨by decide +kernel, by decide +kernel, rfl, by decide⟩

/-! Scheduling. Block 0 of a core in the first partition has two groups, of which group 0 holds a track that group 1 has claimed or may claim. -/

def partition12 : Table Partition := [(0, Partition.whole 0)]
def claims12 (c : Option Nat) : State := { state0 with
  time := 2000000, partitions := partition12, contexts := [(0, { watchdog := 5, idle := 5 })], cores := [(0, { corecap := 0x20C0C080#32 })], blocks := [(0, { nreg := 160, gcnt := 2 })]
  groups := [(0, { live := 3#32, track := some 0, trackPasses := 600, rotation := 200, claimedBy := c }), (1, { live := 1#32, waitSince := some 0 })] }
theorem witness_SchedulingEventsComplete_groups : (∃ w, ((claims12 none).group (gkey 0 1)).waitSince = some w ∧
      4096 * 1000 ≤ ((claims12 none).time - w) * (claims12 none).clock (((claims12 none).block 0).core / 128) ∧
      ∀ j ∈ (claims12 none).groupsOn ((claims12 none).block 0).core, j ≠ gkey 0 1 → ((claims12 none).group j).track ≠ none) ∧
    (claims12 none).freeTracks ((claims12 none).block 0).core = [] ∧ ((claims12 none).group (gkey 0 0)).pass = none ∧
    (claims12 none).othersWait (gkey 0 0) = true ∧
    ((claims12 none).group (gkey 0 1)).track = none ∧ ((claims12 none).block 0).place = .resident ∧
    (∀ j ∈ (claims12 none).groupsOn ((claims12 none).block 0).core, ((claims12 none).group j).claimedBy ≠ some (gkey 0 1)) ∧
    (claims12 none).claimTarget ((claims12 none).block 0).core = some 0 ∧ ((claims12 (some 1)).group 0).track = some 0 ∧
    ((claims12 (some 1)).group 0).claimedBy = some 1 ∧ 50000 * ((claims12 none).ticks + 1) ≤ (claims12 none).time ∧
    1000000 * ((claims12 none).samples + 1) ≤ (claims12 none).time ∧ ((claims12 none).context 0).watchdog ≠ 0 ∧
    ((claims12 none).context 0).watchdog ≤ ((claims12 none).context 0).idle :=
  ⟨⟨0, rfl, by decide +kernel⟩, by decide +kernel⟩

/-! Bind records: one that names no context; block 1 of grid 0, which has begun block 0 in slot 0; the switch-out of block 0; its resumption. -/

/-- A record of op `op` for core 0 with these fields. -/
def bindRecord (op ctx slot ref : Nat) : BitVec 128 := BitVec.ofNat 128 (op * 2 ^ 126 + ctx * 2 ^ 114 + slot * 2 ^ 101 + ref)
def binds12 (bl : Block) : State := { state0 with
  nextId := 9
  partitions := partition12, blocks := [(0, bl)], grids := [(0, { ctx := 0, queue := 0, order := 0, cont := false, l := { x := 2 }, bound := [(0, ())] })] }
def resident12 : Block := {}
def out12 : Block := { place := .out, image := 0x100000 }
theorem witness_SchedulingEventsComplete_bind : (∀ m ∈ (binds12 resident12).frozenMasters, m.1 ≠ 4 ∨ m.2.1 ≠ 0) ∧
    (let d := BindRec.ofBits (bindRecord 1 9 1 1)
     (binds12 resident12).bindViolates (128 * 0 + d.core) d.ctx (some d.grid) = true ∧ d.op = 1) ∧
    (let s := binds12 resident12
     let d := BindRec.ofBits (bindRecord 1 0 1 1)
     let sp : Spot := { core := 0, slot := 1, tag := 0, shm := 0, macros := 0 }
     d.op = 1 ∧ s.bindViolates (128 * 0 + d.core) d.ctx (some d.grid) = false ∧ (s.grid (gridKey d.ctx d.grid)).cont = false ∧
     d.ref < (s.grid (gridKey d.ctx d.grid)).l.blocks ∧ Table.find (s.grid (gridKey d.ctx d.grid)).bound d.ref = none ∧
     macroRun (s.blocksOn 0 []) ((s.grid (gridKey d.ctx d.grid)).l.needs d.ctx) = some 0 ∧
     s.bindFits 0 d ((s.grid (gridKey d.ctx d.grid)).l.needs d.ctx) = true ∧
     s.suits 0 d.ctx d.grid (d.ref / (s.grid (gridKey d.ctx d.grid)).l.c) none = true ∧ (s.startBlock sp (gridKey d.ctx d.grid) d.ref none).isSome = true) ∧
    (let s := binds12 resident12
     let d := BindRec.ofBits (bindRecord 3 0 0 0)
     d.op = 3 ∧ s.bindViolates (128 * 0 + d.core) d.ctx none = false ∧
     s.blocks.find? (fun e => e.2.core == 0 && e.2.slot == d.slot && e.2.ctx == d.ctx && e.2.place == .resident) = some (0, resident12) ∧
     d.ng = 0 ∧ d.tag = 0 ∧ d.ntag = 0 ∧ d.shm = 0 ∧ d.grid = 0 ∧ d.ref = 0) ∧
    (let s := binds12 out12
     let d := BindRec.ofBits (bindRecord 2 0 3 0x100000)
     d.op = 2 ∧ s.bindViolates (128 * 0 + d.core) d.ctx (some d.grid) = false ∧
     s.blocks.find? (fun e => e.2.place == .out && e.2.image == d.ref && e.2.ctx == d.ctx && e.2.grid == d.grid) = some (0, out12) ∧
     macroRun (s.blocksOn 0 []) out12.needs = some 0 ∧ s.imagePoisoned out12 = false ∧ s.bindFits 0 d out12.needs = true ∧ s.suitsBlock 0 0 = true ∧ s.block 0 = out12 ∧
     { s with poison := [(Space.sectorKey .main (sectorOf 0x100000), ())] }.imagePoisoned out12 = true) :=
  ⟨by decide, by decide +kernel, by decide +kernel, ⟨by decide +kernel, by decide +kernel, rfl, by decide +kernel⟩,
    ⟨by decide +kernel, by decide +kernel, rfl, by decide +kernel⟩⟩

/-- Block 0 has drained; the engine of its core is kept for no context, or for context 0, of which block 1 waits with a stream. -/
def drains12 (g : Option Nat) : State := { binds12 { place := .moving, image := 0x100000 } with
  cores := [(0, { grant := g })], blocks := [(0, { place := .moving, image := 0x100000 }), (1, { place := .out, image := 0x400000, stream := true })] }
theorem witness_SchedulingEventsComplete_drain : (∀ g ∈ [none, some 0], ((drains12 g).block 0).place = .moving ∧ ((drains12 g).block 0).arriving = false ∧ (drains12 g).drained 0 = true) ∧
    (let u := ((drains12 none).finishOut 0).settleLanded 0
     (u.core 0).grant = none) ∧
    (let u := ((drains12 (some 0)).finishOut 0).settleLanded 0
     (u.core 0).grant = some 0 ∧ (u.core 0).owner = none ∧ ((u.engineClaim 0 (fun x => x == 0)).bind (u.takeEngine 0)).isSome = true) ∧
    (let u := ((drains12 (some 7)).finishOut 0).settleLanded 0
     (u.core 0).grant = some 7 ∧ (u.core 0).owner = none ∧ (u.engineClaim 0 (fun x => x == 7)).isNone = true) := by decide +kernel

/-! Fault service. Context 0 maps page 0 to 0x50000 and the 2 MiB from 0x200000 by one leaf; page 1 has no entry. Partition 0 has a fault ring of 16 records. -/

def tables13 : Memory := ((((State.reset.mem.writeNat 0x10000 8 0x20001).writeNat 0x20000 8 0x30001).writeNat 0x30000 8 0x40001).writeNat 0x30008 8 0x2003C3).writeNat 0x40000 8 0x503C7
def page13 : Page := { regs := [(0, 0x1000#64), (8, 4#64), (0x80, 0x10000#64), (0x88, 1#64)] }
def serving (pg : Page) (stage : Nat) : State := { state0 with
  mem := tables13, partitions := partition12, contexts := [(0, { root := 0x10000 })], walks := [(0, ()), (1, ())], cur := .partition 0, pages := [(0, pg)]
  faults := [(3, { ctx := 0, va := 0x10000, cause := 1, source := 0, access := 0, unit := 0, stage := stage, serial := 5 })] }
theorem walk13 : isOk ((serving page13 0).walk 0 0) (leafOf 0x503C7 16) = true ∧ isError ((serving page13 0).walk 0 (1 * 65536)) 1 = true := by decide +kernel

theorem witness_FaultServiceCompletes_faults : (∀ page ∈ [0, 1], (Table.find (serving page13 0).walks (pageKey 0 (page * 65536))).isSome) ∧
    (∃ l, State.walk { serving page13 0 with walks := Table.erase (serving page13 0).walks (pageKey 0 (0 * 65536)) } 0 (0 * 65536) = .ok l) ∧
    (∃ c, State.walk { serving page13 0 with walks := Table.erase (serving page13 0).walks (pageKey 0 (1 * 65536)) } 0 (1 * 65536) = .error c) ∧
    (∀ stage ∈ [0, 1], ∃ f, Table.find (serving page13 stage).faults 3 = some f ∧ f.stage = stage ∧
      ((serving page13 stage).page ((serving page13 stage).context f.ctx).partition).ringRoom = true ∧ (serving page13 stage).heldEarlier 3 f = false) ∧
    (∃ f, Table.find (serving {} 0).faults 3 = some f ∧ f.stage = 0 ∧ ((serving {} 0).page ((serving {} 0).context f.ctx).partition).ringRoom = false) ∧
    (serving page13 0).mem.wf = true ∧
    (∀ v ∈ [5#64, 0x1000000000000005#64], v.toNat / 2 ^ 48 % 2 ^ 12 = 0 ∧ (serving page13 2).contextIn 0 0 = true ∧
      ∃ f, (serving page13 2).faults.find? (fun e => e.2.stage == 2 && e.2.ctx == 0 && e.2.serial == v.toNat % 2 ^ 32) = some (3, f)) ∧
    (0x1000000000000005#64 : W64).getLsbD 60 = true ∧ (5#64 : W64).getLsbD 60 = false :=
  ⟨by decide, ⟨_, ok_of walk13.1⟩, ⟨_, error_of walk13.2⟩, by
    simp only [List.mem_cons, List.not_mem_nil, or_false]
    rintro _ (rfl | rfl) <;> exact ⟨_, rfl, rfl, by decide +kernel, by decide +kernel⟩, ⟨_, rfl, rfl, by decide +kernel⟩, by decide +kernel, by
    simp only [List.mem_cons, List.not_mem_nil, or_false]
    rintro _ (rfl | rfl) <;> exact ⟨by decide, by decide +kernel, _, rfl⟩, by decide, by decide⟩

/-- Invalidations and hand-overs: of page 0, of the leaf that extends beyond the range, and of no pages; acquire and release; an acquire under way. -/
def inval13 (ctx : Nat) : Inval := { ctx := ctx, page := 1, pages := 1, upto := 0, counted := true }
def handing (base len : W64) (release : Bool) : List W64 := [base, len, if release then 0x10000#64 else 0#64, 9#64]
def hands13 (ws : List W64) (acq : Option Inval) : State := serving { page13 with handovers := [ws], acquiring := acq, invals := [inval13 0] } 2
def invalPage (ctx : W64) : Page := { page13 with regs := [(0x80, 0x10000#64), (0x88, ctx <<< 32 ||| 1#64)] }
def taken13 : Option Inval := some ((Handover.ofWords (handing 0#64 0x10000#64 false)).inval 0)
theorem witness_FaultServiceCompletes_ranges :
    (∃ i : Inval, i = { ctx := ((serving page13 0).page 0).reg 0x88 / 2 ^ 32 % 2 ^ 12, page := ((serving page13 0).page 0).reg 0x80 / 2 ^ 16 % 2 ^ 41
                        pages := ((serving page13 0).page 0).reg 0x88 % 2 ^ 32, upto := (serving page13 0).nextId + 1, counted := true } ∧ (serving page13 0).contextIn 0 i.ctx = true) ∧
    (∃ ctx, (State.contextIn { serving page13 0 with partitions := [(0, { Partition.whole 0 with contexts := (1, 5) })] } 0 ctx) = false ∧ ctx = 0) ∧
    ((serving { page13 with invals := [inval13 0] } 0).page 0).invals = [inval13 0] ∧
    (∀ release ∈ [true, false], ∀ ws ∈ [handing 0#64 0#64 release, handing 0x200000#64 0x10000#64 release, handing 0#64 0x10000#64 release],
      ((hands13 ws none).page 0).handovers = [ws] ∧ ((hands13 ws none).page 0).acquiring = none ∧ (Handover.ofWords ws).release = release) ∧
    (∀ release ∈ [true, false], (hands13 (handing 0#64 0#64 release) none).handoverOk 0 (handing 0#64 0#64 release) = false ∧
      (hands13 (handing 0x200000#64 0x10000#64 release) none).handoverOk 0 (handing 0x200000#64 0x10000#64 release) = true ∧
      (hands13 (handing 0x200000#64 0x10000#64 release) none).leafBeyond (Handover.ofWords (handing 0x200000#64 0x10000#64 release)) = true ∧
      (hands13 (handing 0#64 0x10000#64 release) none).handoverOk 0 (handing 0#64 0x10000#64 release) = true ∧
      (hands13 (handing 0#64 0x10000#64 release) none).leafBeyond (Handover.ofWords (handing 0#64 0x10000#64 release)) = false) ∧
    (∃ i, ((hands13 (handing 0#64 0x10000#64 false) taken13).page 0).acquiring = some i ∧ (hands13 (handing 0#64 0x10000#64 false) taken13).invalDone i = true ∧
      (hands13 (handing 0#64 0x10000#64 false) taken13).rangeQuiet i = true) ∧
    (∃ i, ((hands13 (handing 0#64 0x10000#64 true) taken13).page 0).acquiring = some i ∧ (hands13 (handing 0#64 0x10000#64 true) taken13).invalDone i = true) :=
  ⟨⟨_, rfl, by decide +kernel⟩, ⟨0, by decide +kernel, rfl⟩, rfl, by decide +kernel, by decide +kernel, ⟨_, rfl, by decide +kernel⟩, ⟨_, rfl, by decide +kernel⟩⟩

/-! Commands of a partition, of context 0, which is there, or of context 1, which is not. A context record stands at 0x5000, a queue record at 0x6000. -/

def command14 (op ctx : Nat) (a b : W64) : List W64 := [BitVec.ofNat 64 (op + 65536 * ctx + 2 ^ 32 * 7), a, b]
def commanded (ws : List W64) : State := { state0 with
  mem := (State.reset.mem.writeNat 0x5000 64 0x10000).writeNat 0x6000 64 (0x8000 + 2 ^ 64 * 12), partitions := partition12, cur := .partition 0
  pages := [(0, { commands := [ws] })], queues := [(5, { record := 0x7000 })] }

theorem witness_HostCommandsComplete_commands : (∀ ws, (commanded ws).cur = .partition 0 ∧ ((commanded ws).page 0).commands = [ws] ∧
      ((commanded ws).page 0).destroying = none) ∧
    (∀ c ∈ [(0, 0), (1, 1), (2, 1), (3, 1), (4, 1), (5, 1), (6, 1)],
      (commanded (command14 c.1 c.2 0#64 0#64)).commandOk 0 (Command3.ofWords (command14 c.1 c.2 0#64 0#64)) = false ∧
      (Command3.ofWords (command14 c.1 c.2 0#64 0#64)).op = c.1) ∧
    (let ws := command14 0 1 0x5000#64 0#64
     let c := Command3.ofWords ws
     (commanded ws).commandOk 0 c = true ∧ c.op = 0 ∧ (commanded ws).ownedAt 0 c.a 64 = true ∧
     (commanded ws).contextRecordOk 0 ((commanded ws).mem.readNat c.a 64) = true ∧ ((commanded ws).remapSpot 0).isSome ∧
     { commanded ws with partitions := [(0, { Partition.whole 0 with save := (0, 0) })] }.remapSpot 0 = none) ∧
    (let ws := command14 1 0 0x5000#64 0#64
     let c := Command3.ofWords ws
     (commanded ws).commandOk 0 c = true ∧ c.op = 1 ∧ (commanded ws).ownedAt 0 c.a 64 = true ∧
     (commanded ws).contextRecordOk 0 ((commanded ws).mem.readNat c.a 64) = true ∧ ((commanded ws).page 0).reloading = none ∧
     ∃ i, (State.page { commanded ws with pages := [(0, { commands := [ws], reloading := some (inval13 0) })] } 0).reloading = some i) ∧
    (let ws := command14 2 0 0#64 0#64
     (commanded ws).commandOk 0 (Command3.ofWords ws) = true ∧ (Command3.ofWords ws).op = 2) ∧
    (let ws := command14 3 0 3#64 0x6000#64
     let c := Command3.ofWords ws
     let x := (commanded ws).mem.readNat c.b 64
     (commanded ws).commandOk 0 c = true ∧ c.op = 3 ∧ inRange ((commanded ws).partition 0).slots c.a 1 = true ∧ (commanded ws).ownedAt 0 c.b 64 = true ∧
     recordLegal x = true ∧ (Queue.ofRecord x).ctx = c.ctx ∧ ((commanded ws).queue c.a).state ≠ 1 ∧ ((commanded ws).queue c.a).state ≠ 2 ∧
     ∀ e ∈ (commanded ws).queues, e.2.record ≠ c.b ∨ e.2.ctx ≠ c.ctx) ∧
    (let ws := command14 4 0 5#64 0#64
     let c := Command3.ofWords ws
     (commanded ws).commandOk 0 c = true ∧ c.op = 4 ∧ inRange ((commanded ws).partition 0).slots c.a 1 = true ∧ ((commanded ws).queue c.a).ctx = c.ctx ∧
     ((commanded ws).queue c.a).record ≠ 0 ∧ c.b = 0) ∧
    (let ws := command14 5 0 0x114#64 0#64
     let c := Command3.ofWords ws
     (commanded ws).commandOk 0 c = true ∧ c.op = 5 ∧ c.a / 512 = 0 ∧ c.a / 2 % 2 = 0 ∧
     inRange (if c.a % 2 = 0 then ((commanded ws).partition 0).entries0 else ((commanded ws).partition 0).entries1) (c.a / 4 % 64) 1 = true) ∧
    (let ws := command14 6 0 0x21084#64 0#64
     (commanded ws).commandOk 0 (Command3.ofWords ws) = true ∧ (Command3.ofWords ws).op = 6) :=
  ⟨fun _ => ⟨rfl, rfl, rfl⟩, by decide +kernel, by decide +kernel, ⟨by decide +kernel, by decide +kernel, by decide +kernel, by decide +kernel, rfl, _,
    rfl⟩, by decide +kernel⟩

/-- Context 0 is ending with nothing left; tails that are taken and refused; BAR2; a master that is not frozen, and one of each kind that is. -/
def ends14 (d : Option (Nat × Nat)) : State := { state0 with contexts := [(0, { ending := true })], cur := .partition 0, pages := [(0, { destroying := d })] }
def queue14 (fed : Bool) : Queue := { head := 4, tail := 8, state := 1, fed := fed }
def frozen14 : List (Nat × Nat × Option Nat) := [(0, 0, some 0), (2, 0, none), (3, 1, some 0), (4, 2, none)]
def tails (fed : Bool) : State := { state0 with queues := [(2, queue14 fed)], frozenMasters := frozen14 }
theorem witness_HostCommandsComplete : (∀ d ∈ [none, some (0, 7)], (∃ x, (ends14 d).contexts.find? (fun e => e.2.ending && e.2.partition == 0 &&
      (ends14 d).destroyReady e.1) = some (0, x)) ∧ ((ends14 d).page 0).destroying = d) ∧
    Table.find (tails false).queues 2 = some (queue14 false) ∧ (16 % 4 = 0 ∧ max (queue14 false).tail ((queue14 false).captured.getD (queue14 false).tail) ≤ 16 ∧
      16 ≤ (queue14 false).head + 2 ^ (queue14 false).n) ∧ (queue14 false).state ≠ 3 ∧ (17 % 4 ≠ 0 ∧ 4 < (queue14 false).tail) ∧
    Table.find (tails true).queues 2 = some (queue14 true) ∧ (tails true).stage = 3 ∧ (tails true).mem.wf = true ∧
    (tails true).inDevice 0x100 8 = true ∧ (tails true).poisonedIn .main 0x100 8 = false ∧ 0x100 % 8 = 0 ∧ (tails true).inDevice (2 ^ 50) 8 = false ∧
    ((tails true).descriptorOk 0 (Partition.whole 0) = false ∧ (∀ ways, (tails true).descriptorOk 1 { ways := ways } = true) ∧
      (∀ die < 2, ∀ q < 8, q ≠ 1 → ((tails true).wayMask (8 * die + q) &&& (0#16 : BitVec 16).setWidth 32) = 0#32) ∧
      ∀ die < 2, ∃ q < 8, q ≠ 1 ∧ ((tails true).wayMask (8 * die + q) &&& (1#16 : BitVec 16).setWidth 32) ≠ 0#32) ∧
    (∀ m ∈ [Master.host, .power], ∀ f ∈ (tails true).frozenMasters, (f.1, f.2.1) ≠ masterKey m) ∧
    (∀ f ∈ frozen14, (tails true).frozenMasters.find? (fun x => x.1 == f.1 && x.2.1 == f.2.1) = some f) :=
  ⟨by
    simp only [List.mem_cons, List.not_mem_nil, or_false]
    rintro _ (rfl | rfl) <;> exact ⟨⟨_, rfl⟩, rfl⟩, rfl, by decide, by decide, by decide, rfl, rfl, rfl, by decide +kernel, by decide +kernel, rfl,
    by decide +kernel, ⟨by decide +kernel, fun _ => rfl, by decide +kernel⟩, by decide +kernel⟩

/-! Errors and recovery: an error of a DRAM row under test, a core that waits for a lower capacity, a channel at half width, and a load of host memory. -/

def hostLoad (r : Req) : Bool := r.kind = .load && r.space = .main && r.lanes.all (fun l => decide (hostBase ≤ l.addr))
def recovering : State := { state0 with
  tests := [(4, { site := .row 0x20000, corrected := false })], cores := [(0, {}), (1, { pending := some 0x3040C07F#32 })], stackSet := [(2, { half := 1#32 })]
  reqs := [(6, { b := 0, g := 0, ctx := 0, core := 0, kind := .load, space := .main, origin := 0#64, lanes := [{ t := 0, va := 0, addr := hostBase, w := 4 }] })] }
theorem witness_RecoveryCompletes : recovering.dark = false ∧ recovering.siteExists (.row 0x20000) = true ∧ (∃ t, Table.find recovering.tests 4 = some t) ∧
    (recovering.core 1).pending = some 0x3040C07F#32 ∧ (∀ e ∈ recovering.blocks, e.2.core = 1 → e.2.place ≠ .resident ∧ e.2.place ≠ .moving) ∧
    (recovering.stack 2).half.getLsbD 0 = true ∧ (recovering.stack 2).hot = false ∧
    (∃ r, Table.find recovering.reqs 6 = some r ∧ hostLoad r = true ∧ r.logged = none) :=
  ⟨rfl, by decide +kernel, ⟨_, rfl⟩, rfl, by decide, by decide, rfl, _, rfl, by decide +kernel, rfl⟩

/-! Firmware and start. The verification of an image rests on keys the spec does not give: images that verify are taken as given (log 15). -/

def updating (f : Flash) (n : W64) : State := { State.reset with flash := f, fwlen := n, fwaddr := 0x10000#64 }
theorem zeros15 (n : Nat) (a : Nat) : imageField (Memory.readList [] a (n + 4)) 0 4 = 0 := by
  unfold imageField
  rw [List.drop_zero]
  simp only [Memory.readList, List.take_succ_cons, List.take_zero]
  rfl
/-- What no write has touched holds no image: its format is 0. -/
theorem notAccepted15 : ({} : Flash).accepts (Memory.readList [] (hostBase + 0x10000) 8192) = false := by
  have h := zeros15 8188 (hostBase + 0x10000)
  simp only [Nat.reduceAdd] at h
  unfold Flash.accepts Flash.verifies imageFormed
  rw [h]
  simp

theorem witness_StartAndTrustComplete_firmware : (updating {} 0#64).frozen = false ∧ Master.host = (if (updating {} 0#64).stage = 3 then .management else .host) ∧
    (updating {} 100#64).fwlen.toNat < 8192 ∧ (8192 ≤ (updating {} 8192#64).fwlen.toNat ∧ (updating {} 8192#64).fwlen.toNat ≤ 67108864) ∧
    ({} : Flash).accepts (Memory.readList (updating {} 8192#64).mem (hostBase + 0x10000) 8192) = false ∧ (∀ img, { updating {} 0#64 with running := some img }.running = some img) :=
  ⟨rfl, by decide, by decide, by decide, notAccepted15, fun _ => rfl⟩

/-- A start with no image ends in an error; one whose image verifies goes on. -/
theorem witness_StartAndTrustComplete_start (f : Flash) (h : f.startError = 0) : (updating {} 0#64).dark = false ∧ (updating {} 0#64).stage = 0 ∧
    (updating {} 0#64).startErr = 0 ∧ (updating {} 0#64).flash.startError ≠ 0 ∧ (updating f 0#64).dark = false ∧ (updating f 0#64).stage = 0 ∧
    (updating f 0#64).startErr = 0 ∧ (updating f 0#64).flash.startError = 0 :=
  ⟨rfl, rfl, rfl, by decide, rfl, rfl, rfl, h⟩

/-- The responder at each stage, with its alias key and without, and a device not tripped. -/
theorem witness_StartAndTrustComplete_responder : (∀ k ∈ [1, 2, 3], let s : State := { state0 with alias_ := true, spdmStage := k, signed := 1, lastSigned := some 5 }
      s.alias_ = true ∧ k ≤ s.spdmStage ∧ s.lastSigned = some 5) ∧ state0.alias_ = false ∧ state0.tripped = false := by decide

def darkState : State := { state0 with frozen := true, agenda := [.event .powerEmergency] }
theorem witness_DarkStays : darkState.dark = true ∧ (∃ t, step darkState = .next t) ∧
    (∀ rest, darkState.agenda ≠ .event .deviceReset :: rest ∧ darkState.agenda ≠ .event .powerGood :: rest) ∧
    (∀ rest, darkState.agenda ≠ .event .thermalTrip :: rest) :=
  ⟨rfl, ⟨_, rfl⟩, by simp [darkState], by simp [darkState]⟩

end Sys2Proof.Tests
end

section
/-! SUPPORT. The MLI word of the matrix sequencer (05 R145): what its word decodes to, and what it loads. -/

namespace Sys2Proof.Machine

/-! ### The word -/

/-- A matrix word of opcode 0x04 is an MLI of its fields, clean where bits 48:32 are zero. -/
theorem matrixInstr_mli {w : W64} (hop : w.extractLsb' 56 8 = 0x04#8) :
    matrixInstr w = some (.mli (w.extractLsb' 51 5) (w.extractLsb' 49 2) (w.extractLsb' 0 32), zeros w 48 32) := by
  simp [matrixInstr, matrixOp, hop]

/-- A clean MLI word is left to the check of its mode. -/
theorem decodeMatrix_mli {w : W64} (hop : w.extractLsb' 56 8 = 0x04#8) (hzero : w.extractLsb' 32 17 = 0#17) :
    decodeMatrix w = judge (matrixOp w) (some (.mli (w.extractLsb' 51 5) (w.extractLsb' 49 2) (w.extractLsb' 0 32))) := by
  have hclean : zeros w 48 32 = true := by simp [zeros, hzero]
  simp [decodeMatrix, matrixInstr_mli hop, hclean]

theorem wellFormed_mli_iff (qd : BitVec 5) (mode : BitVec 2) (imm : BitVec 32) :
    (Instr.mli qd mode imm).wellFormed = true ↔ mode ≠ 3#2 := by
  simp [Instr.wellFormed]

theorem judge_wellFormed (op : Nat) {i : Instr} (h : i.wellFormed = true) : judge op (some i) = .ok i := by
  simp [judge, h]

theorem judge_not_wellFormed (op : Nat) {i : Instr} (h : ¬ i.wellFormed = true) : judge op (some i) = .error (.illegal op) := by
  simp [judge, h]

/-! ### The load -/

/-- What MLI writes over `old`, for the modes that are not reserved. -/
def mliValue (mode : BitVec 2) (imm : BitVec 32) (old : W64) : W64 :=
  if mode = 0#2 then imm.signExtend 64
  else if mode = 1#2 then imm.setWidth 64
  else (old &&& 0xFFFFFFFF#64) ||| (imm.setWidth 64 <<< 32)

theorem onMsq_of_cur {s : State} {b : Nat} (h : s.cur = .msq b) (f : Nat → Msq → State) : s.onMsq f = f b (s.block b).msq := by
  simp [State.onMsq, h]

theorem exec_mli {s : State} {b : Nat} (qd : BitVec 5) {mode : BitVec 2} (imm : BitVec 32) (hcur : s.cur = .msq b) (hmode : mode ≠ 3#2) :
    exec (.mli qd mode imm) s =
      .next (s.modMsq b (fun m => (m.setReg qd.toNat (mliValue mode imm ((s.block b).msq.reg qd.toNat))).next)) := by
  change execMli qd mode imm s = _
  rw [execMli, onMsq_of_cur hcur]
  have hcases : mode = 0#2 ∨ mode = 1#2 ∨ mode = 2#2 := by bv_omega
  obtain rfl | rfl | rfl := hcases <;> rfl

theorem mliValue_signed (imm : BitVec 32) (old : W64) : (mliValue 0#2 imm old).toInt = imm.toInt :=
  BitVec.toInt_signExtend_of_le (by decide)

theorem mliValue_unsigned (imm : BitVec 32) (old : W64) : (mliValue 1#2 imm old).toNat = imm.toNat := by
  have hvalue : mliValue 1#2 imm old = imm.setWidth 64 := rfl
  rw [hvalue, BitVec.toNat_setWidth_of_le (by decide)]

theorem lowMask_getLsbD (i : Nat) : (0xFFFFFFFF#64).getLsbD i = decide (i < 32) := by
  rw [BitVec.getLsbD_ofNat, show 0xFFFFFFFF = 2 ^ 32 - 1 from rfl, Nat.testBit_two_pow_sub_one]
  have hwidth : i < 32 → i < 64 := fun h => Nat.lt_trans h (by decide)
  simpa only [Bool.and_eq_right_iff_imp, decide_eq_true_eq] using hwidth

/-- Mode 2 puts the immediate above the lower half of the register. -/
theorem mliValue_upper (imm : BitVec 32) (old : W64) : mliValue 2#2 imm old = imm ++ old.extractLsb' 0 32 := by
  have hvalue : mliValue 2#2 imm old = (old &&& 0xFFFFFFFF#64) ||| (imm.setWidth 64 <<< 32) := rfl
  rw [hvalue]
  apply BitVec.eq_of_getLsbD_eq
  intro i hi
  rw [BitVec.getLsbD_or, BitVec.getLsbD_and, lowMask_getLsbD, BitVec.getLsbD_append]
  by_cases hlow : i < 32
  · simp [hlow]
  · simp [hlow, hi]

/-- Settles O51: the decoder leaves a clean MLI word to the check of its mode, and `mliValue` is what the word loads. -/
theorem sequencerImmediates : Obligations.SequencerImmediates := by
  unfold Obligations.SequencerImmediates
  refine ⟨fun w hop hzero => ⟨fun hmode => ?_, fun hmode => ?_⟩, fun s b qd mode imm hcur hmode =>
    ⟨mliValue mode imm ((s.block b).msq.reg qd.toNat), exec_mli qd imm hcur hmode, ?_, ?_, ?_⟩⟩
  · rw [decodeMatrix_mli hop hzero, judge_wellFormed _ ((wellFormed_mli_iff _ _ _).mpr hmode)]
  · exact ⟨_, (decodeMatrix_mli hop hzero).trans (judge_not_wellFormed _ fun h => (wellFormed_mli_iff _ _ _).mp h hmode)⟩
  · rintro rfl
    exact mliValue_signed imm _
  · rintro rfl
    exact mliValue_unsigned imm _
  · rintro rfl
    rw [mliValue_upper]
    exact ⟨BitVec.extractLsb'_append_eq_left, BitVec.extractLsb'_append_eq_right⟩

end Sys2Proof.Machine
end

section
/-! SUPPORT. GSET, GCMP and TTLD (06 R180, R181, R188): their words, how a word of a running context completes or stops it, and the values they write. -/

namespace Sys2Proof.Machine

/-! ### The words -/

theorem burrowOp_of_opcode {w : W32} {n : BitVec 6} (hop : w.extractLsb' 26 6 = n) : burrowOp w = n.toNat := by
  rw [burrowOp, hop]

/-- A word whose zero bits are zero is left to the check of its fields. -/
theorem decodeBurrow_clean {w : W32} {i : Instr} (h : burrowInstr w = some (i, true)) : decodeBurrow w = judge (burrowOp w) (some i) := by
  simp [decodeBurrow, h]

theorem decodeBurrow_gset {w : W32} (hop : w.extractLsb' 26 6 = 0x0A#6) (hzero : w.extractLsb' 16 3 = 0#3) :
    decodeBurrow w = judge (burrowOp w) (some (.gset (bsFields w))) :=
  decodeBurrow_clean (by simp [burrowInstr, burrowOp_of_opcode hop, hzero])

theorem decodeBurrow_gcmp {w : W32} (hop : w.extractLsb' 26 6 = 0x0B#6) (hzero : w.extractLsb' 8 2 = 0#2) :
    decodeBurrow w = judge (burrowOp w) (some (.gcmp (brFields w))) :=
  decodeBurrow_clean (by simp [burrowInstr, burrowOp_of_opcode hop, hzero])

theorem decodeBurrow_ttld {w : W32} (hop : w.extractLsb' 26 6 = 0x1D#6) (hzero : w.extractLsb' 8 2 = 0#2) :
    decodeBurrow w = judge (burrowOp w) (some (.ttld (brFields w))) :=
  decodeBurrow_clean (by simp [burrowInstr, burrowOp_of_opcode hop, hzero])

theorem brLegal_gcmp_iff (f : BrForm) : brLegal 0x0B f = true ↔ f.c = 0#4 ∧ f.sub.toNat ≤ 5 := by
  simp [brLegal, z4, Nat.lt_succ_iff]

theorem brLegal_ttld_iff (f : BrForm) : brLegal 0x1D f = true ↔ f.d = 0#4 ∧ f.sub = 0#8 := by
  simp [brLegal, z4, BitVec.toNat_eq]

theorem wellFormed_gcmp_iff (f : BrForm) : (Instr.gcmp f).wellFormed = true ↔ f.c = 0#4 ∧ f.sub.toNat ≤ 5 := brLegal_gcmp_iff f

theorem wellFormed_ttld_iff (f : BrForm) : (Instr.ttld f).wellFormed = true ↔ f.d = 0#4 ∧ f.sub = 0#8 := brLegal_ttld_iff f

/-! ### A word of a running context -/

section Running
variable {s : State} {key : Nat} {c : BeCtx}

theorem Runs.engine_eq (h : Runs s key c) : s.engine key = c := by
  simp [State.engine, Table.get, h.found]

theorem Runs.onBe (h : Runs s key c) (f : Nat → BeCtx → State) : s.onBe f = f key c := by
  obtain ⟨⟨st, be, x, hcur, rfl⟩, hfound⟩ := h
  simp [State.onBe, hcur, hfound]

theorem Runs.beWord (h : Runs s key c) {legal : Bool} (hlegal : legal = true) (f : Nat → BeCtx → State) : s.beWord legal f = f key c := by
  simp [State.beWord, h.onBe, hlegal]

/-- Completing a word depends on the change only at the context that is there. -/
theorem Runs.beNext (h : Runs s key c) {f g : BeCtx → BeCtx} (hfg : f c = g c) : s.beNext key f = s.beGo key (c.upc + 1) g := by
  simp [State.beNext, State.beGo, State.modEngine, Table.modify, h.engine_eq, h.found, hfg]

end Running

/-! ### A stop takes the context away -/

theorem Quiet.engines {s t : State} (h : Quiet s t) : t.engines = s.engines :=
  (congrArg State.engines h.rest : t.rest.engines = s.rest.engines)

@[simp] theorem State.trapExited_engines (s : State) (b g t : Nat) (r : TrapRec) : (s.trapExited b g t r).engines = s.engines :=
  (Quiet.unhandled ..).engines

@[simp] theorem State.latchNear_engines (s : State) (b g t : Nat) (origin nfr bst : W64) :
    (s.latchNear b g t origin nfr bst).engines = s.engines := by
  simp only [State.latchNear]
  split
  · rfl
  · split
    · exact State.trapExited_engines ..
    · rfl

@[simp] theorem State.faultReport_engines (s : State) (core ctx who va : Nat) : (s.faultReport core ctx who va).engines = s.engines :=
  (Quiet.event ..).engines

@[simp] theorem State.putHeld_engines (s : State) (pages : List (Nat × Nat)) (va : Nat) (bs : List Byte) :
    (s.putHeld pages va bs).engines = s.engines := by
  induction bs generalizing s va with
  | nil => rfl
  | cons b rest ih => exact ih ..

@[simp] theorem State.testWork_engines (s : State) (id : Nat) : (s.testWork id).engines = s.engines := by
  simp only [State.testWork]
  split
  · rfl
  · split
    · exact State.putHeld_engines ..
    · rfl

@[simp] theorem State.freeImage_engines (s : State) (work stack : Nat) : (s.freeImage work stack).engines = s.engines := by
  simp only [State.freeImage]
  split <;> rfl

@[simp] theorem State.closeOpen_engines (s : State) (work : Nat) (stopped : Bool) : (s.closeOpen work stopped).engines = s.engines := by
  simp only [State.closeOpen]
  split
  · rfl
  · split <;> rfl

/-- A reported stop takes its context out of the engines, and no other (R175). -/
theorem State.endContext_stop_engines (s : State) (key : Nat) (stop : W64 × W64) {c : BeCtx} (hfound : Table.find s.engines key = some c) :
    (s.endContext key (some stop)).engines = Table.erase s.engines key := by
  simp only [State.endContext, hfound]
  cases c.who with
  | block w j => simp [State.freeHeaps]
  | streamed w => simp [State.freeHeaps]
  | walker q k => rfl

theorem State.reportStop_engines (s : State) (key : Nat) {c : BeCtx} (hfound : Table.find s.engines key = some c) :
    (s.reportStop key).engines = Table.erase s.engines key := by
  simp only [State.reportStop]
  split
  · rw [State.endContext_stop_engines (c := c)] <;> simp [hfound]
  · exact State.endContext_stop_engines _ _ _ hfound

theorem Table.risingFrom_modify {α : Type} {m : Table α} (k : Nat) (f : α → α) (h : Table.risingFrom 0 m = true) :
    Table.risingFrom 0 (Table.modify m k f) = true := by
  unfold Table.modify
  split
  · exact Table.risingFrom_put _ _ _ _ h (Nat.zero_le _)
  · exact h

/-- No context, and so no table of one, is left where a word has stopped (R174, R175). -/
theorem State.find_beStop_self {s : State} {key : Nat} {c : BeCtx} (hfound : Table.find s.engines key = some c)
    (hrising : Table.risingFrom 0 s.engines = true) (code : Nat) (w : Where) : Table.find (s.beStop key code w).engines key = none := by
  have hmod : ∀ f, Table.find (s.modEngine key f).engines key = some (f c) := fun f => by
    simp [State.modEngine, Table.find_modify, hfound]
  have hrising' : ∀ f, Table.risingFrom 0 (s.modEngine key f).engines = true := fun f => Table.risingFrom_modify key f hrising
  rw [State.beStop, State.reportStop_engines _ _ (hmod _), Table.find_erase (hrising' _), if_pos rfl]

/-! ### GSET -/

/-- What GSET writes over `old`. -/
def gsetValue (f : BsForm) (old : W64) : W64 :=
  if f.keep then (old &&& ~~~(0xFFFF#64 <<< (16 * f.hw.toNat))) ||| (f.imm.setWidth 64 <<< (16 * f.hw.toNat))
  else f.imm.setWidth 64 <<< (16 * f.hw.toNat)

theorem Runs.exec_gset {s : State} {key : Nat} {c : BeCtx} (h : Runs s key c) (f : BsForm) :
    exec (.gset f) s = .next (s.beGo key (c.upc + 1) (fun c' => c'.setReg f.d (gsetValue f (c.reg f.d)))) := by
  change execGset f s = _
  rw [execGset, h.beWord rfl]
  exact congrArg _ (h.beNext rfl)

theorem gsetValue_clearing {f : BsForm} (hkeep : f.keep = false) (old : W64) :
    (gsetValue f old).toNat = f.imm.toNat * 2 ^ (16 * f.hw.toNat) := by
  have hfits : f.imm.toNat * 2 ^ (16 * f.hw.toNat) < 2 ^ 64 := calc
    f.imm.toNat * 2 ^ (16 * f.hw.toNat) < 2 ^ 16 * 2 ^ (16 * f.hw.toNat) := Nat.mul_lt_mul_of_pos_right f.imm.isLt (Nat.two_pow_pos _)
    _ = 2 ^ (16 + 16 * f.hw.toNat) := (Nat.pow_add ..).symm
    _ ≤ 2 ^ 64 := Nat.pow_le_pow_right (by decide) (by have := f.hw.isLt; omega)
  have himm : (f.imm.setWidth 64).toNat = f.imm.toNat := BitVec.toNat_setWidth_of_le (by decide)
  simp only [gsetValue, hkeep, Bool.false_eq_true, if_false]
  rw [BitVec.toNat_shiftLeft, himm, Nat.shiftLeft_eq, Nat.mod_eq_of_lt hfits]

theorem halfwordMask_getLsbD (j : Nat) : (0xFFFF#64).getLsbD j = decide (j < 16) := by
  rw [BitVec.getLsbD_ofNat, show 0xFFFF = 2 ^ 16 - 1 from rfl, Nat.testBit_two_pow_sub_one]
  have hwidth : j < 16 → j < 64 := fun h => Nat.lt_trans h (by decide)
  simpa only [Bool.and_eq_right_iff_imp, decide_eq_true_eq] using hwidth

theorem gsetValue_keeping {f : BsForm} (hkeep : f.keep = true) (old : W64) {j : Nat} (hj : j < 64) :
    (gsetValue f old).getLsbD j = if 16 * f.hw.toNat ≤ j ∧ j < 16 * f.hw.toNat + 16 then f.imm.getLsbD (j - 16 * f.hw.toNat) else old.getLsbD j := by
  simp only [gsetValue, hkeep, if_true]
  generalize 16 * f.hw.toNat = n
  rw [BitVec.getLsbD_or, BitVec.getLsbD_and, BitVec.getLsbD_not, BitVec.getLsbD_shiftLeft, BitVec.getLsbD_shiftLeft, halfwordMask_getLsbD,
    BitVec.getLsbD_setWidth]
  by_cases hbelow : j < n
  · simp [hj, hbelow, show ¬n ≤ j by omega]
  · by_cases habove : j < n + 16
    · simp [hj, hbelow, show n ≤ j by omega, habove, show j - n < 16 by omega, show j - n < 64 by omega]
    · have himm : f.imm.getLsbD (j - n) = false := BitVec.getLsbD_of_ge _ _ (by omega)
      simp [hj, habove, himm, show ¬j - n < 16 by omega]

/-! ### GCMP -/

/-- The conditions as R181 names them, on the signed and unsigned readings of the registers. -/
def GcmpCondition (n : Nat) (a b : W64) : Prop :=
  match n with
  | 0 => a = b
  | 1 => a ≠ b
  | 2 => a.toInt < b.toInt
  | 3 => a.toInt ≤ b.toInt
  | 4 => a.toNat < b.toNat
  | _ => a.toNat ≤ b.toNat

theorem gcmpHolds_iff (n : Nat) (a b : W64) : gcmpHolds n a b = true ↔ GcmpCondition n a b := by
  match n with
  | 0 => exact beq_iff_eq
  | 1 => exact bne_iff_ne
  | 2 => exact BitVec.slt_iff_toInt_lt
  | 3 => exact BitVec.sle_iff_toInt_le
  | 4 => exact BitVec.ult_iff_toNat_lt
  | _ + 5 => exact BitVec.ule_iff_toNat_le

theorem Runs.exec_gcmp {s : State} {key : Nat} {c : BeCtx} (h : Runs s key c) {f : BrForm} (hlegal : brLegal 0x0B f = true) {x : W64}
    (hx : (if gcmpHolds f.sub.toNat (c.reg f.a) (c.reg f.b) then 1#64 else 0#64) = x) :
    exec (.gcmp f) s = .next (s.beGo key (c.upc + 1) (fun c => c.setReg f.d x)) := by
  subst hx
  change execGcmp f s = _
  rw [execGcmp, h.beWord hlegal]
  exact congrArg _ (h.beNext rfl)

/-! ### TTLD -/

/-- The table that TTLD loads from its two registers. -/
def ttldTable (a b : W64) : BitVec 128 := a.setWidth 128 ||| (b.setWidth 128 <<< 64)

theorem ttldTable_eq_append (a b : W64) : ttldTable a b = b ++ a := by
  apply BitVec.eq_of_getLsbD_eq
  intro i hi
  rw [ttldTable, BitVec.getLsbD_or, BitVec.getLsbD_shiftLeft, BitVec.getLsbD_append]
  by_cases hlow : i < 64
  · simp [hlow, hi]
  · have hlow_zero : a.getLsbD i = false := BitVec.getLsbD_of_ge a i (by omega)
    simp [hlow, hi, hlow_zero, show i - 64 < 128 by omega]

theorem tableRow_eq_extractLsb' (t : BitVec 128) (k : Nat) : tableRow t k = (t.extractLsb' (16 * k) 16).toNat := by
  rw [tableRow, BitVec.extractLsb'_toNat, Nat.shiftRight_eq_div_pow]

theorem tableRow_ttldTable_low (a b : W64) {k : Nat} (hk : k < 4) : tableRow (ttldTable a b) k = (a.extractLsb' (16 * k) 16).toNat := by
  rw [tableRow_eq_extractLsb', ttldTable_eq_append, BitVec.extractLsb'_append_eq_of_add_le (by omega)]

theorem tableRow_ttldTable_high (a b : W64) (k : Nat) : tableRow (ttldTable a b) (k + 4) = (b.extractLsb' (16 * k) 16).toNat := by
  rw [tableRow_eq_extractLsb', ttldTable_eq_append, BitVec.extractLsb'_append_eq_of_le (by omega), show 16 * (k + 4) - 64 = 16 * k by omega]

theorem rowTopMask_getLsbD : ∀ i < 64, (0xF000F000F000F000#64).getLsbD i = decide (12 ≤ i % 16) := by
  decide

/-- No row of a register is illegal where the mask of the rows' bits 15:12 takes none of its bits (R188). -/
theorem and_rowTopMask_eq_zero_iff (x : W64) :
    x &&& 0xF000F000F000F000#64 = 0#64 ↔ ∀ k < 4, x.extractLsb' (16 * k + 12) 4 = 0#4 := by
  constructor
  · intro h k hk
    apply BitVec.eq_of_getLsbD_eq
    intro j hj
    have hbit := congrArg (fun y => y.getLsbD (16 * k + 12 + j)) h
    simpa [rowTopMask_getLsbD (16 * k + 12 + j) (by omega), show 12 ≤ (16 * k + 12 + j) % 16 by omega, hj] using hbit
  · intro h
    apply BitVec.eq_of_getLsbD_eq
    intro i hi
    have hbit := congrArg (fun y => y.getLsbD (i % 16 - 12)) (h (i / 16) (by omega))
    rw [BitVec.getLsbD_and, rowTopMask_getLsbD i hi]
    by_cases htop : 12 ≤ i % 16
    · rw [BitVec.getLsbD_extractLsb', show 16 * (i / 16) + 12 + (i % 16 - 12) = i by omega] at hbit
      have hzero : x.getLsbD i = false := by simpa [show i % 16 - 12 < 4 by omega] using hbit
      simp [hzero]
    · simp [htop]

theorem Runs.exec_ttld {s : State} {key : Nat} {c : BeCtx} (h : Runs s key c) {f : BrForm} (hlegal : brLegal 0x1D f = true) :
    exec (.ttld f) s = .next (
      if ∀ k < 4, (c.reg f.a).extractLsb' (16 * k + 12) 4 = 0#4 ∧ (c.reg f.b).extractLsb' (16 * k + 12) 4 = 0#4
      then s.beGo key (c.upc + 1) (fun c' => { c' with tables := Table.set 0#128 c'.tables f.c.toNat (ttldTable (c.reg f.a) (c.reg f.b)) })
      else s.beStop key 1 {}) := by
  have hrows : (∀ k < 4, (c.reg f.a).extractLsb' (16 * k + 12) 4 = 0#4 ∧ (c.reg f.b).extractLsb' (16 * k + 12) 4 = 0#4) ↔
      c.reg f.a &&& 0xF000F000F000F000#64 = 0#64 ∧ c.reg f.b &&& 0xF000F000F000F000#64 = 0#64 := by
    rw [and_rowTopMask_eq_zero_iff, and_rowTopMask_eq_zero_iff]
    exact ⟨fun h => ⟨fun k hk => (h k hk).1, fun k hk => (h k hk).2⟩, fun ⟨ha, hb⟩ k hk => ⟨ha k hk, hb k hk⟩⟩
  change execTtld f s = _
  rw [execTtld, h.beWord hlegal]
  by_cases hlegalRows : c.reg f.a &&& 0xF000F000F000F000#64 = 0#64 ∧ c.reg f.b &&& 0xF000F000F000F000#64 = 0#64
  · rw [if_pos (hrows.mpr hlegalRows), if_neg (by simp [hlegalRows])]
    exact congrArg _ (h.beNext rfl)
  · rw [if_neg (mt hrows.mp hlegalRows), if_pos (by simpa [Classical.or_iff_not_imp_left] using hlegalRows)]
    rfl

/-! ### The obligation -/

/-- Settles O48: the three words are left to the check of their fields; what they write is `gsetValue`, `gcmpHolds` and `ttldTable`, and a stop of TTLD
leaves no context whose tables could differ. -/
theorem bankRegisterWords : Obligations.BankRegisterWords := by
  unfold Obligations.BankRegisterWords
  refine ⟨fun w hop hzero => ?_, fun w hop hzero => ⟨fun hfields => ?_, fun hfields => ?_⟩,
    fun w hop hzero => ⟨fun hfields => ?_, fun hfields => ?_⟩, fun s key c hruns => ⟨fun f => ?_, fun f holds hc hsub hholds => ?_, fun f hd hsub => ?_⟩⟩
  · rw [decodeBurrow_gset hop hzero, judge_wellFormed _ rfl, bsFields]
  · rw [decodeBurrow_gcmp hop hzero, judge_wellFormed _ ((wellFormed_gcmp_iff _).mpr hfields), brFields, hfields.1]
  · refine ⟨_, (decodeBurrow_gcmp hop hzero).trans (judge_not_wellFormed _ fun h => ?_)⟩
    obtain ⟨hc, hsub⟩ := (wellFormed_gcmp_iff _).mp h
    exact hfields.elim (· hc) (Nat.not_le_of_gt · hsub)
  · rw [decodeBurrow_ttld hop hzero, judge_wellFormed _ ((wellFormed_ttld_iff _).mpr hfields), brFields, hfields.1, hfields.2]
  · refine ⟨_, (decodeBurrow_ttld hop hzero).trans (judge_not_wellFormed _ fun h => ?_)⟩
    obtain ⟨hd, hsub⟩ := (wellFormed_ttld_iff _).mp h
    exact hfields.elim (· hd) (· hsub)
  · exact ⟨gsetValue f (c.reg f.d), hruns.exec_gset f, fun hkeep => gsetValue_clearing hkeep _, fun hkeep j hj => gsetValue_keeping hkeep _ hj⟩
  · have hlegal : brLegal 0x0B f = true := (brLegal_gcmp_iff f).mpr ⟨hc, hsub⟩
    have hiff : holds ↔ gcmpHolds f.sub.toNat (c.reg f.a) (c.reg f.b) = true := hholds.trans (gcmpHolds_iff ..).symm
    exact ⟨fun h => hruns.exec_gcmp hlegal (if_pos (hiff.mp h)), fun h => hruns.exec_gcmp hlegal (if_neg (mt hiff.mpr h))⟩
  · have hexec := hruns.exec_ttld ((brLegal_ttld_iff f).mpr ⟨hd, hsub⟩)
    refine ⟨fun hrows => ⟨ttldTable (c.reg f.a) (c.reg f.b), ?_, fun k hk => ⟨tableRow_ttldTable_low _ _ hk, tableRow_ttldTable_high _ _ k⟩⟩,
      fun ⟨k, hk, hrow⟩ => ⟨?_, fun hrising x hx => ?_⟩⟩
    · rw [hexec, if_pos hrows]
    · rw [hexec, if_neg fun hrows => hrow.elim (· (hrows k hk).1) (· (hrows k hk).2)]
    · rw [State.find_beStop_self hruns.found hrising] at hx
      cases hx

end Sys2Proof.Machine
end

section
/-! SUPPORT. Facts about lists and conditionals that core Lean leaves out. -/

namespace Sys2Proof

/-- Two folds agree where their steps agree on the list's own elements. -/
theorem foldl_congr_mem {α σ : Type} {f g : σ → α → σ} {l : List α} (s : σ) (h : ∀ u, ∀ x ∈ l, f u x = g u x) : l.foldl f s = l.foldl g s :=
  List.foldl_rel rfl fun x hx u v huv => by rw [huv, h v x hx]

theorem ite_congr_iff {α : Sort _} {b c : Prop} [Decidable b] [Decidable c] {x y u v : α} (h : b ↔ c) (hx : x = u) (hy : y = v) :
    (if b then x else y) = if c then u else v :=
  ite_congr (propext h) (fun _ => hx) (fun _ => hy)

end Sys2Proof
end

section
/-! SUPPORT. Decoding what the encoder writes (02 R33, R42 to R51; 05 R141 to R157; 06 R169; 12 R335): the fields of a word read back, form by
form, then each instruction. -/

namespace Sys2Proof

/-! ### Reading a field of a word that is written as its fields

The widths of the parts stay apart here (`BitVec.append`, not `++`), so that `simp` meets the lemmas on a word whose width is written as a numeral. -/

theorem extractLsb'_append_above {v w start len : Nat} (x : BitVec v) (y : BitVec w) (h : w ≤ start) :
    BitVec.extractLsb' start len (BitVec.append x y) = BitVec.extractLsb' (start - w) len x :=
  BitVec.extractLsb'_append_eq_of_le h

theorem extractLsb'_append_within {v w start len : Nat} (x : BitVec v) (y : BitVec w) (h : start + len ≤ w) :
    BitVec.extractLsb' start len (BitVec.append x y) = BitVec.extractLsb' start len y :=
  BitVec.extractLsb'_append_eq_of_add_le h

theorem getLsbD_append_parts {v w start : Nat} (x : BitVec v) (y : BitVec w) :
    (BitVec.append x y).getLsbD start = if start < w then y.getLsbD start else x.getLsbD (start - w) :=
  BitVec.getLsbD_append ..

/-! ### Epael words -/

theorem extFields_encExt (e : Ext) : extFields (encExt e) = e := by
  obtain ⟨c, ec, ty, rnd, gn, guard, xs, xo, sub⟩ := e
  dsimp only [extFields, encExt, HAppend.hAppend]
  simp [-BitVec.append_eq, -BitVec.getLsbD_eq_getElem, extractLsb'_append_above, extractLsb'_append_within, getLsbD_append_parts]

theorem extFields_encExt_map (x : Option Ext) : (x.map encExt).map extFields = x := by
  cases x <;> simp [extFields_encExt]

/-- The first word of an R form (R42). -/
def rWord (op : BitVec 8) (f : RForm) : W32 :=
  op ++ f.d ++ f.a ++ f.b ++ BitVec.ofBool f.ea ++ BitVec.ofBool f.eb ++ BitVec.ofBool f.ext.isSome

/-- The first word of an I form (R43). -/
def iWord (op : BitVec 8) (f : IForm) : W32 := op ++ f.d ++ f.imm ++ BitVec.ofBool f.ext.isSome

/-- The word of a B form (R44). -/
def bWord (op : BitVec 8) (f : BForm) : W32 := op ++ f.guard ++ BitVec.ofBool f.gn ++ f.off

theorem encR_eq (op : BitVec 8) (f : RForm) : encR op f = rWord op f :: (f.ext.map encExt).toList := rfl
theorem encI_eq (op : BitVec 8) (f : IForm) : encI op f = iWord op f :: (f.ext.map encExt).toList := rfl
theorem encB_eq (op : BitVec 8) (f : BForm) : encB op f = [bWord op f] := rfl

theorem rFields_rWord (op : BitVec 8) (f : RForm) : rFields (rWord op f) (f.ext.map encExt) = f := by
  dsimp only [rFields, rWord, HAppend.hAppend]
  simp [-BitVec.append_eq, -BitVec.getLsbD_eq_getElem, extractLsb'_append_above, extractLsb'_append_within, getLsbD_append_parts,
    extFields_encExt_map, -Option.map_map]

theorem iFields_iWord (op : BitVec 8) (f : IForm) : iFields (iWord op f) (f.ext.map encExt) = f := by
  dsimp only [iFields, iWord, HAppend.hAppend]
  simp [-BitVec.append_eq, -BitVec.getLsbD_eq_getElem, extractLsb'_append_above, extractLsb'_append_within, extFields_encExt_map,
    -Option.map_map]

theorem bFields_bWord (op : BitVec 8) (f : BForm) : bFields (bWord op f) = f := by
  dsimp only [bFields, bWord, HAppend.hAppend]
  simp [-BitVec.append_eq, -BitVec.getLsbD_eq_getElem, extractLsb'_append_above, extractLsb'_append_within, getLsbD_append_parts]

theorem epaelOp_rWord (op : BitVec 8) (f : RForm) : epaelOp (rWord op f) = op.toNat := by
  dsimp only [epaelOp, rWord, HAppend.hAppend]
  simp [-BitVec.append_eq, extractLsb'_append_above]

theorem epaelOp_iWord (op : BitVec 8) (f : IForm) : epaelOp (iWord op f) = op.toNat := by
  dsimp only [epaelOp, iWord, HAppend.hAppend]
  simp [-BitVec.append_eq, extractLsb'_append_above]

theorem epaelOp_bWord (op : BitVec 8) (f : BForm) : epaelOp (bWord op f) = op.toNat := by
  dsimp only [epaelOp, bWord, HAppend.hAppend]
  simp [-BitVec.append_eq, extractLsb'_append_above]

theorem hasExt_rWord {op : BitVec 8} (hop : isBOp op.toNat = false) (f : RForm) : hasExt (rWord op f) = f.ext.isSome := by
  rw [hasExt, epaelOp_rWord, hop]
  dsimp only [rWord, HAppend.hAppend]
  simp [-BitVec.append_eq, -BitVec.getLsbD_eq_getElem, getLsbD_append_parts]

theorem hasExt_iWord {op : BitVec 8} (hop : isBOp op.toNat = false) (f : IForm) : hasExt (iWord op f) = f.ext.isSome := by
  rw [hasExt, epaelOp_iWord, hop]
  dsimp only [iWord, HAppend.hAppend]
  simp [-BitVec.append_eq, -BitVec.getLsbD_eq_getElem, getLsbD_append_parts]

theorem hasExt_bWord {op : BitVec 8} (hop : isBOp op.toNat = true) (f : BForm) : hasExt (bWord op f) = false := by
  rw [hasExt, epaelOp_bWord, hop]
  rfl

theorem judge_ok (op : Nat) {i : Instr} (h : i.wellFormed = true) : judge op (some i) = .ok i := by
  simp [judge, h]

/-- A word that announces its extension word exactly where there is one is left to the check of its instruction. -/
theorem decodeEpael_cons {w : W32} {x : Option W32} {e : Instr} (rest : List W32) (hext : hasExt w = x.isSome)
    (hinstr : epaelInstr w x = some e) (hwf : e.wellFormed = true) : decodeEpael (w :: x.toList ++ rest) = .ok (e, rest) := by
  cases x <;> simp only [Option.isSome_none, Option.isSome_some] at hext <;> simp [decodeEpael, hext, hinstr, judge_ok _ hwf, Except.map]

/-- An R form reads back where its opcode chooses its instruction. -/
theorem decodeEpael_encR {op : BitVec 8} {C : RForm → Instr} (f : RForm) (rest : List W32) (hwf : (C f).wellFormed = true)
    (hop : isBOp op.toNat = false) (hinstr : ∀ w x, epaelOp w = op.toNat → epaelInstr w x = some (C (rFields w x))) :
    decodeEpael (encR op f ++ rest) = .ok (C f, rest) := by
  rw [encR_eq]
  refine decodeEpael_cons rest ?_ ?_ hwf
  · rw [hasExt_rWord hop, Option.isSome_map]
  · rw [hinstr _ _ (epaelOp_rWord op f), rFields_rWord]

/-- An I form reads back where its opcode chooses its instruction. -/
theorem decodeEpael_encI {op : BitVec 8} {C : IForm → Instr} (f : IForm) (rest : List W32) (hwf : (C f).wellFormed = true)
    (hop : isBOp op.toNat = false) (hinstr : ∀ w x, epaelOp w = op.toNat → epaelInstr w x = some (C (iFields w x))) :
    decodeEpael (encI op f ++ rest) = .ok (C f, rest) := by
  rw [encI_eq]
  refine decodeEpael_cons rest ?_ ?_ hwf
  · rw [hasExt_iWord hop, Option.isSome_map]
  · rw [hinstr _ _ (epaelOp_iWord op f), iFields_iWord]

/-- A B form reads back where its opcode chooses its instruction. -/
theorem decodeEpael_encB {op : BitVec 8} {C : BForm → Instr} (f : BForm) (rest : List W32) (hwf : (C f).wellFormed = true)
    (hop : isBOp op.toNat = true) (hinstr : ∀ w, epaelOp w = op.toNat → epaelInstr w none = some (C (bFields w))) :
    decodeEpael (encB op f ++ rest) = .ok (C f, rest) := by
  rw [encB_eq]
  refine decodeEpael_cons (x := none) rest (hasExt_bWord hop f) ?_ hwf
  rw [hinstr _ (epaelOp_bWord op f), bFields_bWord]

/-- Settles O3: each constructor's words are of one of the three forms, whose opcode the decoder's table leads back to the constructor. -/
theorem epaelRoundTrip : Obligations.EpaelRoundTrip := by
  unfold Obligations.EpaelRoundTrip
  intro e rest hwf henc hheader
  cases e
  case clauseHeader h => exact absurd rfl (hheader h)
  case nop => rfl
  case bra f | bru f | call f | exit f =>
    exact decodeEpael_encB f rest hwf rfl fun w h => by unfold epaelInstr; rw [h]; rfl
  case iaddi f | imuli f | andi f | ori f | xori f | shli f | shri f | srai f | movi f | movhi f | ldl f | imini f | imaxi f | faddi f | fmuli f
    | ffmai f | fmini f | fmaxi f | xset f =>
    exact decodeEpael_encI f rest hwf rfl fun w x h => by unfold epaelInstr; rw [h]; rfl
  case brx f | ret f | jenter f | jquit f | jwait f | jfree f | jpush f | jpop f | jread f | iadd f | isub f | imul f | imulh f | imad f |
    iminmax f | iabsd f | isum f | iaddsh f | tlog f | shift f | bfx f | bfi f | popc f | clz f | brev f | icmp f | sel f | plop f | mov f |
    pmov f | fadd f | fsub f | fmul f | ffma f | fmin f | fmax f | fcmp f | fclass f | frnd f | fldexp f | fabs f | fneg f | fcsgn f | fsat f |
    cvt f | pack f | unpack f | bscale f | bshuf f | dot f | cfma f | bfly f | twid f | idiv f | irem f | fdiv f | fsqrt f | frsqrt f | ftrans f
    | prev f | scan f | sscan f | xread f | bcast f | vote f | qxch f | qred f | xmatch f | ld f | st f | lds f | sts f | ldx f | stx f | atom f
    | atoms f | atomx f | spld f | spst f | pref f | ldnc f | bld f | bst f | bset f | bget f | wset f | copy f | kick f | twany f | twall f |
    tfirst f | tclr f | boinit f | boarrive f | boexpect f | bowait f | botest f | fence f | bar f | bararv f | waitw f | time f | rst f | rld f
    | ratom f | rfadd f | rfence f | coll f | launch f | postc f | search f | nlaunch f | nopen f | ncmd f | nclose f | mcall f | xadd f |
    xget f | trap f | eret f | csrr f | csrw f | bkpt f | sleep f | yield f =>
    exact decodeEpael_encR f rest hwf rfl fun w x h => by unfold epaelInstr; rw [h]; rfl
  all_goals exact absurd rfl henc

/-! ### Clause headers -/

theorem headerFields_encHeader (h : Header) : headerFields (encHeader h) = h := by
  dsimp only [headerFields, encHeader, HAppend.hAppend]
  simp [-BitVec.append_eq, -BitVec.getLsbD_eq_getElem, extractLsb'_append_above, extractLsb'_append_within, getLsbD_append_parts]

theorem encHeader_lowByte (h : Header) : (encHeader h).extractLsb' 0 8 = 0#8 := by
  dsimp only [encHeader, HAppend.hAppend]
  simp [-BitVec.append_eq, extractLsb'_append_within]

theorem decodeHeader_encHeader {h : Header} (hlegal : h.legal = true) : decodeHeader (encHeader h) = .ok (.clauseHeader h) := by
  rw [decodeHeader, encHeader_lowByte, headerFields_encHeader, judge_ok 0 (i := .clauseHeader h) hlegal]
  rfl

/-! ### Matrix words -/

/-- A clean word of an instruction is left to the check of its fields. -/
theorem decodeMatrix_ok {w : W64} {e : Instr} (hinstr : matrixInstr w = some (e, true)) (hwf : e.wellFormed = true) :
    decodeMatrix w = .ok e := by
  simp [decodeMatrix, hinstr, judge_ok _ hwf]

theorem matrixInstr_encodeMatrix {e : Instr} {w : W64} (henc : encodeMatrix e = some w) : matrixInstr w = some (e, true) := by
  cases e
  case mnop | mend | mwait => cases henc; rfl
  case mbr | mli | malu | mldq | mstq | mpred | mbar | mrds | mzero | mma | mmas | mldt | mstt =>
    cases henc
    dsimp only [matrixInstr, matrixOp, mmaFields, zeros, encMma, HAppend.hAppend]
    simp [-BitVec.append_eq, -BitVec.getLsbD_eq_getElem, extractLsb'_append_above, extractLsb'_append_within, getLsbD_append_parts]
  all_goals cases henc

/-! ### Burrow words -/

theorem decodeBurrow_ok {w : W32} {e : Instr} (hinstr : burrowInstr w = some (e, true)) (hwf : e.wellFormed = true) :
    decodeBurrow w = .ok e := by
  simp [decodeBurrow, hinstr, judge_ok _ hwf]

theorem brFields_encBr (op : BitVec 6) (f : BrForm) : brFields (encBr op f) = f := by
  dsimp only [brFields, encBr, HAppend.hAppend]
  simp [-BitVec.append_eq, -BitVec.getLsbD_eq_getElem, extractLsb'_append_above, extractLsb'_append_within]

theorem burrowOp_encBr (op : BitVec 6) (f : BrForm) : burrowOp (encBr op f) = op.toNat := by
  dsimp only [burrowOp, encBr, HAppend.hAppend]
  simp [-BitVec.append_eq, extractLsb'_append_above]

theorem encBr_reserved (op : BitVec 6) (f : BrForm) : (encBr op f).extractLsb' 8 2 = 0#2 := by
  dsimp only [encBr, HAppend.hAppend]
  simp [-BitVec.append_eq, extractLsb'_append_above, extractLsb'_append_within]

theorem biFields_encBi (op : BitVec 6) (f : BiForm) : biFields (encBi op f) = f := by
  dsimp only [biFields, encBi, HAppend.hAppend]
  simp [-BitVec.append_eq, -BitVec.getLsbD_eq_getElem, extractLsb'_append_above, extractLsb'_append_within]

theorem burrowOp_encBi (op : BitVec 6) (f : BiForm) : burrowOp (encBi op f) = op.toNat := by
  dsimp only [burrowOp, encBi, HAppend.hAppend]
  simp [-BitVec.append_eq, extractLsb'_append_above]

theorem bsFields_encBs (op : BitVec 6) (f : BsForm) : bsFields (encBs op f) = f := by
  dsimp only [bsFields, encBs, HAppend.hAppend]
  simp [-BitVec.append_eq, -BitVec.getLsbD_eq_getElem, extractLsb'_append_above, extractLsb'_append_within, getLsbD_append_parts]

theorem burrowOp_encBs (op : BitVec 6) (f : BsForm) : burrowOp (encBs op f) = op.toNat := by
  dsimp only [burrowOp, encBs, HAppend.hAppend]
  simp [-BitVec.append_eq, extractLsb'_append_above]

theorem encBs_reserved (op : BitVec 6) (f : BsForm) : (encBs op f).extractLsb' 16 3 = 0#3 := by
  dsimp only [encBs, HAppend.hAppend]
  simp [-BitVec.append_eq, extractLsb'_append_above, extractLsb'_append_within]

theorem bmFields_encBm (op : BitVec 6) (f : BmForm) : bmFields (encBm op f) = f := by
  dsimp only [bmFields, encBm, HAppend.hAppend]
  simp [-BitVec.append_eq, -BitVec.getLsbD_eq_getElem, extractLsb'_append_above, extractLsb'_append_within]

theorem burrowOp_encBm (op : BitVec 6) (f : BmForm) : burrowOp (encBm op f) = op.toNat := by
  dsimp only [burrowOp, encBm, HAppend.hAppend]
  simp [-BitVec.append_eq, extractLsb'_append_above]

theorem bjFields_encBj (op : BitVec 6) (f : BjForm) : bjFields (encBj op f) = f := by
  dsimp only [bjFields, encBj, HAppend.hAppend]
  simp [-BitVec.append_eq, -BitVec.getLsbD_eq_getElem, extractLsb'_append_above, extractLsb'_append_within]

theorem burrowOp_encBj (op : BitVec 6) (f : BjForm) : burrowOp (encBj op f) = op.toNat := by
  dsimp only [burrowOp, encBj, HAppend.hAppend]
  simp [-BitVec.append_eq, extractLsb'_append_above]

theorem bhFields_encBh (op : BitVec 6) (f : BhForm) : bhFields (encBh op f) = f := by
  dsimp only [bhFields, encBh, HAppend.hAppend]
  simp [-BitVec.append_eq, -BitVec.getLsbD_eq_getElem, extractLsb'_append_above, extractLsb'_append_within]

theorem burrowOp_encBh (op : BitVec 6) (f : BhForm) : burrowOp (encBh op f) = op.toNat := by
  dsimp only [burrowOp, encBh, HAppend.hAppend]
  simp [-BitVec.append_eq, extractLsb'_append_above]

theorem encBh_reserved (op : BitVec 6) (f : BhForm) : (encBh op f).extractLsb' 8 2 = 0#2 := by
  dsimp only [encBh, HAppend.hAppend]
  simp [-BitVec.append_eq, extractLsb'_append_above, extractLsb'_append_within]

theorem burrowInstr_encodeBurrow {e : Instr} {w : W32} (henc : encodeBurrow e = some w) : burrowInstr w = some (e, true) := by
  cases e
  case bnop f | bjr f | bend f | galu f | gcmp f | ald f | ast f | kset f | ttld f | dist f | distg f | heap f | hoffer f | hout f | post f |
    whop f | wspawn f | visit f | cwait f | creply f | rds f =>
    cases henc; unfold burrowInstr; rw [burrowOp_encBr]; simp [brFields_encBr, encBr_reserved]
  case br f | bcall f =>
    cases henc; unfold burrowInstr; rw [burrowOp_encBj]; simp [bjFields_encBj]
  case btrap f | galui f =>
    cases henc; unfold burrowInstr; rw [burrowOp_encBi]; simp [biFields_encBi]
  case gset f =>
    cases henc; unfold burrowInstr; rw [burrowOp_encBs]; simp [bsFields_encBs, encBs_reserved]
  case wld f | wst f =>
    cases henc; unfold burrowInstr; rw [burrowOp_encBm]; simp [bmFields_encBm]
  case hrd f | hwr f | hmov f | hwin f | hget f | hput f | glint f | top f | ttp f =>
    cases henc; unfold burrowInstr; rw [burrowOp_encBh]; simp [bhFields_encBh, encBh_reserved]
  all_goals cases henc

/-! ### Command packets -/

/-- The header of a packet (R335). -/
def packetHeader (type : BitVec 8) (flags : BitVec 12) (n : Nat) : W32 := type ++ BitVec.ofNat 12 n ++ flags

theorem packetType_packetHeader (type : BitVec 8) (flags : BitVec 12) (n : Nat) : packetType (packetHeader type flags n) = type.toNat := by
  dsimp only [packetType, packetHeader, HAppend.hAppend]
  simp [-BitVec.append_eq, extractLsb'_append_above]

theorem packetCount_packetHeader (type : BitVec 8) (flags : BitVec 12) {n : Nat} (hn : n < 4096) :
    packetCount (packetHeader type flags n) = n := by
  dsimp only [packetCount, packetHeader, HAppend.hAppend]
  simp [-BitVec.append_eq, extractLsb'_append_above, extractLsb'_append_within, Nat.mod_eq_of_lt hn]

theorem packetFlags_packetHeader (type : BitVec 8) (flags : BitVec 12) (n : Nat) : packetFlags (packetHeader type flags n) = flags := by
  dsimp only [packetFlags, packetHeader, HAppend.hAppend]
  simp [-BitVec.append_eq, extractLsb'_append_within]

/-- A packet reads back where its type chooses its instruction. -/
theorem decodePacket_encPacket {type : BitVec 8} {C : BitVec 12 → List W32 → Instr} (flags : BitVec 12) (ws rest : List W32)
    (hlen : decide (ws.length < 4096) = true)
    (hinstr : ∀ h us, packetType h = type.toNat → packetInstr h us = some (C (packetFlags h) us)) :
    decodePacket (encPacket type flags ws ++ rest) = .ok (C flags ws, rest) := by
  have hcount := packetCount_packetHeader type flags (of_decide_eq_true hlen)
  change decodePacket (packetHeader type flags ws.length :: (ws ++ rest)) = _
  simp [decodePacket, hinstr _ _ (packetType_packetHeader type flags _), hcount, packetFlags_packetHeader]

theorem decodePacket_encodePacket {e : Instr} (rest : List W32) (hwf : e.wellFormed = true) (henc : encodePacket e ≠ []) :
    decodePacket (encodePacket e ++ rest) = .ok (e, rest) := by
  cases e
  case nopPacket flags ws | grid flags ws | cgrid flags ws | ib flags ws | waitbit flags ws | waitmem flags ws | write flags ws |
    tstamp flags ws => exact decodePacket_encPacket flags ws rest hwf fun h us htype => by unfold packetInstr; rw [htype]; rfl
  all_goals exact absurd rfl henc

/-- Settles O4: the four parts are the round trips of the four encoders. -/
theorem headerEngineAndPacketRoundTrips : Obligations.HeaderEngineAndPacketRoundTrips := by
  unfold Obligations.HeaderEngineAndPacketRoundTrips
  exact ⟨fun _ hlegal => decodeHeader_encHeader hlegal, fun _ _ hwf henc => decodeMatrix_ok (matrixInstr_encodeMatrix henc) hwf,
    fun _ _ hwf henc => decodeBurrow_ok (burrowInstr_encodeBurrow henc) hwf, fun _ rest hwf henc => decodePacket_encodePacket rest hwf henc⟩

end Sys2Proof
end

section
/-! SUPPORT. A device whose clocks are stopped or whose power is removed (17 R456, R460): what the safety core still does moves nothing of it. -/

namespace Sys2Proof.Machine

/-- `t` is a state of a device that stays dark: nothing of the device has moved since `s`. -/
structure Still (s t : State) : Prop where
  dark : s.dark = true → t.dark = true
  threads : t.threads = s.threads
  groups : t.groups = s.groups
  blocks : t.blocks = s.blocks
  engines : t.engines = s.engines
  copies : t.copies = s.copies
  ports : t.ports = s.ports
  mem : t.mem = s.mem
  spaces : t.spaces = s.spaces
  contexts : t.contexts = s.contexts
  queues : t.queues = s.queues
  time : t.time = s.time

theorem Still.refl (s : State) : Still s s := ⟨id, rfl, rfl, rfl, rfl, rfl, rfl, rfl, rfl, rfl, rfl, rfl⟩

theorem Still.trans {s t u : State} (h : Still s t) (g : Still t u) : Still s u :=
  ⟨g.dark ∘ h.dark, g.threads.trans h.threads, g.groups.trans h.groups, g.blocks.trans h.blocks, g.engines.trans h.engines,
    g.copies.trans h.copies, g.ports.trans h.ports, g.mem.trans h.mem, g.spaces.trans h.spaces, g.contexts.trans h.contexts,
    g.queues.trans h.queues, g.time.trans h.time⟩

theorem Still.ite {s t u : State} {p : Prop} [Decidable p] (ht : Still s t) (hu : Still s u) : Still s (if p then t else u) := by
  split
  · exact ht
  · exact hu

theorem Still.reply (s : State) (r : Reply) : Still s (s.reply r) := ⟨id, rfl, rfl, rfl, rfl, rfl, rfl, rfl, rfl, rfl, rfl, rfl⟩

theorem Still.sign (s : State) (nonce : BitVec 256) (ms : List Nat) (put : Nat → Reply) : Still s (s.sign nonce ms put) :=
  ⟨id, rfl, rfl, rfl, rfl, rfl, rfl, rfl, rfl, rfl, rfl, rfl⟩

theorem Still.attest {s go : State} (stage : Nat) (h : Still s go) : Still s (s.attest stage go) := .ite (.reply ..) h

/-- An instruction that answers a still state. -/
def AnswersStill (s : State) (o : Host.Outcome State Fault Refusal) : Prop := ∃ t, o = .next t ∧ Still s t

theorem AnswersStill.next {s t : State} (h : Still s t) : AnswersStill s (.next t) := ⟨t, rfl, h⟩

theorem answersStill_firmwareLoad (m : Master) (ok : Bool) (s : State) : AnswersStill s (execFirmwareLoad m ok s) := by
  refine .next (.ite (.refl s) (.ite ?_ (.ite ?_ (.ite ?_ ?_))))
  all_goals exact ⟨id, rfl, rfl, rfl, rfl, rfl, rfl, rfl, rfl, rfl, rfl, rfl⟩

theorem answersStill_svnRaise (s : State) : AnswersStill s (execSvnRaise s) := by
  refine .next ?_
  split
  · exact .refl s
  · exact ⟨id, rfl, rfl, rfl, rfl, rfl, rfl, rfl, rfl, rfl, rfl, rfl⟩

theorem answersStill_getMeasurements (n : Nat) (signed : Bool) (nonce : BitVec 256) (s : State) :
    AnswersStill s (execGetMeasurements n signed nonce s) := by
  refine .next (.attest 3 ?_)
  exact .ite (.reply ..) (.sign ..)

/-- While the clocks stand, an evaluation of the power only takes the readings. -/
theorem answersStill_powerEvaluation {s : State} (hdark : s.dark = true) (watts : Nat) (exceeded low : Bool) (busy : BitVec 12)
    (hot : Nat × Nat) : AnswersStill s (execPowerEvaluation watts exceeded low busy hot s) := by
  have hskip : execPowerEvaluation watts exceeded low busy hot s = .next { s with watts := watts, hottest := hot.1 } :=
    congrArg Host.Outcome.next (if_pos hdark)
  exact ⟨_, hskip, id, rfl, rfl, rfl, rfl, rfl, rfl, rfl, rfl, rfl, rfl, rfl⟩

theorem answersStill_jtagScan (s : State) : AnswersStill s (execJtagScan s) := by
  refine .next (.ite ?_ (.refl s))
  exact ⟨id, rfl, rfl, rfl, rfl, rfl, rfl, rfl, rfl, rfl, rfl, rfl⟩

theorem Still.freeze (s : State) : Still s { s with frozen := true, froze := true } :=
  ⟨fun _ => rfl, rfl, rfl, rfl, rfl, rfl, rfl, rfl, rfl, rfl, rfl, rfl⟩

theorem Still.spdm (s : State) (n : Nat) (r : Reply) : Still s ({ s with spdmStage := n }.reply r) :=
  ⟨id, rfl, rfl, rfl, rfl, rfl, rfl, rfl, rfl, rfl, rfl, rfl⟩

theorem Still.push (s : State) (o : Out) : Still s { s with outbox := s.outbox ++ [o] } :=
  ⟨id, rfl, rfl, rfl, rfl, rfl, rfl, rfl, rfl, rfl, rfl, rfl⟩

/-- What the safety core executes in a dark device moves nothing of it, but for a reset, a power-up and a trip (R456, R460, R461). -/
theorem answersStill_exec {s : State} {e : Instr} (hdark : s.dark = true) (hawake : awake e = true) (hreset : e ≠ .deviceReset)
    (hgood : e ≠ .powerGood) (htrip : e ≠ .thermalTrip) : AnswersStill s (exec e s) := by
  cases e
  case deviceReset => exact absurd rfl hreset
  case powerGood => exact absurd rfl hgood
  case thermalTrip => exact absurd rfl htrip
  case freeze => exact .next (.freeze s)
  case jtagBypass tdi => exact .next (.push s _)
  case jtagIdcode => exact .next (.push s _)
  case jtagScan => exact answersStill_jtagScan s
  case firmwareLoad m ok => exact answersStill_firmwareLoad m ok s
  case svnRaise => exact answersStill_svnRaise s
  case getVersion => exact .next (.attest 0 (.spdm s ..))
  case getCapabilities => exact .next (.attest 1 (.spdm s ..))
  case negotiateAlgorithms a h m => exact .next (.attest 2 (.ite (.spdm s ..) (.reply ..)))
  case getDigests => exact .next (.attest 3 (.reply ..))
  case getCertificate slot off n => exact .next (.attest 3 (.reply ..))
  case challenge slot nonce => exact .next (.attest 3 (.ite (.reply ..) (.sign ..)))
  case getMeasurements n signed nonce => exact answersStill_getMeasurements n signed nonce s
  case vendorDefinedRequest r v c => exact .next (.attest 3 (.reply ..))
  case powerEvaluation w x l b h => exact answersStill_powerEvaluation hdark w x l b h
  all_goals exact absurd hawake Bool.false_ne_true

/-- A trip leaves a dark device dark. -/
theorem thermalTrip_dark {s : State} (hdark : s.dark = true) : ∃ t, exec .thermalTrip s = .next t ∧ t.dark = true := by
  refine ⟨_, rfl, ?_⟩
  split
  · exact hdark
  · exact Bool.or_true _

/-- Only an event goes on in a dark device. -/
theorem turn_awake {turn : Turn} (h : turn.awake = true) : ∃ e, turn = .event e ∧ awake e = true := by
  cases turn
  case event e => exact ⟨e, rfl, h⟩
  all_goals exact absurd h Bool.false_ne_true

/-- In a dark device a step is skipped, or executes what the safety core does. -/
theorem step_dark {s t : State} (hdark : s.dark = true) (hstep : step s = .next t) :
    Still s t ∨ ∃ e rest, s.agenda = .event e :: rest ∧ awake e = true ∧ settle (exec e { s with agenda := rest, cur := .none }) = .next t := by
  have hdark' : ∀ rest, State.dark { s with agenda := rest } = true := fun _ => hdark
  unfold step at hstep
  split at hstep
  · rename_i turn rest hagenda
    simp only [hdark', Bool.true_and] at hstep
    by_cases hawake : turn.awake = true
    · obtain ⟨e, rfl, hevent⟩ := turn_awake hawake
      exact .inr ⟨e, rest, hagenda, hevent, by simpa [hawake, State.takeTurn, State.execFor] using hstep⟩
    · simp only [hawake, Bool.not_false, if_true, Host.Outcome.next.injEq] at hstep
      subst hstep
      exact .inl ⟨id, rfl, rfl, rfl, rfl, rfl, rfl, rfl, rfl, rfl, rfl, rfl⟩
  · simp only [hdark, if_true, Host.Outcome.next.injEq] at hstep
    exact .inl (hstep ▸ .refl s)

/-- Settles O60: every step but a reset, a power-up and a trip leaves a still state, and a trip leaves the device dark. -/
theorem darkStays : Obligations.DarkStays := by
  unfold Obligations.DarkStays
  intro s t hdark hstep hnot
  have still_goal : Still s t → t.dark = true ∧ ((∀ rest, s.agenda ≠ .event .thermalTrip :: rest) → t.threads = s.threads ∧
      t.groups = s.groups ∧ t.blocks = s.blocks ∧ t.engines = s.engines ∧ t.copies = s.copies ∧ t.ports = s.ports ∧ t.mem = s.mem ∧
      t.spaces = s.spaces ∧ t.contexts = s.contexts ∧ t.queues = s.queues ∧ t.time = s.time) := fun h =>
    ⟨h.dark hdark, fun _ => ⟨h.threads, h.groups, h.blocks, h.engines, h.copies, h.ports, h.mem, h.spaces, h.contexts, h.queues, h.time⟩⟩
  obtain hstill | ⟨e, rest, hagenda, hawake, hexec⟩ := step_dark hdark hstep
  · exact still_goal hstill
  have hdark' : State.dark { s with agenda := rest, cur := .none } = true := hdark
  have hreset : e ≠ .deviceReset := fun he => (hnot rest).1 (he ▸ hagenda)
  have hgood : e ≠ .powerGood := fun he => (hnot rest).2 (he ▸ hagenda)
  by_cases htrip : e = .thermalTrip
  · subst htrip
    obtain ⟨u, hu, hudark⟩ := thermalTrip_dark hdark'
    rw [hu] at hexec
    cases hexec
    exact ⟨hudark, fun hnotrip => absurd hagenda (hnotrip rest)⟩
  · obtain ⟨u, hu, hstill⟩ := answersStill_exec hdark' hawake hreset hgood htrip
    rw [hu] at hexec
    cases hexec
    exact still_goal ⟨hstill.dark, hstill.threads, hstill.groups, hstill.blocks, hstill.engines, hstill.copies, hstill.ports, hstill.mem,
      hstill.spaces, hstill.contexts, hstill.queues, hstill.time⟩

end Sys2Proof.Machine
end

section
/-! SUPPORT. How threads stand after the end of a pass (11 R305, R307; 16 R427, R428): an update of a thread, of a trap delivered, and of what the
end of the pass does beside it. -/

namespace Sys2Proof.Machine

/-! ### What the end of a pass leaves of a thread but for its age -/

theorem thread_ageless_of_find {s u : State} {k : Nat}
    (h : (Table.find u.threads k).map Thread.ageless = (Table.find s.threads k).map Thread.ageless) :
    (u.thread k).ageless = (s.thread k).ageless := by
  simp only [State.thread, Table.get]
  cases hu : Table.find u.threads k <;> cases hs : Table.find s.threads k <;> rw [hu, hs] at h
  case some.none | none.some => exact absurd h (by simp)
  case some.some => exact Option.some.inj h

theorem thread_ageGroup (s : State) (i : Issue) (k : Nat) : ((s.ageGroup i).thread k).ageless = (s.thread k).ageless :=
  thread_ageless_of_find (find_ageGroup s i k)

theorem Thread.ageless_wait {a b : Thread} (h : a.ageless = b.ageless) : a.wait = b.wait := by
  simpa [Thread.ageless] using congrArg Thread.wait h

/-- What delivering a trap makes of its thread, by the handler and pix of the group (R427, R428, R434). -/
def Thread.delivered (gr : Group) (t : Nat) (r : TrapRec) (tnpc word : W64) (th : Thread) : Thread :=
  let th' := th.record r tnpc word (if gr.pixOwner.getLsbD t then gr.pix else 0#32)
  match th.role with
  | .helper => { th with exited := true, wait := none }
  | .live =>
    if gr.thv == 0#64 || th.th then { th' with park := .dead }
    else { th'.suspend with th := true, park := .none, inMacro := .none, tpc := mkPc gr.thv 0 }

/-- What a record that goes out does not touch: any part of the state beside what has left and the device event ring. -/
theorem State.deviceEvent_of {β : Type} (s : State) (r : List W32) (g : State → β)
    (h : ∀ u o dr dw dl, g { u with outbox := o, deviceRing := dr, deviceWaiting := dw, deviceLost := dl } = g u) : g (s.deviceEvent r) = g s := by
  unfold State.deviceEvent
  simp only
  split
  · exact h s ..
  · split
    · exact h s ..
    · exact h s ..

theorem State.event_of {β : Type} (s : State) (code master unit ctx detail addr : Nat) (g : State → β)
    (h : ∀ u o dr dw dl, g { u with outbox := o, deviceRing := dr, deviceWaiting := dw, deviceLost := dl } = g u) :
    g (s.event code master unit ctx detail addr) = g s :=
  State.deviceEvent_of _ _ g h

theorem thread_unhandled (s : State) (b g t c : Nat) (x : W64) (k : Nat) : (s.unhandled b g t c x).thread k = s.thread k :=
  State.event_of _ _ _ _ _ _ _ (fun u => u.thread k) fun _ _ _ _ _ => rfl

theorem thread_deliver (s : State) (b g t : Nat) (r : TrapRec) (n w : W64) (k : Nat) :
    (s.deliver b g t r n w).thread k =
      if k = tkey (gkey b g) t then (s.thread k).delivered (s.group (gkey b g)) t r n w else s.thread k := by
  have hset : ∀ x : Thread, (s.setThread (tkey (gkey b g) t) x).thread k = if k = tkey (gkey b g) t then x else s.thread k :=
    fun x => s.thread_setThread _ _ x
  unfold State.deliver Thread.delivered
  by_cases hk : k = tkey (gkey b g) t
  · subst hk
    cases hrole : (s.thread (tkey (gkey b g) t)).role
    · simp only [hrole, if_true]
      split
      · rw [thread_unhandled, hset, if_pos rfl]
      · rw [State.thread_modGroup, hset, if_pos rfl]
    · simp only [hrole, hset, if_true]
  · simp only [if_neg hk]
    cases hrole : (s.thread (tkey (gkey b g) t)).role
    · simp only
      split
      · rw [thread_unhandled, hset, if_neg hk]
      · rw [State.thread_modGroup, hset, if_neg hk]
    · simp only [hset, if_neg hk]

/-- The handler and pix of a group outlast a delivery. -/
theorem Thread.delivered_deliver (s : State) (b g u : Nat) (q : TrapRec) (n w : W64) (t : Nat) (r : TrapRec) (n' w' : W64) (th : Thread) :
    th.delivered ((s.deliver b g u q n w).group (gkey b g)) t r n' w' = th.delivered (s.group (gkey b g)) t r n' w' := by
  unfold State.deliver
  cases hrole : (s.thread (tkey (gkey b g) u)).role
  · simp only [hrole]
    split
    · exact State.event_of _ _ _ _ _ _ _ (fun x => th.delivered (x.group (gkey b g)) t r n' w') fun _ _ _ _ _ => rfl
    · exact State.group_modGroup_of _ _ _ _ (fun gr => th.delivered gr t r n' w') (fun _ => rfl)
  · simp only [hrole]
    rfl

/-- What the deliveries of a pass make of one thread: its own trap, if `f` names one, and no other. -/
theorem thread_deliver_lanes (i : Issue) (f : Nat → Option TrapRec) (ts : List Nat) (hnodup : ts.Nodup) (s : State) (t : Nat) :
    ((ts.filterMap (fun t => (f t).map (fun r => (t, r)))).foldl (fun s p => s.deliver i.b i.g p.1 p.2 i.nextPc i.word) s).thread (i.tk t) =
      match (if t ∈ ts then f t else none) with
      | some r => (s.thread (i.tk t)).delivered (s.group i.gk) t r i.nextPc i.word
      | none => s.thread (i.tk t) := by
  induction ts generalizing s with
  | nil => rfl
  | cons a ts ih =>
    obtain ⟨ha, hnodup⟩ := List.nodup_cons.mp hnodup
    cases hfa : f a with
    | none =>
      simp only [List.filterMap_cons, hfa, Option.map_none, ih hnodup]
      by_cases hta : t = a
      · subst hta; simp [ha, hfa]
      · simp [hta]
    | some r =>
      have hkey : i.tk t = tkey (gkey i.b i.g) a ↔ t = a := ⟨fun h => tk_inj i h, fun h => h ▸ rfl⟩
      simp only [List.filterMap_cons, hfa, Option.map_some, List.foldl_cons, ih hnodup, thread_deliver, hkey, Issue.gk,
        Thread.delivered_deliver]
      by_cases hta : t = a
      · subst hta; simp [ha, hfa]
      · simp [hta]

theorem raisedBy_lt {s : State} {i : Issue} {t : Nat} (h : t ∈ lanesOf i.path) {r : TrapRec} (hpark : (s.thread (i.tk t)).park = .raised r) :
    t < 32 ∧ s.raisedBy i t = some r := by
  obtain ⟨hlt, hbit⟩ := (mem_lanesOf _ _).mp h
  exact ⟨hlt, by simp [State.raisedBy, hpark, hbit, hlt]⟩

/-- A raised thread of the path takes its trap when the traps are delivered. -/
theorem thread_deliverAll {s : State} {i : Issue} {t : Nat} (h : t ∈ lanesOf i.path) {r : TrapRec}
    (hpark : (s.thread (i.tk t)).park = .raised r) :
    (s.deliverAll i).thread (i.tk t) = (s.thread (i.tk t)).delivered (s.group i.gk) t r i.nextPc i.word := by
  obtain ⟨hlt, hraised⟩ := raisedBy_lt h hpark
  have hlanes := thread_deliver_lanes i (s.raisedBy i) (List.range 32) List.nodup_range s t
  simp only [List.mem_range, hlt, if_true, hraised] at hlanes
  unfold State.deliverAll
  simp only
  split
  · rename_i hempty
    rw [List.isEmpty_iff] at hempty
    rw [hempty] at hlanes
    exact hlanes
  · exact hlanes

/-! ### What deadlock leaves of a thread that does not wait -/

theorem thread_orphan {s : State} {k : Nat} (hk : (s.thread k).wait = none) (b g t c : Nat) : (s.orphan b g t c).thread k = s.thread k := by
  unfold State.orphan
  split
  · rfl
  · rename_i q hq
    rw [thread_deliver, if_neg]
    rintro rfl
    rw [hk] at hq
    cases hq

theorem thread_orphanFold {k : Nat} (b g : Nat) (ts : List Nat) {s : State} (hk : (s.thread k).wait = none) :
    (ts.foldl (fun s t => s.orphan b g t 3) s).thread k = s.thread k := by
  induction ts generalizing s with
  | nil => rfl
  | cons t ts ih => rw [List.foldl_cons, ih (by rw [thread_orphan hk, hk]), thread_orphan hk]

theorem thread_orphanCheck {s : State} {k : Nat} (hk : (s.thread k).wait = none) (b g : Nat) : (s.orphanCheck b g).thread k = s.thread k := by
  unfold State.orphanCheck
  simp only
  split
  · rw [thread_orphanFold b g _ (by simpa using hk), State.thread_modGroup]
  · rfl

/-- A thread that does not wait once the traps are delivered is left as it is then, but for its age. -/
theorem thread_closePass {s : State} {i : Issue} {k : Nat} (hk : ((s.deliverAll i).thread k).wait = none) :
    ((s.closePass i).thread k).ageless = ((s.deliverAll i).thread k).ageless := by
  have hage := thread_ageGroup (s.deliverAll i) i k
  unfold State.closePass
  simp only
  rw [State.thread, settleTrack_threads, endGroup_threads]
  refine Eq.trans ?_ hage
  refine congrArg Thread.ageless ?_
  refine (thread_orphanCheck (s := State.modGroup _ _ _) (b := i.b) (g := i.g) ?_).trans ?_
  · rw [State.thread_modGroup, Thread.ageless_wait hage, hk]
  · rfl

/-! ### A pass without a trap -/

theorem Issue.advance_eq {i : Issue} (hbody : i.body = none) (th : Thread) : i.advance th = if th.running then { th with tpc := i.nextPc } else th := by
  simp [Issue.advance, hbody]

/-- The threads of the path take the next word. -/
def State.advanceAll (s : State) (i : Issue) (m : W32) : State := (lanesOf m).foldl (fun s t => s.modThread (i.tk t) i.advance) s

theorem find_advanceAll (s : State) (i : Issue) (m : W32) (t : Nat) : Table.find (s.advanceAll i m).threads (i.tk t) =
    if t ∈ lanesOf m then (Table.find s.threads (i.tk t)).map i.advance else Table.find s.threads (i.tk t) :=
  fold_mod i (fun _ => i.advance) _ (lanesOf_nodup _) s t

theorem find_advanceAll_ne {s : State} {i : Issue} {m : W32} {k : Nat} (hk : ∀ t ∈ lanesOf m, k ≠ i.tk t) :
    Table.find (s.advanceAll i m).threads k = Table.find s.threads k :=
  fold_mod_ne i (fun _ => i.advance) _ s k hk

theorem Present.find {s : State} {i : Issue} {t : Nat} (h : Present s i t) : Table.find s.threads (i.tk t) = some (s.thread (i.tk t)) := by
  obtain ⟨th, hth⟩ := Option.isSome_iff_exists.mp h
  simp [State.thread, Table.get, hth]

theorem Thread.park_of_running {th : Thread} (h : th.running = true) : th.park = .none := by
  simp only [Thread.running, Bool.and_eq_true, beq_iff_eq] at h
  exact h.1.2

theorem raisedBy_of_running {s : State} {i : Issue} {t : Nat} (h : (s.thread (i.tk t)).running = true) : s.raisedBy i t = none := by
  simp [State.raisedBy, Thread.park_of_running h]

/-- A running thread that takes the next word runs on, and one that does not run stays. -/
theorem advance_running {i : Issue} (hbody : i.body = none) (th : Thread) : (i.advance th).running = th.running := by
  rw [Issue.advance_eq hbody]
  split <;> rfl

theorem advanceAll_calm {s : State} {i : Issue} (hplain : Plain s i) (m : W32) : ∀ t < 32, (s.advanceAll i m).raisedBy i t = none := by
  intro t ht
  have hcalm := hplain.calm t ht
  have hfind := find_advanceAll s i m t
  by_cases hrun : (s.thread (i.tk t)).running = true
  · refine raisedBy_of_running ?_
    simp only [State.thread, Table.get, hfind] at hrun ⊢
    split
    · cases hth : Table.find s.threads (i.tk t) <;> rw [hth] at hrun
      · exact hrun
      · exact (advance_running hplain.body _).trans hrun
    · exact hrun
  · have hsame : (s.advanceAll i m).thread (i.tk t) = s.thread (i.tk t) := by
      simp only [State.thread, Table.get, hfind] at hrun ⊢
      split
      · cases hth : Table.find s.threads (i.tk t) <;> rw [hth] at hrun
        · rfl
        · exact (Issue.advance_eq hplain.body _).trans (if_neg hrun)
      · rfl
    rw [State.raisedBy, hsame]
    exact hcalm

/-- Where a live thread runs and nothing has trapped, the end of the pass only moves the threads that take the next word. -/
theorem thread_endPassFor {s : State} {i : Issue} (hplain : Plain s i) {l : Nat} (hl : l < 32) (hpresent : Present s i l)
    (hlive : (s.thread (i.tk l)).role = .live) (hrun : (s.thread (i.tk l)).running = true) (m : W32) (k : Nat) :
    ((s.endPassFor i m).thread k).ageless = ((s.advanceAll i m).thread k).ageless := by
  have hl' : ∃ th, Table.find (s.advanceAll i m).threads (i.tk l) = some th ∧ th.role = .live ∧ th.running = true := by
    rw [find_advanceAll, hpresent.find]
    split
    · exact ⟨_, rfl, (Issue.advance_same i _).role.trans hlive, (advance_running hplain.body _).trans hrun⟩
    · exact ⟨_, rfl, hlive, hrun⟩
  obtain ⟨th, hfind, hrole, hrunning⟩ := hl'
  have hthreads := closePass_threads (s.advanceAll i m) i (advanceAll_calm hplain m) hl hfind hrole hrunning
  change (((s.advanceAll i m).closePass i).thread k).ageless = _
  rw [State.thread, hthreads]
  exact thread_ageGroup _ i k

/-- Settles O5: the pass ends as `thread_endPassFor` has it, and touches no register and no byte (`Quiet.endPass`). -/
theorem passEnds : Obligations.PassEnds := by
  unfold Obligations.PassEnds
  intro s i hplain ⟨l, hl, hpresent, hlive, hrun⟩
  have hend := thread_endPassFor hplain (lanesOf_lt hl) hpresent hlive hrun i.path
  refine ⟨Quiet.endPass s i, fun t ht hp hr => (hend _).trans ?_, fun k hk => (hend k).trans ?_⟩
  · rw [State.thread, Table.get, find_advanceAll, if_pos ht, hp.find, Option.map_some, Option.getD_some, Issue.advance_eq hplain.body, if_pos hr]
  · rw [State.thread, Table.get, find_advanceAll_ne hk]
    rfl

/-! ### Traps -/

theorem delivered_handled {gr : Group} {th : Thread} (hlive : th.role = .live) (hthv : gr.thv ≠ 0#64) (hth : th.th = false) (t : Nat) (r : TrapRec)
    (n w : W64) : th.delivered gr t r n w =
      { (th.record r n w (if gr.pixOwner.getLsbD t then gr.pix else 0#32)).suspend with
        th := true, park := .none, inMacro := .none, tpc := mkPc gr.thv 0 } := by
  simp [Thread.delivered, hlive, hthv, hth]

theorem delivered_unhandled {gr : Group} {th : Thread} (hlive : th.role = .live) (h : gr.thv = 0#64 ∨ th.th = true) (t : Nat) (r : TrapRec)
    (n w : W64) : th.delivered gr t r n w =
      { th.record r n w (if gr.pixOwner.getLsbD t then gr.pix else 0#32) with park := .dead } := by
  simp [Thread.delivered, hlive, h]

/-- Settles O6: the trap is delivered, and what else the end of the pass does leaves a thread alone that does not wait. -/
theorem trapIsDelivered : Obligations.TrapIsDelivered := by
  unfold Obligations.TrapIsDelivered
  intro s i t r ht hpresent hlive hpark hthv hth
  have hdelivered := (thread_deliverAll ht hpark).trans (delivered_handled hlive hthv hth ..)
  rw [thread_closePass (by rw [hdelivered]; rfl), hdelivered]
  simp [Thread.suspend, Thread.record, TrapRec.cause]

/-- What is pending to leave after an event. -/
theorem outbox_event (s : State) (code master unit ctx detail addr : Nat) : (s.event code master unit ctx detail addr).outbox =
    s.outbox ++ [Out.msix 1040, Out.mctpEvent [BitVec.ofNat 32 (code + 16 * master), BitVec.ofNat 32 unit,
      BitVec.ofNat 32 (ctx + 4096 * (s.context ctx).partition), BitVec.ofNat 32 detail, BitVec.ofNat 32 addr, BitVec.ofNat 32 (addr / 2 ^ 32),
      BitVec.ofNat 32 s.time, BitVec.ofNat 32 (s.time / 2 ^ 32)]] := by
  unfold State.event State.deviceEvent
  simp only
  split
  · rfl
  · split <;> rfl

/-- Settles O7: the trap is delivered as unhandled, and its record leaves as a device event. -/
theorem trapIsUnhandled : Obligations.TrapIsUnhandled := by
  unfold Obligations.TrapIsUnhandled
  refine ⟨fun s i t r ht hpresent hlive hpark hun => ?_, fun s b g t r next word hlive hun => ?_⟩
  · have hdelivered := (thread_deliverAll ht hpark).trans (delivered_unhandled hlive hun ..)
    rw [thread_closePass (by rw [hdelivered]; rfl), hdelivered]
    rfl
  · have hif : ((s.group (gkey b g)).thv == 0#64 || (s.thread (tkey (gkey b g) t)).th) = true := by simpa using hun
    simp only [State.deliver, hlive, hif, if_true, State.unhandled]
    exact outbox_event ..

end Sys2Proof.Machine
end

section
/-! SUPPORT. Words of a group: the word that is executed for its group, passes in which every turn is done, and writing registers (02 R28 to R31;
04 R83). -/

namespace Sys2Proof.Machine

/-! ### The word of the group whose turn it is -/

theorem onGroup_of_cur {s : State} {i : Issue} (h : s.cur = .group i) (f : Issue → State) : s.onGroup f = f i := by
  simp [State.onGroup, h]

/-- A legal control word runs. -/
theorem control_of_legal {s : State} {i : Issue} {op : Nat} {f : RForm} {sh : Shape} (hcur : s.cur = .group i) (h : LegalR s i op f sh)
    (go : Issue → State) : s.control op f go = go i := by
  simp [State.control, onGroup_of_cur hcur, h.shape, h.legal, h.below]

theorem passStart_fresh {s : State} {i : Issue} (h : (s.group i.gk).pass = none) (guard : Thread → Bool) :
    s.passStart i guard = (s.active i guard, 0#32, []) := by
  simp [State.passStart, h]

/-- A per-thread pass in which every turn is done is a fold of the turns. -/
theorem perThread_done {s : State} {i : Issue} (hfresh : (s.group i.gk).pass = none) (guard : Thread → Bool)
    (f : State → Nat → List Nat → Turned) (g : State → Nat → State)
    (h : ∀ pre t post, s.active i guard = pre ++ t :: post → f (pre.foldl g s) t [] = .done (g (pre.foldl g s) t) []) :
    s.perThread i guard f = ((s.active i guard).foldl g s).endPass i := by
  simp [State.perThread, passStart_fresh hfresh, runLanes_done i f g _ s 0#32 [] h]

/-- The same of a control transfer: the threads that have been moved do not take the next word. -/
theorem perThreadMove_done {s : State} {i : Issue} (hfresh : (s.group i.gk).pass = none) (guard : Thread → Bool)
    (f : State → Nat → List Nat → Turned) (g : State → Nat → State)
    (h : ∀ pre t post, s.active i guard = pre ++ t :: post → f (pre.foldl g s) t [] = .done (g (pre.foldl g s) t) []) :
    s.perThreadMove i guard f = ((s.active i guard).foldl g s).endPassFor i (i.path &&& ~~~maskOf (s.active i guard)) := by
  simp [State.perThreadMove, passStart_fresh hfresh, runLanes_done i f g _ s 0#32 [] h]

theorem not_mem_of_split {ts pre post : List Nat} {t : Nat} (hnodup : ts.Nodup) (h : ts = pre ++ t :: post) : t ∉ pre := by
  subst h
  exact fun ht => (List.nodup_append.mp hnodup).2.2 _ ht _ List.mem_cons_self rfl

theorem mem_of_split {ts pre post : List Nat} {t : Nat} (h : ts = pre ++ t :: post) : t ∈ ts := by
  simp [h]

/-! ### Register-only words -/

theorem aluTurn_done {i : Issue} {w : RegWord} {sh : Shape} {s u : State} {t : Nat} {xs : List Nat} {r : Nat} (hready : w.Ready sh s i t xs r)
    (hthread : u.thread (i.tk t) = s.thread (i.tk t)) (hs : (u.group i.gk).s = (s.group i.gk).s) (acc : List Nat) :
    aluTurn i w.fields sh w.dest (w.value s) u t acc =
      .done (w.put sh u i t false (.v r) (w.value s (u.group i.gk) (s.thread (i.tk t)) (argsOf xs))) acc := by
  obtain ⟨hsources, hplace, hwritable⟩ := hready
  rw [← readAll_congr s u i t hthread hs] at hsources
  rw [← hthread, RegWord.place] at hplace
  simp only [aluTurn, hsources, hthread, RegWord.put]
  cases hdest : w.dest <;> simp only [hdest] at hplace hwritable
  case pred => rfl
  case reg | later =>
    rw [← destReady_congr s u i t hthread hs] at hwritable
    rw [← hthread, hplace]
    simp only [hwritable, if_true]

/-- Settles O8: every turn of the pass is done, and finds its thread as it stood before the pass. -/
theorem registerWordsComplete : Obligations.RegisterWordsComplete := by
  unfold Obligations.RegisterWordsComplete
  intro e w sh s i xs r hword hshape hlegal hbelow huniform hbegins hready
  rw [regWord_exec e w s hword, onGroup_of_cur hbegins.cur]
  simp only [State.alu, hshape, hlegal, hbelow, huniform, Bool.not_true, Bool.or_self, Bool.false_eq_true, if_false]
  refine congrArg _ (perThread_done hbegins.fresh _ _ _ fun pre t post hsplit => ?_)
  obtain ⟨hthread, hs⟩ := put_fold w sh i r
    (fun u t => w.value s (u.group i.gk) (s.thread (i.tk t)) (argsOf (xs t))) pre s t (not_mem_of_split (active_nodup ..) hsplit)
  exact aluTurn_done (hready t (mem_of_split hsplit)) hthread hs []

/-- Settles O9, by the one turn of a uniform word. -/
theorem uniformWordsComplete : Obligations.UniformWordsComplete := by
  unfold Obligations.UniformWordsComplete
  intro e w sh s i hword hshape hlegal hbelow huniform hbegins
  rw [regWord_exec e w s hword, onGroup_of_cur hbegins.cur]
  simp only [State.alu, hshape, hlegal, hbelow, huniform, Bool.not_true, Bool.or_self, Bool.false_eq_true, if_false, if_true]
  refine ⟨fun hguard => ?_, fun xs hguard hread hready => ?_⟩
  · simp [State.aluUniform, hguard]
  · simp [State.aluUniform, hguard, hread, hready]

/-- Settles O10: an illegal word ends in `State.illegal`, which raises the trap on each active thread. -/
theorem illegalWordsTrap : Obligations.IllegalWordsTrap := by
  unfold Obligations.IllegalWordsTrap
  refine ⟨fun e w s i hword hcur hbad => ?_, fun s i hcur hbody hzero hcount => ?_⟩
  · rw [regWord_exec e w s hword, onGroup_of_cur hcur]
    refine congrArg _ ?_
    change _ = s.illegal i w.fields.ext
    obtain hshape | hlegal | ⟨sh, hshape, hbelow⟩ := hbad
    · simp [State.alu, hshape]
    · cases hshape : w.shape <;> simp [State.alu, hlegal]
    · simp [State.alu, hshape, hbelow]
  · change execIllegalEpaelWord s = _
    simp [execIllegalEpaelWord, onGroup_of_cur hcur, hbody, hzero, Nat.not_lt.mpr hcount]

/-! ### Writing registers -/

/-- The register that a value writes at place `j`. -/
def resultCell (x j : Nat) : Cell := { val := BitVec.ofNat 32 (x / 2 ^ (32 * j)) }

/-- The first `n` registers from `r` on of a register file take a value. -/
def writeFile (file : Table Cell) (r n x : Nat) : Table Cell := (List.range n).foldl (fun m j => Table.set {} m (r + j) (resultCell x j)) file

theorem writeFile_succ (file : Table Cell) (r n x : Nat) :
    writeFile file r (n + 1) x = Table.set {} (writeFile file r n x) (r + n) (resultCell x n) := by
  simp [writeFile, List.range_succ]

theorem wf_writeFile {file : Table Cell} (h : Table.wf {} file = true) (r n x : Nat) : Table.wf {} (writeFile file r n x) = true := by
  induction n with
  | zero => exact h
  | succ n ih => rw [writeFile_succ]; exact Table.wf_set ih ..

theorem get_writeFile {file : Table Cell} (h : Table.wf {} file = true) (r n x j : Nat) : Table.get {} (writeFile file r n x) j =
    if r ≤ j ∧ j < r + n then { val := BitVec.ofNat 32 (x / 2 ^ (32 * (j - r))), full := true, mark := none } else Table.get {} file j := by
  induction n with
  | zero => rw [if_neg (by omega)]; rfl
  | succ n ih =>
    rw [writeFile_succ, Table.get_set (wf_writeFile h ..), ih]
    by_cases hj : j = r + n
    · subst hj
      rw [if_pos rfl, if_pos (by omega), Nat.add_sub_cancel_left]
      rfl
    · by_cases hin : r ≤ j ∧ j < r + n
      · rw [if_neg hj, if_pos hin, if_pos (by omega)]
      · rw [if_neg hj, if_neg hin, if_neg (by omega)]

theorem Table.put_put_self {α : Type} (m : Table α) (k : Nat) (v w : α) : Table.put (Table.put m k v) k w = Table.put m k w := by
  induction m with
  | nil => simp [Table.put]
  | cons e m ih =>
    obtain ⟨j, x⟩ := e
    simp only [Table.put]
    split
    · simp [Table.put]
    · split
      · simp [Table.put]
      · simp only [Table.put, ih]
        rw [if_neg ‹_›, if_neg ‹_›]

/-- Writing what is already there changes nothing. -/
theorem Table.put_of_find {α : Type} {m : Table α} {k : Nat} {v : α} (h : Table.find m k = some v) : Table.put m k v = m := by
  induction m with
  | nil => cases h
  | cons e m ih =>
    obtain ⟨j, x⟩ := e
    simp only [Table.find] at h
    simp only [Table.put]
    split
    · rename_i hj
      rw [if_pos hj] at h
      cases h
      rw [hj]
    · rename_i hj
      rw [if_neg hj] at h
      split
      · rename_i hlt
        rw [if_pos hlt] at h
        cases h
      · rename_i hlt
        rw [if_neg hlt] at h
        rw [ih h]

theorem Table.modify_modify {α : Type} (m : Table α) (k : Nat) (f g : α → α) :
    Table.modify (Table.modify m k f) k g = Table.modify m k (fun x => g (f x)) := by
  unfold Table.modify
  cases hk : Table.find m k
  · simp [hk]
  · simp [Table.find_put_self, Table.put_put_self]

theorem Table.modify_eq_self {α : Type} (m : Table α) (k : Nat) {f : α → α} (h : ∀ x, Table.find m k = some x → f x = x) :
    Table.modify m k f = m := by
  unfold Table.modify
  split
  · rename_i v hv
    rw [h v hv, Table.put_of_find hv]
  · rfl

/-- An update depends on the entry that is there. -/
theorem Table.modify_congr {α : Type} {m : Table α} {k : Nat} {f g : α → α} (h : ∀ x, Table.find m k = some x → f x = g x) :
    Table.modify m k f = Table.modify m k g := by
  unfold Table.modify
  split
  · rename_i v hv
    rw [h v hv]
  · rfl

theorem State.modThread_modThread (s : State) (k : Nat) (f g : Thread → Thread) :
    (s.modThread k f).modThread k g = s.modThread k (fun th => g (f th)) := by
  simp [State.modThread, Table.modify_modify]

theorem State.modGroup_modGroup (s : State) (k : Nat) (f g : Group → Group) :
    (s.modGroup k f).modGroup k g = s.modGroup k (fun gr => g (f gr)) := by
  simp [State.modGroup, Table.modify_modify]

theorem State.modThread_congr {s : State} {k : Nat} {f g : Thread → Thread} (h : ∀ th, Table.find s.threads k = some th → f th = g th) :
    s.modThread k f = s.modThread k g := by
  simp [State.modThread, Table.modify_congr h]

theorem State.modGroup_congr {s : State} {k : Nat} {f g : Group → Group} (h : ∀ gr, Table.find s.groups k = some gr → f gr = g gr) :
    s.modGroup k f = s.modGroup k g := by
  simp [State.modGroup, Table.modify_congr h]

theorem State.modThread_id (s : State) (k : Nat) : s.modThread k (fun th => th) = s := by
  simp [State.modThread, Table.modify_eq_self]

theorem State.modGroup_id (s : State) (k : Nat) : s.modGroup k (fun gr => gr) = s := by
  simp [State.modGroup, Table.modify_eq_self]

theorem State.thread_of_find {s : State} {k : Nat} {th : Thread} (h : Table.find s.threads k = some th) : s.thread k = th := by
  simp [State.thread, Table.get, h]

theorem State.group_of_find {s : State} {k : Nat} {gr : Group} (h : Table.find s.groups k = some gr) : s.group k = gr := by
  simp [State.group, Table.get, h]

/-- Writing v registers is one update of the thread. -/
theorem writeCells_v (s : State) (i : Issue) (t r n x : Nat) :
    s.writeCells i t (.v r) n x = s.modThread (i.tk t) (fun th => { th with v := writeFile th.v r n x }) := by
  induction n with
  | zero => exact (State.modThread_id s _).symm
  | succ n ih =>
    rw [State.writeCells, List.range_succ, List.foldl_append, List.foldl_cons, List.foldl_nil, ← State.writeCells, ih]
    simp only [State.setCell, State.modThread_modThread, writeFile_succ]
    rfl

/-- Writing s registers is one update of the group. -/
theorem writeCells_s (s : State) (i : Issue) (t r n x : Nat) :
    s.writeCells i t (.s r) n x = s.modGroup i.gk (fun gr => { gr with s := writeFile gr.s r n x }) := by
  induction n with
  | zero => exact (State.modGroup_id s _).symm
  | succ n ih =>
    rw [State.writeCells, List.range_succ, List.foldl_append, List.foldl_cons, List.foldl_nil, ← State.writeCells, ih]
    simp only [State.setCell, State.modGroup_modGroup, writeFile_succ]
    rfl

/-- A register that is left empty. -/
def Cell.emptied (c : Cell) : Cell := { c with full := false, mark := none }

/-- The first `n` registers from `r` on of a register file are left empty. -/
def emptyFile (file : Table Cell) (r n : Nat) : Table Cell :=
  (List.range n).foldl (fun m j => Table.set {} m (r + j) (Table.get {} m (r + j)).emptied) file

theorem emptyFile_succ (file : Table Cell) (r n : Nat) : emptyFile file r (n + 1) =
    Table.set {} (emptyFile file r n) (r + n) (Table.get {} (emptyFile file r n) (r + n)).emptied := by
  simp [emptyFile, List.range_succ]

theorem wf_emptyFile {file : Table Cell} (h : Table.wf {} file = true) (r n : Nat) : Table.wf {} (emptyFile file r n) = true := by
  induction n with
  | zero => exact h
  | succ n ih => rw [emptyFile_succ]; exact Table.wf_set ih ..

theorem get_emptyFile {file : Table Cell} (h : Table.wf {} file = true) (r n j : Nat) : Table.get {} (emptyFile file r n) j =
    if r ≤ j ∧ j < r + n then (Table.get {} file j).emptied else Table.get {} file j := by
  induction n generalizing j with
  | zero => rw [if_neg (by omega)]; rfl
  | succ n ih =>
    rw [emptyFile_succ, Table.get_set (wf_emptyFile h ..), ih j, ih (r + n)]
    by_cases hj : j = r + n
    · subst hj
      rw [if_pos rfl, if_neg (by omega), if_pos (by omega)]
    · by_cases hin : r ≤ j ∧ j < r + n
      · rw [if_neg hj, if_pos hin, if_pos (by omega)]
      · rw [if_neg hj, if_neg hin, if_neg (by omega)]

/-- Emptying v registers is one update of the thread. -/
theorem emptyCells_v (s : State) (i : Issue) (t r n : Nat) :
    s.emptyCells i t (.v r) n = s.modThread (i.tk t) (fun th => { th with v := emptyFile th.v r n }) := by
  induction n with
  | zero => exact (State.modThread_id s _).symm
  | succ n ih =>
    rw [State.emptyCells, List.range_succ, List.foldl_append, List.foldl_cons, List.foldl_nil, ← State.emptyCells, ih]
    simp only [State.setCell, State.cell, State.modThread_modThread]
    refine State.modThread_congr fun th hth => ?_
    rw [State.thread_modThread, if_pos ⟨rfl, by simp [hth]⟩, State.thread_of_find hth]
    simp only [emptyFile_succ, Cell.emptied]

/-- Emptying s registers is one update of the group. -/
theorem emptyCells_s (s : State) (i : Issue) (t r n : Nat) :
    s.emptyCells i t (.s r) n = s.modGroup i.gk (fun gr => { gr with s := emptyFile gr.s r n }) := by
  induction n with
  | zero => exact (State.modGroup_id s _).symm
  | succ n ih =>
    rw [State.emptyCells, List.range_succ, List.foldl_append, List.foldl_cons, List.foldl_nil, ← State.emptyCells, ih]
    simp only [State.setCell, State.cell, State.modGroup_modGroup]
    refine State.modGroup_congr fun gr hgr => ?_
    rw [State.group_modGroup, if_pos ⟨rfl, by simp [hgr]⟩, State.group_of_find hgr]
    simp only [emptyFile_succ, Cell.emptied]

/-- Settles O11: writing registers is one update of a register file (`get_writeFile`). -/
theorem resultLands : Obligations.ResultLands := by
  unfold Obligations.ResultLands
  refine ⟨fun s i t r n x hpresent hwf => ?_, fun s i t r n x hpresent hwf => ?_⟩
  · rw [writeCells_v]
    have hself : (s.modThread (i.tk t) (fun th => { th with v := writeFile th.v r n x })).thread (i.tk t) =
        { s.thread (i.tk t) with v := writeFile (s.thread (i.tk t)).v r n x } := by
      rw [State.thread_modThread, if_pos ⟨rfl, hpresent⟩]
    rw [hself]
    exact ⟨rfl, rfl, wf_writeFile hwf .., fun k hk => State.thread_modThread_ne _ _ hk, rfl, get_writeFile hwf r n x⟩
  · rw [writeCells_s]
    have hself : (s.modGroup i.gk (fun gr => { gr with s := writeFile gr.s r n x })).group i.gk =
        { s.group i.gk with s := writeFile (s.group i.gk).s r n x } := by
      rw [State.group_modGroup, if_pos ⟨rfl, hpresent⟩]
    rw [hself]
    exact ⟨rfl, rfl, wf_writeFile hwf .., fun k hk => State.group_modGroup_ne _ _ hk, rfl, get_writeFile hwf r n x⟩

/-- Settles O12: the fill is due, and its lane decides where it lands. -/
theorem longLatencyFillLands : Obligations.LongLatencyFillLands := by
  unfold Obligations.LongLatencyFillLands
  intro s id p hfind hready hinert
  have hexec : exec (.longLatencyFill id) s = execLongLatencyFill id s := rfl
  refine ⟨fun hlane => ?_, fun t hlane hexited => ?_, fun t hlane hexited => ?_⟩
  · simp [hexec, execLongLatencyFill, hfind, hready, hinert, hlane, groupOnly]
  · have hexited' : (State.thread { s with fills := Table.erase s.fills id } ((groupOnly (p.g / 32) (p.g % 32)).tk t)).exited = false := hexited
    simp only [hexec, execLongLatencyFill, hfind, hready, hinert, hlane]
    simp only [groupOnly] at hexited' ⊢
    simp [hexited']
  · have hexited' : (State.thread { s with fills := Table.erase s.fills id } ((groupOnly (p.g / 32) (p.g % 32)).tk t)).exited = true := hexited
    simp only [hexec, execLongLatencyFill, hfind, hready, hinert, hlane]
    simp only [groupOnly] at hexited' ⊢
    simp [hexited']

end Sys2Proof.Machine
end

section
/-! SUPPORT. The frame of the register-only words (04 R83, R88; 03 R73): what a turn, and so a pass of any course, may touch. -/

namespace Sys2Proof.Machine

/-! ### A frame: which registers may have changed -/

/-- Between `s` and `t` no more has changed than the v registers in `tv`, the predicates in `tp` (both by thread), the s registers of the groups in
`ts`, flags added, and fills begun. -/
structure RegFrame (tv tp : Nat → Nat → Prop) (ts : Nat → Prop) (s t : State) : Prop where
  filed : Filed s → Filed t
  rest : t.rest = { s.rest with fills := t.fills, nextId := t.nextId }
  thread : ∀ k, (t.thread k).x = (s.thread k).x ∧ (t.thread k).em = (s.thread k).em ∧ (t.thread k).role = (s.thread k).role
  p : ∀ k j, ¬tp k j → (t.thread k).p.getLsbD j = (s.thread k).p.getLsbD j
  v : Filed s → ∀ k j, ¬tv k j → Table.get {} (t.thread k).v j = Table.get {} (s.thread k).v j
  group : ∀ k, (t.group k).b = (s.group k).b ∧ (t.group k).ssp = (s.group k).ssp ∧ (t.group k).thv = (s.group k).thv ∧
    (t.group k).live = (s.group k).live ∧ (t.group k).help = (s.group k).help ∧ (t.group k).tmst = (s.group k).tmst ∧
    (t.group k).tmpc = (s.group k).tmpc
  fst : ∀ k, (s.group k).fst ||| (t.group k).fst = (t.group k).fst ∧ (t.group k).fst >>> 6 = (s.group k).fst >>> 6
  s : ∀ k, ¬ts k → (t.group k).s = (s.group k).s

variable {tv tp : Nat → Nat → Prop} {ts : Nat → Prop}

theorem RegFrame.trans {s t u : State} (h : RegFrame tv tp ts s t) (g : RegFrame tv tp ts t u) : RegFrame tv tp ts s u where
  filed hs := g.filed (h.filed hs)
  rest := by rw [g.rest, h.rest]
  thread k := by
    obtain ⟨hx, hem, hrole⟩ := h.thread k
    obtain ⟨gx, gem, grole⟩ := g.thread k
    exact ⟨gx.trans hx, gem.trans hem, grole.trans hrole⟩
  p k j hk := (g.p k j hk).trans (h.p k j hk)
  v hs k j hk := (g.v (h.filed hs) k j hk).trans (h.v hs k j hk)
  group k := by
    obtain ⟨hb, hssp, hthv, hlive, hhelp, htmst, htmpc⟩ := h.group k
    obtain ⟨gb, gssp, gthv, glive, ghelp, gtmst, gtmpc⟩ := g.group k
    exact ⟨gb.trans hb, gssp.trans hssp, gthv.trans hthv, glive.trans hlive, ghelp.trans hhelp, gtmst.trans htmst, gtmpc.trans htmpc⟩
  fst k := by
    obtain ⟨hor, hmode⟩ := h.fst k
    obtain ⟨gor, gmode⟩ := g.fst k
    exact ⟨by rw [← gor, ← BitVec.or_assoc, hor], gmode.trans hmode⟩
  s k hk := (g.s k hk).trans (h.s k hk)

theorem RegFrame.of_quiet {s t : State} (h : Quiet s t) : RegFrame tv tp ts s t where
  filed hs := ⟨fun k => by rw [(h.thread k).v]; exact hs.1 k, fun k => by rw [(h.group k).s]; exact hs.2 k⟩
  rest := by
    have hfills : t.fills = s.fills := (congrArg State.fills h.rest : t.rest.fills = s.rest.fills)
    have hnext : t.nextId = s.nextId := (congrArg State.nextId h.rest : t.rest.nextId = s.rest.nextId)
    rw [h.rest, hfills, hnext]
    rfl
  thread k := ⟨(h.thread k).x, (h.thread k).em, (h.thread k).role⟩
  p k j _ := by rw [(h.thread k).p]
  v _ k j _ := by rw [(h.thread k).v]
  group k := ⟨(h.group k).b, (h.group k).ssp, (h.group k).thv, (h.group k).live, (h.group k).help, (h.group k).tmst, (h.group k).tmpc⟩
  fst k := by rw [(h.group k).fst]; exact ⟨BitVec.or_self, rfl⟩
  s k _ := (h.group k).s

theorem RegFrame.refl (s : State) : RegFrame tv tp ts s s := .of_quiet (.refl s)

/-- Flags lie below the rounding mode. -/
theorem or_flags_shift (x : W32) (fl : Flags) : (x ||| fl.setWidth 32) >>> 6 = x >>> 6 := by
  apply BitVec.eq_of_getLsbD_eq
  intro j hj
  simp [BitVec.getLsbD_or]

theorem RegFrame.modThread_v (s : State) (k : Nat) (f : Table Cell → Table Cell) (hwf : ∀ m, Table.wf {} m = true → Table.wf {} (f m) = true)
    (hget : ∀ m, Table.wf {} m = true → ∀ j, ¬tv k j → Table.get {} (f m) j = Table.get {} m j) :
    RegFrame tv tp ts s (s.modThread k (fun th => { th with v := f th.v })) := by
  have hthread : ∀ j, (s.modThread k (fun th => { th with v := f th.v })).thread j =
      if j = k ∧ (Table.find s.threads k).isSome then { s.thread j with v := f (s.thread j).v } else s.thread j :=
    fun j => State.thread_modThread ..
  refine ⟨fun hs => ⟨fun j => ?_, hs.2⟩, rfl, fun j => ?_, fun j n _ => ?_, fun hs j n hn => ?_, fun _ => ⟨rfl, rfl, rfl, rfl, rfl, rfl, rfl⟩,
    fun _ => ⟨BitVec.or_self, rfl⟩, fun _ _ => rfl⟩
  all_goals rw [hthread]; split
  · exact hwf _ (hs.1 j)
  · exact hs.1 j
  · exact ⟨rfl, rfl, rfl⟩
  · exact ⟨rfl, rfl, rfl⟩
  · rfl
  · rfl
  · rename_i hk
    exact hget _ (hs.1 j) n (hk.1 ▸ hn)
  · rfl

theorem RegFrame.modThread_p (s : State) (k : Nat) (f : Thread → BitVec 8) (hf : ∀ th j, ¬tp k j → (f th).getLsbD j = th.p.getLsbD j) :
    RegFrame tv tp ts s (s.modThread k (fun th => { th with p := f th })) := by
  have hthread : ∀ j, (s.modThread k (fun th => { th with p := f th })).thread j =
      if j = k ∧ (Table.find s.threads k).isSome then { s.thread j with p := f (s.thread j) } else s.thread j :=
    fun j => State.thread_modThread ..
  refine ⟨fun hs => ⟨fun j => ?_, hs.2⟩, rfl, fun j => ?_, fun j n hn => ?_, fun hs j n _ => ?_, fun _ => ⟨rfl, rfl, rfl, rfl, rfl, rfl, rfl⟩,
    fun _ => ⟨BitVec.or_self, rfl⟩, fun _ _ => rfl⟩
  all_goals rw [hthread]; split
  · exact hs.1 j
  · exact hs.1 j
  · exact ⟨rfl, rfl, rfl⟩
  · exact ⟨rfl, rfl, rfl⟩
  · rename_i hk
    exact hf _ n (hk.1 ▸ hn)
  · rfl
  · rfl
  · rfl

theorem RegFrame.modGroup_s (s : State) {k : Nat} (f : Table Cell → Table Cell) (hwf : ∀ m, Table.wf {} m = true → Table.wf {} (f m) = true)
    (hk : ts k) : RegFrame tv tp ts s (s.modGroup k (fun gr => { gr with s := f gr.s })) := by
  have hgroup : ∀ j, (s.modGroup k (fun gr => { gr with s := f gr.s })).group j =
      if j = k ∧ (Table.find s.groups k).isSome then { s.group j with s := f (s.group j).s } else s.group j :=
    fun j => State.group_modGroup ..
  refine ⟨fun hs => ⟨hs.1, fun j => ?_⟩, rfl, fun j => ⟨rfl, rfl, rfl⟩, fun _ _ _ => rfl, fun _ _ _ _ => rfl, fun j => ?_, fun j => ?_,
    fun j hj => ?_⟩
  all_goals rw [hgroup]; split
  · exact hwf _ (hs.2 j)
  · exact hs.2 j
  · exact ⟨rfl, rfl, rfl, rfl, rfl, rfl, rfl⟩
  · exact ⟨rfl, rfl, rfl, rfl, rfl, rfl, rfl⟩
  · exact ⟨BitVec.or_self, rfl⟩
  · exact ⟨BitVec.or_self, rfl⟩
  · rename_i hjk
    exact absurd (hjk.1 ▸ hk) hj
  · rfl

theorem RegFrame.setSticky (s : State) (k : Nat) (fl : Flags) : RegFrame tv tp ts s (s.setSticky k fl) := by
  unfold State.setSticky
  split
  · exact .refl s
  have hgroup : ∀ j, (s.modGroup k (fun gr => { gr with fst := gr.fst ||| fl.setWidth 32 })).group j =
      if j = k ∧ (Table.find s.groups k).isSome then { s.group j with fst := (s.group j).fst ||| fl.setWidth 32 } else s.group j :=
    fun j => State.group_modGroup ..
  refine ⟨fun hs => ⟨hs.1, fun j => ?_⟩, rfl, fun j => ⟨rfl, rfl, rfl⟩, fun _ _ _ => rfl, fun _ _ _ _ => rfl, fun j => ?_, fun j => ?_,
    fun j hj => ?_⟩
  all_goals rw [hgroup]; split
  · exact hs.2 j
  · exact hs.2 j
  · exact ⟨rfl, rfl, rfl, rfl, rfl, rfl, rfl⟩
  · exact ⟨rfl, rfl, rfl, rfl, rfl, rfl, rfl⟩
  · exact ⟨by rw [← BitVec.or_assoc, BitVec.or_self], or_flags_shift ..⟩
  · exact ⟨BitVec.or_self, rfl⟩
  · rfl
  · rfl

theorem RegFrame.fills (s : State) (fs : Table Fill) (n : Nat) : RegFrame tv tp ts s { s with fills := fs, nextId := n } :=
  ⟨id, rfl, fun _ => ⟨rfl, rfl, rfl⟩, fun _ _ _ => rfl, fun _ _ _ _ => rfl, fun _ => ⟨rfl, rfl, rfl, rfl, rfl, rfl, rfl⟩,
    fun _ => ⟨BitVec.or_self, rfl⟩, fun _ _ => rfl⟩

/-! ### The frame of a turn -/

/-- The registers from a place on may be touched. -/
def Touches (tv : Nat → Nat → Prop) (ts : Nat → Prop) (i : Issue) (t : Nat) (l : Loc) (n : Nat) : Prop :=
  match l with
  | .v r => ∀ j, r ≤ j → j < r + n → tv (i.tk t) j
  | .s _ => ts i.gk

theorem RegFrame.writeCells (s : State) (i : Issue) (t : Nat) (l : Loc) (n x : Nat) (h : Touches tv ts i t l n) :
    RegFrame tv tp ts s (s.writeCells i t l n x) := by
  cases l with
  | v r =>
    rw [writeCells_v]
    refine .modThread_v s _ _ (fun m hm => wf_writeFile hm ..) fun m hm j hj => ?_
    rw [get_writeFile hm, if_neg fun hin => hj (h j hin.1 hin.2)]
  | s r =>
    rw [writeCells_s]
    exact .modGroup_s s _ (fun m hm => wf_writeFile hm ..) h

theorem RegFrame.emptyCells (s : State) (i : Issue) (t : Nat) (l : Loc) (n : Nat) (h : Touches tv ts i t l n) :
    RegFrame tv tp ts s (s.emptyCells i t l n) := by
  cases l with
  | v r =>
    rw [emptyCells_v]
    refine .modThread_v s _ _ (fun m hm => wf_emptyFile hm ..) fun m hm j hj => ?_
    rw [get_emptyFile hm, if_neg fun hin => hj (h j hin.1 hin.2)]
  | s r =>
    rw [emptyCells_s]
    exact .modGroup_s s _ (fun m hm => wf_emptyFile hm ..) h

/-- A predicate that is set or cleared is the only one that changes. -/
theorem predicate_other (x : Nat) (p : BitVec 8) {n j : Nat} (hj : j ≠ n) :
    (if x == 0 then p &&& ~~~(1#8 <<< n) else p ||| (1#8 <<< n)).getLsbD j = p.getLsbD j := by
  have hone : (1#8 <<< n).getLsbD j = false := by
    rw [BitVec.getLsbD_shiftLeft, BitVec.getLsbD_one]
    by_cases hlt : j < n
    · simp [hlt]
    · simp [show j - n ≠ 0 by omega]
  generalize 1#8 <<< n = mask at hone ⊢
  by_cases hwidth : j < 8
  · split
    · rw [BitVec.getLsbD_and, BitVec.getLsbD_not, hone]
      simp [hwidth]
    · rw [BitVec.getLsbD_or, hone, Bool.or_false]
  · rw [BitVec.getLsbD_of_ge _ _ (by omega), BitVec.getLsbD_of_ge _ _ (by omega)]

theorem RegFrame.deposit (s : State) (i : Issue) (t : Nat) (uniform : Bool) (l : Loc) (n : Nat) (kind : Dest) (pn : Nat) (r : Nat × Flags)
    (hreg : kind ≠ .pred → Touches tv ts i t l n) (hpred : kind = .pred → tp (i.tk t) pn) :
    RegFrame tv tp ts s (s.deposit i t uniform l n kind pn r) := by
  cases kind with
  | reg => exact (RegFrame.writeCells s i t l n r.1 (hreg (by decide))).trans (.setSticky ..)
  | pred =>
    refine (RegFrame.modThread_p s _ _ fun th j hj => ?_).trans (.setSticky ..)
    exact predicate_other _ _ fun h => hj (h ▸ hpred rfl)
  | later => exact (RegFrame.emptyCells s i t l n (hreg (by decide))).trans (.fills ..)

/-- A place depends on the index registers of its thread only. -/
theorem locate_congr {a b : Thread} (h : a.x = b.x) (code : BitVec 7) (o : Opd) (index : Option Nat) :
    locate a code o index = locate b code o index := by
  unfold locate
  rw [h]

/-- A destination in s names it directly. -/
theorem locate_s {th : Thread} {code : BitVec 7} {o : Opd} {index : Option Nat} {r : Nat} (h : locate th code o index = .ok (.s r)) :
    index = none ∧ 96 ≤ code.toNat := by
  unfold locate at h
  split at h
  · split at h
    · cases h
    · exact ⟨rfl, by omega⟩
  · simp only at h
    split at h
    · cases h
    · split at h <;> cases h

/-! ### The frame of a pass -/

/-- A pass keeps what every turn and every trap of it keeps. -/
theorem runLanes_keeps {P : State → Prop} (i : Issue) (f : State → Nat → List Nat → Turned) (lanes : List Nat)
    (hdone : ∀ u t acc v acc', t ∈ lanes → P u → f u t acc = .done v acc' → P v)
    (hhold : ∀ u t acc v, t ∈ lanes → P u → f u t acc = .holdWith v → P v) (hraise : ∀ u k r, P u → P (u.raise k r))
    (s : State) (took : W32) (acc : List Nat) (hs : P s) : P (runLanes i f lanes s took acc).1 := by
  induction lanes generalizing s took acc with
  | nil => exact hs
  | cons t lanes ih =>
    have ih' := ih (fun u t acc v acc' ht => hdone u t acc v acc' (List.mem_cons_of_mem _ ht))
      (fun u t acc v ht => hhold u t acc v (List.mem_cons_of_mem _ ht))
    unfold runLanes
    split
    · rename_i heq
      exact ih' _ _ _ (hdone _ _ _ _ _ List.mem_cons_self hs heq)
    · exact hs
    · rename_i heq
      exact hhold _ _ _ _ List.mem_cons_self hs heq
    · exact ih' _ _ _ (hraise _ _ _ hs)

theorem mem_lanesOf_or {a b : W32} {t : Nat} (h : t ∈ lanesOf a ∨ t ∈ lanesOf b) : t ∈ lanesOf (a ||| b) := by
  simp only [mem_lanesOf, BitVec.getLsbD_or, Bool.or_eq_true] at h ⊢
  obtain ⟨hlt, hbit⟩ | ⟨hlt, hbit⟩ := h
  · exact ⟨hlt, .inl hbit⟩
  · exact ⟨hlt, .inr hbit⟩

/-- A pass visits threads of its path, or those left of a pass under way. -/
theorem passStart_visits (s : State) (i : Issue) (guard : Thread → Bool) : ∀ t ∈ (s.passStart i guard).1, t ∈ lanesOf (s.visits i) := by
  intro t ht
  unfold State.visits
  unfold State.passStart at ht
  cases hpass : (s.group i.gk).pass with
  | some p =>
    simp only [hpass] at ht ⊢
    exact mem_lanesOf_or (.inr ht)
  | none =>
    simp only [hpass] at ht ⊢
    exact ((mem_active s i guard t).mp ht).1

theorem perThread_keeps {P : State → Prop} (s : State) (i : Issue) (guard : Thread → Bool) (f : State → Nat → List Nat → Turned)
    (hdone : ∀ u t acc v acc', t ∈ lanesOf (s.visits i) → P u → f u t acc = .done v acc' → P v)
    (hhold : ∀ u t acc v, t ∈ lanesOf (s.visits i) → P u → f u t acc = .holdWith v → P v)
    (hquiet : ∀ u v, Quiet u v → P u → P v) (hs : P s) : P (s.perThread i guard f) := by
  have hvisits := passStart_visits s i guard
  have hlanes := runLanes_keeps (P := P) i f (s.passStart i guard).1 (fun u t acc v acc' ht => hdone u t acc v acc' (hvisits t ht))
    (fun u t acc v ht => hhold u t acc v (hvisits t ht)) (fun u k r hu => hquiet _ _ (Quiet.raise u k r) hu) s
    (s.passStart i guard).2.1 (s.passStart i guard).2.2 hs
  unfold State.perThread
  simp only
  split
  · exact hquiet _ _ (Quiet.endPass ..) hlanes
  · exact hquiet _ _ (Quiet.holdPass ..) hlanes

/-! ### The register-only words -/

theorem cmpDest_pred {x : Option Ext} (h : cmpDest x = .pred) : (extSub x / 128 == 1) = false := by
  cases hsub : (extSub x / 128 == 1)
  · rfl
  · simp [cmpDest, hsub] at h

/-- A word whose result goes to a predicate names no register with its d field (R91, R92). -/
theorem regWord_pred_raw {e : Instr} {w : RegWord} {sh : Shape} (hword : regWord e = some w) (hshape : w.shape = some sh)
    (hpred : w.dest = .pred) : sh.d.raw = true := by
  cases e
  case icmp f =>
    cases hword
    have hsub := cmpDest_pred (x := f.ext) hpred
    change rShape 0x27 f = some sh at hshape
    simp [rShape, aluShape, hsub, shapeIf] at hshape
    rw [← hshape.2]
    rfl
  case fcmp f =>
    cases hword
    have hsub := cmpDest_pred (x := f.ext) hpred
    change rShape 0x46 f = some sh at hshape
    simp [rShape, aluShape, hsub, shapeIf] at hshape
    rw [← hshape.2]
    rfl
  case plop f =>
    cases hword
    change rShape 0x29 f = some sh at hshape
    simp [rShape, aluShape, shapeIf] at hshape
    rw [← hshape.2]
    rfl
  case pmov f =>
    simp only [regWord] at hword
    split at hword
    · cases hword
      cases hpred
    · cases hword
  all_goals simp only [regWord, reduceCtorEq] at hword
  all_goals (cases hword; cases hpred)

/-- The v registers that a register-only word may touch: those d names, of the threads its pass visits. -/
def RegWord.touchesV (w : RegWord) (s : State) (i : Issue) (k j : Nat) : Prop :=
  w.dest ≠ .pred ∧ (∃ l ∈ lanesOf (s.visits i), k = i.tk l) ∧ ∃ sh r, w.shape = some sh ∧
    locate (s.thread k) w.fields.d sh.d (if w.fields.xo == 3 then some w.fields.xs else none) = .ok (.v r) ∧ r ≤ j ∧ j < r + sh.d.n

/-- The predicates it may touch. -/
def RegWord.touchesP (w : RegWord) (s : State) (i : Issue) (k j : Nat) : Prop :=
  w.dest = .pred ∧ j = w.fields.d.toNat % 8 ∧ ∃ l ∈ lanesOf (s.visits i), k = i.tk l

/-- The groups whose s registers it may touch. -/
def RegWord.touchesS (w : RegWord) (i : Issue) (k : Nat) : Prop :=
  k = i.gk ∧ w.dest ≠ .pred ∧ 96 ≤ w.fields.d.toNat ∧ w.fields.xo ≠ 3

/-- A turn of a register-only word touches what its d field names. -/
theorem aluTurn_frame {w : RegWord} {sh : Shape} {s u v : State} {i : Issue} {op : Group → Thread → Args → Nat × Flags} {t : Nat}
    {acc acc' : List Nat} (hshape : w.shape = some sh) (ht : t ∈ lanesOf (s.visits i))
    (hframe : RegFrame (w.touchesV s i) (w.touchesP s i) (w.touchesS i) s u) (hturn : aluTurn i w.fields sh w.dest op u t acc = .done v acc') :
    RegFrame (w.touchesV s i) (w.touchesP s i) (w.touchesS i) u v := by
  unfold aluTurn at hturn
  split at hturn
  · cases hturn
  · cases hturn
  rename_i xs _
  simp only at hturn
  split at hturn
  · rename_i hpred
    cases hturn
    exact .deposit u i t false _ _ _ _ _ (fun h => absurd hpred h) fun _ => ⟨hpred, rfl, t, ht, rfl⟩
  · rename_i hdest
    split at hturn
    · cases hturn
    rename_i l hl
    split at hturn
    · cases hturn
      refine .deposit u i t false l _ _ _ _ (fun hreg => ?_) (fun hpred => absurd hpred hdest)
      rw [locate_congr (hframe.thread (i.tk t)).1] at hl
      cases l with
      | v r => exact fun j hr hn => ⟨hreg, ⟨t, ht, rfl⟩, sh, r, hshape, hl, hr, hn⟩
      | s r =>
        obtain ⟨hindex, hd⟩ := locate_s hl
        have hxo : w.fields.xo ≠ 3 := fun h => by simp [h] at hindex
        exact ⟨rfl, hreg, hd, hxo⟩
    · cases hturn

/-- A turn asks for nothing. -/
theorem aluTurn_not_holdWith {q : Fields} {sh : Shape} {kind : Dest} {op : Group → Thread → Args → Nat × Flags} {i : Issue} {u v : State} {t : Nat}
    {acc : List Nat} : aluTurn i q sh kind op u t acc ≠ .holdWith v := by
  unfold aluTurn
  split
  · exact fun h => by cases h
  · exact fun h => by cases h
  · simp only
    split
    · exact fun h => by cases h
    · split
      · exact fun h => by cases h
      · split <;> exact fun h => by cases h

/-- Where a uniform word's destination lies (R46). -/
theorem uniform_iff {q : Fields} {sh : Shape} : q.uniform sh = true ↔ sh.d.raw = false ∧ sh.d.n ≠ 0 ∧ q.xo ≠ 3 ∧ 96 ≤ q.d.toNat := by
  simp [Fields.uniform, and_assoc]

theorem aluUniform_frame {e : Instr} {w : RegWord} {sh : Shape} (s : State) (i : Issue) (op : Group → Thread → Args → Nat × Flags)
    (hword : regWord e = some w) (hshape : w.shape = some sh) (huniform : w.fields.uniform sh = true) :
    RegFrame (w.touchesV s i) (w.touchesP s i) (w.touchesS i) s (s.aluUniform i w.fields sh w.dest op) := by
  obtain ⟨hraw, _, hxo, hd⟩ := uniform_iff.mp huniform
  have hnotpred : w.dest ≠ .pred := fun hpred => by rw [regWord_pred_raw hword hshape hpred] at hraw; cases hraw
  unfold State.aluUniform
  simp only
  split
  · exact .of_quiet (Quiet.endPass ..)
  split
  · exact .of_quiet (Quiet.trapPath ..)
  · exact .of_quiet (Quiet.holdPass ..)
  split
  · have htouch : ∀ n, Touches (w.touchesV s i) (w.touchesS i) i (firstLane i.path) (.s (w.fields.d.toNat - 96)) n :=
      fun _ => ⟨rfl, hnotpred, hd, hxo⟩
    exact (RegFrame.deposit s i _ true _ _ _ _ _ (fun _ => htouch _) (fun hpred => absurd hpred hnotpred)).trans (.of_quiet (Quiet.endPass ..))
  · exact .of_quiet (Quiet.holdPass ..)

theorem alu_frame {e : Instr} {w : RegWord} (s : State) (i : Issue) (op : Group → Thread → Args → Nat × Flags) (hword : regWord e = some w) :
    RegFrame (w.touchesV s i) (w.touchesP s i) (w.touchesS i) s (s.alu i w.legal w.shape w.fields w.dest op) := by
  unfold State.alu
  split
  · exact .of_quiet (Quiet.illegal ..)
  rename_i sh hshape
  split
  · exact .of_quiet (Quiet.illegal ..)
  split
  · exact aluUniform_frame s i op hword hshape ‹_›
  · exact perThread_keeps (P := fun u => RegFrame (w.touchesV s i) (w.touchesP s i) (w.touchesS i) s u) s i _ _
      (fun u t acc v acc' ht hu hturn => hu.trans (aluTurn_frame hshape ht hu hturn))
      (fun u t acc v ht hu hturn => absurd hturn aluTurn_not_holdWith)
      (fun u v hquiet hu => hu.trans (.of_quiet hquiet)) (.refl s)

/-- Settles O13: what a word may touch is what its d field names, whatever course its pass takes (`alu_frame`). -/
theorem registerWordsFrame : Obligations.RegisterWordsFrame := by
  unfold Obligations.RegisterWordsFrame
  intro e w s t i hword hfiled hcur hexec
  rw [regWord_exec e w s hword, onGroup_of_cur hcur, Host.Outcome.next.injEq] at hexec
  have hframe := alu_frame s i (w.value s) hword
  rw [hexec] at hframe
  refine ⟨hframe.filed hfiled, ?_, hframe.thread, fun k j hk => hframe.p k j ?_, fun k j hk => hframe.v hfiled k j ?_, fun k => ?_,
    fun k hk => hframe.s k ?_⟩
  · have hrest := hframe.rest
    change { t.rest with fills := s.fills, nextId := s.nextId } = s.rest
    rw [hrest]
    rfl
  · rintro ⟨hpred, hj, l, hl, rfl⟩
    obtain hreg | hother | hlanes := hk
    · exact hreg hpred
    · exact hother hj
    · exact hlanes l hl rfl
  · rintro ⟨hreg, ⟨l, hl, rfl⟩, sh, r, hshape, hplace, hr, hn⟩
    obtain hpred | hlanes | hout := hk
    · exact hreg hpred
    · exact hlanes l hl rfl
    · exact absurd (hout sh r hshape hplace) (by omega)
  · obtain ⟨hb, hssp, hthv, hlive, hhelp, htmst, htmpc⟩ := hframe.group k
    exact ⟨hb, hssp, hthv, hlive, hhelp, htmst, htmpc, hframe.fst k⟩
  · rintro ⟨rfl, hreg, hd, hxo⟩
    obtain hother | hpred | hlow | hindex := hk
    · exact hother rfl
    · exact hreg hpred
    · omega
    · exact hxo hindex

end Sys2Proof.Machine
end

section
/-! SUPPORT. PMOV, XSET and XADD (04 R94; 02 R56): passes whose turns write one field of their own thread, and passes in which every thread traps. -/

namespace Sys2Proof.Machine

/-! ### Reading a thread that earlier turns of the pass have left alone -/

theorem read_congr {s u : State} {i : Issue} {t : Nat} (hthread : u.thread (i.tk t) = s.thread (i.tk t))
    (hs : (u.group i.gk).s = (s.group i.gk).s) (code : BitVec 7) (e : Bool) (o : Opd) (index : Option Nat) :
    u.read i t code e o index = s.read i t code e o index := by
  have hcells : ∀ l n, u.cells i t l n = s.cells i t l n := by
    intro l n
    refine List.map_congr_left fun j _ => ?_
    cases l
    · simp only [State.cell, hthread]
    · simp only [State.cell, hs]
  simp [State.read, hthread, hcells]

/-- Turns that write their own threads leave the others' as they are. -/
theorem foldl_thread_other {i : Issue} {g : State → Nat → State} (h : ∀ u t k, k ≠ i.tk t → (g u t).thread k = u.thread k)
    {pre : List Nat} {t : Nat} (ht : t ∉ pre) (s : State) : (pre.foldl g s).thread (i.tk t) = s.thread (i.tk t) := by
  induction pre generalizing s with
  | nil => rfl
  | cons a pre ih =>
    simp only [List.mem_cons, not_or] at ht
    rw [List.foldl_cons, ih ht.2, h _ _ _ fun e => ht.1 (tk_inj i e)]

theorem foldl_modThread_thread {i : Issue} (f : Nat → Thread → Thread) {pre : List Nat} {t : Nat} (ht : t ∉ pre) (s : State) :
    (pre.foldl (fun u t => u.modThread (i.tk t) (f t)) s).thread (i.tk t) = s.thread (i.tk t) :=
  foldl_thread_other (fun u t _ hk => State.thread_modThread_ne u (f t) hk) ht s

theorem foldl_modThread_of {β : Type} (i : Issue) (f : Nat → Thread → Thread) (g : State → β) (h : ∀ u n f, g (State.modThread u n f) = g u)
    (pre : List Nat) (s : State) : g (pre.foldl (fun u t => u.modThread (i.tk t) (f t)) s) = g s :=
  foldl_keep _ g (fun u t => h u (i.tk t) (f t)) pre s

/-- A pass in which every thread traps. -/
theorem runLanes_trap (i : Issue) (f : State → Nat → List Nat → Turned) (r : TrapRec) (lanes : List Nat) (s : State) (took : W32) (acc : List Nat)
    (h : ∀ u t acc, Quiet s u → f u t acc = .trap r) :
    runLanes i f lanes s took acc = (lanes.foldl (fun s t => s.raise (i.tk t) r) s, [], took, acc) := by
  induction lanes generalizing s took acc with
  | nil => rfl
  | cons t lanes ih =>
    rw [runLanes, h s t acc (.refl s)]
    exact ih _ _ _ fun u t acc hu => h u t acc ((Quiet.raise s _ r).trans hu)

theorem perThread_trap {s : State} {i : Issue} (hfresh : (s.group i.gk).pass = none) (guard : Thread → Bool)
    (f : State → Nat → List Nat → Turned) (r : TrapRec) (h : ∀ u t acc, Quiet s u → f u t acc = .trap r) :
    s.perThread i guard f = s.trapActive i (s.active i guard) r := by
  simp [State.perThread, passStart_fresh hfresh, runLanes_trap i f r _ s 0#32 [] h, State.trapActive]

/-! ### PMOV -/

theorem pmovTurn_val {s u : State} {i : Issue} {q : Fields} {toEm : Bool} {t x : Nat} {acc : List Nat}
    (hthread : u.thread (i.tk t) = s.thread (i.tk t)) (hs : (u.group i.gk).s = (s.group i.gk).s)
    (hread : s.read i t q.a q.ea Opd.one (if q.xo == 1 then some q.xs else none) = .val x) :
    pmovTurn i q toEm u t acc = .done (u.modThread (i.tk t) (fun th =>
      if toEm then { th with em := bitAt x 0 == 1 } else { th with p := BitVec.ofNat 8 x })) acc := by
  rw [← read_congr hthread hs] at hread
  rw [pmovTurn, hread]

/-- A legal PMOV that writes predicates or em. -/
theorem exec_pmov {f : RForm} {sh : Shape} {s : State} {i : Issue} (h : LegalR s i 0x2B f sh) (hcur : s.cur = .group i)
    (hsub : extSub f.ext ≠ 0) : exec (.pmov f) s = .next (if extSub f.ext == 2 then s.pmovEm i (Fields.ofR f)
      else s.perThread i (extGuard f.ext) (pmovTurn i (Fields.ofR f) false)) := by
  change execPmov f s = _
  unfold execPmov
  split
  · exact absurd ‹_› hsub
  · simp [onGroup_of_cur hcur, h.shape, h.legal, h.below]

theorem pmov_predicates {f : RForm} {sh : Shape} {s : State} {i : Issue} {x : Nat → Nat} (hlegal : LegalR s i 0x2B f sh) (hbegins : Begins s i)
    (hsub : extSub f.ext = 1) (hread : ∀ t ∈ s.active i (extGuard f.ext),
      s.read i t f.a f.ea Opd.one (if extXo f.ext == 1 then some (extXs f.ext) else none) = .val (x t)) :
    exec (.pmov f) s = .next (State.endPass ((s.active i (extGuard f.ext)).foldl (fun u t =>
      u.modThread (i.tk t) (fun th => { th with p := BitVec.ofNat 8 (x t) })) s) i) := by
  rw [exec_pmov hlegal hbegins.cur (by omega), if_neg (by simp [hsub])]
  refine congrArg _ (perThread_done hbegins.fresh _ _ _ fun pre t post hsplit => ?_)
  have hother := not_mem_of_split (active_nodup ..) hsplit
  rw [pmovTurn_val (foldl_modThread_thread _ hother s) (foldl_modThread_of i _ (fun u => (u.group i.gk).s) (fun _ _ _ => rfl) pre s)
    (hread t (mem_of_split hsplit))]
  rfl

theorem pmov_em {f : RForm} {sh : Shape} {s : State} {i : Issue} {x : Nat → Nat} (hlegal : LegalR s i 0x2B f sh) (hbegins : Begins s i)
    (hsub : extSub f.ext = 2) (hread : ∀ t ∈ lanesOf i.path, extGuard f.ext (s.thread (i.tk t)) = true →
      s.read i t f.a f.ea Opd.one (if extXo f.ext == 1 then some (extXs f.ext) else none) = .val (x t)) :
    exec (.pmov f) s = .next (State.endPass (((lanesOf i.path).filter (fun t => extGuard f.ext (s.thread (i.tk t)))).foldl (fun u t =>
      u.modThread (i.tk t) (fun th => { th with em := x t % 2 == 1 })) s) i) := by
  rw [exec_pmov hlegal hbegins.cur (by omega), if_pos (by simp [hsub])]
  have hnodup : ((lanesOf i.path).filter (fun t => extGuard f.ext (s.thread (i.tk t)))).Nodup := (lanesOf_nodup _).filter _
  have hrun := runLanes_done i (pmovTurn i (Fields.ofR f) true) (fun u t => u.modThread (i.tk t) (fun th => { th with em := x t % 2 == 1 }))
    ((lanesOf i.path).filter (fun t => extGuard f.ext (s.thread (i.tk t)))) s 0#32 [] fun pre t post hsplit => by
      obtain ⟨ht, hguard⟩ := List.mem_filter.mp (mem_of_split hsplit)
      rw [pmovTurn_val (foldl_modThread_thread _ (not_mem_of_split hnodup hsplit) s)
        (foldl_modThread_of i _ (fun u => (u.group i.gk).s) (fun _ _ _ => rfl) pre s) (hread t ht hguard)]
      simp [bitAt]
  simp only [State.pmovEm, hbegins.fresh]
  simp only [Fields.ofR] at hrun ⊢
  rw [hrun]

/-! ### Index registers -/

theorem xOk_iff {base : Int} {limit nreg : Nat} : xOk base limit nreg = true ↔ 1 ≤ limit ∧ limit ≤ 160 ∧ 96 ≤ base ∧ base + limit ≤ nreg := by
  simp [xOk, and_assoc]

theorem setIndex_ok {i : Issue} {n : Nat} {base : Int} {limit : Nat} {s : State} (h : xOk base limit (s.block i.b).nreg = true) (t : Nat)
    (acc : List Nat) : setIndex i n base limit s t acc =
      .done (s.modThread (i.tk t) (fun th => { th with x := Table.set 0#32 th.x n (BitVec.ofNat 32 (limit * 256 + base.toNat)) })) acc := by
  simp [setIndex, h]

theorem setIndex_trap {i : Issue} {n : Nat} {base : Int} {limit : Nat} {s : State} (h : ¬xOk base limit (s.block i.b).nreg = true) (t : Nat)
    (acc : List Nat) : setIndex i n base limit s t acc = .trap (xTrap n base limit) := by
  simp [setIndex, h]

theorem exec_xset {f : IForm} {s : State} {i : Issue} (hlegal : iLegal 0xE1 f = true) (hcur : s.cur = .group i) :
    exec (.xset f) s =
      .next (s.perThread i (fun _ => true) (setIndex i (f.d.toNat % 4) (f.imm.toNat % 256 : Nat) (f.imm.toNat / 256))) := by
  change execXset f s = _
  simp [execXset, onGroup_of_cur hcur, hlegal]

/-- XSET's immediate is a limit above a base. -/
theorem xset_value (x : Nat) : x / 256 * 256 + ((x % 256 : Nat) : Int).toNat = x := by
  omega

theorem Quiet.blocks {s t : State} (h : Quiet s t) : t.blocks = s.blocks := (congrArg State.blocks h.rest : t.rest.blocks = s.rest.blocks)

theorem Quiet.block {s t : State} (h : Quiet s t) (b : Nat) : t.block b = s.block b := by rw [State.block, h.blocks, State.block]

/-- XADD has no extension, so its operand is named directly (R56). -/
theorem LegalR.xadd_ext {s : State} {i : Issue} {f : RForm} {sh : Shape} (h : LegalR s i 0xE2 f sh) : f.ext = none := by
  have hshape := h.shape
  simp [rShape, controlShape, shapeIf] at hshape
  exact hshape.1.1

theorem readA_plain {s u : State} {i : Issue} {f : RForm} {t y : Nat} (hext : f.ext = none) (hthread : u.thread (i.tk t) = s.thread (i.tk t))
    (hs : (u.group i.gk).s = (s.group i.gk).s) {o : Opd} (hread : s.read i t f.a f.ea o none = .val y) : u.readA i t f o = .val y := by
  rw [State.readA, hext]
  exact (read_congr hthread hs ..).trans hread

/-- Settles O14, by the turns of the four words. -/
theorem predicateAndIndexWordsComplete : Obligations.PredicateAndIndexWordsComplete := by
  unfold Obligations.PredicateAndIndexWordsComplete
  refine ⟨fun f sh s i x hlegal hbegins => ⟨pmov_predicates hlegal hbegins, pmov_em hlegal hbegins⟩,
    fun f s i hlegal hbegins => ⟨fun hok => ?_, fun hbad => ?_⟩, fun f sh s i y x hlegal hbegins hready => ?_⟩
  · rw [exec_xset hlegal hbegins.cur]
    refine congrArg _ (perThread_done hbegins.fresh _ _ _ fun pre t post _ => ?_)
    have hblock := foldl_modThread_of i (fun _ th => { th with x := Table.set 0#32 th.x (f.d.toNat % 4) (BitVec.ofNat 32 f.imm.toNat) })
      (fun u => u.block i.b) (fun _ _ _ => rfl) pre s
    rw [setIndex_ok (by rw [hblock, xOk_iff]; omega), xset_value]
  · rw [exec_xset hlegal hbegins.cur]
    have htrap : xTrap (f.d.toNat % 4) (f.imm.toNat % 256 : Nat) (f.imm.toNat / 256) =
        { code := 9, tval := BitVec.ofNat 64 (f.imm.toNat % 256 * 256 + f.imm.toNat / 256), info := BitVec.ofNat 64 (f.d.toNat % 4) } := by
      rw [xTrap, ← BitVec.ofInt_natCast, ← BitVec.ofInt_natCast, Int.natCast_add, Int.natCast_mul]
      rfl
    refine congrArg _ ?_
    rw [← htrap]
    refine perThread_trap hbegins.fresh _ _ _ fun u t acc hu => setIndex_trap ?_ t acc
    rw [hu.block, xOk_iff]
    omega
  · change execXadd f s = _
    simp only [execXadd, control_of_legal hbegins.cur hlegal]
    refine congrArg _ (perThread_done hbegins.fresh _ _ _ fun pre t post hsplit => ?_)
    obtain ⟨hread, hx, hlow, hhigh, hbase, hsum⟩ := hready t (mem_of_split hsplit)
    have hother := not_mem_of_split (active_nodup ..) hsplit
    have hthread := foldl_modThread_thread (i := i) (fun t th => { th with
      x := (Table.set 0#32 th.x (f.d.toNat % 4) (BitVec.ofNat 32 (xLimit (x t) * 256 + ((xBase (x t) : Int) + bitsToInt true 32 (y t)).toNat))) })
      hother s
    rw [readA_plain hlegal.xadd_ext hthread (foldl_modThread_of i _ (fun u => (u.group i.gk).s) (fun _ _ _ => rfl) pre s) hread]
    simp only [hthread, ← hx]
    refine setIndex_ok (xOk_iff.mpr ⟨hlow, hhigh, hbase, ?_⟩) t []
    rw [foldl_modThread_of i _ (fun u => u.block i.b) (fun _ _ _ => rfl) pre s]
    exact hsum

end Sys2Proof.Machine
end

section
/-! SUPPORT. The exchange words (11 R323): a two-pass form whose group is not in the group table. -/

namespace Sys2Proof.Machine

/-- An issue of a path without threads, by group 0 of block 0. -/
def emptyIssue : Issue := { b := 0, g := 0, path := 0#32, hdr := 0#64, count := 0, widx := 0, len := 0, word := 0#64 }

/-- A state in which that issue is executed, with its block and without its group: nothing in `Begins`, `PixFree` or `LegalR` asks for the group. -/
def groupless : State := { State.reset with cur := .group emptyIssue, blocks := [(0, { nreg := 160 })] }

/-- MATCH of v0 into v0. -/
def matchShape : Shape := { d := Opd.one, a := Opd.one, uni := false }

theorem groupless_legal : LegalR groupless emptyIssue 0x88 {} matchShape := ⟨by decide, by decide, by decide⟩

/-- The first pass latches nothing where there is no group to hold it. -/
theorem exec_xmatch_groupless : exec (.xmatch {}) groupless = .next groupless := rfl

/-- Refutes O15: `groupless` meets every hypothesis of the two-pass forms, and MATCH leaves no second pass ready there, its group standing in no table. -/
theorem not_exchangesVotesAndQuadsComplete : ¬ Obligations.ExchangesVotesAndQuadsComplete := by
  unfold Obligations.ExchangesVotesAndQuadsComplete
  rintro ⟨-, htwo, -⟩
  have hnone : groupless.active emptyIssue (extGuard none) = [] := by decide
  obtain ⟨u, hexec, hlatched, -⟩ := htwo {} 0x88 matchShape (.xmatch {}) _ groupless emptyIssue (fun _ => []) (fun _ => 0) groupless_legal ⟨rfl, rfl⟩
    ⟨rfl, rfl⟩ (by decide) (fun t ht => absurd ht (by rw [hnone]; exact List.not_mem_nil)) (.inr (.inr (.inr ⟨rfl, rfl, rfl⟩)))
  rw [exec_xmatch_groupless, Host.Outcome.next.injEq] at hexec
  subst hexec
  obtain ⟨acc, hpass⟩ := hlatched.pass
  have hfresh : (groupless.group emptyIssue.gk).pass = none := rfl
  rw [hfresh] at hpass
  cases hpass

end Sys2Proof.Machine
end

section
/-! SUPPORT. Control transfers and exits (11 R309 to R320; 16 R433): the turns of a control word, and what an exit leaves in every thread. -/

namespace Sys2Proof.Machine

/-! ### Completion of a set, and an exit, as every thread sees them -/

/-- A property of threads that their waits and program counters do not enter. -/
def Thread.Steady {β : Type} (p : Thread → β) : Prop := ∀ th w a, p { th with wait := w, tpc := a } = p th

theorem Thread.Steady.release {β : Type} {p : Thread → β} (hp : Thread.Steady p) (s : State) (gk : Nat) (w : SetWait) (k : Nat) :
    p ((s.release gk w).thread k) = p (s.thread k) := by
  refine foldl_keep _ (fun u => p (u.thread k)) (fun u t => State.thread_modThread_of u _ k _ p fun th => ?_) _ s
  split
  · exact hp ..
  · rfl

theorem Thread.Steady.testComplete {β : Type} {p : Thread → β} (hp : Thread.Steady p) (s : State) (gk n k : Nat) :
    p ((s.testComplete gk n).thread k) = p (s.thread k) := by
  unfold State.testComplete
  dsimp only
  split
  · exact hp.release ..
  · rfl

theorem thread_testBarriers (s : State) (b k : Nat) : (s.testBarriers b).thread k = s.thread k := by
  refine foldl_keep _ (fun u => u.thread k) (fun u n => ?_) _ s
  unfold State.testBarrier
  dsimp only
  split <;> rfl

/-- What an exit leaves of a thread, beside waits and program counters: its own is marked, the others stay. -/
theorem Thread.Steady.exitThread {β : Type} {p : Thread → β} (hp : Thread.Steady p) (s : State) (b g t k : Nat) :
    p ((s.exitThread b g t).thread k) =
      p ((s.setThread (tkey (gkey b g) t) { s.thread (tkey (gkey b g) t) with exited := true }).thread k) := by
  unfold State.exitThread
  dsimp only
  split
  · rfl
  · rw [thread_testBarriers]
    exact foldl_keep _ (fun u => p (u.thread k)) (fun u n => hp.testComplete u _ n k) _ _

theorem pending_exitThread (s : State) (b g t k : Nat) : ((s.exitThread b g t).thread k).pending = (s.thread k).pending := by
  rw [Thread.Steady.exitThread (p := Thread.pending) fun _ _ _ => rfl]
  by_cases hk : k = tkey (gkey b g) t
  · subst hk
    rw [State.thread_setThread, if_pos rfl]
    rfl
  · rw [State.thread_setThread, if_neg hk]

theorem exited_exitThread (s : State) (b g t : Nat) : ((s.exitThread b g t).thread (tkey (gkey b g) t)).exited = true := by
  rw [Thread.Steady.exitThread (p := Thread.exited) fun _ _ _ => rfl, State.thread_setThread, if_pos rfl]

/-! ### Turns of the control words -/

/-- A turn that writes the word after CALL and moves its thread; the threads after it stand as before. -/
theorem callTurn_ready {s u : State} {i : Issue} {t : Nat} (hthread : u.thread (i.tk t) = s.thread (i.tk t))
    (hs : (u.group i.gk).s = (s.group i.gk).s) (h : s.destReady i t (.v 30) 2 = true) (f : BForm) (acc : List Nat) :
    callTurn i f u t acc = .done ((u.writeCells i t (.v 30) 2 (pcAddr i.nextPc).toNat).modThread (i.tk t)
      (fun th => { th with tpc := i.target f.off.toInt })) acc := by
  rw [← destReady_congr s u i t hthread hs] at h
  rw [callTurn, if_pos h]
  rfl

theorem foldl_call_thread {i : Issue} (x : Nat) (pc : W64) {pre : List Nat} {t : Nat} (ht : t ∉ pre) (s : State) :
    (pre.foldl (fun u t => (u.writeCells i t (.v 30) 2 x).modThread (i.tk t) (fun th => { th with tpc := pc })) s).thread (i.tk t) =
      s.thread (i.tk t) :=
  foldl_thread_other (fun u t k hk => by
    rw [State.thread_modThread_ne _ _ hk, writeCells_thread _ _ _ _ _ _ _ (.inl ⟨30, rfl⟩) hk]) ht s

theorem foldl_call_group (i : Issue) (x : Nat) (pc : W64) (pre : List Nat) (s : State) (k : Nat) :
    (pre.foldl (fun u t => (u.writeCells i t (.v 30) 2 x).modThread (i.tk t) (fun th => { th with tpc := pc })) s).group k = s.group k :=
  foldl_keep _ (fun u => u.group k) (fun u t => by
    rw [State.group_modThread, writeCells_group _ _ _ _ _ _ _ (.inl ⟨30, rfl⟩)]) pre s

/-- ERET's return, as 16 R433 has it. -/
theorem eret_next (th : Thread) : th.eret true = { th with
    th := false, tpc := th.tnpc, tmw := if th.tword &&& 0xFF000000#64 = 0xE0000000#64 then 0#5 else th.tmw
    slot := none, replay := none, kept := none, tpix := 0#32 } := by
  simp [Thread.eret, Thread.parkedInMacro, Thread.redo]

theorem eret_retry (th : Thread) : th.eret false = { th with
    th := false, tpc := th.tepc, kept := none
    slot := (th.kept.filter (fun k => k.pc == th.tepc)).bind Redo.slot
    replay := (th.kept.filter (fun k => k.pc == th.tepc)).bind (fun k => if k.replay then some k.pc else none) } := by
  simp [Thread.eret, Thread.redo]

theorem codeAddrOk_iff {x : Nat} : codeAddrOk x = true ↔ x % 4 = 0 ∧ x < 2 ^ 57 := by
  simp [codeAddrOk]

/-- Settles O16, by the turns of each word. -/
theorem branchesAndExitComplete : Obligations.BranchesAndExitComplete := by
  unfold Obligations.BranchesAndExitComplete
  refine ⟨fun s i hbegins => ⟨fun f => ?_, fun f hguard => ?_, fun f hguard => ?_, fun f hready => ?_, fun f sh x hlegal hread => ?_,
    fun f sh x hlegal hread => ?_, fun f sh hlegal hth => ?_⟩, fun s i f hbegins hoff hpending => ?_, fun s i t _ => exited_exitThread s i.b i.g t⟩
  · change execBra f s = _
    simp only [execBra, onGroup_of_cur hbegins.cur]
    exact congrArg _ (perThreadMove_done hbegins.fresh _ _ _ fun _ _ _ _ => rfl)
  · change execBru f s = _
    simp only [execBru, onGroup_of_cur hbegins.cur, hguard, if_true]
    rfl
  · change execBru f s = _
    simp [execBru, onGroup_of_cur hbegins.cur, hguard]
  · change execCall f s = _
    simp only [execCall, onGroup_of_cur hbegins.cur]
    refine congrArg _ (perThreadMove_done hbegins.fresh _ _ _ fun pre t post hsplit => ?_)
    exact callTurn_ready (foldl_call_thread _ _ (not_mem_of_split (active_nodup ..) hsplit) s)
      (congrArg Group.s (foldl_call_group ..)) (hready t (mem_of_split hsplit)) f []
  · change execBrx f s = _
    simp only [execBrx, control_of_legal hbegins.cur hlegal]
    refine congrArg _ (perThreadMove_done hbegins.fresh _ _ _ fun pre t post hsplit => ?_)
    rw [State.readA, read_congr (foldl_modThread_thread _ (not_mem_of_split (active_nodup ..) hsplit) s)
      (foldl_modThread_of i _ (fun u => (u.group i.gk).s) (fun _ _ _ => rfl) pre s), hread t (mem_of_split hsplit)]
    rfl
  · change execRet f s = _
    simp only [execRet, control_of_legal hbegins.cur hlegal]
    refine congrArg _ (perThreadMove_done hbegins.fresh _ _ _ fun pre t post hsplit => ?_)
    obtain ⟨hval, haddr⟩ := hread t (mem_of_split hsplit)
    rw [State.readA, read_congr (foldl_modThread_thread _ (not_mem_of_split (active_nodup ..) hsplit) s)
      (foldl_modThread_of i _ (fun u => (u.group i.gk).s) (fun _ _ _ => rfl) pre s), hval]
    simp only [codeAddrOk_iff.mpr haddr, if_true]
    rfl
  · change execEret f s = _
    simp only [execEret, control_of_legal hbegins.cur hlegal]
    refine congrArg _ (perThreadMove_done hbegins.fresh _ _ _ fun pre t post hsplit => ?_)
    rw [foldl_modThread_thread _ (not_mem_of_split (active_nodup ..) hsplit) s, if_pos (hth t (mem_of_split hsplit))]
    by_cases hd : f.d = 1#7
    · simp [hd, eret_next]
    · simp only [beq_eq_false_iff_ne.mpr hd, eret_retry, if_neg hd]
  · change execExit f s = _
    simp only [execExit, onGroup_of_cur hbegins.cur, hoff, bne_self_eq_false, Bool.false_eq_true, if_false]
    refine congrArg _ (perThread_done hbegins.fresh _ _ _ fun pre t post hsplit => ?_)
    have hkeep := foldl_keep (fun u t => State.exitThread u i.b i.g t) (fun u => (u.thread (i.tk t)).pending) (fun u a => pending_exitThread ..) pre s
    simp only [hkeep, hpending t (mem_of_split hsplit)]

end Sys2Proof.Machine
end

section
/-! SUPPORT. Rejoin sets (11 R311, R312): completion, as the group and its waiting threads see it. -/

namespace Sys2Proof.Machine

theorem State.group_modGroup_self {s : State} {k : Nat} (h : (Table.find s.groups k).isSome) (f : Group → Group) :
    (s.modGroup k f).group k = f (s.group k) := by
  rw [State.group_modGroup, if_pos ⟨rfl, h⟩]

theorem group_release (s : State) (gk : Nat) (w : SetWait) (k : Nat) : (s.release gk w).group k = s.group k := by
  unfold State.release
  exact foldl_keep _ (fun u => u.group k) (fun _ _ => State.group_modThread ..) _ s

theorem lanesWhere_nodup (s : State) (gk : Nat) (f : Thread → Bool) : (s.lanesWhere gk f).Nodup := List.nodup_range.filter _

theorem waiters_nodup (s : State) (gk : Nat) (w : SetWait) : (s.waiters gk w).Nodup := lanesWhere_nodup ..

/-- An update of some threads of a group, as one of them sees it. -/
theorem find_foldl_modThread (gk : Nat) (f : Thread → Thread) {l : List Nat} (hnodup : l.Nodup) (s : State) (t : Nat) :
    Table.find (l.foldl (fun u t => u.modThread (tkey gk t) f) s).threads (tkey gk t) =
      if t ∈ l then (Table.find s.threads (tkey gk t)).map f else Table.find s.threads (tkey gk t) := by
  have hkey : Issue.gk { emptyIssue with b := gk / 32, g := gk % 32 } = gk := by
    simp only [Issue.gk, gkey]
    omega
  have h := fold_mod { emptyIssue with b := gk / 32, g := gk % 32 } (fun _ => f) l hnodup s t
  simpa only [Issue.tk, hkey] using h

theorem State.find_of_wait {s : State} {k : Nat} {q : Waiting} (h : (s.thread k).wait = some q) : Table.find s.threads k = some (s.thread k) := by
  cases hfind : Table.find s.threads k with
  | none => simp [State.thread, Table.get, hfind] at h
  | some th => rw [State.thread_of_find hfind]

/-- A released thread goes on at the word after its own JWAIT. -/
theorem thread_release {s : State} {gk t : Nat} {w : SetWait} {q : Waiting} (ht : t < 32) (hwait : (s.thread (tkey gk t)).wait = some q) (hon : q.on = w) :
    (s.release gk w).thread (tkey gk t) = { s.thread (tkey gk t) with wait := none, tpc := q.next } := by
  have hfind := State.find_of_wait hwait
  have hmem : t ∈ s.waiters gk w := (mem_lanesWhere ..).mpr ⟨ht, _, hfind, by simp [Thread.waitsOn, hwait, hon]⟩
  unfold State.release
  refine State.thread_of_find ?_
  rw [find_foldl_modThread gk _ (waiters_nodup s gk w) s t, if_pos hmem, hfind]
  simp [hwait]

theorem JSet.quit_eq (js : JSet) (q : W32) : js.quit q = match js.state with
    | .free => js
    | st => if js.member &&& ~~~q = 0#32 then { state := .free, member := 0#32, arrived := 0#32 }
      else { state := st, member := js.member &&& ~~~q, arrived := js.arrived &&& ~~~q &&& js.member } := by
  have hand : js.arrived &&& (js.member &&& ~~~q) = js.arrived &&& ~~~q &&& js.member := by
    rw [BitVec.and_comm js.member, BitVec.and_assoc]
  unfold JSet.quit
  cases js.state with
  | free => rfl
  | opened | released => simp [hand]

theorem JSet.enter_eq (js : JSet) (e : W32) : js.enter e = match js.state with
    | .free => if e = 0#32 then js else { state := .opened, member := e, arrived := 0#32 }
    | _ => { state := .opened, member := js.member ||| e, arrived := js.arrived } := by
  unfold JSet.enter
  cases js.state with
  | free => simp
  | opened | released => rfl

theorem JSet.arrive_eq (js : JSet) {a : W32} (ha : a ≠ 0#32) : js.arrive a = match js.state with
    | .free => js
    | .opened => { js with arrived := js.arrived ||| a }
    | .released => { js with state := .opened, arrived := a } := by
  have hne : ¬ (a == 0#32) = true := by simpa using ha
  unfold JSet.arrive
  refine (if_neg hne).trans ?_
  cases js.state <;> rfl

theorem testComplete_opened {s : State} {gk n : Nat} (hstate : ((s.group gk).set n).state = .opened) (hmember : ((s.group gk).set n).member ≠ 0#32)
    (harrived : ((s.group gk).set n).member = ((s.group gk).set n).arrived) :
    s.testComplete gk n = (s.modGroup gk (fun gr => { gr.putSet n { state := .released, member := ((s.group gk).set n).member, arrived := 0#32 } with
      pick := .weight })).release gk (.set n) := by
  simp [State.testComplete, hstate, hmember, ← harrived]

/-- Settles O17: the equations of the four changes, and for completion the release of the set's waiting threads. -/
theorem rejoinSetEvents : Obligations.RejoinSetEvents := by
  unfold Obligations.RejoinSetEvents
  refine ⟨JSet.enter_eq, fun js a ha => js.arrive_eq ha, JSet.quit_eq, fun s gk n hpresent hwf hstate hmember harrived => ?_⟩
  rw [testComplete_opened hstate hmember harrived]
  refine ⟨?_, fun t q ht hwait hon => thread_release ht hwait hon⟩
  rw [group_release, State.group_modGroup_self hpresent]
  simp [Group.set, Group.putSet, Table.get_set hwf]

end Sys2Proof.Machine
end

section
/-! SUPPORT. The words of rejoin sets, and their spills (11 R315 to R317; 07 R225). -/

namespace Sys2Proof.Machine

/-! ### JWAIT: nobody of the path goes on -/

theorem State.modThread_of_none {s : State} {k : Nat} (h : Table.find s.threads k = none) (f : Thread → Thread) : s.modThread k f = s := by
  rw [State.modThread_congr (g := fun th => th) fun th hth => by simp [h] at hth, State.modThread_id]

theorem foldl_id {α β : Type} {f : β → α → β} {l : List α} {b : β} (h : ∀ a ∈ l, f b a = b) : l.foldl f b = b := by
  induction l with
  | nil => rfl
  | cons a l ih => rw [List.foldl_cons, h a List.mem_cons_self, ih fun a ha => h a (List.mem_cons_of_mem _ ha)]

/-- Once every running thread waits, none that is present still runs. -/
theorem foldl_jump_waiting {s : State} {i : Issue} {n : Nat} {ts : List Nat} (hnodup : ts.Nodup)
    (h : ∀ t ∈ lanesOf i.path, (s.thread (i.tk t)).running = true → t ∈ ts) :
    let u := ts.foldl (fun u t => u.waitOn i n t) s
    ((lanesOf i.path).filter (fun t => (u.thread (i.tk t)).running)).foldl (fun u t => u.jump i t i.nextPc) u = u := by
  intro u
  refine foldl_id fun t ht => State.modThread_of_none ?_ _
  obtain ⟨hpath, hrun⟩ := List.mem_filter.mp ht
  have hfind := fold_mod i (fun _ th => { th with wait := some { on := .set n, jn := n, next := i.nextPc, word := i.word } }) ts hnodup s t
  change Table.find u.threads (i.tk t) = _ at hfind
  by_cases hmem : t ∈ ts
  · rw [if_pos hmem] at hfind
    cases hs : Table.find s.threads (i.tk t) with
    | none => rw [hfind, hs, Option.map_none]
    | some th =>
      rw [hs, Option.map_some] at hfind
      simp [State.thread_of_find hfind, Thread.running] at hrun
  · rw [if_neg hmem] at hfind
    have hthread : u.thread (i.tk t) = s.thread (i.tk t) := by rw [State.thread, Table.get, hfind, State.thread, Table.get]
    exact absurd (h t hpath (hthread ▸ hrun)) hmem

theorem jwait_all {f : RForm} {sh : Shape} {s : State} {i : Issue} {n : Nat} {live : List Nat} (hlegal : LegalR s i 0x0A f sh) (hbegins : Begins s i)
    (hn : n = f.d.toNat % 16) (hlive : live = s.activeLive i f.ext) (hmember : ∀ t ∈ live, ((s.group i.gk).set n).member.getLsbD t = true)
    (hsome : live ≠ []) (hrun : ∀ t ∈ lanesOf i.path, (s.thread (i.tk t)).running = true → t ∈ live ∨ (s.thread (i.tk t)).role = .helper) :
    exec (.jwait f) s = .next (State.endPassFor ((((live ++ (lanesOf i.path).filter (fun t => (s.thread (i.tk t)).role == Role.helper)).foldl
      (fun u t => u.waitOn i n t) s).modSet i n (fun js => js.arrive (maskOf live))).testComplete i.gk n) i 0#32) := by
  have hbad : live.filter (fun t => !((s.group i.gk).set n).member.getLsbD t) = [] :=
    List.filter_eq_nil_iff.mpr fun t ht => by simp [hmember t ht]
  have harrive : live.filter (fun t => ((s.group i.gk).set n).member.getLsbD t) = live := List.filter_eq_self.mpr hmember
  have hnodup : (live ++ (lanesOf i.path).filter (fun t => (s.thread (i.tk t)).role == Role.helper)).Nodup := by
    rw [List.nodup_append]
    refine ⟨hlive ▸ (active_nodup ..).filter _, (lanesOf_nodup _).filter _, fun a ha b hb hab => ?_⟩
    subst hab
    rw [hlive] at ha
    have hal := (List.mem_filter.mp ha).2
    have hbl := (List.mem_filter.mp hb).2
    simp only [beq_iff_eq] at hal hbl
    exact absurd (hal.symm.trans hbl) (by decide)
  have hjump := foldl_jump_waiting (n := n) hnodup fun t ht hr => by
    rcases hrun t ht hr with h | h
    · exact List.mem_append_left _ h
    · exact List.mem_append_right _ (List.mem_filter.mpr ⟨ht, by simp [h]⟩)
  change execJwait f s = _
  simp only [execJwait, control_of_legal hbegins.cur hlegal, ← hn, ← hlive, hbad, harrive, List.foldl_nil, List.isEmpty_iff, hsome, if_false]
  rw [hjump]

/-! ### Saved sets -/

/-- Only their replays go: whatever a thread is selected by otherwise stays. -/
theorem lanesWhere_replayed (s : State) (i : Issue) (gk : Nat) (p : Thread → Bool) (hp : ∀ th, p { th with replay := none } = p th) :
    (s.replayed i).lanesWhere gk p = s.lanesWhere gk p := by
  unfold State.replayed
  refine foldl_keep _ (fun u => u.lanesWhere gk p) (fun u t => List.filter_congr fun a _ => ?_) _ s
  rw [State.find_modThread]
  by_cases h : tkey gk a = i.tk t
  · rw [if_pos h, ← h]
    cases Table.find u.threads (tkey gk a) with
    | none => rfl
    | some th => exact hp th
  · rw [if_neg h]

theorem role_replayed (s : State) (i : Issue) (k : Nat) : ((s.replayed i).thread k).role = (s.thread k).role := by
  unfold State.replayed
  refine foldl_keep _ (fun u => (u.thread k).role) (fun u t => ?_) _ s
  exact State.thread_modThread_of u _ k _ Thread.role fun _ => rfl

theorem group_replayed (s : State) (i : Issue) (k : Nat) : (s.replayed i).group k = s.group k := by
  unfold State.replayed
  exact foldl_keep _ (fun u => u.group k) (fun u t => State.group_modThread ..) _ s

theorem discardSet_empty {s : State} {b g n : Nat} (h : ((s.group (gkey b g)).set n).arrived = 0#32) : s.discardSet b g n = s := by
  simp [State.discardSet, h]

theorem jpush_done {f : RForm} {sh : Shape} {s : State} {i : Issue} {n m pa o : Nat} {sp : Space} (hlegal : LegalR s i 0x0C f sh) (honce : Once s i f.ext)
    (hn : n = f.d.toNat % 16) (hm : m = (s.group i.gk).ssp.toNat / 128) (hroom : m + 1 ≤ (s.group i.gk).spillCap)
    (hreach : s.spillReach i ((s.group i.gk).slotAddr m 0) 128 Need.write = .ok sp pa o) (hlog : s.unlogged i ((s.group i.gk).slotAddr m 0) sp) :
    exec (.jpush f) s = .next (State.memoryEnd (((List.range 8).foldl (fun u k => u.gather i
      { lane := { t := firstLane i.path, va := (s.group i.gk).slotAddr m 0 + 16 * k, addr := pa + 16 * k, w := 16, rc := true
                  data := (((s.group i.gk).set n).member.toNat + 2 ^ 32 * ((s.group i.gk).set n).arrived.toNat
                    + 2 ^ 64 * ((s.group i.gk).set n).state.code) / 2 ^ (128 * k) % 2 ^ 128 }
        space := sp, ord := o }) s).pushSet i n m) i .store 0 true) := by
  have hslots : (s.group i.gk).slots = m := hm.symm
  have hplain : (sp == Space.main && s.loggedPage (s.block i.b).ctx (s.block i.b).core ((s.group i.gk).slotAddr m 0)) = false := by
    rcases hlog with h | h
    · simp [h]
    · simp [h]
  change execJpush f s = _
  simp only [execJpush, control_of_legal honce.fresh.cur hlegal, State.uniformGuard, honce.guard, honce.live, hslots, Bool.not_true,
    Bool.false_eq_true, if_false, hroom, Nat.not_lt.mpr, ← hn, hreach, State.storeParts, hplain, setParts, List.foldl_map, Nat.add_sub_cancel_left,
    show (Role.live == Role.helper) = false from rfl]

theorem jpop_done {f : RForm} {sh : Shape} {s : State} {i : Issue} {n m pa o : Nat} {sp : Space} (hlegal : LegalR s i 0x0D f sh) (honce : Once s i f.ext)
    (hn : n = f.d.toNat % 16) (hm : (s.group i.gk).ssp.toNat / 128 = m + 1)
    (hreach : s.spillReach i ((s.group i.gk).slotAddr m 0) 128 Need.read = .ok sp pa o) (htouch : s.groupTouches i pa 128 = false)
    (hmay : s.mayAccess i sp ((s.group i.gk).slotAddr m 0) pa 128 false false = true) (hclean : s.poisoned sp pa = false) :
    exec (.jpop f) s = .next (((s.replayed i).popSet i n m (s.load sp pa 4) (s.load sp (pa + 8) 4)).endPass i) := by
  have hslots : (s.group i.gk).slots = m + 1 := hm
  change execJpop f s = _
  simp [execJpop, control_of_legal honce.fresh.cur hlegal, State.uniformGuard, honce.guard, hslots, ← hn, hreach, htouch, hmay, hclean]

theorem popSet_replayed {s : State} {i : Issue} {n m x y : Nat} (hempty : ((s.group i.gk).set n).arrived = 0#32) {live member arrived : W32}
    (hlive : live = maskOf (s.lanesWhere i.gk (fun th => th.role == Role.live && !th.exited))) (hmember : member = BitVec.ofNat 32 x &&& live)
    (harrived : arrived = maskOf ((s.waiters i.gk (.slot m)).filter (fun t => (s.thread (i.tk t)).role == Role.live))) :
    (s.replayed i).popSet i n m x y = (((((s.replayed i).modSet i n (fun _ =>
      if member = 0#32 then { arrived := arrived }
      else { state := if arrived = 0#32 ∧ y % 4 = 2 then .released else .opened, member := member, arrived := arrived })).rewait
        i.gk (.slot m) (.set n)).modGroup i.gk (fun gr => { gr with ssp := BitVec.ofNat 32 (128 * m) })).testComplete i.gk n) := by
  have hwaiters : (s.replayed i).waiters i.gk (.slot m) = s.waiters i.gk (.slot m) := lanesWhere_replayed s i _ _ fun _ => rfl
  have hstand : (s.replayed i).discardSet i.b i.g n = s.replayed i := discardSet_empty (by rw [group_replayed]; exact hempty)
  simp only [State.popSet, hstand, hwaiters, role_replayed, State.setSsp,
    lanesWhere_replayed s i i.gk (fun th => th.role == Role.live && !th.exited) fun _ => rfl, ← hlive, ← hmember, ← harrived, beq_iff_eq,
    Bool.and_eq_true]

/-- Settles O18: each word by the state it leaves; a popped set's threads are those of the state before the pop. -/
theorem rejoinWordsAndSpillsComplete : Obligations.RejoinWordsAndSpillsComplete := by
  unfold Obligations.RejoinWordsAndSpillsComplete
  refine ⟨fun f op sh s i n live hlegal hbegins hn hlive => ⟨?_, ?_, ?_, ?_, ?_⟩, fun f op sh s i n m pa o sp hlegal honce hn => ⟨?_, ?_⟩⟩
  · rintro rfl
    change execJenter f s = _
    simp only [execJenter, control_of_legal hbegins.cur hlegal, hn, hlive]
    rfl
  · rintro rfl
    change execJquit f s = _
    simp only [execJquit, control_of_legal hbegins.cur hlegal, hn, hlive]
    rfl
  · rintro rfl hguard
    change execJfree f s = _
    simp [execJfree, control_of_legal hbegins.cur hlegal, State.uniformGuard, hguard]
  · rintro rfl hguard hempty
    change execJfree f s = _
    simp [execJfree, control_of_legal hbegins.cur hlegal, State.uniformGuard, hguard, ← hn, discardSet_empty (b := i.b) (g := i.g) hempty]
  · rintro rfl hmember hsome hrun
    exact jwait_all hlegal hbegins hn hlive hmember hsome hrun
  · rintro rfl hm hroom hreach hlog
    exact jpush_done hlegal honce hn hm hroom hreach hlog
  · rintro rfl hm hempty hreach htouch hmay hclean live member arrived hl hmem harr
    rw [jpop_done hlegal honce hn hm hreach htouch hmay hclean, popSet_replayed hempty hl hmem harr]

end Sys2Proof.Machine
end

section
/-! SUPPORT. Passes of the memory words (07 R205 to R213, R221 to R223): what a thread's access reads stays as the threads before it have their
turns; the turns of loads, stores and atomics. -/

namespace Sys2Proof.Machine

/-! ### What an access reads beside its own thread -/

/-- The state without threads and groups. -/
def State.world (s : State) : State := { s with threads := [], groups := [] }

/-- The pages whose walks have failed for the pass under way. -/
def State.failedPages (s : State) (i : Issue) : List (Nat × Nat) :=
  match (s.group i.gk).pass with
  | some p => p.failed
  | none => []

/-- Two states that an access of the group reads alike, threads apart. -/
structure Alike (i : Issue) (s u : State) : Prop where
  world : u.world = s.world
  sregs : (u.group i.gk).s = (s.group i.gk).s
  records : (u.group i.gk).b = (s.group i.gk).b
  base : (u.group i.gk).spillBase = (s.group i.gk).spillBase
  failed : u.failedPages i = s.failedPages i

theorem Alike.refl (i : Issue) (s : State) : Alike i s s := ⟨rfl, rfl, rfl, rfl, rfl⟩

theorem Alike.trans {i : Issue} {s t u : State} (h : Alike i s t) (g : Alike i t u) : Alike i s u :=
  ⟨g.world.trans h.world, g.sregs.trans h.sregs, g.records.trans h.records, g.base.trans h.base, g.failed.trans h.failed⟩

theorem Alike.modThread (i : Issue) (s : State) (k : Nat) (f : Thread → Thread) : Alike i s (s.modThread k f) := ⟨rfl, rfl, rfl, rfl, rfl⟩

theorem Alike.gather (i : Issue) (s : State) (x : Gathered) : Alike i s (s.gather i x) where
  world := rfl
  sregs := State.group_modGroup_of _ _ _ _ Group.s fun _ => rfl
  records := State.group_modGroup_of _ _ _ _ Group.b fun _ => rfl
  base := State.group_modGroup_of _ _ _ _ Group.spillBase fun _ => rfl
  failed := by
    refine State.group_modGroup_of _ _ _ _ (fun gr => match gr.pass with | some p => p.failed | none => []) fun gr => ?_
    cases gr.pass <;> rfl

theorem Alike.writeCells_v (i : Issue) (s : State) (t r n x : Nat) : Alike i s (s.writeCells i t (.v r) n x) := by
  rw [Machine.writeCells_v]
  exact .modThread ..

theorem Alike.emptyCells_v (i : Issue) (s : State) (t r n : Nat) : Alike i s (s.emptyCells i t (.v r) n) := by
  rw [Machine.emptyCells_v]
  exact .modThread ..

theorem thread_gather (s : State) (i : Issue) (x : Gathered) (k : Nat) : (s.gather i x).thread k = s.thread k := rfl

/-- Turns that leave the rest alike leave what the threads after them read. -/
theorem foldl_alike {i : Issue} {g : State → Nat → State} {ts : List Nat}
    (hg : ∀ u, ∀ t ∈ ts, Alike i u (g u t) ∧ ∀ k, k ≠ i.tk t → (g u t).thread k = u.thread k) (hnodup : ts.Nodup) (s : State)
    {pre post : List Nat} {t : Nat} (h : ts = pre ++ t :: post) :
    Alike i s (pre.foldl g s) ∧ (pre.foldl g s).thread (i.tk t) = s.thread (i.tk t) := by
  have hpre : ∀ a ∈ pre, a ∈ ts ∧ i.tk t ≠ i.tk a := fun a ha =>
    ⟨h ▸ List.mem_append_left _ ha, fun e => not_mem_of_split hnodup h (tk_inj i e ▸ ha)⟩
  clear h hnodup
  induction pre generalizing s with
  | nil => exact ⟨.refl i s, rfl⟩
  | cons a pre ih =>
    obtain ⟨ha, hne⟩ := hpre a List.mem_cons_self
    obtain ⟨halike, hthread⟩ := ih (g s a) fun b hb => hpre b (List.mem_cons_of_mem _ hb)
    exact ⟨(hg s a ha).1.trans halike, hthread.trans ((hg s a ha).2 _ hne)⟩

/-! ### Reading alike -/

theorem Alike.of_world {i : Issue} {s u : State} (h : Alike i s u) {α : Type} (f : State → α) (hf : ∀ v, f v.world = f v) : f u = f s := by
  rw [← hf u, h.world, hf s]

/-- The definition unfolds as a constant: on its arguments the kernel would evaluate the pages that a leaf spans. -/
theorem through_unfolded (T : State → Nat → Nat → Need → Leaf → Reach) (hT : T = State.through) {s : State} {ctx : Nat} {n : Need} {l : Leaf} (va : Nat) :
    (∀ c, s.leafCause ctx l n = some c → T s ctx va n l = .fault c) ∧
    (s.leafCause ctx l n = none → T s ctx va n l = .ok .main (l.frame + va % 2 ^ l.shift) l.ord) := by
  delta State.through at hT
  subst hT
  constructor
  · intro c h
    dsimp only
    rw [h]
  · intro h
    dsimp only
    rw [h]

theorem through_of_cause {s : State} {ctx : Nat} {n : Need} {l : Leaf} {c : Nat} (h : s.leafCause ctx l n = some c) (va : Nat) :
    s.through ctx va n l = .fault c := (through_unfolded _ rfl va).1 c h
theorem through_of_none {s : State} {ctx : Nat} {n : Need} {l : Leaf} (h : s.leafCause ctx l n = none) (va : Nat) :
    s.through ctx va n l = .ok .main (l.frame + va % 2 ^ l.shift) l.ord := (through_unfolded _ rfl va).2 h

theorem Alike.through {i : Issue} {s u : State} (h : Alike i s u) (ctx va : Nat) (n : Need) (l : Leaf) : u.through ctx va n l = s.through ctx va n l := by
  have hinside : l.inside (u.partition (u.context ctx).partition) u.lsplit = l.inside (s.partition (s.context ctx).partition) s.lsplit := by
    rw [h.of_world State.partition fun _ => rfl, h.of_world State.context fun _ => rfl, h.of_world State.lsplit fun _ => rfl]
  have hleaf : u.leafCause ctx l n = s.leafCause ctx l n := by
    rw [State.leafCause, hinside, State.leafCause]
  cases hcause : s.leafCause ctx l n with
  | none => rw [through_of_none hcause, through_of_none (hleaf.trans hcause)]
  | some c => rw [through_of_cause hcause, through_of_cause (hleaf.trans hcause)]

theorem reach_window {s : State} {ctx : Nat} {b : Option Nat} {failed : List (Nat × Nat)} {va w : Nat} {n : Need} (h : windowBase ≤ va) :
    s.reach ctx b failed va w n = s.window ctx b va w n := by
  rw [State.reach, if_pos h]

theorem reach_hit {s : State} {ctx : Nat} {b : Option Nat} {failed : List (Nat × Nat)} {va w : Nat} {n : Need} {l : Leaf} (h : ¬windowBase ≤ va)
    (hl : Table.find s.tlb (pageKey ctx va) = some l) : s.reach ctx b failed va w n = s.through ctx va n l := by
  rw [State.reach, if_neg h, hl]

theorem Alike.reach {i : Issue} {s u : State} (h : Alike i s u) (ctx : Nat) (b : Option Nat) (failed : List (Nat × Nat)) (va w : Nat) (n : Need) :
    u.reach ctx b failed va w n = s.reach ctx b failed va w n := by
  have hwindow : u.window ctx b va w n = s.window ctx b va w n := by
    unfold State.window
    rw [h.of_world State.sharedTarget fun _ => rfl, h.of_world State.scratchTarget fun _ => rfl]
  have htlb := h.of_world State.tlb fun _ => rfl
  by_cases hva : windowBase ≤ va
  · rw [reach_window hva, reach_window hva, hwindow]
  · cases hfind : Table.find s.tlb (pageKey ctx va) with
    | some l => rw [reach_hit hva hfind, reach_hit hva (htlb ▸ hfind), h.through]
    | none => rw [State.reach, State.reach, if_neg hva, if_neg hva, htlb, hfind]

theorem Alike.viaRecord {i : Issue} {s u : State} (h : Alike i s u) (via : Via) : u.viaRecord i via = s.viaRecord i via := by
  cases via with
  | record n e => simp only [State.viaRecord, Group.record, h.records]
  | shared | scratch => rfl

theorem Alike.form {i : Issue} {s u : State} (h : Alike i s u) (via : Via) (x w : Nat) (r : BitVec 128) : u.form i via x w r = s.form i via x w r :=
  h.of_world (fun v => v.form i via x w r) fun _ => rfl

theorem Alike.target {i : Issue} {s u : State} (h : Alike i s u) (via : Via) (a w : Nat) (n : Need) : u.target i via a w n = s.target i via a w n := by
  have hblock := h.of_world State.block fun _ => rfl
  have hshared := h.of_world (fun v => v.sharedTarget i.b a w) fun _ => rfl
  have hscratch := h.of_world (fun v => v.scratchTarget (v.block i.b).ctx a w) fun _ => rfl
  cases via with
  | record n e =>
    change u.reach (u.block i.b).ctx (some i.b) (u.failedPages i) a w _ = _
    rw [h.failed, hblock, h.reach]
    rfl
  | shared => simp only [State.target, hshared]
  | scratch => simp only [State.target, hscratch]

theorem Alike.unlogged {i : Issue} {s u : State} (h : Alike i s u) {va : Nat} {sp : Space} (hlog : s.unlogged i va sp) : u.unlogged i va sp := by
  rw [State.unlogged, h.of_world (fun v => v.loggedPage (v.block i.b).ctx (v.block i.b).core va) fun _ => rfl]
  exact hlog

theorem Alike.destReady {i : Issue} {s u : State} (h : Alike i s u) {t : Nat} (hthread : u.thread (i.tk t) = s.thread (i.tk t)) (l : Loc) (n : Nat) :
    u.destReady i t l n = s.destReady i t l n := destReady_congr s u i t hthread h.sregs l n

theorem Alike.read {i : Issue} {s u : State} (h : Alike i s u) {t : Nat} (hthread : u.thread (i.tk t) = s.thread (i.tk t)) (code : BitVec 7) (e : Bool)
    (o : Opd) (index : Option Nat) : u.read i t code e o index = s.read i t code e o index := read_congr hthread h.sregs code e o index

theorem LoadReady.alike {q : Fields} {sh : Shape} {via : Via} {w : Nat} {need : Need} {s u : State} {i : Issue} {t : Nat} {l : Loc} {x : Access}
    (h : LoadReady q sh via w need s i t l x) (ha : Alike i s u) (hthread : u.thread (i.tk t) = s.thread (i.tk t)) :
    LoadReady q sh via w need u i t l x where
  place := hthread ▸ h.place
  writable := (ha.destReady hthread ..).trans h.writable
  access := by
    obtain ⟨y, r, hread, hvia, hacc⟩ := h.access
    refine ⟨y, r, (ha.read hthread ..).trans hread, (ha.viaRecord via).trans hvia, ?_⟩
    cases x <;> simpa only [ha.form, ha.target] using hacc
  stays := hthread ▸ h.stays

theorem StoreReady.alike {q : Fields} {sh : Shape} {via : Via} {w : Nat} {s u : State} {i : Issue} {t data : Nat} {x : Access}
    (h : StoreReady q sh via w s i t data x) (ha : Alike i s u) (hthread : u.thread (i.tk t) = s.thread (i.tk t)) :
    StoreReady q sh via w u i t data x where
  access := by
    obtain ⟨y, r, hread, hvia, hacc⟩ := h.access
    refine ⟨y, r, (ha.read hthread ..).trans hread, (ha.viaRecord via).trans hvia, ?_⟩
    cases x with
    | dropped => simpa only [ha.form, ha.read hthread, hthread] using hacc
    | at_ va pa sp ord =>
      obtain ⟨hform, hrole, hdata, htarget, hlog⟩ := hacc
      exact ⟨(ha.form ..).trans hform, hthread ▸ hrole, (ha.read hthread ..).trans hdata, (ha.target ..).trans htarget, ha.unlogged hlog⟩

theorem AtomReady.alike {q : Fields} {sh : Shape} {via : Via} {op ty : Nat} {s u : State} {i : Issue} {t c : Nat} {x : Access}
    (h : AtomReady q sh via op ty s i t c x) (ha : Alike i s u) (hthread : u.thread (i.tk t) = s.thread (i.tk t)) :
    AtomReady q sh via op ty u i t c x where
  access := by
    obtain ⟨y, r, hread, hc, hvia, hacc⟩ := h.access
    refine ⟨y, r, (ha.read hthread ..).trans hread, (ha.read hthread ..).trans hc, (ha.viaRecord via).trans hvia, ?_⟩
    have hrefuses : ∀ sp pa, u.hostRefuses sp pa op ty = s.hostRefuses sp pa op ty := fun sp pa =>
      ha.of_world (fun v => v.hostRefuses sp pa op ty) fun _ => rfl
    cases x <;> simpa only [ha.form, ha.target, hrefuses] using hacc
  live := hthread ▸ h.live

/-! ### Passes in which every turn is done -/

theorem memoryPass_done {s : State} {i : Issue} (hfresh : (s.group i.gk).pass = none) (guard : Thread → Bool) (kind : ReqKind) (ord : Nat)
    (f : State → Nat → List Nat → Turned) (g : State → Nat → State)
    (h : ∀ pre t post, s.active i guard = pre ++ t :: post → f (pre.foldl g s) t [] = .done (g (pre.foldl g s) t) []) :
    s.memoryPass i guard kind ord f = ((s.active i guard).foldl g s).memoryEnd i kind ord := by
  simp [State.memoryPass, passStart_fresh hfresh, runLanes_done i f g _ s 0#32 [] h]

theorem memoryOnce_done {s s' : State} {i : Issue} {x : Option Ext} (hguard : extGuard x (s.thread (i.tk (firstLane i.path))) = true) (kind : ReqKind)
    (ord : Nat) {f : State → Nat → List Nat → Turned} (hf : f s (firstLane i.path) [] = .done s' [])
    (hpark : (s'.thread (i.tk (firstLane i.path))).park = .none) :
    s.memoryOnce i x kind ord f = s'.memoryDone i kind ord true := by
  simp [State.memoryOnce, State.uniformGuard, hguard, hf, State.settleOnce, hpark, State.memoryDone]

theorem memoryOnce_off {s : State} {i : Issue} {x : Option Ext} (hguard : extGuard x (s.thread (i.tk (firstLane i.path))) = false) (kind : ReqKind)
    (ord : Nat) (f : State → Nat → List Nat → Turned) : s.memoryOnce i x kind ord f = s.endPass i := by
  simp [State.memoryOnce, State.uniformGuard, hguard]

/-- A word whose turns are done, each finding what the state before the pass holds for it: its threads' turns, or the first thread's once. -/
theorem memory_turns {q : Fields} {sh : Shape} {s : State} {i : Issue} {ts : List Nat} (hturns : Turns q sh s i ts)
    (hfresh : (s.group i.gk).pass = none) (kind : ReqKind) (ord : Nat) (f : State → Nat → List Nat → Turned) (g : State → Nat → State)
    (hdone : ∀ u, ∀ t ∈ ts, Alike i s u → u.thread (i.tk t) = s.thread (i.tk t) → f u t [] = .done (g u t) [])
    (hframe : q.uniform sh = false → ∀ u, ∀ t ∈ ts, Alike i u (g u t) ∧ ∀ k, k ≠ i.tk t → (g u t).thread k = u.thread k)
    (hpark : q.uniform sh = true → ∀ u t, ((g u t).thread (i.tk t)).park = (u.thread (i.tk t)).park) :
    (if q.uniform sh then s.memoryOnce i q.ext kind ord f else s.memoryPass i (extGuard q.ext) kind ord f) =
      (ts.foldl g s).memoryDone i kind ord (q.uniform sh) := by
  cases huniform : q.uniform sh with
  | true =>
    obtain ⟨rfl, hguard, hstays⟩ := hturns.once huniform
    rw [if_pos rfl]
    exact memoryOnce_done hguard kind ord (hdone s _ List.mem_cons_self (.refl i s) rfl) ((hpark huniform ..).trans hstays)
  | false =>
    obtain rfl := hturns.each huniform
    rw [if_neg (by decide)]
    refine memoryPass_done hfresh _ kind ord f g fun pre t post hsplit => ?_
    obtain ⟨halike, hthread⟩ := foldl_alike (hframe huniform) (active_nodup ..) s hsplit
    exact hdone _ t (mem_of_split hsplit) halike hthread

/-- A legal memory word runs. -/
theorem addressedWord_of_legal {s : State} {i : Issue} {op : Nat} {f : RForm} {sh : Shape} (hcur : s.cur = .group i) (h : LegalR s i op f sh)
    (via : Via) (once : Bool) (go : Issue → Shape → State) : s.addressedWord op f via once go = go i sh := by
  simp [State.addressedWord, onGroup_of_cur hcur, h.shape, h.legal, h.below]

theorem memoryWord_of_legal {s : State} {i : Issue} {op : Nat} {f : RForm} {sh : Shape} (hcur : s.cur = .group i) (h : LegalR s i op f sh)
    (go : Issue → Shape → State) : s.memoryWord op f go = go i sh := by
  simp [State.memoryWord, onGroup_of_cur hcur, h.shape, h.legal, h.below]

/-! ### Parks -/

theorem park_setCell (s : State) (i : Issue) (t : Nat) (l : Loc) (j : Nat) (c : Cell) (k : Nat) :
    ((s.setCell i t l j c).thread k).park = (s.thread k).park := by
  cases l with
  | v r => exact State.thread_modThread_of _ _ _ _ Thread.park fun _ => rfl
  | s r => rfl

theorem park_writeCells (s : State) (i : Issue) (t : Nat) (l : Loc) (n x k : Nat) : ((s.writeCells i t l n x).thread k).park = (s.thread k).park := by
  unfold State.writeCells
  exact foldl_keep _ (fun u => (u.thread k).park) (fun u j => park_setCell ..) _ s

theorem park_emptyCells (s : State) (i : Issue) (t : Nat) (l : Loc) (n k : Nat) : ((s.emptyCells i t l n).thread k).park = (s.thread k).park := by
  unfold State.emptyCells
  exact foldl_keep _ (fun u => (u.thread k).park) (fun u j => park_setCell ..) _ s

/-! ### Loads -/

theorem park_takeLoad (s : State) (i : Issue) (t : Nat) (l : Loc) (n ext w : Nat) (x : Access) :
    ((s.takeLoad i t l n ext w x).thread (i.tk t)).park = (s.thread (i.tk t)).park := by
  cases x with
  | dropped => exact park_writeCells ..
  | at_ va pa sp ord =>
    have hpark := park_emptyCells s i t l n (i.tk t)
    rw [← hpark]
    exact State.thread_modThread_of _ _ _ _ Thread.park fun _ => rfl

theorem alike_takeLoad (u : State) (i : Issue) (t r n ext w : Nat) (x : Access) :
    Alike i u (u.takeLoad i t (.v r) n ext w x) ∧ ∀ k, k ≠ i.tk t → (u.takeLoad i t (.v r) n ext w x).thread k = u.thread k := by
  cases x with
  | dropped => exact ⟨.writeCells_v .., fun k hk => writeCells_thread _ _ _ _ _ _ _ (.inl ⟨r, rfl⟩) hk⟩
  | at_ va pa sp ord =>
    refine ⟨((Alike.emptyCells_v ..).trans (.modThread ..)).trans (.gather ..), fun k hk => ?_⟩
    exact (State.thread_modThread_ne _ _ hk).trans (emptyCells_thread _ _ _ _ _ _ (.inl ⟨r, rfl⟩) hk)

/-- A turn that is done goes through for a helper too, where it has not parked. -/
theorem helperZero_done {s s' : State} {i : Issue} {t : Nat} {l : Loc} {n : Nat} {acc : List Nat}
    (hpark : (s'.thread (i.tk t)).park = (s.thread (i.tk t)).park)
    (hstays : (s.thread (i.tk t)).role = .live ∨ (s.thread (i.tk t)).park = .none) :
    helperZero s i t l n acc (.done s' acc) = .done s' acc := by
  unfold helperZero
  cases hrole : (s.thread (i.tk t)).role with
  | live => simp only
  | helper =>
    obtain hstays | hstays := hstays
    · simp [hrole] at hstays
    · simp [hpark, hstays]

theorem loadTurn_done {q : Fields} {sh : Shape} {via : Via} {size : Nat} {s : State} {i : Issue} {t : Nat} {l : Loc} {x : Access}
    (h : LoadReady q sh via (sizeBytes size) Need.read s i t l x) (acc : List Nat) :
    loadTurn i q sh via size s t acc = .done (s.takeLoad i t l sh.d.n size (sizeBytes size) x) acc := by
  obtain ⟨y, r, hread, hvia, hacc⟩ := h.access
  have hpark := park_takeLoad s i t l sh.d.n size (sizeBytes size) x
  have hzero := helperZero_done (l := l) (n := sh.d.n) (acc := acc) hpark h.stays
  simp only [loadTurn, hvia, hread, h.place]
  cases x with
  | dropped =>
    simp only [hacc, h.writable, if_true]
    exact hzero
  | at_ va pa sp ord =>
    simp only [hacc.1, hacc.2, h.writable, Bool.not_true, Bool.false_eq_true, if_false]
    exact hzero

theorem exec_loadForm {f : RForm} {op : Nat} {e : Instr} {via : Via} {kind : ReqKind} (h : (e, op, via, kind) ∈ loadForms f) (s : State) :
    exec e s = .next (loadWord op via kind f s) := by
  simp only [loadForms, List.mem_cons, Prod.mk.injEq, List.not_mem_nil, or_false] at h
  obtain ⟨rfl, rfl, rfl, rfl⟩ | ⟨rfl, rfl, rfl, rfl⟩ | ⟨rfl, rfl, rfl, rfl⟩ | ⟨rfl, rfl, rfl, rfl⟩ := h <;> rfl

/-- Settles O19: every turn of the pass is done, and leaves what the turns after it read. -/
theorem loadsComplete : Obligations.LoadsComplete := by
  intro f op e via kind sh s i hform hlegal hbegins
  rw [exec_loadForm hform]
  simp only [loadWord, addressedWord_of_legal hbegins.cur hlegal]
  refine ⟨fun ts l x hturns hready => congrArg _ ?_, fun huniform hguard => ?_⟩
  · refine memory_turns hturns hbegins.fresh kind _ _ (fun u t => u.takeLoad i t (l t) sh.d.n (extSub f.ext % 8) (sizeBytes (extSub f.ext % 8)) (x t))
      (fun u t ht ha hthread => loadTurn_done ((hready t ht).2.alike ha hthread) []) (fun hu u t ht => ?_) fun _ u t => park_takeLoad ..
    obtain ⟨⟨r, hr⟩ | hr, -⟩ := hready t ht
    · rw [hr]
      exact alike_takeLoad ..
    · exact absurd hr (by simp [hu])
  · rw [if_pos huniform, memoryOnce_off hguard]

end Sys2Proof.Machine
end

section
/-! SUPPORT. Stores and atomics (07 R221 to R223): their turns gather accesses, or, for a returning form, leave the destination empty too. -/

namespace Sys2Proof.Machine

/-! ### Writes that translate and are not logged -/

theorem storeTo_ok {s : State} {i : Issue} {lane : LaneReq} {pa ord : Nat} {sp : Space} (hlog : s.unlogged i lane.va sp) (access : Nat) (acc : List Nat) :
    s.storeTo i lane access (.ok sp pa ord) acc = .done (s.gather i { lane := { lane with addr := pa }, space := sp, ord := ord }) acc := by
  have hplain : (sp == Space.main && s.loggedPage (s.block i.b).ctx (s.block i.b).core lane.va) = false := by
    rcases hlog with h | h
    · simp [h]
    · simp [h]
  simp [State.storeTo, State.storeParts, hplain]

theorem alike_gatherOnly (u : State) (i : Issue) (x : Gathered) {t : Nat} : Alike i u (u.gather i x) ∧ ∀ k, k ≠ i.tk t → (u.gather i x).thread k = u.thread k :=
  ⟨.gather .., fun _ _ => rfl⟩

/-! ### Stores -/

theorem storeTurn_done {q : Fields} {sh : Shape} {via : Via} {size : Nat} {s : State} {i : Issue} {t data : Nat} {x : Access}
    (h : StoreReady q sh via (sizeBytes size) s i t data x) (acc : List Nat) :
    storeTurn i q sh via size s t acc = .done (s.takeStore i t (sizeBytes size) data x) acc := by
  obtain ⟨y, r, hread, hvia, hacc⟩ := h.access
  simp only [storeTurn, hvia, hread]
  cases x with
  | dropped =>
    obtain hdrop | ⟨⟨va, hform⟩, hrole, hdata⟩ := hacc
    · simp only [hdrop]
      rfl
    · simp only [hform, hdata, hrole]
      rfl
  | at_ va pa sp ord =>
    obtain ⟨hform, hrole, hdata, htarget, hlog⟩ := hacc
    simp only [hform, hdata, hrole, htarget, storeTo_ok (lane := { t := t, va := va, addr := va, w := sizeBytes size, data := data }) hlog]
    rfl

theorem alike_takeStore (u : State) (i : Issue) (t w data : Nat) (x : Access) :
    Alike i u (u.takeStore i t w data x) ∧ ∀ k, k ≠ i.tk t → (u.takeStore i t w data x).thread k = u.thread k := by
  cases x with
  | dropped => exact ⟨.refl .., fun _ _ => rfl⟩
  | at_ va pa sp ord => exact alike_gatherOnly ..

theorem exec_storeForm {f : RForm} {op : Nat} {e : Instr} {via : Via} (h : (e, op, via) ∈ storeForms f) (s : State) :
    exec e s = .next (storeWord op via f s) := by
  simp only [storeForms, List.mem_cons, Prod.mk.injEq, List.not_mem_nil, or_false] at h
  obtain ⟨rfl, rfl, rfl⟩ | ⟨rfl, rfl, rfl⟩ | ⟨rfl, rfl, rfl⟩ := h <;> rfl

/-- Settles O20: every turn of the pass gathers its access, which is all it does. -/
theorem storesComplete : Obligations.StoresComplete := by
  intro f op e via sh s i data x hform hlegal hbegins hready
  rw [exec_storeForm hform]
  simp only [storeWord, addressedWord_of_legal hbegins.cur hlegal]
  refine congrArg _ (memoryPass_done hbegins.fresh _ _ _ _
    (fun u t => u.takeStore i t (sizeBytes (extSub f.ext % 8)) (data t) (x t)) fun pre t post hsplit => ?_)
  obtain ⟨halike, hthread⟩ := foldl_alike (fun u t _ => alike_takeStore u i t (sizeBytes (extSub f.ext % 8)) (data t) (x t)) (active_nodup ..) s hsplit
  exact storeTurn_done ((hready t (mem_of_split hsplit)).alike halike hthread) []

/-! ### Atomics -/

/-- What a thread's turn of a returning atomic leaves. -/
def State.takeAtom (u : State) (i : Issue) (t op ty n c : Nat) (l : Loc) (x : Access) : State :=
  match x with
  | .dropped => u.writeCells i t l n 0
  | .at_ va pa sp ord => ((u.emptyCells i t l n).modThread (i.tk t) (fun th => { th with replay := none })).gather i
      { lane := atomLane t op (atomBytes ty) c va pa (l.into n), space := sp, ord := ord }

/-- What a thread's turn of an atomic that returns nothing leaves. -/
def State.takeAtomNr (u : State) (i : Issue) (t op ty c : Nat) (x : Access) : State :=
  match x with
  | .dropped => u
  | .at_ va pa sp ord => u.gather i { lane := atomLane t op (atomBytes ty) c va pa .nothing, space := sp, ord := ord }

theorem park_takeAtom (s : State) (i : Issue) (t op ty n c : Nat) (l : Loc) (x : Access) :
    ((s.takeAtom i t op ty n c l x).thread (i.tk t)).park = (s.thread (i.tk t)).park := by
  cases x with
  | dropped => exact park_writeCells ..
  | at_ va pa sp ord =>
    rw [← park_emptyCells s i t l n (i.tk t)]
    exact State.thread_modThread_of _ _ _ _ Thread.park fun _ => rfl

theorem alike_takeAtom (u : State) (i : Issue) (t r op ty n c : Nat) (x : Access) :
    Alike i u (u.takeAtom i t op ty n c (.v r) x) ∧ ∀ k, k ≠ i.tk t → (u.takeAtom i t op ty n c (.v r) x).thread k = u.thread k := by
  cases x with
  | dropped => exact ⟨.writeCells_v .., fun k hk => writeCells_thread _ _ _ _ _ _ _ (.inl ⟨r, rfl⟩) hk⟩
  | at_ va pa sp ord =>
    refine ⟨((Alike.emptyCells_v ..).trans (.modThread ..)).trans (.gather ..), fun k hk => ?_⟩
    exact (State.thread_modThread_ne _ _ hk).trans (emptyCells_thread _ _ _ _ _ _ (.inl ⟨r, rfl⟩) hk)

theorem atomTurn_returns {q : Fields} {sh : Shape} {via : Via} {op ty : Nat} {s : State} {i : Issue} {t c : Nat} {l : Loc} {x : Access}
    (h : AtomReady q sh via op ty s i t c x) (hwrite : s.destReady i t l sh.d.n = true)
    (hplace : locate (s.thread (i.tk t)) q.d sh.d (if q.xo == 3 then some q.xs else none) = .ok l) (acc : List Nat) :
    atomTurn i q sh via op ty false s t acc = .done (s.takeAtom i t op ty sh.d.n c l x) acc := by
  obtain ⟨y, r, hread, hc, hvia, hacc⟩ := h.access
  simp only [atomTurn, hvia, hread, hc, hplace, Bool.false_eq_true, if_false, hwrite, Bool.false_or]
  cases x with
  | dropped =>
    simp only [hacc, if_true]
    rfl
  | at_ va pa sp ord =>
    obtain ⟨hform, htarget, hhost⟩ := hacc
    simp only [hform, htarget, hhost, h.live, Bool.not_true, Bool.false_eq_true, if_false, show (Role.live == Role.helper) = false from rfl]
    rfl

theorem atomTurn_noReturn {q : Fields} {sh : Shape} {via : Via} {op ty : Nat} {s : State} {i : Issue} {t c : Nat} {x : Access}
    (h : AtomReady q sh via op ty s i t c x) (hlog : ∀ va pa sp ord, x = .at_ va pa sp ord → s.unlogged i va sp) (acc : List Nat) :
    atomTurn i q sh via op ty true s t acc = .done (s.takeAtomNr i t op ty c x) acc := by
  obtain ⟨y, r, hread, hc, hvia, hacc⟩ := h.access
  simp only [atomTurn, hvia, hread, hc, if_true, Bool.true_or]
  cases x with
  | dropped =>
    simp only [hacc]
    rfl
  | at_ va pa sp ord =>
    obtain ⟨hform, htarget, hhost⟩ := hacc
    simp only [hform, htarget, hhost, h.live, Bool.not_true, Bool.false_eq_true, if_false, show (Role.live == Role.helper) = false from rfl]
    exact storeTo_ok (hlog va pa sp ord rfl) 2 acc

theorem exec_atomicForm {f : RForm} {op : Nat} {e : Instr} {via : Via} (h : (e, op, via) ∈ atomicForms f) (s : State) :
    exec e s = .next (atomWord op via f s) := by
  simp only [atomicForms, List.mem_cons, Prod.mk.injEq, List.not_mem_nil, or_false] at h
  obtain ⟨rfl, rfl, rfl⟩ | ⟨rfl, rfl, rfl⟩ | ⟨rfl, rfl, rfl⟩ := h <;> rfl

/-- Settles O21: every turn of the pass is done; a returning form also leaves its destination empty. -/
theorem atomicsComplete : Obligations.AtomicsComplete := by
  intro f op e via sh s i ts l c x hform hlegal hbegins hturns hready
  rw [exec_atomicForm hform]
  simp only [atomWord, addressedWord_of_legal hbegins.cur hlegal]
  refine ⟨fun hret hdest => congrArg _ ?_, fun hret hlog => congrArg _ ?_⟩
  · simp only [hret, show ((0 : Nat) == 1) = false from rfl, Bool.not_false]
    refine memory_turns hturns hbegins.fresh _ _ _
      (fun u t => u.takeAtom i t (extSub f.ext % 16) (extTy 0 f.ext) sh.d.n (c t) (l t) (x t)) (fun u t ht ha hthread => ?_) (fun hu u t ht => ?_)
      fun _ u t => park_takeAtom ..
    · obtain ⟨-, hwrite, hplace⟩ := hdest t ht
      exact atomTurn_returns ((hready t ht).alike ha hthread) ((ha.destReady hthread ..).trans hwrite) (hthread ▸ hplace) []
    · obtain ⟨⟨r, hr⟩ | hr, -⟩ := hdest t ht
      · rw [hr]
        exact alike_takeAtom ..
      · exact absurd hr (by simp [hu])
  · simp only [hret, show ((1 : Nat) == 1) = true from rfl, Bool.not_true]
    refine memory_turns hturns hbegins.fresh _ _ _
      (fun u t => u.takeAtomNr i t (extSub f.ext % 16) (extTy 0 f.ext) (c t) (x t)) (fun u t ht ha hthread => ?_) (fun hu u t ht => ?_) fun _ u t => ?_
    · exact atomTurn_noReturn ((hready t ht).alike ha hthread) (fun va pa sp ord hx => ha.unlogged (hlog t ht va pa sp ord hx)) []
    · cases x t with
      | dropped => exact ⟨.refl .., fun _ _ => rfl⟩
      | at_ va pa sp ord => exact alike_gatherOnly ..
    · cases x t <;> rfl

end Sys2Proof.Machine
end

section
/-! SUPPORT. Literal loads, prefetches, record words and working sets (02 R55; 07 R226 to R229). -/

namespace Sys2Proof.Machine

/-! ### Literal loads -/

/-- Where word `j` of a literal goes. -/
def Loc.intoWord (l : Loc) (j : Nat) : Into :=
  match l with
  | .v r => .v (r + j) 1
  | .s r => .s (r + j) 1

/-- What a thread's turn of LDL leaves: d empty, and an access gathered for each of its words. -/
def State.takeLiteral (u : State) (i : Issue) (t n base : Nat) (l : Loc) (sp : Nat → Space) (pa ord : Nat → Nat) : State :=
  (List.range n).foldl (fun u j => u.gather i
    { lane := { t := t, va := (base + 4 * j) % 2 ^ 57, addr := pa j, w := 4, into := l.intoWord j }, space := sp j, ord := ord j })
    ((u.emptyCells i t l n).modThread (i.tk t) (fun th => { th with replay := none }))

theorem thread_takeLiteral (u : State) (i : Issue) (t n base : Nat) (l : Loc) (sp : Nat → Space) (pa ord : Nat → Nat) (k : Nat) :
    (u.takeLiteral i t n base l sp pa ord).thread k =
      ((u.emptyCells i t l n).modThread (i.tk t) (fun th => { th with replay := none })).thread k := by
  unfold State.takeLiteral
  exact foldl_keep _ (fun v => v.thread k) (fun v j => thread_gather ..) _ _

theorem park_takeLiteral (u : State) (i : Issue) (t n base : Nat) (l : Loc) (sp : Nat → Space) (pa ord : Nat → Nat) :
    ((u.takeLiteral i t n base l sp pa ord).thread (i.tk t)).park = (u.thread (i.tk t)).park := by
  rw [thread_takeLiteral, ← park_emptyCells u i t l n (i.tk t)]
  exact State.thread_modThread_of _ _ _ _ Thread.park fun _ => rfl

theorem alike_gathers {α : Type} (i : Issue) (f : α → Gathered) (l : List α) (u : State) : Alike i u (l.foldl (fun u a => u.gather i (f a)) u) := by
  induction l generalizing u with
  | nil => exact .refl ..
  | cons a l ih => exact (Alike.gather ..).trans (ih _)

theorem alike_takeLiteral (u : State) (i : Issue) (t n base r : Nat) (sp : Nat → Space) (pa ord : Nat → Nat) :
    Alike i u (u.takeLiteral i t n base (.v r) sp pa ord) ∧ ∀ k, k ≠ i.tk t → (u.takeLiteral i t n base (.v r) sp pa ord).thread k = u.thread k := by
  refine ⟨((Alike.emptyCells_v ..).trans (.modThread ..)).trans (alike_gathers ..), fun k hk => ?_⟩
  rw [thread_takeLiteral, State.thread_modThread_ne _ _ hk, emptyCells_thread _ _ _ _ _ _ (.inl ⟨r, rfl⟩) hk]

theorem ldlTurn_done {f : IForm} {sh : Shape} {s : State} {i : Issue} {t : Nat} {l : Loc} {sp : Nat → Space} {pa ord : Nat → Nat}
    (hfresh : s.failedPages i = []) (hplace : locate (s.thread (i.tk t)) f.d sh.d none = .ok l) (hwrite : s.destReady i t l sh.d.n = true)
    (hpark : (s.thread (i.tk t)).park = .none)
    (hreach : ∀ j < sh.d.n, s.reach (s.block i.b).ctx (some i.b) [] (((pcAddr (i.hdr + BitVec.ofInt 64 (4 * f.imm.toInt))).toNat + 4 * j) % 2 ^ 57) 4
      Need.exec = .ok (sp j) (pa j) (ord j)) (acc : List Nat) :
    ldlTurn i f sh s t acc =
      .done (s.takeLiteral i t sh.d.n (pcAddr (i.hdr + BitVec.ofInt 64 (4 * f.imm.toInt))).toNat l sp pa ord) acc := by
  have hdone := helperZero_done (l := l) (n := sh.d.n) (acc := acc)
    (park_takeLiteral s i t sh.d.n (pcAddr (i.hdr + BitVec.ofInt 64 (4 * f.imm.toInt))).toNat l sp pa ord) (.inr hpark)
  rw [← hdone]
  have hfind : ∀ (p : Nat → Bool), (∀ j < sh.d.n, p j = false) → (List.range sh.d.n).find? p = none := fun p hp =>
    List.find?_eq_none.mpr fun j hj => by simp [hp j (List.mem_range.mp hj)]
  have hfailed : ∀ p, (s.group i.gk).pass = some p → p.failed = [] := fun p hp => by simpa [State.failedPages, hp] using hfresh
  unfold ldlTurn
  cases hpass : (s.group i.gk).pass
  rotate_left
  simp only [hfailed _ hpass]
  all_goals
    simp only [Fields.ofI, hplace, hwrite, Bool.not_true, Bool.false_eq_true, if_false]
    rw [hfind _ fun j hj => by rw [hreach j hj]]
    refine congrArg (fun v => helperZero s i t l sh.d.n acc (.done v acc)) (foldl_congr_mem _ fun u j hj => ?_)
    rw [hreach j (List.mem_range.mp hj)]
    cases l <;> rfl

/-- LDL admits no index, and its destination is one or two registers. -/
theorem LegalI.literal {s : State} {i : Issue} {f : IForm} {sh : Shape} (h : LegalI s i 0x3A f sh) :
    (∃ ty, sh.d = Opd.val ty) ∧ extXo f.ext = 0 := by
  have hshape := h.shape
  have hlegal := h.legal
  simp only [iShape, shapeIf, Option.ite_none_right_eq_some, Option.some.injEq] at hshape
  obtain ⟨-, rfl⟩ := hshape
  refine ⟨⟨_, rfl⟩, ?_⟩
  simp only [iLegal, h.shape, indexOk, Bool.and_eq_true, Bool.false_or, beq_iff_eq] at hlegal
  exact hlegal.1.2.2

theorem Opd.val_registers (ty : Nat) : (Opd.val ty).raw = false ∧ (Opd.val ty).n ≠ 0 := by
  unfold Opd.val
  split <;> simp [Opd.pair, Opd.one]

/-- A destination that is not in s is in v. -/
theorem LegalI.literal_place {s : State} {i : Issue} {f : IForm} {sh : Shape} (h : LegalI s i 0x3A f sh) (huniform : (Fields.ofI f).uniform sh = false)
    {th : Thread} {l : Loc} (hplace : locate th f.d sh.d none = .ok l) : l = .v f.d.toNat := by
  obtain ⟨⟨ty, hd⟩, hxo⟩ := h.literal
  have hlow : f.d.toNat < 96 := by
    refine Nat.lt_of_not_le fun hge => ?_
    obtain ⟨hraw, hn⟩ := Opd.val_registers ty
    have hu : (Fields.ofI f).uniform sh = true :=
      uniform_iff.mpr ⟨hd ▸ hraw, hd ▸ hn, by simp [Fields.ofI, hxo], by simpa [Fields.ofI] using hge⟩
    simp [huniform] at hu
  simpa [locate, hlow] using hplace.symm

theorem ldl_done {f : IForm} {sh : Shape} {s : State} {i : Issue} {l : Nat → Loc} {pa : Nat → Nat} {sp : Nat → Space} {ord : Nat → Nat} {ts : List Nat}
    (hlegal : LegalI s i 0x3A f sh) (hbegins : Begins s i)
    (hts : ts = (if (Fields.ofI f).uniform sh then [firstLane i.path] else s.active i (fun _ => true)))
    (hready : ∀ t ∈ ts, locate (s.thread (i.tk t)) f.d sh.d none = .ok (l t) ∧ s.destReady i t (l t) sh.d.n = true ∧ (s.thread (i.tk t)).park = .none)
    (hreach : ∀ j < sh.d.n, s.reach (s.block i.b).ctx (some i.b) [] (((pcAddr (i.hdr + BitVec.ofInt 64 (4 * f.imm.toInt))).toNat + 4 * j) % 2 ^ 57) 4
      Need.exec = .ok (sp j) (pa j) (ord j)) :
    exec (.ldl f) s = .next ((ts.foldl (fun u t =>
      u.takeLiteral i t sh.d.n (pcAddr (i.hdr + BitVec.ofInt 64 (4 * f.imm.toInt))).toNat (l t) sp pa ord) s).memoryDone i .literal 0
        ((Fields.ofI f).uniform sh)) := by
  have hdone : ∀ u, ∀ t ∈ ts, Alike i s u → u.thread (i.tk t) = s.thread (i.tk t) → ldlTurn i f sh u t [] =
      .done (u.takeLiteral i t sh.d.n (pcAddr (i.hdr + BitVec.ofInt 64 (4 * f.imm.toInt))).toNat (l t) sp pa ord) [] := by
    intro u t ht ha hthread
    obtain ⟨hplace, hwrite, hpark⟩ := hready t ht
    refine ldlTurn_done (ha.failed.trans (by simp [State.failedPages, hbegins.fresh])) (hthread ▸ hplace) ((ha.destReady hthread ..).trans hwrite)
      (hthread ▸ hpark) (fun j hj => ?_) []
    rw [ha.of_world State.block fun _ => rfl, ha.reach, hreach j hj]
  have hgo : exec (.ldl f) s = .next (if (Fields.ofI f).uniform sh then s.memoryOnce i none .literal 0 (ldlTurn i f sh)
      else s.memoryPass i (fun _ => true) .literal 0 (ldlTurn i f sh)) := by
    change execLdl f s = _
    simp [execLdl, onGroup_of_cur hbegins.cur, hlegal.shape, hlegal.legal, hlegal.below]
  rw [hgo]
  cases huniform : (Fields.ofI f).uniform sh with
  | true =>
    rw [huniform, if_pos rfl] at hts
    subst hts
    rw [if_pos rfl]
    exact congrArg _ (memoryOnce_done rfl .literal 0 (hdone s _ List.mem_cons_self (.refl i s) rfl)
      ((park_takeLiteral ..).trans (hready _ List.mem_cons_self).2.2))
  | false =>
    rw [huniform, if_neg (by decide)] at hts
    subst hts
    rw [if_neg (by decide)]
    have hframe : ∀ u, ∀ t ∈ s.active i (fun _ => true),
        Alike i u (u.takeLiteral i t sh.d.n (pcAddr (i.hdr + BitVec.ofInt 64 (4 * f.imm.toInt))).toNat (l t) sp pa ord) ∧ ∀ k, k ≠ i.tk t →
          (u.takeLiteral i t sh.d.n (pcAddr (i.hdr + BitVec.ofInt 64 (4 * f.imm.toInt))).toNat (l t) sp pa ord).thread k = u.thread k := by
      intro u t ht
      rw [hlegal.literal_place huniform (hready t ht).1]
      exact alike_takeLiteral ..
    refine congrArg _ (memoryPass_done hbegins.fresh _ .literal 0 _
      (fun u t => u.takeLiteral i t sh.d.n (pcAddr (i.hdr + BitVec.ofInt 64 (4 * f.imm.toInt))).toNat (l t) sp pa ord) fun pre t post hsplit => ?_)
    obtain ⟨halike, hthread⟩ := foldl_alike hframe (active_nodup ..) s hsplit
    exact hdone _ t (mem_of_split hsplit) halike hthread

/-! ### Prefetches -/

/-- A prefetch changes the cores' near caches only. -/
theorem prefetch_cores (s : State) (i : Issue) (x : Nat) (r : BitVec 128) : ∃ c, s.prefetch i x r = { s with cores := c } := by
  unfold State.prefetch
  dsimp only
  split
  · split
    · split
      · exact ⟨_, rfl⟩
      · exact ⟨s.cores, rfl⟩
    · exact ⟨s.cores, rfl⟩
  · exact ⟨s.cores, rfl⟩

theorem pref_done {f : RForm} {sh : Shape} {s : State} {i : Issue} {x : Nat → Nat} {r : Nat} (hlegal : LegalR s i 0x9B f sh) (hbegins : Begins s i)
    (hread : ∀ t ∈ s.active i (extGuard f.ext), s.readA i t f sh.a = .val (x t)) (hrecord : (s.group i.gk).record (f.b.toNat % 16) false = .val r) :
    ∃ c, exec (.pref f) s = .next ({ s with cores := c }.endPass i) ∧ (extSub f.ext ≠ 1 → c = s.cores) := by
  have hcores : ∀ ts : List Nat, ∃ c, ts.foldl (fun u t => if extSub f.ext == 1 then u.prefetch i (x t) (BitVec.ofNat 128 r) else u) s =
      { s with cores := c } ∧ (extSub f.ext ≠ 1 → c = s.cores) := fun ts =>
    List.foldlRecOn ts _ (motive := fun u => ∃ c, u = { s with cores := c } ∧ (extSub f.ext ≠ 1 → c = s.cores)) ⟨s.cores, rfl, fun _ => rfl⟩
      fun u ⟨c, hc, hkeep⟩ t _ => by
        subst hc
        by_cases hsub : extSub f.ext = 1
        · obtain ⟨c', hc'⟩ := prefetch_cores { s with cores := c } i (x t) (BitVec.ofNat 128 r)
          exact ⟨c', by simp [hsub, hc'], fun h => absurd hsub h⟩
        · exact ⟨c, by simp [hsub], hkeep⟩
  obtain ⟨c, hc, hkeep⟩ := hcores (s.active i (extGuard f.ext))
  refine ⟨c, ?_, hkeep⟩
  change execPref f s = _
  simp only [execPref, memoryWord_of_legal hbegins.cur hlegal]
  rw [← hc]
  refine congrArg _ (perThread_done hbegins.fresh _ _ _ fun pre t post hsplit => ?_)
  obtain ⟨c', hc', -⟩ := hcores pre
  have hreadA := hread t (mem_of_split hsplit)
  rw [hc']
  change State.readA { s with cores := c' } i t f sh.a = _ at hreadA
  change (State.group { s with cores := c' } i.gk).record _ _ = _ at hrecord
  simp only [prefTurn, hreadA, hrecord]

/-! ### Record words -/

theorem bld_done {f : RForm} {sh : Shape} {s : State} {i : Issue} (hlegal : LegalR s i 0xA0 f sh) (honce : Once s i f.ext)
    (hready : s.recordReady i (firstLane i.path) (f.d.toNat % 16) = true) {y r va pa : Nat} {sp : Space} {o : Nat}
    (hread : s.readA i (firstLane i.path) f sh.a = .val y) (hvia : s.viaRecord i (recordMoveVia f) = .val r)
    (hform : s.form i (recordMoveVia f) y 16 (BitVec.ofNat 128 r) = .addr va) (htarget : s.target i (recordMoveVia f) va 16 Need.read = .ok sp pa o)
    (hpark : (s.thread (i.tk (firstLane i.path))).park = .none) :
    exec (.bld f) s = .next (State.memoryDone (((s.setRecord i (f.d.toNat % 16)
      { Table.get {} (s.group i.gk).b (f.d.toNat % 16) with full := false, mark := none }).modThread (i.tk (firstLane i.path))
        (fun th => { th with replay := none })).gather i
      { lane := { t := firstLane i.path, va := va, addr := pa, w := 16, into := .record (f.d.toNat % 16) }, space := sp, ord := o }) i .load 0 true) := by
  change execBld f s = _
  simp only [execBld, memoryWord_of_legal honce.fresh.cur hlegal]
  refine congrArg _ (memoryOnce_done honce.guard .load 0 ?_ ?_)
  · simp only [bldTurn, helperRecord, honce.live, hvia, hread, hform, hready, htarget, Bool.not_true, Bool.false_eq_true, if_false]
  · rw [← hpark]
    exact State.thread_modThread_of _ _ _ _ Thread.park fun _ => rfl

theorem bst_done {f : RForm} {sh : Shape} {s : State} {i : Issue} (hlegal : LegalR s i 0xA1 f sh) (honce : Once s i f.ext)
    {y r data va pa : Nat} {sp : Space} {o : Nat} (hread : s.readA i (firstLane i.path) f sh.a = .val y)
    (hvia : s.viaRecord i (recordMoveVia f) = .val r) (hdata : (s.group i.gk).record (f.d.toNat % 16) (extSub f.ext == 1 && f.eb) = .val data)
    (hform : s.form i (recordMoveVia f) y 16 (BitVec.ofNat 128 r) = .addr va) (htarget : s.target i (recordMoveVia f) va 16 Need.write = .ok sp pa o)
    (hlog : s.unlogged i va sp) (hpark : (s.thread (i.tk (firstLane i.path))).park = .none) :
    exec (.bst f) s = .next (State.memoryDone (s.gather i
      { lane := { t := firstLane i.path, va := va, addr := pa, w := 16, data := data }, space := sp, ord := o }) i .store 0 true) := by
  change execBst f s = _
  simp only [execBst, memoryWord_of_legal honce.fresh.cur hlegal]
  refine congrArg _ (memoryOnce_done honce.guard .store 0 ?_ hpark)
  simp only [bstTurn, hvia, hread, hform, hdata, honce.live, htarget]
  exact storeTo_ok (lane := { t := firstLane i.path, va := va, addr := va, w := 16, data := data }) hlog 1 []

theorem bset_done {f : RForm} {sh : Shape} {s : State} {i : Issue} (hlegal : LegalR s i 0xA2 f sh) (honce : Once s i f.ext)
    (hready : s.recordReady i (firstLane i.path) (f.d.toNat % 16) = true) {y : Nat} (hread : s.readA i (firstLane i.path) f sh.a = .val y) :
    exec (.bset f) s = .next (State.endPass (s.setRecord i (f.d.toNat % 16)
      { val := setRecordWord (Table.get {} (s.group i.gk).b (f.d.toNat % 16)).val (extSub f.ext) y }) i) := by
  change execBset f s = _
  simp [execBset, memoryWord_of_legal honce.fresh.cur hlegal, State.uniformGuard, honce.guard, hread, hready]

/-- A record that reads has 128 bits. -/
theorem record_lt {gr : Group} {n : Nat} {e : Bool} {r : Nat} (h : gr.record n e = .val r) : r < 2 ^ 128 := by
  unfold Group.record at h
  dsimp only at h
  split at h
  · exact absurd h (by simp)
  · split at h
    · rw [← Got.val.inj h]
      exact BitVec.isLt _
    · split at h <;> exact absurd h (by simp)

theorem recField_of_lt {r : Nat} (h : r < 2 ^ 128) (k : Nat) : recField (BitVec.ofNat 128 r) (32 * k) 32 = r / 2 ^ (32 * k) % 2 ^ 32 := by
  rw [recField, BitVec.toNat_ofNat, Nat.mod_eq_of_lt h]

theorem bgetTurn_done {f : RForm} {sh : Shape} {s : State} {i : Issue} {t r : Nat} {l : Loc}
    (hrecord : (s.group i.gk).record (f.b.toNat % 16) f.eb = .val r) (hwrite : s.destReady i t l 1 = true)
    (hplace : locate (s.thread (i.tk t)) f.d sh.d (if extXo f.ext == 3 then some (extXs f.ext) else none) = .ok l) (acc : List Nat) :
    bgetTurn i f sh s t acc = .done (s.writeCells i t l 1 (r / 2 ^ (32 * extSub f.ext) % 2 ^ 32)) acc := by
  simp only [bgetTurn, hrecord, hplace, hwrite, if_true, recField_of_lt (record_lt hrecord)]

theorem bget_done {f : RForm} {sh : Shape} {s : State} {i : Issue} (hlegal : LegalR s i 0xA3 f sh) (hbegins : Begins s i) {r : Nat} {ts : List Nat}
    {d : Nat → Loc} (hrecord : (s.group i.gk).record (f.b.toNat % 16) f.eb = .val r) (hturns : Turns (Fields.ofR f) sh s i ts)
    (hready : ∀ t ∈ ts, ((∃ r, d t = .v r) ∨ (Fields.ofR f).uniform sh = true) ∧ s.destReady i t (d t) 1 = true ∧
      locate (s.thread (i.tk t)) f.d sh.d (if extXo f.ext == 3 then some (extXs f.ext) else none) = .ok (d t)) :
    exec (.bget f) s = .next (State.endPass (ts.foldl (fun u t => u.writeCells i t (d t) 1 (r / 2 ^ (32 * extSub f.ext) % 2 ^ 32)) s) i) := by
  change execBget f s = _
  simp only [execBget, memoryWord_of_legal hbegins.cur hlegal]
  cases huniform : (Fields.ofR f).uniform sh with
  | true =>
    obtain ⟨rfl, hguard, -⟩ := hturns.once huniform
    obtain ⟨-, hwrite, hplace⟩ := hready _ List.mem_cons_self
    have hon : s.uniformGuard i f.ext = true := hguard
    simp [hon, bgetTurn_done hrecord hwrite hplace]
  | false =>
    obtain rfl := hturns.each huniform
    rw [if_neg (by decide)]
    have hframe : ∀ u, ∀ t ∈ s.active i (extGuard f.ext), Alike i u (u.writeCells i t (d t) 1 (r / 2 ^ (32 * extSub f.ext) % 2 ^ 32)) ∧
        ∀ k, k ≠ i.tk t → (u.writeCells i t (d t) 1 (r / 2 ^ (32 * extSub f.ext) % 2 ^ 32)).thread k = u.thread k := by
      intro u t ht
      obtain ⟨⟨q, hq⟩ | hu, -⟩ := hready t ht
      · rw [hq]
        exact ⟨.writeCells_v .., fun k hk => writeCells_thread _ _ _ _ _ _ _ (.inl ⟨q, rfl⟩) hk⟩
      · exact absurd hu (by simp [huniform])
    refine congrArg _ (perThread_done hbegins.fresh _ _ _ fun pre t post hsplit => ?_)
    obtain ⟨halike, hthread⟩ := foldl_alike hframe (active_nodup ..) s hsplit
    obtain ⟨-, hwrite, hplace⟩ := hready t (mem_of_split hsplit)
    refine bgetTurn_done ?_ ((halike.destReady hthread ..).trans hwrite) (hthread ▸ hplace) []
    rw [Group.record, halike.records, ← Group.record]
    exact hrecord

/-! ### Working sets -/

theorem wset_begins {f : RForm} {sh : Shape} {s : State} {i : Issue} (hlegal : LegalR s i 0xA4 f sh) (hbegins : Begins s i) (hpix : PixFree s i)
    (hhold : s.holdOf i ≠ some .wset) (hsome : wsetRegs (wsetRanges f) ≠ []) (hregs : ∀ r ∈ wsetRegs (wsetRanges f), r < (s.block i.b).nreg) :
    ∃ p < (wsetRegs (wsetRanges f)).length, exec (.wset f) s = .next ((s.modGroup i.gk (fun gr =>
      { gr with wset := wsetRegs (wsetRanges f), wsetCopying := true, pixOwner := i.path, pix := BitVec.ofNat 32 p })).holdPath i .wset) := by
  have htake : s.takePix i = s := by simp [State.takePix, hpix.own]
  have hfree : s.pixTaken i = false := by simp [State.pixTaken, hpix.free]
  have hall : (wsetRegs (wsetRanges f)).all (fun r => decide (r < (s.block i.b).nreg)) = true := List.all_eq_true.mpr fun r hr => by simp [hregs r hr]
  refine ⟨(Config.freeWord s.tick).toNat % (wsetRegs (wsetRanges f)).length, Nat.mod_lt _ (List.length_pos_iff.mpr hsome), ?_⟩
  change execWset f s = _
  simp only [execWset, memoryWord_of_legal hbegins.cur hlegal, hall, Bool.not_true, Bool.false_eq_true, if_false, beq_iff_eq, hhold, htake, hfree,
    List.isEmpty_iff, hsome]

theorem wset_ends {f : RForm} {sh : Shape} {s : State} {i : Issue} (hlegal : LegalR s i 0xA4 f sh) (hbegins : Begins s i)
    (hhold : s.holdOf i = some .wset) (hcopied : (s.group i.gk).wsetCopying = false)
    (hregs : ∀ r ∈ wsetRegs (wsetRanges f), r < (s.block i.b).nreg) : exec (.wset f) s = .next (s.endPass i) := by
  have hall : (wsetRegs (wsetRanges f)).all (fun r => decide (r < (s.block i.b).nreg)) = true := List.all_eq_true.mpr fun r hr => by simp [hregs r hr]
  change execWset f s = _
  simp only [execWset, memoryWord_of_legal hbegins.cur hlegal, hall, hhold, hcopied, Bool.not_true, Bool.false_eq_true, if_false, beq_self_eq_true, if_true]

/-- Settles O22, word by word. -/
theorem literalRecordAndWorkingSetWordsComplete : Obligations.LiteralRecordAndWorkingSetWordsComplete := by
  unfold Obligations.LiteralRecordAndWorkingSetWordsComplete
  refine ⟨fun f sh s i l pa sp ord ts hlegal hbegins hts hready hreach => ldl_done hlegal hbegins hts hready hreach,
    fun f op sh s i hlegal hbegins => ⟨?_, ?_, ?_, ?_, ?_⟩, fun f sh s i hlegal hbegins hpix hhold hsome hregs =>
      wset_begins hlegal hbegins hpix hhold hsome hregs, fun s b g hcopying => ?_,
    fun f sh s i hlegal hbegins hhold hcopied hregs => wset_ends hlegal hbegins hhold hcopied hregs⟩
  · rintro rfl x r hread hrecord
    exact pref_done hlegal hbegins hread hrecord
  · rintro rfl honce hready y r va pa sp o hread hvia hform htarget hpark
    exact bld_done hlegal honce hready hread hvia hform htarget hpark
  · rintro rfl honce y r data va pa sp o hread hvia hdata hform htarget hlog hpark
    exact bst_done hlegal honce hread hvia hdata hform htarget hlog hpark
  · rintro rfl honce hready y hread
    exact bset_done hlegal honce hready hread
  · rintro rfl r ts d hrecord hturns hready
    exact bget_done hlegal hbegins hrecord hturns hready
  · change execWsetCopyComplete b g s = _
    simp [execWsetCopyComplete, hcopying]

end Sys2Proof.Machine
end

section
/-! SUPPORT. Requests that are performed (07 R210 to R212, R221 to R223): bytes of the memories, and registers that a request fills. -/

namespace Sys2Proof.Machine

/-! ### The memories -/

theorem Table.mem_of_find {α : Type} {m : Table α} {k : Nat} {v : α} (h : Table.find m k = some v) : (k, v) ∈ m := by
  induction m with
  | nil => simp [Table.find] at h
  | cons e m ih =>
    obtain ⟨j, w⟩ := e
    rw [Table.find] at h
    split at h
    · next hj => simp_all
    · split at h
      · simp at h
      · exact List.mem_cons_of_mem _ (ih h)

/-- Every memory, and the table of them, is in canonical form. -/
structure MemWf (s : State) : Prop where
  spaces : Table.wf [] s.spaces = true
  each : ∀ sp, (s.memOf sp).wf = true

theorem MemWf.of_canonical {s : State} (h : s.canonical = true) (hspaces : Table.wf [] s.spaces = true) : MemWf s where
  spaces := hspaces
  each sp := by
    simp only [State.canonical, Bool.and_eq_true, List.all_eq_true] at h
    obtain ⟨⟨hmem, hall⟩, -⟩ := h
    cases sp with
    | main => exact hmem
    | shared b | scratch c d =>
      unfold State.memOf Table.get
      cases hfind : Table.find s.spaces _ with
      | none => rfl
      | some m => exact hall _ (Table.mem_of_find hfind)

theorem memOf_congr {s u : State} (hmem : u.mem = s.mem) (hspaces : u.spaces = s.spaces) (sp : Space) : u.memOf sp = s.memOf sp := by
  unfold State.memOf
  rw [hmem, hspaces]

theorem MemWf.congr {s u : State} (h : MemWf s) (hmem : u.mem = s.mem) (hspaces : u.spaces = s.spaces) : MemWf u :=
  ⟨hspaces ▸ h.spaces, fun sp => memOf_congr hmem hspaces sp ▸ h.each sp⟩

/-- A memory is known by its key. -/
theorem memOf_setMem {s : State} (h : Table.wf [] s.spaces = true) (sp' : Space) (m : Memory) (sp : Space) :
    (s.setMem sp' m).memOf sp = if sp.key = sp'.key then m else s.memOf sp := by
  cases sp <;> cases sp' <;> simp [State.setMem, State.memOf, Space.key, Table.get_set h]

theorem memOf_key (s : State) (sp : Space) : s.memOf sp = if sp.key = 0 then s.mem else Table.get [] s.spaces sp.key := by
  cases sp <;> simp [State.memOf, Space.key]

theorem memOf_of_key (s : State) {sp sp' : Space} (h : sp.key = sp'.key) : s.memOf sp = s.memOf sp' := by
  rw [memOf_key, memOf_key, h]

theorem MemWf.setMem {s : State} (h : MemWf s) (sp : Space) {m : Memory} (hm : m.wf = true) : MemWf (s.setMem sp m) where
  spaces := by
    cases sp with
    | main => exact h.spaces
    | shared b | scratch c d => exact Table.wf_set h.spaces ..
  each sp' := by
    rw [memOf_setMem h.spaces]
    split
    · exact hm
    · exact h.each sp'

theorem MemWf.store {s : State} (h : MemWf s) (sp : Space) (a n x : Nat) : MemWf (s.store sp a n x) :=
  h.setMem sp (Memory.wf_writeNat (h.each sp) ..)

theorem byte_store_other {s : State} (h : MemWf s) {sp sp' : Space} {a n k : Nat} (x : Nat) (hk : sp'.key ≠ sp.key ∨ k < a ∨ a + n ≤ k) :
    ((s.store sp a n x).memOf sp').byte k = (s.memOf sp').byte k := by
  rw [State.store, memOf_setMem h.spaces]
  split
  · next hkey => rw [Memory.byte_writeNat_outside (h.each sp) a n x k (hk.resolve_left fun hne => hne hkey), memOf_of_key s hkey]
  · rfl

theorem byte_store_inside {s : State} (h : MemWf s) (sp : Space) (a x : Nat) {n j : Nat} (hj : j < n) :
    ((s.store sp a n x).memOf sp).byte (a + j) = BitVec.ofNat 8 (x / 256 ^ j) := by
  rw [State.store, memOf_setMem h.spaces, if_pos rfl, Memory.byte_writeNat_inside (h.each sp) a n x j hj]

theorem load_store {s : State} (h : MemWf s) (sp : Space) (a n x : Nat) : (s.store sp a n x).load sp a n = x % 256 ^ n := by
  rw [State.load, State.store, memOf_setMem h.spaces, if_pos rfl, Memory.readNat_writeNat (h.each sp)]

/-! ### Writes of a request -/

/-- The stores of a request, one by one. -/
def State.storeLanes (s : State) (sp : Space) (ls : List LaneReq) : State := ls.foldl (fun s l => s.store sp l.addr l.w l.data) s

theorem MemWf.storeLanes {s : State} (h : MemWf s) (sp : Space) (ls : List LaneReq) : MemWf (s.storeLanes sp ls) := by
  unfold State.storeLanes
  induction ls generalizing s with
  | nil => exact h
  | cons l ls ih => exact ih (h.store ..)

theorem byte_storeLanes_other {s : State} (h : MemWf s) (sp : Space) {ls : List LaneReq} {sp' : Space} {k : Nat}
    (hk : ∀ l ∈ ls, sp'.key ≠ sp.key ∨ k < l.addr ∨ l.addr + l.w ≤ k) : ((s.storeLanes sp ls).memOf sp').byte k = (s.memOf sp').byte k := by
  unfold State.storeLanes
  induction ls generalizing s with
  | nil => rfl
  | cons l ls ih =>
    rw [List.foldl_cons, ih (h.store ..) fun m hm => hk m (List.mem_cons_of_mem _ hm), byte_store_other h l.data (hk l List.mem_cons_self)]

/-- The last write of a byte is what it holds. -/
theorem byte_storeLanes_last {s : State} (h : MemWf s) (sp : Space) {ls pre post : List LaneReq} {l : LaneReq} (hls : ls = pre ++ l :: post) {j : Nat}
    (hj : j < l.w) (hpost : ∀ m ∈ post, l.addr + j < m.addr ∨ m.addr + m.w ≤ l.addr + j) :
    ((s.storeLanes sp ls).memOf sp).byte (l.addr + j) = BitVec.ofNat 8 (l.data / 256 ^ j) := by
  subst hls
  rw [State.storeLanes, List.foldl_append, List.foldl_cons]
  have hpre := h.storeLanes sp pre
  exact (byte_storeLanes_other (hpre.store ..) sp fun m hm => .inr (hpost m hm)).trans (byte_store_inside hpre sp l.addr l.data hj)

theorem applyWrites_mem (s : State) (sp : Space) (ls : List LaneReq) (sp' : Space) :
    (s.applyWrites sp ls).memOf sp' = (s.storeLanes sp ls).memOf sp' := by
  cases ls with
  | nil => rfl
  | cons l ls =>
    unfold State.applyWrites
    dsimp only
    split <;> rfl

theorem applyWrites_reqs (s : State) (sp : Space) (ls : List LaneReq) : (s.applyWrites sp ls).reqs = s.reqs := by
  have hstore : (s.storeLanes sp ls).reqs = s.reqs := by
    unfold State.storeLanes
    refine foldl_keep _ State.reqs (fun u l => ?_) _ s
    cases sp <;> rfl
  cases ls with
  | nil => rfl
  | cons l ls =>
    unfold State.applyWrites
    dsimp only
    split <;> exact hstore

/-- After a write only near caches change. -/
theorem afterWrite_cores (s : State) (r : Req) (so : Bool) (sp : Space) (a : Nat) : ∃ c, s.afterWrite r so sp a = { s with cores := c } := by
  unfold State.afterWrite
  split
  · exact ⟨_, rfl⟩
  · split
    · exact ⟨_, rfl⟩
    · exact ⟨s.cores, rfl⟩

theorem afterWrite_memOf (s : State) (r : Req) (so : Bool) (sp : Space) (a : Nat) (sp' : Space) :
    (s.afterWrite r so sp a).memOf sp' = s.memOf sp' := by
  obtain ⟨c, hc⟩ := afterWrite_cores s r so sp a
  rw [hc]
  exact memOf_congr rfl rfl sp'

theorem afterWrite_reqs (s : State) (r : Req) (so : Bool) (sp : Space) (a : Nat) : (s.afterWrite r so sp a).reqs = s.reqs := by
  obtain ⟨c, hc⟩ := afterWrite_cores s r so sp a
  rw [hc]

/-- What a performed write leaves: near caches and the request. -/
def State.afterRequest (s : State) (r : Req) (a : Nat) (q : Table Req) : State := { s.afterWrite r r.so r.space a with reqs := q }

theorem afterRequest_memOf (s : State) (r : Req) (a : Nat) (q : Table Req) (sp : Space) : (s.afterRequest r a q).memOf sp = s.memOf sp :=
  (memOf_congr rfl rfl sp).trans (afterWrite_memOf s r r.so r.space a sp)

theorem store_reqs (s : State) (sp : Space) (a n x : Nat) : (s.store sp a n x).reqs = s.reqs := by
  cases sp <;> rfl

theorem reqReady_unlogged {s : State} {id : Nat} {r : Req} (h : s.reqReady id r = true) : r.logged.isSome = false := by
  simp only [State.reqReady, Bool.and_eq_true, Option.isNone_iff_eq_none] at h
  rw [h.1.1]
  rfl

theorem storeAcknowledge_store {s : State} {id : Nat} {r : Req} (hfind : Table.find s.reqs id = some r) (hforeign : s.foreign r.core r.ctx = false)
    (hready : s.reqReady id r = true) (hwf : MemWf s) (hrising : Table.risingFrom 0 s.reqs = true) (hkind : r.kind = .store) :
    ∃ u, exec (.storeAcknowledge id) s = .next u ∧ Table.find u.reqs id = none ∧
      (∀ sp a, (∀ l ∈ r.lanes, sp.key ≠ r.space.key ∨ a < l.addr ∨ l.addr + l.w ≤ a) → (u.memOf sp).byte a = (s.memOf sp).byte a) ∧
      (∀ pre l post, r.lanes = pre ++ l :: post → ∀ j < l.w, (∀ m ∈ post, l.addr + j < m.addr ∨ m.addr + m.w ≤ l.addr + j) →
        (u.memOf r.space).byte (l.addr + j) = BitVec.ofNat 8 (l.data / 256 ^ j)) := by
  have hstep : exec (.storeAcknowledge id) s = .next ((s.applyWrites r.space r.lanes).afterRequest r
      (match r.lanes with | l :: _ => l.addr | [] => 0) (Table.erase s.reqs id)) := by
    change execStoreAcknowledge id s = _
    simp only [execStoreAcknowledge, hfind, hforeign, reqReady_unlogged hready, hready, hkind, Bool.not_true, Bool.false_eq_true, if_false,
      afterWrite_reqs, applyWrites_reqs]
    rfl
  refine ⟨_, hstep, ?_, fun sp k hk => ?_, fun pre l post hlanes j hj hpost => ?_⟩
  · exact (Table.find_erase hrising id id).trans (if_pos rfl)
  · rw [afterRequest_memOf, applyWrites_mem, byte_storeLanes_other hwf r.space hk]
  · rw [afterRequest_memOf, applyWrites_mem, byte_storeLanes_last hwf r.space hlanes hj hpost]

theorem storeAcknowledge_atomic {s : State} {id : Nat} {r : Req} (hfind : Table.find s.reqs id = some r) (hforeign : s.foreign r.core r.ctx = false)
    (hready : s.reqReady id r = true) (hwf : MemWf s) (hrising : Table.risingFrom 0 s.reqs = true) {op ty : Nat} {ret : Bool} {l : LaneReq}
    (hkind : r.kind = .atomic op ty ret) (hlanes : r.lanes = [l]) (hclean : s.poisoned r.space l.addr = false) :
    ∃ u, exec (.storeAcknowledge id) s = .next u ∧
      (∀ sp a, sp.key ≠ r.space.key ∨ a < l.addr ∨ l.addr + l.w ≤ a → (u.memOf sp).byte a = (s.memOf sp).byte a) ∧
      u.load r.space l.addr l.w = atomicNew op ty (s.load r.space l.addr l.w) l.data l.cmp % 256 ^ l.w ∧
      Table.find u.reqs id = if ret then some { r with kind := .answered, lanes := [{ l with data := s.load r.space l.addr l.w }] } else none := by
  have hstep : exec (.storeAcknowledge id) s =
      .next ((s.store r.space l.addr l.w (atomicNew op ty (s.load r.space l.addr l.w) l.data l.cmp)).afterRequest r l.addr
        (if ret then Table.put s.reqs id { r with kind := .answered, lanes := [{ l with data := s.load r.space l.addr l.w }] }
          else Table.erase s.reqs id)) := by
    change execStoreAcknowledge id s = _
    simp only [execStoreAcknowledge, hfind, hforeign, reqReady_unlogged hready, hready, hkind, hlanes, hclean, State.applyAtomics, List.foldl_cons,
      List.foldl_nil, List.nil_append, Bool.not_true, Bool.false_eq_true, if_false, afterWrite_reqs, store_reqs]
    cases ret <;> rfl
  refine ⟨_, hstep, fun sp k hk => ?_, ?_, ?_⟩
  · rw [afterRequest_memOf, byte_store_other hwf _ hk]
  · rw [State.load, afterRequest_memOf]
    exact load_store hwf ..
  · cases ret with
    | true => exact Table.find_put_self ..
    | false => exact (Table.find_erase hrising id id).trans (if_pos rfl)

/-! ### Registers that a request fills -/

/-- A projection of the state that threads and groups do not enter. -/
structure Beside {β : Type} (g : State → β) : Prop where
  thread : ∀ u k f, g (State.modThread u k f) = g u
  group : ∀ u k f, g (State.modGroup u k f) = g u

theorem Beside.writeCells {β : Type} {g : State → β} (h : Beside g) (s : State) (i : Issue) (t : Nat) (l : Loc) (n x : Nat) :
    g (s.writeCells i t l n x) = g s := by
  cases l with
  | v r => rw [writeCells_v, h.thread]
  | s r => rw [writeCells_s, h.group]

theorem Beside.setCell {β : Type} {g : State → β} (h : Beside g) (s : State) (i : Issue) (t : Nat) (l : Loc) (j : Nat) (c : Cell) :
    g (s.setCell i t l j c) = g s := by
  cases l with
  | v r => exact h.thread ..
  | s r => exact h.group ..

theorem Beside.fillInto {β : Type} {g : State → β} (h : Beside g) (s : State) (b gr : Nat) (l : LaneReq) (x : Nat) :
    g (s.fillInto b gr l x) = g s := by
  unfold State.fillInto
  dsimp only
  split
  · split
    · rfl
    · exact h.writeCells ..
  · exact h.writeCells ..
  · exact h.group ..
  · rfl

theorem Beside.markInto {β : Type} {g : State → β} (h : Beside g) (s : State) (b gr : Nat) (l : LaneReq) (m : Mark) :
    g (s.markInto b gr l m) = g s := by
  unfold State.markInto
  dsimp only
  split
  · exact h.fillInto ..
  · split
    · split
      · rfl
      · exact foldl_keep _ g (fun u j => h.setCell ..) _ s
    · exact foldl_keep _ g (fun u j => h.setCell ..) _ s
    · exact h.group ..
    · rfl

theorem beside_reqs : Beside State.reqs := ⟨fun _ _ _ => rfl, fun _ _ _ => rfl⟩

/-- What a load reads beside registers. -/
theorem beside_loadBytes (r : Req) (l : LaneReq) : Beside (fun u => u.loadBytes r l) := ⟨fun _ _ _ => rfl, fun _ _ _ => rfl⟩

/-- What the lanes of a request do to registers, by a step that reads the state beside them. -/
theorem foldl_beside {α γ : Type} {put : State → α → γ → State} (hput : ∀ {β : Type} {g : State → β}, Beside g → ∀ u l x, g (put u l x) = g u)
    {read : α → State → γ} (hread : ∀ l, Beside (read l)) (ls : List α) (s : State) :
    ls.foldl (fun u l => put u l (read l u)) s = ls.foldl (fun u l => put u l (read l s)) s ∧
      ∀ {β : Type} {g : State → β}, Beside g → g (ls.foldl (fun u l => put u l (read l s)) s) = g s := by
  have hkeep : ∀ {β : Type} {g : State → β}, Beside g → ∀ (f : α → γ) (ls : List α) (u : State), g (ls.foldl (fun u l => put u l (f l)) u) = g u :=
    fun hg f ls u => foldl_keep _ _ (fun v l => hput hg v l (f l)) ls u
  refine ⟨?_, fun hg => hkeep hg _ ls s⟩
  have hstep : ∀ (ls : List α) (u : State), (∀ l, read l u = read l s) →
      ls.foldl (fun u l => put u l (read l u)) u = ls.foldl (fun u l => put u l (read l s)) u := by
    intro ls
    induction ls with
    | nil => exact fun _ _ => rfl
    | cons l ls ih =>
      intro u hu
      rw [List.foldl_cons, List.foldl_cons, hu l]
      exact ih _ fun m => (hput (hread m) u l _).trans (hu m)
  exact hstep ls s fun _ => rfl

/-- What a lane's data does: it fills the lane's destination, or, poisoned, leaves it marked. -/
def State.land (s : State) (r : Req) (l : LaneReq) (x : Nat × Bool) : State :=
  if x.2 then s.markInto r.b r.g l (poisonMark r.origin l.va) else s.fillInto r.b r.g l (extendBytes l.ext x.1)

theorem Beside.land {β : Type} {g : State → β} (h : Beside g) (s : State) (r : Req) (l : LaneReq) (x : Nat × Bool) : g (s.land r l x) = g s := by
  unfold State.land
  split
  · exact h.markInto ..
  · exact h.fillInto ..

/-- The request is over. -/
def State.dropRequest (s : State) (id : Nat) : State := { s with reqs := Table.erase s.reqs id }

/-- The data of a request that is a load and may be performed arrives. -/
theorem loadDataArrival_lands {s : State} {id : Nat} {r : Req} (hfind : Table.find s.reqs id = some r) (hforeign : s.foreign r.core r.ctx = false)
    (hinert : s.inert r.b = false) (hready : s.reqReady id r = true) (hkind : r.kind = .load ∨ r.kind = .literal ∨ r.kind = .near)
    (hnear : r.kind = .near → s.nearLoad r = s) :
    exec (.loadDataArrival id) s = .next { (if r.acq || r.so then (r.lanes.foldl (fun u l => u.land r l (s.loadBytes r l)) s).clearNear r.core
      else r.lanes.foldl (fun u l => u.land r l (s.loadBytes r l)) s) with reqs := Table.erase s.reqs id } := by
  obtain ⟨hlands, hkeep⟩ := foldl_beside (put := fun u l x => u.land r l x) (fun hg u l x => hg.land u r l x) (beside_loadBytes r) r.lanes s
  have hreqs := hkeep beside_reqs
  have hgo : exec (.loadDataArrival id) s = .next ((if r.acq || r.so then
      (r.lanes.foldl (fun u l => u.land r l (u.loadBytes r l)) s).clearNear r.core
      else r.lanes.foldl (fun u l => u.land r l (u.loadBytes r l)) s).dropRequest id) := by
    change execLoadDataArrival id s = _
    unfold execLoadDataArrival
    rcases hkind with h | h | h
    · simp only [hfind, hforeign, hinert, h, hready, Bool.not_true, Bool.false_eq_true, if_false, Bool.false_and]
      rfl
    · simp only [hfind, hforeign, hinert, h, hready, Bool.not_true, Bool.false_eq_true, if_false, Bool.false_and]
      rfl
    · simp only [hfind, hforeign, hinert, h, hready, hnear h, Bool.not_true, Bool.false_eq_true, if_false, Bool.false_and]
      rfl
  rw [hgo, hlands, State.dropRequest, ← hreqs]
  split <;> rfl

/-- Settles O23: what a request's lanes read beside registers stays as they fill them, and the last write of a byte is what it holds. -/
theorem memoryRequestsArePerformed : Obligations.MemoryRequestsArePerformed := by
  unfold Obligations.MemoryRequestsArePerformed
  refine ⟨fun s u id r hfind hforeign hinert => ⟨fun hkind => ?_, fun hkind hready hu => ?_, fun hkind hso hready hmain hhit hu => ?_⟩,
    fun s id r hfind hforeign hready hcanonical hspaces hrising => ⟨fun hkind => ?_, fun op ty ret l hkind hlanes hclean => ?_⟩⟩
  · have hreqs := foldl_keep (fun u l => State.fillInto u r.b r.g l l.data) State.reqs (fun u l => beside_reqs.fillInto ..) r.lanes s
    change execLoadDataArrival id s = _
    simp only [execLoadDataArrival, hfind, hforeign, hinert, hkind, hreqs, Bool.false_eq_true, if_false, Bool.false_and]
  · have hfar : r.kind = .near → r.so = true := fun hn => by
      rcases hkind with h | h | h
      · simp [h] at hn
      · simp [h] at hn
      · exact h.2
    have hbytes : ∀ l, s.loadBytes r l = (s.load r.space l.addr l.w, s.poisoned r.space l.addr) := by
      intro l
      rcases hkind with h | h | h
      · simp [State.loadBytes, h]
      · simp [State.loadBytes, h]
      · simp [State.loadBytes, h.1, h.2]
    have hnear : r.kind = .near → s.nearLoad r = s := fun hn => by
      unfold State.nearLoad
      cases r.lanes <;> simp [hfar hn]
    rw [loadDataArrival_lands hfind hforeign hinert hready (hkind.imp_right (Or.imp_right And.left)) hnear, hu]
    simp only [hbytes]
    rfl
  · have hbytes : ∀ l ∈ r.lanes, s.loadBytes r l = ((s.nearBytes r.core l.addr l.w).getD 0, false) ∧ (s.nearBytes r.core l.addr 1).isNone = false := by
      intro l hl
      obtain ⟨-, hcached, hpoison⟩ := hhit l hl
      obtain ⟨bs, hbs⟩ := Option.isSome_iff_exists.mp hcached
      simp [State.loadBytes, State.nearBytes, hkind, hmain, hso, hbs, hpoison]
    have hnear : s.nearLoad r = s := by
      unfold State.nearLoad
      cases hlanes : r.lanes with
      | nil => rfl
      | cons l ls => simp [(hbytes l (hlanes ▸ List.mem_cons_self)).2]
    have hlands : r.lanes.foldl (fun u l => u.land r l (s.loadBytes r l)) s = u := by
      rw [hu]
      exact foldl_congr_mem s fun u l hl => by rw [(hbytes l hl).1]; rfl
    rw [loadDataArrival_lands hfind hforeign hinert hready (.inr (.inr hkind)) fun _ => hnear, hlands, hso, Bool.or_false]
  · exact storeAcknowledge_store hfind hforeign hready (.of_canonical hcanonical hspaces) hrising hkind
  · exact storeAcknowledge_atomic hfind hforeign hready (.of_canonical hcanonical hspaces) hrising hkind hlanes hclean

end Sys2Proof.Machine
end

section
/-! SUPPORT. What the memory words leave alone when they issue (07 R211, R221 to R229): the bytes and poison of every memory, and the blocks. -/

namespace Sys2Proof.Machine

/-- The bytes and poison marks of every memory, and the blocks. -/
def State.bytes (s : State) : Memory × Table Memory × Table Unit × Table Block := (s.mem, s.spaces, s.poison, s.blocks)

theorem beside_bytes : Beside State.bytes := ⟨fun _ _ _ => rfl, fun _ _ _ => rfl⟩

theorem Quiet.bytes {s t : State} (h : Quiet s t) : t.bytes = s.bytes :=
  (congrArg State.bytes h.rest : t.rest.bytes = s.rest.bytes)

/-! ### The steps of a memory word -/

@[simp] theorem bytes_modThread (s : State) (k : Nat) (f : Thread → Thread) : (s.modThread k f).bytes = s.bytes := rfl
@[simp] theorem bytes_modGroup (s : State) (k : Nat) (f : Group → Group) : (s.modGroup k f).bytes = s.bytes := rfl
@[simp] theorem bytes_gather (s : State) (i : Issue) (x : Gathered) : (s.gather i x).bytes = s.bytes := rfl
@[simp] theorem bytes_askWalk (s : State) (gk ctx va : Nat) : (s.askWalk gk ctx va).bytes = s.bytes := rfl
@[simp] theorem bytes_parkOnFault (s : State) (i : Issue) (t id : Nat) (r : TrapRec) : (s.parkOnFault i t id r).bytes = s.bytes := rfl
@[simp] theorem bytes_setRecord (s : State) (i : Issue) (n : Nat) (c : BCell) : (s.setRecord i n c).bytes = s.bytes := rfl
@[simp] theorem bytes_setSsp (s : State) (i : Issue) (x : Nat) : (s.setSsp i x).bytes = s.bytes := rfl
@[simp] theorem bytes_modSet (s : State) (i : Issue) (n : Nat) (g : JSet → JSet) : (s.modSet i n g).bytes = s.bytes := rfl
@[simp] theorem bytes_allocNear (s : State) (core a : Nat) : (s.allocNear core a).bytes = s.bytes := rfl
@[simp] theorem bytes_writeCells (s : State) (i : Issue) (t : Nat) (l : Loc) (n x : Nat) : (s.writeCells i t l n x).bytes = s.bytes :=
  beside_bytes.writeCells ..
@[simp] theorem bytes_fillZero (s : State) (i : Issue) (t : Nat) (l : Loc) (n : Nat) : (s.fillZero i t l n).bytes = s.bytes := bytes_writeCells ..
@[simp] theorem bytes_emptyCells (s : State) (i : Issue) (t : Nat) (l : Loc) (n : Nat) : (s.emptyCells i t l n).bytes = s.bytes := by
  unfold State.emptyCells
  exact foldl_keep _ State.bytes (fun u j => beside_bytes.setCell ..) _ s
@[simp] theorem bytes_raise (s : State) (k : Nat) (r : TrapRec) : (s.raise k r).bytes = s.bytes := (Quiet.raise ..).bytes
@[simp] theorem bytes_endPass (s : State) (i : Issue) : (s.endPass i).bytes = s.bytes := (Quiet.endPass ..).bytes
@[simp] theorem bytes_closePass (s : State) (i : Issue) : (s.closePass i).bytes = s.bytes := (Quiet.closePass ..).bytes
@[simp] theorem bytes_trapPath (s : State) (i : Issue) (r : TrapRec) : (s.trapPath i r).bytes = s.bytes := (Quiet.trapPath ..).bytes
@[simp] theorem bytes_trapActive (s : State) (i : Issue) (ts : List Nat) (r : TrapRec) : (s.trapActive i ts r).bytes = s.bytes := (Quiet.trapActive ..).bytes
@[simp] theorem bytes_trapLoad (s : State) (i : Issue) (r : TrapRec) : (s.trapLoad i r).bytes = s.bytes := bytes_trapActive ..
@[simp] theorem bytes_illegal (s : State) (i : Issue) (x : Option Ext) : (s.illegal i x).bytes = s.bytes := (Quiet.illegal ..).bytes
@[simp] theorem bytes_holdPath (s : State) (i : Issue) (w : HoldKind) : (s.holdPath i w).bytes = s.bytes := (Quiet.holdPath ..).bytes
@[simp] theorem bytes_holdPass (s : State) (i : Issue) (ts : List Nat) (took : W32) (acc : List Nat) : (s.holdPass i ts took acc).bytes = s.bytes :=
  (Quiet.holdPass ..).bytes
@[simp] theorem bytes_orphanAll (s : State) (b g : Nat) (w : SetWait) : (s.orphanAll b g w).bytes = s.bytes := (Quiet.orphanAll ..).bytes
@[simp] theorem bytes_testComplete (s : State) (gk n : Nat) : (s.testComplete gk n).bytes = s.bytes := (Quiet.testComplete ..).bytes

@[simp] theorem bytes_discardSet (s : State) (b g n : Nat) : (s.discardSet b g n).bytes = s.bytes := by
  unfold State.discardSet
  split <;> simp

@[simp] theorem bytes_rewait (s : State) (gk : Nat) (w w' : SetWait) : (s.rewait gk w w').bytes = s.bytes := by
  unfold State.rewait
  exact foldl_keep _ State.bytes (fun u t => bytes_modThread ..) _ s

@[simp] theorem bytes_replayed (s : State) (i : Issue) : (s.replayed i).bytes = s.bytes := by
  unfold State.replayed
  exact foldl_keep _ State.bytes (fun u t => bytes_modThread ..) _ s

theorem bytes_gathers {α : Type} (i : Issue) (f : α → Gathered) (l : List α) (s : State) :
    (l.foldl (fun u a => u.gather i (f a)) s).bytes = s.bytes := foldl_keep _ State.bytes (fun _ _ => bytes_gather ..) l s

@[simp] theorem bytes_parkAll (s : State) (i : Issue) (t : Nat) (helpers : Bool) : (s.parkAll i t helpers).bytes = s.bytes := by
  unfold State.parkAll
  dsimp only
  split
  · exact foldl_keep _ State.bytes (fun u a => bytes_modThread ..) _ s
  · refine foldl_keep _ State.bytes (fun u a => ?_) _ s
    rw [bytes_raise, bytes_modThread]
  · rfl

@[simp] theorem bytes_settleOnce (s : State) (i : Issue) (t : Nat) (helpers : Bool) : (s.settleOnce i t helpers).bytes = s.bytes := by
  unfold State.settleOnce
  split <;> simp

@[simp] theorem bytes_raiseFault (s : State) (ctx va cause source access unit : Nat) :
    (s.raiseFault ctx va cause source access unit).2.bytes = s.bytes := by
  unfold State.raiseFault State.post
  split
  · rfl
  · dsimp only
    split <;> rfl

@[simp] theorem bytes_commit (s : State) (i : Issue) (kind : ReqKind) (ord : Nat) (once : Bool) : (s.commit i kind ord once).bytes = s.bytes := by
  unfold State.commit
  split
  · rfl
  · refine foldl_keep _ State.bytes (fun u r => ?_) _ s
    dsimp only
    split <;> rfl

@[simp] theorem bytes_memoryEnd (s : State) (i : Issue) (kind : ReqKind) (ord : Nat) (once : Bool) : (s.memoryEnd i kind ord once).bytes = s.bytes := by
  simp [State.memoryEnd]

@[simp] theorem bytes_prefetch (s : State) (i : Issue) (x : Nat) (r : BitVec 128) : (s.prefetch i x r).bytes = s.bytes := by
  obtain ⟨c, hc⟩ := prefetch_cores s i x r
  rw [hc]
  rfl

@[simp] theorem bytes_takePix (s : State) (i : Issue) : (s.takePix i).bytes = s.bytes := by
  unfold State.takePix
  dsimp only
  split
  · exact foldl_keep _ State.bytes (fun u t => bytes_modThread ..) _ s
  · rfl

@[simp] theorem bytes_trapAtSlot (s : State) (i : Issue) (t m : Nat) (r : TrapRec) : (s.trapAtSlot i t m r).bytes = s.bytes := by
  simp [State.trapAtSlot]

@[simp] theorem bytes_shareSlot (s : State) (i : Issue) (t : Nat) (acc : List Nat) : (s.shareSlot i t acc).bytes = s.bytes := by
  unfold State.shareSlot
  dsimp only
  split
  · exact foldl_keep _ State.bytes (fun u t => bytes_modThread ..) _ s
  · rfl

@[simp] theorem bytes_spillEnd (s : State) (i : Issue) (shrink : Bool) (acc : List Nat) : (s.spillEnd i shrink acc).bytes = s.bytes := by
  unfold State.spillEnd
  split
  · split <;> simp
  · rfl

@[simp] theorem bytes_spillStart (s : State) (i : Issue) (grow : Bool) (k : Nat) : (s.spillStart i grow k).1.bytes = s.bytes := by
  unfold State.spillStart
  dsimp only
  split
  · rfl
  · split
    · rfl
    · cases grow <;> simp only [Bool.false_eq_true, if_false, if_true] <;> split <;> simp

@[simp] theorem bytes_pushSet (s : State) (i : Issue) (n m : Nat) : (s.pushSet i n m).bytes = s.bytes := by
  simp [State.pushSet]

@[simp] theorem bytes_popSet (s : State) (i : Issue) (n m x y : Nat) : (s.popSet i n m x y).bytes = s.bytes := by
  simp [State.popSet]

/-! ### Turns and passes -/

/-- A turn leaves the bytes as they are. -/
def Turned.Keeps (s : State) (r : Turned) : Prop :=
  match r with
  | .done u _ => u.bytes = s.bytes
  | .holdWith u => u.bytes = s.bytes
  | .hold => True
  | .trap _ => True

@[simp] theorem Turned.keeps_done {s u : State} {acc : List Nat} : (Turned.done u acc).Keeps s ↔ u.bytes = s.bytes := .rfl
@[simp] theorem Turned.keeps_holdWith {s u : State} : (Turned.holdWith u).Keeps s ↔ u.bytes = s.bytes := .rfl
@[simp] theorem Turned.keeps_hold {s : State} : Turned.hold.Keeps s := trivial
@[simp] theorem Turned.keeps_trap {s : State} {r : TrapRec} : (Turned.trap r).Keeps s := trivial

theorem Turned.Keeps.done {s u : State} {acc : List Nat} {r : Turned} (h : r.Keeps s) (hr : r = .done u acc) : u.bytes = s.bytes := by
  subst hr
  exact h

theorem Turned.Keeps.holdWith {s u : State} {r : Turned} (h : r.Keeps s) (hr : r = .holdWith u) : u.bytes = s.bytes := by
  subst hr
  exact h

/-- Every turn leaves the bytes as they are. -/
def KeepsBytes (f : State → Nat → List Nat → Turned) : Prop := ∀ u t acc, (f u t acc).Keeps u

theorem bytes_runLanes {f : State → Nat → List Nat → Turned} (hf : KeepsBytes f) (i : Issue) (lanes : List Nat) (s : State) (took : W32)
    (acc : List Nat) : (runLanes i f lanes s took acc).1.bytes = s.bytes := by
  refine runLanes_keeps (P := fun u => u.bytes = s.bytes) i f lanes (fun u t acc v acc' _ hu hdone => ?_) (fun u t acc v _ hu hhold => ?_)
    (fun u k r hu => (bytes_raise ..).trans hu) s took acc rfl
  · exact ((hf u t acc).done hdone).trans hu
  · exact ((hf u t acc).holdWith hhold).trans hu

theorem bytes_perThread {f : State → Nat → List Nat → Turned} (hf : KeepsBytes f) (s : State) (i : Issue) (guard : Thread → Bool) :
    (s.perThread i guard f).bytes = s.bytes := by
  unfold State.perThread
  dsimp only
  split
  · rw [bytes_endPass, bytes_runLanes hf]
  · rw [bytes_holdPass, bytes_runLanes hf]

theorem bytes_memoryPass {f : State → Nat → List Nat → Turned} (hf : KeepsBytes f) (s : State) (i : Issue) (guard : Thread → Bool) (kind : ReqKind)
    (ord : Nat) : (s.memoryPass i guard kind ord f).bytes = s.bytes := by
  unfold State.memoryPass
  dsimp only
  split
  · rw [bytes_memoryEnd, bytes_runLanes hf]
  · rw [bytes_holdPass, bytes_runLanes hf]

theorem bytes_memoryOnce {f : State → Nat → List Nat → Turned} (hf : KeepsBytes f) (s : State) (i : Issue) (x : Option Ext) (kind : ReqKind)
    (ord : Nat) : (s.memoryOnce i x kind ord f).bytes = s.bytes := by
  have h := hf s (firstLane i.path) []
  unfold State.memoryOnce
  dsimp only
  split
  · simp
  · split
    · split <;> simp
    · simp
    · next heq => simpa using h.holdWith heq
    · next heq => simpa using h.done heq

theorem bytes_addressedWord {go : Issue → Shape → State} {s : State} (hgo : ∀ i sh, (go i sh).bytes = s.bytes) (op : Nat) (f : RForm) (via : Via)
    (once : Bool) : (s.addressedWord op f via once go).bytes = s.bytes := by
  unfold State.addressedWord State.onGroup
  split
  · split
    · simp
    · dsimp only
      split
      · exact hgo ..
      · split
        · simp
        · split
          · split <;> simp
          · refine bytes_perThread (f := fun u t _ => .trap (u.registerTrap _ (Fields.ofR f) _ via t)) ?_ _ _ _
            exact fun _ _ _ => Turned.keeps_trap
  · rfl

theorem bytes_memoryWord {go : Issue → Shape → State} {s : State} (hgo : ∀ i sh, (go i sh).bytes = s.bytes) (op : Nat) (f : RForm) :
    (s.memoryWord op f go).bytes = s.bytes := by
  unfold State.memoryWord State.onGroup
  split
  · split
    · simp
    · dsimp only
      split
      · simp
      · exact hgo ..
  · rfl

theorem bytes_control {go : Issue → State} {s : State} (hgo : ∀ i, (go i).bytes = s.bytes) (op : Nat) (f : RForm) :
    (s.control op f go).bytes = s.bytes := by
  unfold State.control State.onGroup
  split
  · split
    · simp
    · dsimp only
      split
      · simp
      · exact hgo ..
  · rfl

/-! ### Loads, stores and atomics -/

theorem keeps_helperZero {s : State} {i : Issue} {t : Nat} {l : Loc} {n : Nat} {acc : List Nat} {r : Turned} (h : r.Keeps s) :
    (helperZero s i t l n acc r).Keeps s := by
  unfold helperZero
  split
  · exact h
  · split
    · split <;> simp
    · split
      · exact h
      · simp
    · exact h

theorem keeps_nowhere (s : State) (i : Issue) (t : Nat) (acc : List Nat) (r : TrapRec) : (nowhere s i t acc r).Keeps s := by
  unfold nowhere
  split <;> simp

theorem keeps_readTrap (s : State) (i : Issue) (t : Nat) (l : Except TrapRec Loc) (n : Nat) (acc : List Nat) (r : TrapRec) :
    (readTrap s i t l n acc r).Keeps s := by
  unfold readTrap
  split
  · exact keeps_nowhere ..
  · exact keeps_helperZero trivial

theorem keeps_loadMiss (s s1 : State) (i : Issue) (t va access : Nat) (r : Reach) (acc : List Nat) (h : s1.bytes = s.bytes) :
    (s.loadMiss s1 i t va access r acc).Keeps s := by
  unfold State.loadMiss
  dsimp only
  split
  · trivial
  · simp
  · split <;> simp [h]

theorem keeps_storeParts (s : State) (i : Issue) (va : Nat) (lanes : List LaneReq) (access : Nat) (r : Reach) (acc : List Nat) :
    (s.storeParts i va lanes access r acc).Keeps s := by
  unfold State.storeParts
  dsimp only
  split
  · simp
  · split
    · split <;> simp [bytes_gathers]
    · simp [bytes_gathers]
  · split
    · trivial
    · split <;> simp [bytes_gathers]

theorem keeps_loadTurn (i : Issue) (q : Fields) (sh : Shape) (via : Via) (size : Nat) : KeepsBytes (loadTurn i q sh via size) := by
  intro s t acc
  unfold loadTurn
  dsimp only
  split
  · exact keeps_readTrap ..
  · trivial
  · exact keeps_readTrap ..
  · trivial
  · split
    · exact keeps_nowhere ..
    · refine keeps_helperZero ?_
      split
      · trivial
      · split <;> simp
      · split
        · trivial
        · split
          · simp
          · exact keeps_loadMiss _ _ _ _ _ _ _ _ (bytes_emptyCells ..)

theorem keeps_storeTurn (i : Issue) (q : Fields) (sh : Shape) (via : Via) (size : Nat) : KeepsBytes (storeTurn i q sh via size) := by
  intro s t acc
  unfold storeTurn
  dsimp only
  split
  · trivial
  · trivial
  · trivial
  · trivial
  · split
    · trivial
    · simp
    · split
      · trivial
      · trivial
      · split
        · simp
        · exact keeps_storeParts ..

theorem keeps_atomTurn (i : Issue) (q : Fields) (sh : Shape) (via : Via) (op ty : Nat) (nr : Bool) : KeepsBytes (atomTurn i q sh via op ty nr) := by
  intro s t acc
  have hstop : ∀ l n r, (if nr = true then Turned.trap r else readTrap s i t l n acc r).Keeps s := by
    intro l n r
    split
    · trivial
    · exact keeps_readTrap ..
  have hzero : ∀ l n, (if nr = true then s else s.fillZero i t l n).bytes = s.bytes := by
    intro l n
    split <;> simp
  unfold atomTurn
  dsimp only
  split
  · exact hstop ..
  · trivial
  · exact hstop ..
  · trivial
  · exact hstop ..
  · trivial
  · split
    · exact keeps_nowhere ..
    · split
      · split
        · split <;> simp [hzero]
        · trivial
      · split <;> simp [hzero]
      · split
        · trivial
        · split
          · simp [hzero]
          · split
            · exact keeps_storeParts ..
            · split
              · simp
              · exact keeps_loadMiss _ _ _ _ _ _ _ _ (bytes_emptyCells ..)

/-! ### Spills, records and prefetches -/

theorem keeps_spldTurn (i : Issue) (q : Fields) (sh : Shape) (k : Nat) : KeepsBytes (spldTurn i q sh k) := by
  intro s t acc
  unfold spldTurn
  dsimp only
  split
  · simp
  · split <;> simp
  · trivial
  · trivial
  · next m l _ _ _ =>
    split
    · unfold spldAt
      dsimp only
      split
      · simp
      · have hmiss := fun r => keeps_loadMiss s ((s.emptyCells i t l 1).modThread (i.tk t) (fun th => { th with slot := some m })) i t
          ((s.group i.gk).slotAddr m t) 0 r acc (by simp)
        split
        · simp
        · exact hmiss _
    · trivial

theorem keeps_spstTurn (i : Issue) (q : Fields) (sh : Shape) (k : Nat) : KeepsBytes (spstTurn i q sh k) := by
  intro s t acc
  unfold spstTurn
  dsimp only
  split
  · trivial
  · split
    · trivial
    · trivial
    · split
      · simp
      · split
        · simp
        · next heq => simpa using (keeps_storeParts ..).done heq
        · exact keeps_storeParts ..

theorem keeps_prefTurn (i : Issue) (f : RForm) (sh : Shape) : KeepsBytes (prefTurn i f sh) := by
  intro s t acc
  unfold prefTurn
  split
  · split <;> simp
  · trivial
  · trivial
  · simp
  · split <;> simp

theorem keeps_helperRecord {s : State} {i : Issue} {t n : Nat} {r : Turned} (h : r.Keeps s) : (helperRecord s i t n r).Keeps s := by
  unfold helperRecord
  split
  · exact h
  · split
    · split <;> simp
    · split
      · exact h
      · simp
    · exact h

theorem keeps_bldTurn (i : Issue) (f : RForm) (sh : Shape) : KeepsBytes (bldTurn i f sh) := by
  intro s t acc
  unfold bldTurn
  dsimp only
  refine keeps_helperRecord ?_
  split
  · trivial
  · trivial
  · trivial
  · trivial
  · split
    · trivial
    · split <;> simp
    · split
      · trivial
      · split
        · simp
        · exact keeps_loadMiss _ _ _ _ _ _ _ _ (bytes_setRecord ..)

theorem keeps_bstTurn (i : Issue) (f : RForm) (sh : Shape) : KeepsBytes (bstTurn i f sh) := by
  intro s t acc
  unfold bstTurn
  dsimp only
  split
  · trivial
  · trivial
  · trivial
  · trivial
  · split
    · trivial
    · simp
    · split
      · trivial
      · trivial
      · split
        · simp
        · exact keeps_storeParts ..

theorem keeps_bgetTurn (i : Issue) (f : RForm) (sh : Shape) : KeepsBytes (bgetTurn i f sh) := by
  intro s t acc
  unfold bgetTurn
  split
  · trivial
  · trivial
  · split
    · trivial
    · split <;> simp

/-! ### The words -/

theorem bytes_loadWord (op : Nat) (via : Via) (kind : ReqKind) (f : RForm) (s : State) : (loadWord op via kind f s).bytes = s.bytes := by
  refine bytes_addressedWord (fun i sh => ?_) op f via true
  dsimp only
  split
  · exact bytes_memoryOnce (keeps_loadTurn _ _ _ _ _) ..
  · exact bytes_memoryPass (keeps_loadTurn _ _ _ _ _) ..

theorem bytes_storeWord (op : Nat) (via : Via) (f : RForm) (s : State) : (storeWord op via f s).bytes = s.bytes :=
  bytes_addressedWord (fun _ _ => bytes_memoryPass (keeps_storeTurn _ _ _ _ _) ..) op f via false

theorem bytes_atomWord (op : Nat) (via : Via) (f : RForm) (s : State) : (atomWord op via f s).bytes = s.bytes := by
  refine bytes_addressedWord (fun i sh => ?_) op f via true
  dsimp only
  split
  · exact bytes_memoryOnce (keeps_atomTurn _ _ _ _ _ _ _) ..
  · exact bytes_memoryPass (keeps_atomTurn _ _ _ _ _ _ _) ..

/-- A spill word once its slot is known: `u` is the state after .grow, and `acc` the carried value (R225). -/
def spillGo (i : Issue) (sh : Shape) (load : Bool) (f : RForm) (u : State) (acc : List Nat) : State :=
  let turn := if load then spldTurn i (Fields.ofR f) sh (extSub f.ext) else spstTurn i (Fields.ofR f) sh (extSub f.ext)
  let kind := if load then ReqKind.load else ReqKind.store
  let t := firstLane i.path
  if load && (Fields.ofR f).uniform sh then
    let beyond := fun (s : State) =>
      s.trapActive i ((s.active i (extGuard f.ext)).filter (fun u => (s.thread (i.tk u)).role == Role.live)) (boundTrap (extSub f.ext) 0xFF)
    let out := acc == [0] && (u.thread (i.tk t)).slot.isNone
    if out && (u.thread (i.tk t)).role == Role.live then beyond u
    else if !u.uniformGuard i f.ext then (if out then beyond u else (u.spillEnd i (extRnd f.ext == 5) acc).endPass i)
    else match turn u t acc with
      | .trap r => u.trapLoad i r
      | .hold => u.holdPass i (lanesOf i.path) 0#32 acc
      | .holdWith v => v.holdPass i (lanesOf i.path) 0#32 acc
      | .done v _ =>
        if out then beyond v else (((v.settleOnce i t false).shareSlot i t acc).spillEnd i (extRnd f.ext == 5) acc).memoryEnd i kind 0 true
  else
    let lanes := match (u.group i.gk).pass with
      | some p => lanesOf p.rest
      | none => u.active i (extGuard f.ext)
    let r := runLanes i turn lanes u 0#32 acc
    match r.2.1 with
    | [] => (r.1.spillEnd i (load && extRnd f.ext == 5) acc).memoryEnd i kind 0
    | rest => r.1.holdPass i rest r.2.2.1 acc

/-- Where a spill pass begins, or goes on. -/
def State.spillFrom (s : State) (i : Issue) (load : Bool) (f : RForm) : State × List Nat :=
  match (s.group i.gk).pass with
  | some p => (s, p.acc)
  | none => s.spillStart i (!load && extRnd f.ext == 5) (extSub f.ext)

theorem spillWord_eq (op : Nat) (load : Bool) (f : RForm) (s : State) :
    spillWord op load f s = s.memoryWord op f (fun i sh => spillGo i sh load f (s.spillFrom i load f).1 (s.spillFrom i load f).2) := rfl

theorem bytes_spillGo (i : Issue) (sh : Shape) (load : Bool) (f : RForm) (u : State) (acc : List Nat) : (spillGo i sh load f u acc).bytes = u.bytes := by
  have hturn : KeepsBytes (if load = true then spldTurn i (Fields.ofR f) sh (extSub f.ext) else spstTurn i (Fields.ofR f) sh (extSub f.ext)) := by
    split
    · exact keeps_spldTurn _ _ _ _
    · exact keeps_spstTurn _ _ _ _
  unfold spillGo
  dsimp only
  split
  · split
    · simp
    · split
      · split <;> simp
      · split
        · simp
        · simp
        · next heq => simpa using (hturn ..).holdWith heq
        · next heq =>
          have hdone := (hturn ..).done heq
          split <;> simpa using hdone
  · split
    · rw [bytes_memoryEnd, bytes_spillEnd, bytes_runLanes hturn]
    · rw [bytes_holdPass, bytes_runLanes hturn]

theorem bytes_spillWord (op : Nat) (load : Bool) (f : RForm) (s : State) : (spillWord op load f s).bytes = s.bytes := by
  rw [spillWord_eq]
  refine bytes_memoryWord (fun i sh => ?_) op f
  rw [bytes_spillGo, State.spillFrom]
  split <;> simp

theorem bytes_jpush (f : RForm) {s t : State} (h : exec (.jpush f) s = .next t) : t.bytes = s.bytes := by
  change execJpush f s = _ at h
  obtain rfl := Host.Outcome.next.inj h
  refine bytes_control (fun i => ?_) 0x0C f
  dsimp only
  split
  · simp
  · split
    · simp
    · split
      · simp
      · split
        · simp
        · simp
        · next heq => simpa using (keeps_storeParts ..).holdWith heq
        · next heq => simpa using (keeps_storeParts ..).done heq

theorem bytes_jpop (f : RForm) {s t : State} (h : exec (.jpop f) s = .next t) : t.bytes = s.bytes := by
  change execJpop f s = _ at h
  obtain rfl := Host.Outcome.next.inj h
  refine bytes_control (fun i => ?_) 0x0D f
  dsimp only
  split
  · simp
  · split
    · simp
    · split
      · split
        · simp
        · split <;> simp
      · simp
      · split <;> simp

theorem bytes_bset (f : RForm) {s t : State} (h : exec (.bset f) s = .next t) : t.bytes = s.bytes := by
  change execBset f s = _ at h
  obtain rfl := Host.Outcome.next.inj h
  refine bytes_memoryWord (fun i sh => ?_) 0xA2 f
  dsimp only
  split
  · simp
  · split
    · simp
    · simp
    · split <;> simp

theorem bytes_bget (f : RForm) {s t : State} (h : exec (.bget f) s = .next t) : t.bytes = s.bytes := by
  change execBget f s = _ at h
  obtain rfl := Host.Outcome.next.inj h
  refine bytes_memoryWord (fun i sh => ?_) 0xA3 f
  have hturn := keeps_bgetTurn i f sh s (firstLane i.path) []
  split
  · split
    · simp
    · split
      · simp
      · next heq => simpa using hturn.done heq
      · simp
  · exact bytes_perThread (keeps_bgetTurn i f sh) ..

theorem bytes_wset (f : RForm) {s t : State} (h : exec (.wset f) s = .next t) : t.bytes = s.bytes := by
  change execWset f s = _ at h
  obtain rfl := Host.Outcome.next.inj h
  refine bytes_memoryWord (fun i sh => ?_) 0xA4 f
  dsimp only
  split
  · simp
  · split
    · split <;> simp
    · split
      · simp
      · split <;> simp

/-- Settles O24: each word leaves the bytes and poison of every memory, and the blocks. -/
theorem memoryWordsFrame : Obligations.MemoryWordsFrame := by
  intro e s t f hword h
  have hbytes : t.bytes = s.bytes := by
    rcases hword with ⟨op, via, kind, hform⟩ | ⟨op, via, hform⟩ | ⟨op, via, hform⟩ | hmem
    · rw [exec_loadForm hform] at h
      exact Host.Outcome.next.inj h ▸ bytes_loadWord ..
    · rw [exec_storeForm hform] at h
      exact Host.Outcome.next.inj h ▸ bytes_storeWord ..
    · rw [exec_atomicForm hform] at h
      exact Host.Outcome.next.inj h ▸ bytes_atomWord ..
    · simp only [List.mem_cons, List.not_mem_nil, or_false] at hmem
      rcases hmem with rfl | rfl | rfl | rfl | rfl | rfl | rfl | rfl | rfl | rfl
      · exact Host.Outcome.next.inj h ▸ bytes_spillWord 0x99 true f s
      · exact Host.Outcome.next.inj h ▸ bytes_spillWord 0x9A false f s
      · exact Host.Outcome.next.inj h ▸ bytes_memoryWord (fun i sh => bytes_memoryOnce (keeps_bldTurn i f sh) ..) 0xA0 f
      · exact Host.Outcome.next.inj h ▸ bytes_memoryWord (fun i sh => bytes_memoryOnce (keeps_bstTurn i f sh) ..) 0xA1 f
      · exact bytes_bset f h
      · exact bytes_bget f h
      · exact Host.Outcome.next.inj h ▸ bytes_memoryWord (fun i sh => bytes_perThread (keeps_prefTurn i f sh) ..) 0x9B f
      · exact bytes_jpush f h
      · exact bytes_jpop f h
      · exact bytes_wset f h
  simpa [State.bytes] using hbytes

end Sys2Proof.Machine
end

section
/-! SUPPORT. Spill stores and loads (07 R224, R225): the slot counted from the top, and the turns of the pass. -/

namespace Sys2Proof.Machine

theorem Alike.slotAddr {i : Issue} {s u : State} (h : Alike i s u) (m t : Nat) : (u.group i.gk).slotAddr m t = (s.group i.gk).slotAddr m t := by
  rw [Group.slotAddr, h.base, ← Group.slotAddr]

theorem Alike.spillReach {i : Issue} {s u : State} (h : Alike i s u) (va w : Nat) (n : Need) : u.spillReach i va w n = s.spillReach i va w n := by
  change (u.reach (u.block i.b).ctx none (u.failedPages i) va w n).asRc = (s.reach (s.block i.b).ctx none (s.failedPages i) va w n).asRc
  rw [h.failed, h.of_world State.block fun _ => rfl, h.reach]

theorem Alike.setSsp (i : Issue) (s : State) (x : Nat) : Alike i s (s.setSsp i x) where
  world := rfl
  sregs := State.group_modGroup_of _ _ _ _ Group.s fun _ => rfl
  records := State.group_modGroup_of _ _ _ _ Group.b fun _ => rfl
  base := State.group_modGroup_of _ _ _ _ Group.spillBase fun _ => rfl
  failed := by
    refine State.group_modGroup_of _ _ _ _ (fun gr => match gr.pass with | some p => p.failed | none => []) fun gr => ?_
    rfl

/-! ### Turns -/

/-- What a thread's turn of SPST leaves. -/
def State.takeSpst (v : State) (i : Issue) (t x : Nat) (a : Access) : State :=
  match a with
  | .dropped => v
  | .at_ va pa sp _ => (v.gather i { lane := { t := t, va := va, addr := pa, w := 4, data := x, rc := true }, space := sp, ord := 1 }).modThread (i.tk t)
      (fun th => { th with slot := none })

/-- What a thread's turn of SPLD leaves. -/
def State.takeSpld (v : State) (i : Issue) (t : Nat) (l : Loc) (a : Access) : State :=
  match a with
  | .dropped => v.writeCells i t l 1 0
  | .at_ va pa sp _ => ((v.emptyCells i t l 1).modThread (i.tk t) (fun th => { th with replay := none, slot := none })).gather i
      { lane := { t := t, va := va, addr := pa, w := 4, into := l.into 1, rc := true }, space := sp, ord := 1 }

/-- Where thread `t`'s spill access leads, a helper's being dropped. -/
def SpillLeads (s : State) (i : Issue) (m t : Nat) (need : Need) (a : Access) : Prop :=
  match a with
  | .dropped => (s.thread (i.tk t)).role = .helper
  | .at_ va pa sp _ => (s.thread (i.tk t)).role = .live ∧ va = (s.group i.gk).slotAddr m t ∧ s.spillReach i va 4 need = .ok sp pa 1 ∧
      (need = Need.write → s.unlogged i va sp)

theorem SpillLeads.alike {s u : State} {i : Issue} {m t : Nat} {need : Need} {a : Access} (h : SpillLeads s i m t need a) (ha : Alike i s u)
    (hthread : u.thread (i.tk t) = s.thread (i.tk t)) : SpillLeads u i m t need a := by
  cases a with
  | dropped =>
    change (u.thread (i.tk t)).role = .helper
    exact hthread ▸ h
  | at_ va pa sp ord =>
    obtain ⟨hrole, hva, hreach, hlog⟩ := h
    exact ⟨hthread ▸ hrole, hva.trans (ha.slotAddr m t).symm, (ha.spillReach ..).trans hreach, fun hw => ha.unlogged (hlog hw)⟩

theorem spillSlot_top {th : Thread} (h : th.slot = none) (m : Nat) : spillSlot th [m + 1] = some m := by
  simp [spillSlot, h]

theorem spstTurn_done {q : Fields} {sh : Shape} {s : State} {i : Issue} {t k m x : Nat} {a : Access} (hslot : (s.thread (i.tk t)).slot = none)
    (hread : s.read i t q.d false sh.d (if q.xo == 3 then some q.xs else none) = .val x) (hleads : SpillLeads s i m t Need.write a) :
    spstTurn i q sh k s t [m + 1] = .done (s.takeSpst i t x a) [m + 1] := by
  simp only [spstTurn, spillSlot_top hslot, hread]
  cases a with
  | dropped =>
    have hrole : (s.thread (i.tk t)).role = .helper := hleads
    simp only [hrole]
    rfl
  | at_ va pa sp ord =>
    obtain ⟨hrole, rfl, hreach, hlog⟩ := hleads
    have hstore := storeTo_ok (lane := { t := t, va := (s.group i.gk).slotAddr m t, addr := (s.group i.gk).slotAddr m t, w := 4, data := x, rc := true })
      (pa := pa) (ord := 1) (hlog rfl) 1 [m + 1]
    simp only [hrole, hreach, hstore]
    rfl

theorem spldTurn_done {q : Fields} {sh : Shape} {s : State} {i : Issue} {t k m : Nat} {l : Loc} {a : Access} (hslot : (s.thread (i.tk t)).slot = none)
    (hplace : locate (s.thread (i.tk t)) q.d sh.d (if q.xo == 3 then some q.xs else none) = .ok l) (hwrite : s.destReady i t l 1 = true)
    (hleads : SpillLeads s i m t Need.read a) : spldTurn i q sh k s t [m + 1] = .done (s.takeSpld i t l a) [m + 1] := by
  simp only [spldTurn, spillSlot_top hslot, hplace]
  cases a with
  | dropped =>
    have hrole : (s.thread (i.tk t)).role = .helper := hleads
    simp only [hrole, hwrite, if_true]
    rfl
  | at_ va pa sp ord =>
    obtain ⟨hrole, rfl, hreach, -⟩ := hleads
    simp only [hrole, hwrite, if_true, spldAt, hreach]
    rfl

theorem alike_takeSpst (u : State) (i : Issue) (t x : Nat) (a : Access) :
    Alike i u (u.takeSpst i t x a) ∧ ∀ k, k ≠ i.tk t → (u.takeSpst i t x a).thread k = u.thread k := by
  cases a with
  | dropped => exact ⟨.refl .., fun _ _ => rfl⟩
  | at_ va pa sp ord => exact ⟨(Alike.gather ..).trans (.modThread ..), fun k hk => State.thread_modThread_ne _ _ hk⟩

theorem alike_takeSpld (u : State) (i : Issue) (t r : Nat) (a : Access) :
    Alike i u (u.takeSpld i t (.v r) a) ∧ ∀ k, k ≠ i.tk t → (u.takeSpld i t (.v r) a).thread k = u.thread k := by
  cases a with
  | dropped => exact ⟨.writeCells_v .., fun k hk => writeCells_thread _ _ _ _ _ _ _ (.inl ⟨r, rfl⟩) hk⟩
  | at_ va pa sp ord =>
    refine ⟨((Alike.emptyCells_v ..).trans (.modThread ..)).trans (.gather ..), fun k hk => ?_⟩
    exact (State.thread_modThread_ne _ _ hk).trans (emptyCells_thread _ _ _ _ _ _ (.inl ⟨r, rfl⟩) hk)

/-! ### The start and the end of a pass -/

theorem exists_slotless {s : State} {i : Issue} (h : ∃ t ∈ lanesOf i.path, (s.thread (i.tk t)).slot = none) :
    (lanesOf i.path).all (fun t => (s.thread (i.tk t)).slot.isSome) = false := by
  obtain ⟨t, ht, hslot⟩ := h
  exact List.all_eq_false.mpr ⟨t, ht, by simp [hslot]⟩

/-- A pass begins at the slot counted from the top. -/
theorem spillFrom_plain {s : State} {i : Issue} {f : RForm} {load : Bool} {n : Nat} (hfresh : (s.group i.gk).pass = none)
    (hnew : ∃ t ∈ lanesOf i.path, (s.thread (i.tk t)).slot = none) (hgrow : (!load && extRnd f.ext == 5) = false)
    (hn : n = (s.group i.gk).ssp.toNat / 128) (hk : extSub f.ext < n) : s.spillFrom i load f = (s, [n - 1 - extSub f.ext + 1]) := by
  have hslots : (s.group i.gk).slots = n := hn.symm
  simp only [State.spillFrom, hfresh, State.spillStart, exists_slotless hnew, hgrow, hslots, Bool.false_and, Bool.false_eq_true, if_false,
    if_neg (Nat.not_le.mpr hk)]

theorem spillFrom_grow {s : State} {i : Issue} {f : RForm} (hfresh : (s.group i.gk).pass = none)
    (hnew : ∃ t ∈ lanesOf i.path, (s.thread (i.tk t)).slot = none) (hfive : extRnd f.ext = 5)
    (hroom : (s.group i.gk).slots + 1 ≤ (s.group i.gk).spillCap) (hk : extSub f.ext < (s.group i.gk).slots + 1) :
    s.spillFrom i false f = (s.setSsp i (128 * ((s.group i.gk).slots + 1)), [(s.group i.gk).slots + 1 - 1 - extSub f.ext + 1]) := by
  have hfits : decide ((s.group i.gk).spillCap < (s.group i.gk).slots + 1) = false := decide_eq_false (Nat.not_lt.mpr hroom)
  simp only [State.spillFrom, hfresh, State.spillStart, exists_slotless hnew, hfive, hfits, beq_self_eq_true, Bool.not_false, Bool.and_false, Bool.true_and,
    Bool.false_eq_true, if_false, if_true, if_neg (Nat.not_le.mpr hk)]

theorem pass_setSsp {s : State} {i : Issue} (h : (s.group i.gk).pass = none) (x : Nat) : ((s.setSsp i x).group i.gk).pass = none := by
  rw [← h]
  exact State.group_modGroup_of _ _ _ _ Group.pass fun _ => rfl

theorem slot_of_active {s : State} {i : Issue} {guard : Thread → Bool} (h : ∀ t ∈ lanesOf i.path, (s.thread (i.tk t)).slot = none) {t : Nat}
    (ht : t ∈ s.active i guard) : (s.thread (i.tk t)).slot = none := h t ((mem_active ..).mp ht).1

/-- A per-thread spill pass in which every turn is done. -/
theorem spillGo_done {i : Issue} {sh : Shape} {load : Bool} {f : RForm} {u : State} {acc : List Nat} (hfresh : (u.group i.gk).pass = none)
    (huniform : (load && (Fields.ofR f).uniform sh) = false) (g : State → Nat → State)
    (h : ∀ pre t post, u.active i (extGuard f.ext) = pre ++ t :: post →
      (if load then spldTurn i (Fields.ofR f) sh (extSub f.ext) else spstTurn i (Fields.ofR f) sh (extSub f.ext)) (pre.foldl g u) t acc =
        .done (g (pre.foldl g u) t) acc) :
    spillGo i sh load f u acc = (((u.active i (extGuard f.ext)).foldl g u).spillEnd i (load && extRnd f.ext == 5) acc).memoryEnd i
      (if load then .load else .store) 0 := by
  simp only [spillGo, huniform, Bool.false_eq_true, if_false, hfresh, runLanes_done i _ g _ u 0#32 acc h]

theorem spst_done {f : RForm} {sh : Shape} {s u : State} {i : Issue} {n : Nat} {x : Nat → Nat} {a : Nat → Access} (hlegal : LegalR s i 0x9A f sh)
    (hbegins : Begins s i) (hfrom : s.spillFrom i false f = (u, [n - 1 - extSub f.ext + 1])) (hu : ∃ y, u = s ∨ u = s.setSsp i y)
    (hslots : ∀ t ∈ lanesOf i.path, (s.thread (i.tk t)).slot = none)
    (hready : ∀ t ∈ s.active i (extGuard f.ext), s.read i t f.d false sh.d (if extXo f.ext == 3 then some (extXs f.ext) else none) = .val (x t) ∧
      SpillLeads s i (n - 1 - extSub f.ext) t Need.write (a t)) :
    exec (.spst f) s = .next (State.memoryEnd ((s.active i (extGuard f.ext)).foldl (fun v t => v.takeSpst i t (x t) (a t)) u) i .store 0) := by
  obtain ⟨hactive, hfresh, halike, hthreads⟩ : u.active i (extGuard f.ext) = s.active i (extGuard f.ext) ∧ (u.group i.gk).pass = none ∧
      Alike i s u ∧ ∀ k, u.thread k = s.thread k := by
    obtain ⟨y, rfl | rfl⟩ := hu
    · exact ⟨rfl, hbegins.fresh, .refl .., fun _ => rfl⟩
    · exact ⟨rfl, pass_setSsp hbegins.fresh y, .setSsp .., fun _ => rfl⟩
  change Host.Outcome.next (spillWord 0x9A false f s) = _
  rw [spillWord_eq, memoryWord_of_legal hbegins.cur hlegal, hfrom]
  rw [spillGo_done (load := false) hfresh rfl (fun v t => v.takeSpst i t (x t) (a t)) fun pre t post hsplit => ?_, hactive]
  · rfl
  · rw [hactive] at hsplit
    obtain ⟨hpre, hthread⟩ := foldl_alike (fun v t _ => alike_takeSpst v i t (x t) (a t)) (active_nodup ..) u hsplit
    have ha := halike.trans hpre
    have hsame := hthread.trans (hthreads _)
    obtain ⟨hread, hleads⟩ := hready t (mem_of_split hsplit)
    exact spstTurn_done (hsame ▸ slot_of_active hslots (mem_of_split hsplit)) ((ha.read hsame ..).trans hread) (hleads.alike ha hsame)

/-! ### Loads -/

theorem ssp_setCell (s : State) (i : Issue) (t : Nat) (l : Loc) (j : Nat) (c : Cell) (k : Nat) : ((s.setCell i t l j c).group k).ssp = (s.group k).ssp := by
  cases l with
  | v r => rfl
  | s r => exact State.group_modGroup_of _ _ _ _ Group.ssp fun _ => rfl

theorem ssp_takeSpld (s : State) (i : Issue) (t : Nat) (l : Loc) (a : Access) (k : Nat) : ((s.takeSpld i t l a).group k).ssp = (s.group k).ssp := by
  cases a with
  | dropped => exact foldl_keep _ (fun u => (u.group k).ssp) (fun u j => ssp_setCell ..) _ s
  | at_ va pa sp ord =>
    have hempty : ((s.emptyCells i t l 1).group k).ssp = (s.group k).ssp := foldl_keep _ (fun u => (u.group k).ssp) (fun u j => ssp_setCell ..) _ s
    rw [← hempty]
    exact State.group_modGroup_of _ _ _ _ Group.ssp fun _ => rfl

theorem spillEnd_shrink {s : State} {i : Issue} {n m : Nat} (hn : (s.group i.gk).slots = n) (five : Bool) :
    s.spillEnd i five [m + 1] = if five then (s.orphanAll i.b i.g (.slot (n - 1))).modGroup i.gk (fun gr => { gr with ssp := BitVec.ofNat 32 (128 * (n - 1)) })
      else s := by
  simp [State.spillEnd, hn, State.setSsp]

theorem slot_cells (s : State) (i : Issue) (t : Nat) (l : Loc) (n x k : Nat) :
    ((s.writeCells i t l n x).thread k).slot = (s.thread k).slot ∧ ((s.emptyCells i t l n).thread k).slot = (s.thread k).slot := by
  cases l with
  | v r =>
    rw [writeCells_v, emptyCells_v]
    exact ⟨State.thread_modThread_of _ _ _ _ Thread.slot fun _ => rfl, State.thread_modThread_of _ _ _ _ Thread.slot fun _ => rfl⟩
  | s r =>
    rw [writeCells_s, emptyCells_s]
    exact ⟨rfl, rfl⟩

/-- No slot is recorded after a turn that went through. -/
theorem slot_takeSpld {s : State} {i : Issue} {t : Nat} {l : Loc} {a : Access} (h : (s.thread (i.tk t)).slot = none) :
    ((s.takeSpld i t l a).thread (i.tk t)).slot = none := by
  cases a with
  | dropped => exact (slot_cells s i t l 1 0 _).1.trans h
  | at_ va pa sp ord =>
    change (((s.emptyCells i t l 1).modThread (i.tk t) _).thread (i.tk t)).slot = none
    rw [State.thread_modThread]
    split
    · rfl
    · exact (slot_cells s i t l 1 0 _).2.trans h

theorem park_takeSpld (s : State) (i : Issue) (t : Nat) (l : Loc) (a : Access) :
    ((s.takeSpld i t l a).thread (i.tk t)).park = (s.thread (i.tk t)).park := by
  cases a with
  | dropped => exact park_writeCells ..
  | at_ va pa sp ord =>
    rw [← park_emptyCells s i t l 1 (i.tk t)]
    exact State.thread_modThread_of _ _ _ _ Thread.park fun _ => rfl

theorem slot_replayed (s : State) (i : Issue) (k : Nat) : ((s.replayed i).thread k).slot = (s.thread k).slot := by
  unfold State.replayed
  refine foldl_keep _ (fun u => (u.thread k).slot) (fun u t => ?_) _ s
  exact State.thread_modThread_of u _ k _ Thread.slot fun _ => rfl

theorem firstLane_mem {m : W32} (h : ∃ t, t ∈ lanesOf m) : firstLane m ∈ lanesOf m := by
  obtain ⟨t, ht⟩ := h
  unfold firstLane
  cases hlanes : lanesOf m with
  | nil => simp [hlanes] at ht
  | cons a l => exact List.mem_cons_self

/-- What SPLD's turns leave of the state, before the pass ends. -/
def State.spldState (s : State) (i : Issue) (uniform five : Bool) (n : Nat) (ts : List Nat) (l : Nat → Loc) (a : Nat → Access) : State :=
  let v := ts.foldl (fun v t => v.takeSpld i t (l t) (a t)) s
  let v := if uniform then v.replayed i else v
  if five then (v.orphanAll i.b i.g (.slot (n - 1))).modGroup i.gk (fun gr => { gr with ssp := BitVec.ofNat 32 (128 * (n - 1)) }) else v

theorem spld_done {f : RForm} {sh : Shape} {s : State} {i : Issue} {n : Nat} {ts : List Nat} {l : Nat → Loc} {a : Nat → Access}
    (hlegal : LegalR s i 0x99 f sh) (hbegins : Begins s i) (hnew : ∃ t ∈ lanesOf i.path, (s.thread (i.tk t)).slot = none)
    (hslots : ∀ t ∈ lanesOf i.path, (s.thread (i.tk t)).slot = none) (hk : extSub f.ext < n) (hn : n = (s.group i.gk).ssp.toNat / 128)
    (hturns : Turns (Fields.ofR f) sh s i ts)
    (hready : ∀ t ∈ ts, ((∃ r, l t = .v r) ∨ (Fields.ofR f).uniform sh = true) ∧ s.destReady i t (l t) 1 = true ∧
      locate (s.thread (i.tk t)) f.d sh.d (if extXo f.ext == 3 then some (extXs f.ext) else none) = .ok (l t) ∧
      SpillLeads s i (n - 1 - extSub f.ext) t Need.read (a t)) :
    exec (.spld f) s = .next ((s.spldState i ((Fields.ofR f).uniform sh) (extRnd f.ext == 5) n ts l a).memoryEnd i .load 0 ((Fields.ofR f).uniform sh)) := by
  have hssp : ∀ ts : List Nat, ((ts.foldl (fun v t => v.takeSpld i t (l t) (a t)) s).group i.gk).slots = n := fun ts => by
    have hkeep := foldl_keep (fun v t => State.takeSpld v i t (l t) (a t)) (fun u => (u.group i.gk).ssp) (fun u t => ssp_takeSpld ..) ts s
    rw [Group.slots, hkeep, hn]
  change Host.Outcome.next (spillWord 0x99 true f s) = _
  rw [spillWord_eq, memoryWord_of_legal hbegins.cur hlegal, spillFrom_plain hbegins.fresh hnew rfl hn hk]
  refine congrArg _ ?_
  cases huniform : (Fields.ofR f).uniform sh with
  | true =>
    obtain ⟨rfl, hguard, hpark⟩ := hturns.once huniform
    obtain ⟨-, hwrite, hplace, hleads⟩ := hready _ List.mem_cons_self
    have hslot := hslots _ (firstLane_mem ⟨_, hnew.choose_spec.1⟩)
    have hturn := spldTurn_done (q := Fields.ofR f) (k := extSub f.ext) hslot hplace hwrite hleads
    have hon : s.uniformGuard i f.ext = true := hguard
    have hout : ∀ m : Nat, ([m + 1] == [0]) = false := fun m => by simp
    have hstay : ((s.takeSpld i (firstLane i.path) (l (firstLane i.path)) (a (firstLane i.path))).thread (i.tk (firstLane i.path))).park = .none :=
      (park_takeSpld ..).trans hpark
    have hshare : ∀ m, ((s.takeSpld i (firstLane i.path) (l (firstLane i.path)) (a (firstLane i.path))).replayed i).shareSlot i (firstLane i.path) [m + 1] =
        (s.takeSpld i (firstLane i.path) (l (firstLane i.path)) (a (firstLane i.path))).replayed i := fun m => by
      simp [State.shareSlot, slot_replayed, slot_takeSpld hslot]
    have hslotsEnd : (((s.takeSpld i (firstLane i.path) (l (firstLane i.path)) (a (firstLane i.path))).replayed i).group i.gk).slots = n := by
      rw [group_replayed]
      exact hssp [firstLane i.path]
    simp only [spillGo, huniform, Bool.and_self, if_true, hout, Bool.false_and, Bool.false_eq_true, if_false, hon, Bool.not_true, hturn,
      State.settleOnce, hstay, beq_self_eq_true, hshare, spillEnd_shrink hslotsEnd]
    rfl
  | false =>
    obtain rfl := hturns.each huniform
    have hframe : ∀ u, ∀ t ∈ s.active i (extGuard f.ext), Alike i u (u.takeSpld i t (l t) (a t)) ∧
        ∀ k, k ≠ i.tk t → (u.takeSpld i t (l t) (a t)).thread k = u.thread k := by
      intro u t ht
      obtain ⟨⟨q, hq⟩ | hu, -⟩ := hready t ht
      · rw [hq]
        exact alike_takeSpld ..
      · exact absurd hu (by simp [huniform])
    rw [spillGo_done hbegins.fresh (by simp [huniform]) (fun v t => v.takeSpld i t (l t) (a t)) fun pre t post hsplit => ?_, spillEnd_shrink (hssp _)]
    · simp only [State.spldState, Bool.true_and, Bool.false_eq_true, if_false]
      rfl
    · obtain ⟨halike, hthread⟩ := foldl_alike hframe (active_nodup ..) s hsplit
      obtain ⟨-, hwrite, hplace, hleads⟩ := hready t (mem_of_split hsplit)
      exact spldTurn_done (hthread ▸ slot_of_active hslots (mem_of_split hsplit)) (hthread ▸ hplace) ((halike.destReady hthread ..).trans hwrite)
        (hleads.alike halike hthread)

/-- Settles O25: the slot is counted from the top, and every turn of the pass is done. -/
theorem spillsComplete : Obligations.SpillsComplete := by
  intro f op sh s u i n ts l x a hlegal hbegins hnew hslots hk
  refine ⟨?_, ?_⟩
  · rintro rfl hn hroom hready
    have hleads : ∀ t ∈ s.active i (extGuard f.ext), s.read i t f.d false sh.d (if extXo f.ext == 3 then some (extXs f.ext) else none) = .val (x t) ∧
        SpillLeads s i (n - 1 - extSub f.ext) t Need.write (a t) := by
      intro t ht
      obtain ⟨hread, hacc⟩ := hready t ht
      refine ⟨hread, ?_⟩
      cases hat : a t with
      | dropped => simpa [SpillLeads, hat] using hacc
      | at_ va pa sp ord => simpa [SpillLeads, hat] using hacc
    by_cases hfive : extRnd f.ext = 5
    · rw [if_pos hfive, Prod.mk.injEq] at hn
      obtain ⟨rfl, rfl⟩ := hn
      refine (spst_done hlegal hbegins (spillFrom_grow hbegins.fresh hnew hfive (hroom hfive) hk) ⟨_, .inr rfl⟩ hslots hleads).trans ?_
      rfl
    · rw [if_neg hfive, Prod.mk.injEq] at hn
      obtain ⟨hn, rfl⟩ := hn
      refine (spst_done hlegal hbegins (spillFrom_plain hbegins.fresh hnew (by simpa using hfive) hn hk) ⟨0, .inl rfl⟩ hslots hleads).trans ?_
      rfl
  · rintro rfl hn hturns hready
    have hleads : ∀ t ∈ ts, ((∃ r, l t = .v r) ∨ (Fields.ofR f).uniform sh = true) ∧ s.destReady i t (l t) 1 = true ∧
        locate (s.thread (i.tk t)) f.d sh.d (if extXo f.ext == 3 then some (extXs f.ext) else none) = .ok (l t) ∧
        SpillLeads s i (n - 1 - extSub f.ext) t Need.read (a t) := by
      intro t ht
      obtain ⟨hd, hwrite, hplace, hacc⟩ := hready t ht
      refine ⟨hd, hwrite, hplace, ?_⟩
      cases hat : a t with
      | dropped => simpa [SpillLeads, hat] using hacc
      | at_ va pa sp ord => simpa [SpillLeads, hat, Need.read, Need.write] using hacc
    rw [spld_done hlegal hbegins hnew hslots hk hn hturns hleads]
    simp only [State.spldState, beq_iff_eq]
    rfl

end Sys2Proof.Machine
end


section
/-! SUPPORT. COPY and KICK (O26): a copy is accepted where its tag and the engine have room; KICK goes on block by block. -/

namespace Sys2Proof.Machine

/-! ### COPY -/

section
variable {f : RForm} {sh : Shape} {s : State} {i : Issue} {x rs rd : Nat} {src dst : CopySide} {bo : Space × Nat} {tag : Option Nat}

/-- The copy that a COPY's operands describe (R247, R248). -/
def State.copyOf (s : State) (i : Issue) (f : RForm) (x : Nat) (src dst : CopySide) (bo : Space × Nat) (tag : Option Nat) : Copy :=
  { b := i.b, g := i.g, ctx := (s.block i.b).ctx, core := (s.block i.b).core, src := src, dst := dst, len := x / 2 ^ 64 % 2 ^ 32
    red := redCode (extRnd f.ext), ty := extTy 0 f.ext, bo := if 128 ≤ extSub f.ext then some bo else none, tag := tag }

/-- A COPY whose operands name two sides, a length and a barrier object, up to the room in tag and engine. -/
theorem exec_copy (hlegal : LegalR s i 0xB0 f sh) (honce : Once s i f.ext)
    (htag : tag = if extSub f.ext / 64 % 2 = 1 then some (extSub f.ext % 64) else none)
    (howns : ∀ n, tag = some n → (s.block i.b).tgal.getLsbD n = true)
    (hx : s.readA i (firstLane i.path) f sh.a = .val x) (hrs : (s.group i.gk).sideRecord f.b.toNat f.eb = .val rs)
    (hrd : (s.group i.gk).sideRecord f.d.toNat false = .val rd)
    (hsrc : s.copySide i f.b.toNat (x % 2 ^ 32) (x / 2 ^ 64 % 2 ^ 32) (extTy 0 f.ext) (redCode (extRnd f.ext) != 0) (BitVec.ofNat 128 rs) = .ok src)
    (hdst : s.copySide i f.d.toNat (x / 2 ^ 32 % 2 ^ 32) (x / 2 ^ 64 % 2 ^ 32) (extTy 0 f.ext) (redCode (extRnd f.ext) != 0) (BitVec.ofNat 128 rd)
      = .ok dst)
    (hlen : x / 2 ^ 64 % 2 ^ 32 % 16 = 0) (hzero : x / 2 ^ 64 % 2 ^ 32 ≠ 0 ∨ 128 ≤ extSub f.ext)
    (hbo : 128 ≤ extSub f.ext → s.boTarget i.b (x / 2 ^ 96) = .ok bo) :
    exec (.copy f) s = .next (if s.tagFull i.b tag then s.holdPath i .tagCount else if !s.slotFree i then s.holdPath i (.ceSlot false)
      else (s.acceptCopy i (s.copyOf i f x src dst bo tag)).endPass i) := by
  have hlive : (s.thread (i.tk (firstLane i.path))).role ≠ Role.helper := by simp [honce.live]
  have hbad : ∀ n, n % 16 = 0 → n ≠ 0 ∨ 128 ≤ extSub f.ext → (n % 16 != 0 || n == 0 && !decide (128 ≤ extSub f.ext)) = false := by
    rintro n hn (h | h) <;> simp [hn, h]
  have hname : (if 128 ≤ extSub f.ext then s.boTarget i.b (x / 2 ^ 96) else .ok (.main, 0)) =
      .ok (if 128 ≤ extSub f.ext then bo else (.main, 0)) := by
    split
    · exact hbo ‹_›
    · rfl
  have hcopy : (if 128 ≤ extSub f.ext then some (if 128 ≤ extSub f.ext then bo else (.main, 0)) else none) =
      if 128 ≤ extSub f.ext then some bo else none := by
    split <;> rfl
  change execCopy f s = _
  unfold execCopy
  rw [onGroup_of_cur honce.fresh.cur]
  simp only [beq_iff_eq, ← htag]
  cases tag with
  | none =>
    simp only [hlegal.shape, hlegal.legal, hlegal.below, State.uniformGuard, honce.guard, hlive, hx, hrs, hrd, hsrc, hdst, hbad _ hlen hzero, hname,
      hcopy, State.copyOf, Bool.not_true, Bool.or_self, Bool.false_eq_true, if_false]
  | some n =>
    simp only [hlegal.shape, hlegal.legal, hlegal.below, howns n rfl, State.uniformGuard, honce.guard, hlive, hx, hrs, hrd, hsrc, hdst,
      hbad _ hlen hzero, hname, hcopy, State.copyOf, Bool.not_true, Bool.or_self, Bool.false_eq_true, if_false]

end

/-- Accepting a copy, in the order the statement writes it. -/
theorem acceptCopy_eq (s : State) (i : Issue) (c : Copy) : s.acceptCopy i c =
    (let u := s.modGroup i.gk (fun gr => { gr with holds := gr.holds.filter (fun h => !(h.mask == i.path && h.why == .ceSlot true)) })
    match c.tag with
    | none => { u with nextId := s.nextId + 1, copies := Table.put s.copies s.nextId c }
    | some n => { u with nextId := s.nextId + 1, copies := Table.put s.copies s.nextId c }.modBlock i.b
        (fun bl => { bl with tcount := Table.put bl.tcount n (Table.get 0 bl.tcount n + 1), tgm := bl.tgm &&& ~~~(1#64 <<< n) })) := by
  unfold State.acceptCopy
  cases c.tag <;> rfl

/-! ### KICK -/

/-- KICK goes on from pix (R251). -/
theorem exec_kick {f : RForm} {sh : Shape} {s : State} {i : Issue} {a n : Nat} (hlegal : LegalR s i 0xB1 f sh) (honce : Once s i f.ext)
    (hpix : PixFree s i) (hread : s.readUniform i (firstLane i.path) (boSources f sh) = .vals [a, n]) (hone : 1 ≤ n) (hmany : n ≤ 65535)
    (halign : a % 128 = 0) : exec (.kick f) s = .next (s.kickFrom i a (s.group i.gk).pix.toNat (n - (s.group i.gk).pix.toNat)) := by
  have htake : s.takePix i = s := by simp [State.takePix, hpix.own]
  have hfree : s.pixTaken i = false := by simp [State.pixTaken, hpix.free]
  have hlive : ((s.thread (i.tk (firstLane i.path))).role == Role.helper) = false := by rw [honce.live]; rfl
  have hrange : ¬ (n == 0 || decide (65535 < n)) = true := by simp; omega
  change execKick f s = _
  unfold execKick
  rw [memoryWord_of_legal honce.fresh.cur hlegal]
  simp only [State.uniformGuard, honce.guard, hlive, hread, argsOf, List.cons_append, List.nil_append, halign, htake, hfree, Bool.not_true,
    Bool.false_eq_true, if_false, bne_self_eq_false]
  exact congrArg Host.Outcome.next (if_neg hrange)

/-- KICK accepts a block (R251). -/
theorem kickFrom_accepts {s : State} {i : Issue} {base m k p : Nat} {sp : Space} (hplace : s.sharedTarget i.b (base + 128 * m) 128 = some (sp, p))
    (hwrites : s.writesPending i sp p 128 = false) (hblock : s.refuseBlock i.b (s.load sp p 128) = none)
    (htag : s.tagFull i.b (s.blockCopy i (s.load sp p 128)).tag = false) (hslot : s.slotFree i = true) :
    s.kickFrom i base m (k + 1) = ((s.acceptCopy i (s.blockCopy i (s.load sp p 128))).setPix i (m + 1)).kickFrom i base (m + 1) k := by
  have htag' : s.tagFull i.b (if rbTv (s.load sp p 128) then some (rbTag (s.load sp p 128)) else none) = false := htag
  rw [State.kickFrom]
  simp only [hplace, hwrites, hblock, htag', hslot, Bool.not_true, Bool.false_eq_true, if_false]

/-- Settles O26. -/
theorem copiesAndKicksAreAccepted : Obligations.CopiesAndKicksAreAccepted := by
  unfold Obligations.CopiesAndKicksAreAccepted
  refine ⟨?_, fun f sh s i a n hlegal honce hpix hread hone hmany halign => exec_kick hlegal honce hpix hread hone hmany halign,
    fun s i base m => rfl, fun s i base m k p sp hplace hwrites hblock htag hslot => kickFrom_accepts hplace hwrites hblock htag hslot⟩
  intro f sh s u i x rs rd src dst bo tag c hlegal honce htag howns hx hrs hrd hsrc hdst hlen hzero hbo
  rw [exec_copy hlegal honce htag howns hx hrs hrd hsrc hdst hlen hzero hbo]
  refine ⟨fun hfull => ?_, fun hroom hfull => ?_, fun hroom hslot hu hc => ?_⟩
  · rw [if_pos hfull]
  · rw [hroom, hfull]; rfl
  · rw [hroom, hslot, acceptCopy_eq]
    subst hu hc
    cases tag <;> rfl

end Sys2Proof.Machine
end


section
/-! SUPPORT. The copy engine (O27): one unit of a copy between two plain sides, and its completion. -/

namespace Sys2Proof.Machine

theorem readNat_lt (m : Memory) (a n : Nat) : m.readNat a n < 256 ^ n := by
  induction n generalizing a with
  | zero => simp [Memory.readNat]
  | succ n ih =>
    rw [Memory.readNat, Nat.pow_succ]
    have hbyte := (m.byte a).isLt
    have := ih (a + 1)
    omega

/-! ### One unit between plain sides -/

/-- A copy between bytes of two spaces, with no reduction (R236). -/
structure Copy.Plain (c : Copy) (sp dp : Space) (a d : Nat) : Prop where
  block : c.block = none
  red : c.red = 0
  src : c.src = .other sp a
  dst : c.dst = .other dp d

section
variable {c : Copy} {sp dp : Space} {a d : Nat} (h : c.Plain sp dp a d)
include h

theorem Copy.Plain.chunk : c.chunk = 16 := by rw [Copy.chunk, h.block]

theorem Copy.Plain.more (hmore : 16 * c.done + 16 ≤ c.len) : c.done < c.chunks := by
  rw [Copy.chunks, h.chunk]
  omega

theorem Copy.Plain.ends (s : State) : s.chunkEnds c = .ok (.at_ sp (a + 16 * c.done), .at_ dp (d + 16 * c.done)) := by
  simp only [State.chunkEnds, h.block, h.src, h.dst, CopySide.end_]

theorem Copy.Plain.unit (s : State) : s.unitChunks c = 1 := by
  simp only [State.unitChunks, h.ends, Copy.unit, h.block]

theorem Copy.Plain.places (s : State) :
    s.unitPlaces c 1 = .ok [{ src := some (sp, a + 16 * c.done), dst := some (dp, d + 16 * c.done) }] := by
  simp only [State.unitPlaces, State.chunkPlaces, h.ends, State.reachEnd]

/-- Whether a plain copy is held rests on the blocks alone. -/
theorem Copy.Plain.held_congr {s u : State} (hblocks : u.blocks = s.blocks) : u.copyHeld c = s.copyHeld c := by
  unfold State.copyHeld
  rw [h.ends u, h.ends s]
  unfold State.block
  rw [hblocks]

theorem Copy.Plain.moves {s : State} (hclean : s.poisoned sp (a + 16 * c.done) = false) :
    ∃ e cores poison, s.moveChunk c (some (sp, a + 16 * c.done)) dp (d + 16 * c.done) =
      ({ s.store dp (d + 16 * c.done) 16 (s.load sp (a + 16 * c.done) 16) with cores := cores, poison := poison },
        { c with done := c.done + 1, clean := e }) := by
  have hflags : c.flags ||| Flags.none = c.flags := BitVec.or_zero
  unfold State.moveChunk State.markUnit
  simp only [hclean, h.red, h.chunk, hflags, beq_self_eq_true, if_true, Bool.false_eq_true, if_false]
  split <;> split <;> exact ⟨_, _, _, rfl⟩

theorem Copy.Plain.steps {s : State} (id : Nat) (hclean : s.poisoned sp (a + 16 * c.done) = false) :
    ∃ e cores poison, s.stepCopy id c = { s.store dp (d + 16 * c.done) 16 (s.load sp (a + 16 * c.done) 16) with
      cores := cores, poison := poison, copies := Table.put s.copies id { c with done := c.done + 1, clean := e } } := by
  obtain ⟨e, cores, poison, hmove⟩ := h.moves hclean
  refine ⟨e, cores, poison, ?_⟩
  unfold State.stepCopy
  rw [h.unit, h.places]
  simp only [List.foldl_cons, List.foldl_nil, hmove]
  cases dp <;> rfl

end

/-- A copy engine serves one unit of a copy whose turn it is (R234 to R236). -/
theorem copySourceStart_serves {s : State} {id : Nat} {c : Copy} (hfind : Table.find s.copies id = some c) (hfrozen : s.coreFrozen c.core = false)
    (hforeign : s.foreign c.core c.ctx = false) (hready : c.started = true ∨ s.sourceReady id c = true)
    (hserve : { s with copies := Table.put s.copies id { c with started := true } }.servable id c = true)
    (hturn : { s with copies := Table.put s.copies id { c with started := true } }.ceTurn c.core = some c.b) :
    exec (.copySourceStart id 1) s =
      .next ((State.modCore { s with copies := Table.put s.copies id { c with started := true } } c.core (fun k => { k with ceLast := c.b })).runCopy id 1) := by
  have hstart : (c.started || s.sourceReady id c) = true := by simpa using hready
  change execCopySourceStart id 1 s = _
  simp only [execCopySourceStart, hfind, hfrozen, hstart, hforeign, hserve, hturn, Bool.not_true, Bool.or_self, Bool.false_eq_true, if_false,
    beq_self_eq_true, Bool.and_true, Nat.reduceBneDiff, if_true]
  rfl

/-- A unit that can move does. -/
theorem runCopy_one {s : State} {id : Nat} {c : Copy} (hfind : Table.find s.copies id = some c) (hstuck : c.stuck = none) (hmore : c.done < c.chunks)
    (hheld : s.copyHeld c = false) : s.runCopy id 1 = (s.stepCopy id c).pulse c.ctx := by
  simp only [State.runCopy, hfind, hstuck, hheld, Option.isSome_none, Bool.false_or, Bool.or_false, decide_eq_true_eq, Nat.not_le.mpr hmore, if_false]

/-- A started copy in turn: the state whose engine serves it next (R234). -/
def State.servingCopy (s : State) (id : Nat) (c : Copy) : State :=
  State.modCore { s with copies := Table.put s.copies id { c with started := true } } c.core (fun k => { k with ceLast := c.b })

section
variable {s : State} {id : Nat} {c : Copy} {sp dp : Space} {a d : Nat} (hplain : c.Plain sp dp a d)
include hplain

theorem Copy.Plain.started : ({ c with started := true } : Copy).Plain sp dp a d := ⟨hplain.block, hplain.red, hplain.src, hplain.dst⟩

/-- Whether a plain copy can be served rests on the blocks and the requests alone. -/
theorem Copy.Plain.servable {u : State} (hblocks : u.blocks = s.blocks) (hreqs : u.reqs = s.reqs) (hstuck : c.stuck = none)
    (hsaved : c.saved = false) (hheld : s.copyHeld c = false) (hready : c.started = true ∨ s.sourceReady id c = true)
    (hmore : 16 * c.done + 16 ≤ c.len) : u.servable id c = true := by
  have hsource : u.sourceReady id c = s.sourceReady id c := by rw [State.sourceReady, hreqs, ← State.sourceReady]
  have hstart : (c.started || u.sourceReady id c) = true := by simpa [hsource] using hready
  rw [State.servable, hstuck, hsaved, hstart, hplain.held_congr hblocks, hheld, decide_eq_true (hplain.more hmore)]
  rfl

theorem Copy.Plain.held_started : s.copyHeld { c with started := true } = s.copyHeld c := by
  unfold State.copyHeld
  rw [hplain.started.ends s, hplain.ends s]

theorem copySourceStart_moves (hfind : Table.find s.copies id = some c) (hstuck : c.stuck = none) (hsaved : c.saved = false)
    (hfrozen : s.coreFrozen c.core = false) (hforeign : s.foreign c.core c.ctx = false) (hheld : s.copyHeld c = false)
    (hturn : { s with copies := Table.put s.copies id { c with started := true } }.ceTurn c.core = some c.b)
    (hready : c.started = true ∨ s.sourceReady id c = true) (hmore : 16 * c.done + 16 ≤ c.len)
    (hclean : s.poisoned sp (a + 16 * c.done) = false) :
    ∃ e cores poison contexts copies, exec (.copySourceStart id 1) s = .next
      { s.store dp (d + 16 * c.done) 16 (s.load sp (a + 16 * c.done) 16) with
        cores := cores, poison := poison, contexts := contexts
        copies := Table.put copies id { c with started := true, done := c.done + 1, clean := e } } := by
  have hexec : exec (.copySourceStart id 1) s = .next ((s.servingCopy id c).runCopy id 1) :=
    copySourceStart_serves hfind hfrozen hforeign hready (hplain.servable (s := s) rfl rfl hstuck hsaved hheld hready hmore) hturn
  have hblocks : (s.servingCopy id c).blocks = s.blocks := rfl
  have hfree : (s.servingCopy id c).copyHeld { c with started := true } = false := by
    rw [hplain.started.held_congr hblocks, hplain.held_started, hheld]
  have hrun : (s.servingCopy id c).runCopy id 1 = ((s.servingCopy id c).stepCopy id { c with started := true }).pulse c.ctx :=
    runCopy_one (c := { c with started := true }) (Table.find_put_self ..) hstuck (hplain.started.more hmore) hfree
  obtain ⟨e, cores, poison, hstep⟩ := hplain.started.steps (s := s.servingCopy id c) id hclean
  rw [hexec, hrun, hstep]
  refine ⟨e, cores, poison, Table.modify s.contexts c.ctx (fun k => { k with pulsed := true }), (s.servingCopy id c).copies, ?_⟩
  cases dp <;> rfl

end

/-! ### Completion -/

theorem Block.tagDone_eq (bl : Block) (n : Nat) : bl.tagDone n =
    { bl with
      tcount := Table.set 0 bl.tcount n (Table.get 0 bl.tcount n - 1)
      tgm := if Table.get 0 bl.tcount n - 1 = 0 then bl.tgm ||| (1#64 <<< n) else bl.tgm } := by
  simp [Block.tagDone]

/-- What a completed copy counts: its bytes into its barrier object, itself off its tag (R240, R244). -/
def State.countCopy (s : State) (c : Copy) : State :=
  let v := match c.bo with
    | some (sp, a) => s.updateBo sp a (c.len : Int) false c.fc c.flags.toNat
    | none => s
  match c.tag with
    | some n => v.modBlock c.b (fun bl => bl.tagDone n)
    | none => v

/-- A copy whose last chunk is written completes (R232, R240, R244). -/
theorem exec_copyComplete {s : State} {id : Nat} {c : Copy} (hfind : Table.find s.copies id = some c) (hstart : c.started = true)
    (hstuck : c.stuck = none) (hdone : c.chunks ≤ c.done) (hsaved : c.saved = false) (hfrozen : s.coreFrozen c.core = false) :
    exec (.copyComplete id) s = .next (({ s with copies := Table.erase s.copies id } : State).countCopy c) := by
  change execCopyComplete id s = _
  simp only [execCopyComplete, hfind, hstart, hstuck, hsaved, hfrozen, hdone, Option.isNone_none, Bool.not_false, Bool.and_self, decide_true,
    Bool.not_true, Bool.false_eq_true, if_false]
  rfl

/-- Settles O27. -/
theorem copiesMoveBytes : Obligations.CopiesMoveBytes := by
  unfold Obligations.CopiesMoveBytes
  refine ⟨fun s b g h hload hfind => ?_, ?_, fun s id c hfind hstart hstuck hdone hsaved hfrozen => ⟨fun htag hbo => ?_, fun sp a htag hbo => ?_,
    fun n htag hbo => ?_⟩⟩
  · change execCeSlotAccept b g s = _
    simp only [execCeSlotAccept, Nat.not_le.mpr hload, if_false, hfind]
  · intro s id c sp dp a d hfind hblock hred hstuck hsaved hfrozen hforeign hheld hturn hready hsrc hdst hmore hclean hcanonical hspaces
    have hwf := MemWf.of_canonical hcanonical hspaces
    obtain ⟨e, cores, poison, contexts, copies, hstep⟩ := copySourceStart_moves ⟨hblock, hred, hsrc, hdst⟩ hfind hstuck hsaved hfrozen hforeign hheld
      hturn hready hmore hclean
    refine ⟨_, hstep, ?_, fun q k hk => ?_, e, Table.find_put_self ..⟩
    · refine (load_store hwf dp (d + 16 * c.done) 16 _).trans (Nat.mod_eq_of_lt ?_)
      exact readNat_lt ..
    · exact byte_store_other hwf _ hk
  · rw [exec_copyComplete hfind hstart hstuck hdone hsaved hfrozen]
    simp only [State.countCopy, htag, hbo]
  · rw [exec_copyComplete hfind hstart hstuck hdone hsaved hfrozen]
    simp only [State.countCopy, htag, hbo, State.updateBo]
    exact congrArg Host.Outcome.next (by cases sp <;> rfl)
  · rw [exec_copyComplete hfind hstart hstuck hdone hsaved hfrozen]
    simp only [State.countCopy, htag, hbo, Block.tagDone_eq]

end Sys2Proof.Machine
end


section
/-! SUPPORT. Tag words, barrier-object words and counts that arrive (O28). -/

namespace Sys2Proof.Machine

/-! ### Tags -/

section
variable {f : RForm} {op : Nat} {sh : Shape} {s : State} {i : Issue} {m : W64}

/-- A tag word whose mask reads and is allocated to its block (R252). -/
theorem tagWord_done (hlegal : LegalR s i op f sh) (hbegins : Begins s i) (hguard : extGuard f.ext (s.thread (i.tk (firstLane i.path))) = true)
    (hread : s.readA i (firstLane i.path) f sh.a = .val m.toNat) (howned : m &&& ~~~(s.block i.b).tgal = 0#64)
    (go : State → Issue → Shape → W64 → State) : s.tagWord op f go = go s i sh m := by
  simp only [State.tagWord, onGroup_of_cur hbegins.cur, hlegal.shape, hlegal.legal, hlegal.below, State.uniformGuard, hguard, hread,
    BitVec.ofNat_toNat, BitVec.setWidth_eq, howned, bne_self_eq_false, Bool.not_true, Bool.or_self, Bool.false_eq_true, if_false]

/-- A wait on an empty mask waits for nothing. -/
theorem tagWait_empty (hnone : m = 0#64) (ok : Bool) : s.tagWait i m ok = s.endPass i := by
  simp only [State.tagWait, hnone, beq_self_eq_true, if_true]

theorem tagWait_some (hsome : m ≠ 0#64) (ok : Bool) :
    s.tagWait i m ok = if ok then (s.clearNear (s.block i.b).core).endPass i else s.holdPath i .tags := by
  simp [State.tagWait, hsome]

theorem lowestBit_eq {n : Nat} (hset : m.getLsbD n = true) (hlow : ∀ k < n, m.getLsbD k = false) : lowestBit m = n := by
  have hlt : n < 64 := BitVec.lt_of_getLsbD hset
  have hfind : (List.range 64).find? (fun k => m.getLsbD k) = some n := by
    rw [List.find?_eq_some_iff_append]
    refine ⟨hset, List.range n, (List.range' (n + 1) (63 - n)), ?_, fun k hk => by simp [hlow k (List.mem_range.mp hk)]⟩
    rw [List.range_eq_range', List.range_eq_range', ← List.range'_succ]
    have hsplit := List.range'_append_1 (s := 0) (m := n) (n := 63 - n + 1)
    rw [Nat.zero_add] at hsplit
    rw [hsplit]
    congr 1
    omega
  rw [lowestBit, hfind]
  rfl

theorem core_modBlock (s : State) (b k : Nat) (g : Block → Block) (h : ∀ bl, (g bl).core = bl.core) : ((s.modBlock b g).block k).core = (s.block k).core :=
  Table.get_modify_of ({} : Block) s.blocks b k g Block.core h

end

/-! ### Barrier-object words -/

theorem leavePath_nil (s : State) (i : Issue) : s.leavePath i [] = (s, i) := by
  have hpath : i.path &&& ~~~maskOf [] = i.path := BitVec.and_allOnes
  have hhold : ∀ h : Hold, (if h.mask = i.path then { h with mask := i.path } else h) = h := by
    intro h
    split
    · next hm => rw [← hm]
    · rfl
  rw [State.leavePath]
  simp only [List.map_nil, List.foldl_nil, hpath, hhold, List.map_id', State.modGroup_id]

/-- Where no thread of the path has a trap pending, none is taken (R425). -/
theorem takePending_calm {s : State} {i : Issue} (h : ∀ t ∈ lanesOf i.path, (s.thread (i.tk t)).pending = none) : s.takePending i = (s, i) := by
  have hnone : (lanesOf i.path).filterMap (fun t => (s.thread (i.tk t)).pending.map (fun r => (t, r))) = [] := by
    rw [List.filterMap_eq_nil_iff]
    intro t ht
    rw [h t ht]
    rfl
  rw [State.takePending, hnone, leavePath_nil]

theorem withPending_calm {s : State} {i : Issue} {x : Option Ext} (hguard : s.uniformGuard i x = true)
    (h : ∀ t ∈ lanesOf i.path, (s.thread (i.tk t)).pending = none) (hsome : i.path ≠ 0#32) (go : State → Issue → State) :
    s.withPending i x go = go s i := by
  simp [State.withPending, hguard, takePending_calm h, hsome]

section
variable {f : RForm} {op : Nat} {sh : Shape} {s : State} {i : Issue} {name y a : Nat} {sp : Space}

/-- A barrier-object word whose name leads to an object that no earlier access must reach first (R253). -/
theorem boWord_done (hlegal : LegalR s i op f sh) (honce : Once s i f.ext) (hcalm : ∀ t ∈ lanesOf i.path, (s.thread (i.tk t)).pending = none)
    (hsome : i.path ≠ 0#32) (hread : s.readUniform i (firstLane i.path) (boSources f sh) = .vals [name, y]) (hbo : s.boTarget i.b name = .ok (sp, a))
    (hmay : s.mayAccess i sp a a 16 false false = true) (hready : s.eachReady i (Fields.ofR f) sh = true) (pend : Bool)
    (go : State → Issue → Shape → Space → Nat → Nat → Nat → State) : s.boWord op f pend go = go s i sh sp a name y := by
  have hguard : s.uniformGuard i f.ext = true := honce.guard
  have hlive : ((s.thread (i.tk (firstLane i.path))).role == Role.helper) = false := by rw [honce.live]; rfl
  unfold State.boWord
  rw [memoryWord_of_legal honce.fresh.cur hlegal]
  cases pend with
  | false => simp only [hguard, hlive, hread, argsOf, List.cons_append, List.nil_append, hbo, hmay, hready, Bool.not_true, Bool.or_self,
      Bool.false_eq_true, if_false]
  | true => simp only [if_true, withPending_calm hguard hcalm hsome, hlive, hread, argsOf, List.cons_append, List.nil_append, hbo, hmay, hready,
      Bool.not_true, Bool.or_self, Bool.false_eq_true, if_false]

end

theorem fcTrap_eq (fc name : Nat) :
    fcTrap fc name = { code := fc, tval := BitVec.ofNat 64 name, info := if fc = 7 then 0xFF#64 else 0#64, src := 5 } := by
  simp [fcTrap]

/-! ### Counts -/

/-- A count that arrives at an object that stands where it names it (R244). -/
theorem countUpdate_direct {s : State} {id : Nat} {c : Count} (hfind : Table.find s.counts id = some c) (hdest : c.dest = none) :
    exec (.boCountUpdate id) s = .next ({ s with counts := Table.erase s.counts id }.store c.space c.addr 16
      (boUpdate (s.load c.space c.addr 16) (c.n : Int) false c.fc c.flags.toNat)) := by
  change execBoCountUpdate id s = _
  simp only [execBoCountUpdate, hfind, hdest]
  rfl

theorem countUpdate_gone {s : State} {id : Nat} {c : Count} {v : Nat × Nat} (hfind : Table.find s.counts id = some c) (hdest : c.dest = some v)
    (hblock : s.blockAt v = none) :
    exec (.boCountUpdate id) s = .next ({ s with counts := Table.erase s.counts id }.event 0 5 0 v.1 0 c.addr) := by
  change execBoCountUpdate id s = _
  simp only [execBoCountUpdate, hfind, hdest, hblock]

theorem countUpdate_moving {s : State} {id b : Nat} {c : Count} {v : Nat × Nat} (hfind : Table.find s.counts id = some c) (hdest : c.dest = some v)
    (hblock : s.blockAt v = some b) (hmoving : (s.block b).place = .moving) : exec (.boCountUpdate id) s = .next s := by
  change execBoCountUpdate id s = _
  simp [execBoCountUpdate, hfind, hdest, hblock, hmoving]

theorem countUpdate_shared {s : State} {id b : Nat} {c : Count} {v : Nat × Nat} (hfind : Table.find s.counts id = some c) (hdest : c.dest = some v)
    (hblock : s.blockAt v = some b) (hstands : (s.block b).place ≠ .moving) (hinert : s.inert b = false) :
    exec (.boCountUpdate id) s = .next ({ s with counts := Table.erase s.counts id }.store (.shared b) c.addr 16
      (boUpdate (s.load (.shared b) c.addr 16) (c.n : Int) false c.fc c.flags.toNat)) := by
  have hplace : ((s.block b).place == Place.moving) = false := by simpa using hstands
  change execBoCountUpdate id s = _
  simp only [execBoCountUpdate, hfind, hdest, hblock, hplace, hinert, Bool.false_eq_true, if_false]
  rfl

/-- Settles O28, word by word. -/
theorem tagAndBarrierObjectWordsComplete : Obligations.TagAndBarrierObjectWordsComplete := by
  unfold Obligations.TagAndBarrierObjectWordsComplete
  refine ⟨fun f op sh s i m hlegal hbegins hguard hread howned => ⟨?_, ?_, ?_, ?_, ?_⟩,
    fun f op sh s i name y a x sp hlegal honce hcalm hsome hread hbo hmay hready hx => ?_, fun s id c hfind =>
      ⟨countUpdate_direct hfind, fun v b hdest hblock => ⟨countUpdate_moving hfind hdest hblock, countUpdate_shared hfind hdest hblock⟩,
        fun v hdest hblock => countUpdate_gone hfind hdest hblock⟩⟩
  · rintro (rfl | rfl) hnone
    · change execTwany f s = _
      rw [execTwany, tagWord_done hlegal hbegins hguard hread howned, tagWait_empty hnone]
    · change execTwall f s = _
      rw [execTwall, tagWord_done hlegal hbegins hguard hread howned, tagWait_empty hnone]
  · rintro rfl hmask
    change execTwany f s = _
    rw [execTwany, tagWord_done hlegal hbegins hguard hread howned, tagWait_some hmask]
    by_cases hhit : m &&& (s.block i.b).tgm = 0#64 <;> simp [hhit]
  · rintro rfl hmask
    change execTwall f s = _
    rw [execTwall, tagWord_done hlegal hbegins hguard hread howned, tagWait_some hmask]
    simp only [beq_iff_eq]
  · rintro rfl hready
    refine ⟨fun hhit => ?_, fun n hset hlow => ?_⟩
    · change execTfirst f s = _
      rw [execTfirst, tagWord_done hlegal hbegins hguard hread howned]
      simp [hready, hhit]
    · have hhit : m &&& (s.block i.b).tgm ≠ 0#64 := fun h0 => by simp [h0] at hset
      change execTfirst f s = _
      rw [execTfirst, tagWord_done hlegal hbegins hguard hread howned]
      simp only [hready, beq_eq_false_iff_ne.mpr hhit, lowestBit_eq hset hlow, core_modBlock s i.b i.b (fun bl => { bl with tgm := bl.tgm &&& ~~~(1#64 <<< n) }) fun _ => rfl, Bool.not_true, Bool.false_eq_true,
        if_false]
  · rintro rfl
    change execTclr f s = _
    rw [execTclr, tagWord_done hlegal hbegins hguard hread howned]
  · rw [hx]
    refine ⟨?_, ?_, ?_, ?_, ?_, ?_, ?_⟩
    · rintro rfl hy
      change execBoinit f s = _
      rw [execBoinit, boWord_done hlegal honce hcalm hsome hread hbo hmay hready, if_neg (Nat.not_lt.mpr hy)]
    · rintro rfl hrel
      have hgo : (extRnd f.ext == 6 && !s.performed i (s.liveOf i)) = false := by
        by_cases h6 : extRnd f.ext = 6
        · simp [hrel h6]
        · simp [h6]
      change execBoarrive f s = _
      rw [execBoarrive, boWord_done hlegal honce hcalm hsome hread hbo hmay hready, hgo]
      simp only [Bool.false_eq_true, if_false, beq_iff_eq]
      rfl
    · rintro rfl
      change execBoexpect f s = _
      rw [execBoexpect, boWord_done hlegal honce hcalm hsome hread hbo hmay hready]
      rfl
    · rintro rfl
      change execBowait f s = _
      rw [execBowait, boWord_done hlegal honce hcalm hsome hread hbo hmay hready]
      simp only [State.observe, fcTrap_eq, beq_iff_eq, bne_iff_ne, ne_eq, ite_not]
    · rintro rfl hsub
      change execBotest f s = _
      rw [execBotest, boWord_done hlegal honce hcalm hsome hread hbo hmay hready]
      simp only [hsub, beq_self_eq_true, if_true]
    · rintro rfl hsub hphase
      change execBotest f s = _
      rw [execBotest, boWord_done hlegal honce hcalm hsome hread hbo hmay hready]
      simp only [beq_iff_eq, hsub, hphase, if_false, if_true]
    · rintro rfl hsub hphase hfc
      change execBotest f s = _
      rw [execBotest, boWord_done hlegal honce hcalm hsome hread hbo hmay hready]
      simp only [beq_iff_eq, hsub, hphase, if_false, State.observe, hfc, bne_self_eq_false, Bool.false_eq_true]

end Sys2Proof.Machine
end


section
/-! SUPPORT. Updates of a barrier object (O29): its fields lie apart, so that writing one leaves the others. -/

namespace Sys2Proof.Machine

/-! ### Fields of a number -/

theorem boField_lt (x lo n : Nat) : boField x lo n < 2 ^ n := Nat.mod_lt _ (Nat.two_pow_pos n)

/-- A field in the lower part of a number. -/
theorem boField_low {p q k lo n : Nat} (h : lo + n ≤ k) : boField (p + 2 ^ k * q) lo n = boField p lo n := by
  obtain ⟨j, rfl⟩ := Nat.exists_eq_add_of_le h
  unfold boField
  rw [← Nat.mod_mul_right_div_self, ← Nat.mod_mul_right_div_self, ← Nat.pow_add, Nat.pow_add _ (lo + n) j, Nat.mul_assoc, Nat.add_mul_mod_self_left]

/-- A field in the upper part of a number. -/
theorem boField_high {p q k n : Nat} (hp : p < 2 ^ k) (j : Nat) : boField (p + 2 ^ k * q) (k + j) n = boField q j n := by
  unfold boField
  rw [Nat.pow_add, ← Nat.div_div_eq_div_mul, Nat.add_mul_div_left _ _ (Nat.two_pow_pos k), Nat.div_eq_of_lt hp, Nat.zero_add]

theorem boField_mod {x k lo n : Nat} (h : lo + n ≤ k) : boField (x % 2 ^ k) lo n = boField x lo n := by
  conv => rhs; rw [← Nat.mod_add_div x (2 ^ k)]
  rw [boField_low h]

/-- A field that starts a number. -/
theorem boField_zero {v n : Nat} (h : v < 2 ^ n) : boField v 0 n = v := by
  rw [boField, Nat.pow_zero, Nat.div_one, Nat.mod_eq_of_lt h]

/-- A field of a field. -/
theorem boField_sub {x lo n j m : Nat} (h : j + m ≤ n) : boField (boField x lo n) j m = boField x (lo + j) m := by
  conv => lhs; rw [boField.eq_def x, boField_mod h, boField, Nat.div_div_eq_div_mul, ← Nat.pow_add]
  rfl

/-- A number with one field replaced: the bits below it, the field, the bits above it. -/
theorem boPut_eq (x lo n v : Nat) : boPut x lo n v = x % 2 ^ lo + 2 ^ lo * (v % 2 ^ n + 2 ^ n * (x / 2 ^ (lo + n))) := by
  have hlow := Nat.mod_add_div x (2 ^ lo)
  have hhigh := Nat.mod_add_div (x / 2 ^ lo) (2 ^ n)
  rw [Nat.div_div_eq_div_mul, ← Nat.pow_add] at hhigh
  have hx : x = x % 2 ^ lo + boField x lo n * 2 ^ lo + 2 ^ lo * (2 ^ n * (x / 2 ^ (lo + n))) := by
    calc x = x % 2 ^ lo + 2 ^ lo * (boField x lo n + 2 ^ n * (x / 2 ^ (lo + n))) := by rw [boField, hhigh, hlow]
      _ = _ := by rw [Nat.mul_add, Nat.mul_comm _ (boField x lo n), Nat.add_assoc]
  rw [Nat.mul_add]
  unfold boPut
  rw [Nat.mul_comm (v % 2 ^ n)]
  omega

theorem boField_boPut_self (x lo n v : Nat) : boField (boPut x lo n v) lo n = v % 2 ^ n := by
  rw [boPut_eq]
  refine (boField_high (Nat.mod_lt _ (Nat.two_pow_pos lo)) 0).trans ?_
  rw [boField_low (Nat.le_of_eq (Nat.zero_add n)), boField_zero (Nat.mod_lt _ (Nat.two_pow_pos n))]

theorem boField_boPut_below {x lo n v lo' n' : Nat} (h : lo' + n' ≤ lo) : boField (boPut x lo n v) lo' n' = boField x lo' n' := by
  rw [boPut_eq, boField_low h, boField_mod h]

theorem boField_boPut_above {x lo n v lo' n' : Nat} (h : lo + n ≤ lo') : boField (boPut x lo n v) lo' n' = boField x lo' n' := by
  obtain ⟨k, rfl⟩ := Nat.exists_eq_add_of_le h
  rw [boPut_eq, Nat.add_assoc, boField_high (Nat.mod_lt _ (Nat.two_pow_pos lo)), boField_high (Nat.mod_lt _ (Nat.two_pow_pos n)), boField, boField,
    Nat.div_div_eq_div_mul, ← Nat.pow_add, Nat.add_assoc]

/-! ### The fields of a barrier object -/

/-- The bits 80 to 85 of a barrier object: its flags, and the reserved one. -/
theorem boFlags_of_field {x w : Nat} (h : boField x 80 6 = w) (hbit : w.testBit 1 = false) : boFlags x = w := by
  have hlow : boField x 80 1 = w % 2 := by
    rw [← h, ← Nat.add_zero 80, ← boField_sub (j := 0) (m := 1) (n := 6) (by omega), boField, Nat.pow_zero, Nat.div_one, Nat.pow_one]
  have hhigh : boField x 82 4 = w / 4 := by
    have hw : w < 64 := h ▸ boField_lt x 80 6
    rw [← boField_sub (lo := 80) (j := 2) (m := 4) (n := 6) (by omega), h, boField]
    omega
  rw [Nat.testBit_eq_decide_div_mod_eq, decide_eq_false_iff_not] at hbit
  unfold boFlags
  omega

theorem boFc_lt (x : Nat) : boFc x < 2 ^ 4 := boField_lt x 76 4

theorem boFlags_lt (x : Nat) : boFlags x < 2 ^ 6 := by
  have h1 := boField_lt x 82 4
  have h2 := boField_lt x 80 1
  unfold boFlags
  omega

theorem boFlags_bit (x : Nat) : (boFlags x).testBit 1 = false := by
  have h := boField_lt x 80 1
  rw [Nat.testBit_eq_decide_div_mod_eq, decide_eq_false_iff_not]
  unfold boFlags
  omega

/-- A cleaned object by its parts. -/
theorem boClean_eq (x : Nat) : boClean x = x % 2 ^ 65 + 2 ^ 76 * (boFc x + 2 ^ 4 * (boFlags x + 2 ^ 16 * boArel x)) := by
  unfold boClean
  rw [boField, Nat.pow_zero, Nat.div_one]
  omega

section
variable (x : Nat)

theorem boClean_low {lo n : Nat} (h : lo + n ≤ 65) : boField (boClean x) lo n = boField x lo n := by
  rw [boClean_eq, boField_low (by omega), boField_mod h]

theorem boClean_high (j n : Nat) : boField (boClean x) (76 + j) n = boField (boFc x + 2 ^ 4 * (boFlags x + 2 ^ 16 * boArel x)) j n := by
  rw [boClean_eq, boField_high]
  exact Nat.lt_trans (Nat.mod_lt _ (Nat.two_pow_pos 65)) (Nat.pow_lt_pow_right (by omega) (by omega))

theorem boBpend_clean : boBpend (boClean x) = boBpend x := by rw [boBpend, boClean_low x (by omega), ← boBpend]
theorem boApend_clean : boApend (boClean x) = boApend x := boClean_low x (by omega)
theorem boPhase_clean : boPhase (boClean x) = boPhase x := boClean_low x (by omega)

theorem boFc_clean : boFc (boClean x) = boFc x :=
  (boClean_high x 0 4).trans ((boField_low (by omega)).trans (boField_zero (boField_lt x 76 4)))

theorem boFlags_clean : boFlags (boClean x) = boFlags x := by
  refine boFlags_of_field ((boClean_high x 4 6).trans ?_) (boFlags_bit x)
  refine (boField_high (boFc_lt x) 0).trans ?_
  rw [boField_low (by omega), boField_zero (boFlags_lt x)]

theorem boArel_clean : boArel (boClean x) = boArel x := by
  have hflags : boFlags x < 2 ^ 16 := Nat.lt_trans (boFlags_lt x) (Nat.pow_lt_pow_right (by omega) (by omega))
  refine (boClean_high x 20 16).trans ((boField_high (boFc_lt x) 16).trans ((boField_high hflags 0).trans ?_))
  exact boField_zero (boField_lt x 96 16)

end

/-! ### Updates -/

/-- The object with a fault code and flags recorded (R244). -/
def boRecord (x fc flags : Nat) : Nat :=
  boPut (if fc != 0 && boFc (boClean x) == 0 then boPut (boClean x) 76 4 fc else boClean x) 80 6
    (boFlags (if fc != 0 && boFc (boClean x) == 0 then boPut (boClean x) 76 4 fc else boClean x) ||| flags)

theorem boUpdate_eq (x : Nat) (add : Int) (arrive : Bool) (fc flags : Nat) : boUpdate x add arrive fc flags =
    (let z := boRecord x fc flags
    let bp := boBpend z + add
    if bp < -(2 ^ 47) || 2 ^ 47 ≤ bp || (arrive && boApend z == 0) then (if boFc z == 0 then boPut z 76 4 7 else z)
    else boFlip (if arrive then boPut (boPut z 0 48 (intToBits 48 bp)) 48 16 (boApend (boPut z 0 48 (intToBits 48 bp)) - 1)
      else boPut z 0 48 (intToBits 48 bp))) := rfl

/-- Two objects whose fields agree but for the fault code. -/
structure BoLike (x z : Nat) : Prop where
  bpend : boBpend z = boBpend x
  apend : boApend z = boApend x
  phase : boPhase z = boPhase x
  arel : boArel z = boArel x
  flags : boFlags z = boFlags x

theorem BoLike.trans {x y z : Nat} (h : BoLike x y) (k : BoLike y z) : BoLike x z :=
  ⟨k.bpend.trans h.bpend, k.apend.trans h.apend, k.phase.trans h.phase, k.arel.trans h.arel, k.flags.trans h.flags⟩

theorem boBpend_congr {x z : Nat} (h : boField z 0 48 = boField x 0 48) : boBpend z = boBpend x := by rw [boBpend, h, ← boBpend]

theorem boFlags_congr {x z : Nat} (h1 : boField z 80 1 = boField x 80 1) (h2 : boField z 82 4 = boField x 82 4) : boFlags z = boFlags x := by
  rw [boFlags, h1, h2, ← boFlags]

/-- Writing the fault code. -/
theorem boLike_putFc (x v : Nat) : BoLike x (boPut x 76 4 v) where
  bpend := boBpend_congr (boField_boPut_below (by omega))
  apend := boField_boPut_below (by omega)
  phase := boField_boPut_below (by omega)
  arel := boField_boPut_above (by omega)
  flags := boFlags_congr (boField_boPut_above (by omega)) (boField_boPut_above (by omega))

theorem boFc_putFc (x : Nat) {v : Nat} (h : v < 16) : boFc (boPut x 76 4 v) = v := (boField_boPut_self x 76 4 v).trans (Nat.mod_eq_of_lt h)

theorem boLike_clean (x : Nat) : BoLike x (boClean x) := ⟨boBpend_clean x, boApend_clean x, boPhase_clean x, boArel_clean x, boFlags_clean x⟩

/-- What recording leaves. -/
structure BoRecorded (x fc flags z : Nat) : Prop where
  bpend : boBpend z = boBpend x
  apend : boApend z = boApend x
  phase : boPhase z = boPhase x
  arel : boArel z = boArel x
  fc : boFc z = if boFc x ≠ 0 then boFc x else fc
  flags : boFlags z = boFlags x ||| flags

theorem boRecord_recorded (x : Nat) {fc flags : Nat} (hfc : fc < 16) (hflags : flags &&& 0x3D = flags) : BoRecorded x fc flags (boRecord x fc flags) := by
  have hcode : ∃ y, (if fc != 0 && boFc (boClean x) == 0 then boPut (boClean x) 76 4 fc else boClean x) = y ∧ BoLike x y ∧
      boFc y = if boFc x ≠ 0 then boFc x else fc := by
    rw [boFc_clean]
    by_cases h0 : boFc x = 0
    · by_cases hz : fc = 0
      · exact ⟨_, rfl, by simpa [hz] using boLike_clean x, by simp [hz, boFc_clean]⟩
      · exact ⟨_, rfl, by simpa [hz, h0] using (boLike_clean x).trans (boLike_putFc _ fc), by simp [hz, h0, boFc_putFc _ hfc]⟩
    · exact ⟨_, rfl, by simpa [h0] using boLike_clean x, by simp [h0, boFc_clean]⟩
  obtain ⟨y, hy, hlike, hyfc⟩ := hcode
  have hmask : boFlags x ||| flags < 2 ^ 6 := Nat.or_lt_two_pow (boFlags_lt x) (by rw [← hflags]; exact Nat.lt_of_le_of_lt Nat.and_le_right (by decide))
  have hbit : (boFlags x ||| flags).testBit 1 = false := by
    rw [Nat.testBit_or, boFlags_bit, ← hflags, Nat.testBit_and]
    simp [Nat.testBit]
  unfold boRecord
  rw [hy, hlike.flags]
  exact {
    bpend := (boBpend_congr (boField_boPut_below (by omega))).trans hlike.bpend
    apend := (boField_boPut_below (by omega)).trans hlike.apend
    phase := (boField_boPut_below (by omega)).trans hlike.phase
    arel := (boField_boPut_above (by omega)).trans hlike.arel
    fc := (boField_boPut_below (by omega)).trans hyfc
    flags := boFlags_of_field ((boField_boPut_self ..).trans (Nat.mod_eq_of_lt hmask)) hbit }

/-- Reading back an integer within 48 bits. -/
theorem bits48 {n : Int} (hlow : -(2 ^ 47) ≤ n) (hhigh : n < 2 ^ 47) : bitsToInt true 48 (intToBits 48 n % 2 ^ 48) = n := by
  unfold bitsToInt intToBits
  simp only [Bool.true_and, decide_eq_true_eq]
  split <;> omega

/-- What counting bytes and an arrival leaves, before a flip. -/
theorem boFlip_fields {y : Nat} :
    boBpend (boFlip y) = boBpend y ∧ boArel (boFlip y) = boArel y ∧ boFc (boFlip y) = boFc y ∧ boFlags (boFlip y) = boFlags y ∧
    (boBpend y = 0 ∧ boApend y = 0 → boApend (boFlip y) = boArel y ∧ boPhase (boFlip y) = 1 - boPhase y) ∧
    (boBpend y ≠ 0 ∨ boApend y ≠ 0 → boApend (boFlip y) = boApend y ∧ boPhase (boFlip y) = boPhase y) := by
  by_cases h : boBpend y = 0 ∧ boApend y = 0
  · have hflip : boFlip y = boPut (boPut y 64 1 (1 - boPhase y)) 48 16 (boArel y) := by simp [boFlip, h]
    rw [hflip]
    refine ⟨boBpend_congr ?_, ?_, ?_, boFlags_congr ?_ ?_, fun _ => ⟨?_, ?_⟩, fun hn => ?_⟩
    · rw [boField_boPut_below (by omega), boField_boPut_below (by omega)]
    · exact (boField_boPut_above (by omega)).trans (boField_boPut_above (by omega))
    · exact (boField_boPut_above (by omega)).trans (boField_boPut_above (by omega))
    · rw [boField_boPut_above (by omega), boField_boPut_above (by omega)]
    · rw [boField_boPut_above (by omega), boField_boPut_above (by omega)]
    · exact (boField_boPut_self ..).trans (Nat.mod_eq_of_lt (boField_lt y 96 16))
    · exact (boField_boPut_above (by omega)).trans ((boField_boPut_self ..).trans (Nat.mod_eq_of_lt (by omega)))
    · omega
  · have hflip : boFlip y = y := by
      unfold boFlip
      rw [if_neg (by simpa using h)]
    rw [hflip]
    exact ⟨rfl, rfl, rfl, rfl, fun hy => absurd hy h, fun _ => ⟨rfl, rfl⟩⟩

/-- The object with its bytes counted and its arrival made. -/
theorem counted_fields (z n : Nat) (arrive : Bool) (y : Nat)
    (hy : y = if arrive then boPut (boPut z 0 48 n) 48 16 (boApend (boPut z 0 48 n) - 1) else boPut z 0 48 n) :
    boField y 0 48 = n % 2 ^ 48 ∧ boApend y = boApend z - arrive.toNat ∧ boPhase y = boPhase z ∧ boArel y = boArel z ∧ boFc y = boFc z ∧
      boFlags y = boFlags z := by
  have happ : boApend (boPut z 0 48 n) = boApend z := boField_boPut_above (by omega)
  have hbyte : boField (boPut z 0 48 n) 0 48 = n % 2 ^ 48 := boField_boPut_self z 0 48 n
  have hphase : boPhase (boPut z 0 48 n) = boPhase z := boField_boPut_above (by omega)
  have harel : boArel (boPut z 0 48 n) = boArel z := boField_boPut_above (by omega)
  have hfc : boFc (boPut z 0 48 n) = boFc z := boField_boPut_above (by omega)
  have hflags : boFlags (boPut z 0 48 n) = boFlags z := boFlags_congr (boField_boPut_above (by omega)) (boField_boPut_above (by omega))
  subst hy
  cases arrive with
  | false => exact ⟨hbyte, happ, hphase, harel, hfc, hflags⟩
  | true =>
    simp only [if_true, happ, Bool.toNat_true]
    refine ⟨?_, ?_, ?_, ?_, ?_, ?_⟩
    · rw [boField_boPut_below (by omega), hbyte]
    · have hlt := boField_lt z 48 16
      exact (boField_boPut_self ..).trans (Nat.mod_eq_of_lt (Nat.lt_of_le_of_lt (Nat.sub_le _ _) hlt))
    · exact (boField_boPut_above (by omega)).trans hphase
    · exact (boField_boPut_above (by omega)).trans harel
    · exact (boField_boPut_above (by omega)).trans hfc
    · exact (boFlags_congr (boField_boPut_above (by omega)) (boField_boPut_above (by omega))).trans hflags

/-- Settles O29. -/
theorem barrierObjectUpdates : Obligations.BarrierObjectUpdates := by
  unfold Obligations.BarrierObjectUpdates
  intro x add arrive fc flags _ hfc hflags
  obtain ⟨hbpend, happ, hphase, harel, hzfc, hzflags⟩ := boRecord_recorded x hfc hflags
  rw [boUpdate_eq]
  generalize boRecord x fc flags = z at *
  dsimp only
  rw [hbpend, happ, hzfc]
  refine ⟨fun hbad => ?_, fun hlow hhigh harrive => ?_⟩
  · rw [if_pos (by simpa [or_assoc] using hbad)]
    by_cases h0 : (if boFc x ≠ 0 then boFc x else fc) = 0
    · obtain ⟨hx0, rfl⟩ : boFc x = 0 ∧ fc = 0 := by split at h0 <;> simp_all
      have hlike := boLike_putFc z 7
      rw [if_pos (by simpa using h0)]
      exact ⟨hlike.bpend.trans hbpend, hlike.apend.trans happ, hlike.phase.trans hphase, hlike.arel.trans harel,
        by simp [hx0, boFc_putFc], hlike.flags.trans hzflags⟩
    · rw [if_neg (by simpa using h0)]
      refine ⟨hbpend, happ, hphase, harel, ?_, hzflags⟩
      rw [hzfc]
      split
      · rfl
      · next hx => rw [if_neg hx] at h0; rw [if_pos h0]
  · rw [if_neg (by
      simp only [Bool.or_eq_true, decide_eq_true_eq, Bool.and_eq_true, beq_iff_eq, not_or, not_and]
      exact ⟨⟨by omega, by omega⟩, harrive⟩)]
    generalize hy : (if arrive = true then _ else _) = y
    obtain ⟨h1, h2, h3, h4, h5, h6⟩ := counted_fields z (intToBits 48 (boBpend x + add)) arrive y hy.symm
    have hyb : boBpend y = boBpend x + add := by rw [boBpend, h1, bits48 hlow hhigh]
    obtain ⟨k1, k2, k3, k4, k5, k6⟩ := boFlip_fields (y := y)
    rw [h2, h3, h4, hyb, happ, hphase, harel] at *
    exact ⟨k1, k5, k6, k2, k3.trans (h5.trans hzfc), k4.trans (h6.trans hzflags)⟩

end Sys2Proof.Machine
end


section
/-! SUPPORT. Fences and numbered barriers (O30, O31). -/

namespace Sys2Proof.Machine

/-! ### FENCE -/

/-- A fence: what it waits for, and what an acquire discards (R269). -/
theorem exec_fence {f : RForm} {sh : Shape} {s : State} {i : Issue} (hlegal : LegalR s i 0xC0 f sh) (hbegins : Begins s i)
    (hguard : extGuard f.ext (s.thread (i.tk (firstLane i.path))) = true) : exec (.fence f) s = .next (
      if (s.liveOf i).isEmpty then s.endPass i
      else if (releases (extRnd f.ext) && !s.performed i (s.liveOf i)) || (acquires (extRnd f.ext) && !s.loadsBound i (s.liveOf i)) then
        s.holdPath i .fence
      else (if acquires (extRnd f.ext) then s.clearNear (s.block i.b).core else s).endPass i) := by
  change execFence f s = _
  simp only [execFence, memoryWord_of_legal hbegins.cur hlegal, State.uniformGuard, hguard, Bool.not_true, Bool.false_or]

/-! ### Arrivals -/

/-- The state after the threads of a path have arrived in the open phase of barrier `n` (R270). -/
def State.arrived (s : State) (i : Issue) (n : Nat) (nb : NBarrier) : State :=
  State.testBarrier (((s.liveOf i).foldl (fun u t => u.modThread (i.tk t) (fun th => { th with arrivals := Table.put th.arrivals n nb.phase })) s).modBlock
    i.b (fun bl => { bl with nb := Table.set {} bl.nb n { nb with arrived := nb.arrived ++ (s.liveOf i).map (fun t => 32 * i.g + t) } })) i.b n

section
variable {s : State} {i : Issue} {n : Nat} {nb : NBarrier} (hnb : nb = Table.get {} (s.block i.b).nb n)
include hnb

theorem arriveAt_eq (hperf : s.performed i (s.liveOf i) = true) (hnew : ∀ t ∈ s.liveOf i, 32 * i.g + t ∉ nb.arrived) :
    s.arriveAt i n = some (s.arrived i n nb, nb.phase) := by
  have hany : (s.liveOf i).any (fun t => nb.arrived.contains (32 * i.g + t)) = false := by
    rw [List.any_eq_false]
    intro t ht
    simp [hnew t ht]
  subst hnb
  simp only [State.arriveAt, hany, hperf, Bool.not_true, Bool.or_self, Bool.false_eq_true, if_false]
  rfl

/-- A path that arrives waits unless that completes the phase (R271). -/
theorem barrier_arrives (hlive : s.liveOf i ≠ []) (hbroken : (s.block i.b).broken n = false) (hperf : s.performed i (s.liveOf i) = true)
    (hnew : ∀ t ∈ s.liveOf i, 32 * i.g + t ∉ nb.arrived) (hold : State → Option Nat → State) :
    s.barrier i n none hold = if nb.phase < ((s.arrived i n nb).block i.b).phase n then .past ((s.arrived i n nb).clearNear (s.block i.b).core)
      else .wait (hold (s.arrived i n nb) (some nb.phase)) := by
  simp only [State.barrier, List.isEmpty_eq_false_iff.mpr hlive, hbroken, arriveAt_eq hnb hperf hnew, Bool.false_eq_true, if_false, decide_eq_true_eq]

/-- The latest arrivals of a path's threads are in completed phases. -/
theorem arrivalsDone_of (h : ∀ t ∈ lanesOf i.path, ∀ p, Table.find (s.thread (i.tk t)).arrivals n = some p → p < nb.phase) : s.arrivalsDone i n = true := by
  subst hnb
  rw [State.arrivalsDone, List.all_eq_true]
  intro t ht
  split
  · next p hp => exact decide_eq_true (h t ht p hp)
  · rfl

end

/-- Settles O30. -/
theorem fencesAndBarriersComplete : Obligations.FencesAndBarriersComplete := by
  unfold Obligations.FencesAndBarriersComplete
  refine ⟨fun f sh s i hlegal hbegins hguard => ⟨fun hnone => ?_, fun hlive hrel hacq => ?_, fun hlive hrel hperf => ?_⟩,
    fun f op n sh s u i nb hlegal hbegins hn hguard hlive hhold hnb hbroken hu => ⟨fun hperf hnew => ⟨?_, ?_⟩, ?_⟩⟩
  · rw [exec_fence hlegal hbegins hguard, hnone]
    rfl
  · have hgo : ¬ ((releases (extRnd f.ext) && !s.performed i (s.liveOf i)) || (acquires (extRnd f.ext) && !s.loadsBound i (s.liveOf i))) = true := by
      simp only [Bool.or_eq_true, Bool.and_eq_true, Bool.not_eq_true', not_or, not_and, Bool.not_eq_false]
      exact ⟨hrel, hacq⟩
    rw [exec_fence hlegal hbegins hguard, List.isEmpty_eq_false_iff.mpr hlive, if_neg hgo]
    rfl
  · rw [exec_fence hlegal hbegins hguard, List.isEmpty_eq_false_iff.mpr hlive, hrel, hperf]
    rfl
  · rintro rfl
    change execBararv f s = _
    obtain rfl : u = s.arrived i n nb := hu
    subst hn
    simp only [execBararv, memoryWord_of_legal hbegins.cur hlegal, State.uniformGuard, hguard, List.isEmpty_eq_false_iff.mpr hlive, hbroken,
      arriveAt_eq hnb hperf hnew, Bool.not_true, Bool.or_self, Bool.false_eq_true, if_false]
  · rintro rfl hsub
    change execBar f s = _
    obtain rfl : u = s.arrived i n nb := hu
    have hbar := barrier_arrives hnb hlive hbroken hperf hnew (fun s p => s.holdPath i (.bar p))
    subst hn
    simp only [execBar, memoryWord_of_legal hbegins.cur hlegal, State.uniformGuard, hguard, beq_iff_eq, hsub, hhold, Bool.not_true, Bool.false_eq_true,
      if_false]
    by_cases hp : nb.phase < ((s.arrived i (f.d.toNat % 16) nb).block i.b).phase (f.d.toNat % 16)
    · rw [if_pos hp] at hbar
      rw [hbar]
      exact congrArg Host.Outcome.next (if_pos hp).symm
    · rw [if_neg hp] at hbar
      rw [hbar]
      exact congrArg Host.Outcome.next (if_neg hp).symm
  · rintro rfl hsub hdone
    change execBar f s = _
    subst hn
    simp only [execBar, memoryWord_of_legal hbegins.cur hlegal, State.uniformGuard, hguard, hsub, arrivalsDone_of hnb hdone, beq_self_eq_true,
      Bool.not_true, Bool.false_eq_true, if_false, if_true]

/-! ### Phases -/

theorem block_modBlock_self {s : State} {b : Nat} (h : (Table.find s.blocks b).isSome) (f : Block → Block) : (s.modBlock b f).block b = f (s.block b) :=
  Table.get_modify_self ({} : Block) s.blocks b f h

theorem testBarrier_eq (s : State) (b n : Nat) : s.testBarrier b n =
    (let nb := Table.get {} (s.block b).nb n
    if (nb.msq = true ∨ nb.arrived ≠ []) ∧ (∀ t ∈ s.counted b, t ∈ nb.arrived) ∧ ((s.block b).mjoin.getLsbD n = true → nb.msq = true) then
      s.modBlock b (fun bl => { bl with nb := Table.set {} bl.nb n { phase := nb.phase + 1 } })
    else s) := by
  have hcond : ∀ (nb : NBarrier) (l : List Nat) (j : Bool), ((nb.msq || !nb.arrived.isEmpty) && l.all nb.arrived.contains && (nb.msq || !j)) = true ↔
      (nb.msq = true ∨ nb.arrived ≠ []) ∧ (∀ t ∈ l, t ∈ nb.arrived) ∧ (j = true → nb.msq = true) := by
    intro nb l j
    have hj : (nb.msq || !j) = true ↔ (j = true → nb.msq = true) := by cases j <;> simp
    rw [Bool.and_eq_true, Bool.and_eq_true, hj, and_assoc]
    simp
  simp only [State.testBarrier, hcond]

/-- Settles O31. -/
theorem barrierPhases : Obligations.BarrierPhases := by
  unfold Obligations.BarrierPhases
  intro s b n hpresent hwf
  rw [testBarrier_eq]
  dsimp only
  split
  · rw [block_modBlock_self hpresent]
    refine ⟨?_, rfl⟩
    dsimp only
    rw [Table.get_set hwf, if_pos rfl]
  · exact ⟨rfl, rfl⟩

end Sys2Proof.Machine
end


section
/-! SUPPORT. Words that wait from their first issue on (10 R299, R300; 16 R443): what noting the time of the first issue leaves; WAITW (O32). -/

namespace Sys2Proof.Machine

/-! ### What an access reads beside threads and groups -/

theorem walkFrom_world (v : State) (p : Partition) (va : Nat) (ls : List (Nat × Nat)) (table : Nat) :
    v.world.walkFrom p va ls table = v.walkFrom p va ls table := by
  induction ls generalizing table with
  | nil => rfl
  | cons e ls ih =>
    obtain ⟨shift, n⟩ := e
    simp only [State.walkFrom, ih]
    rfl

theorem walk_world (v : State) (ctx va : Nat) : v.world.walk ctx va = v.walk ctx va := walkFrom_world ..

/-- The definition unfolds as a constant: on its arguments the kernel would evaluate the walk. -/
theorem entryLeaf_unfolded (T : State → Req → Nat → Option Leaf) (hT : T = State.entryLeaf) {v w : State} {r : Req} {va : Nat}
    (h : w.walk r.ctx va = v.walk r.ctx va) : T w r va = T v r va := by
  delta State.entryLeaf at hT
  subst hT
  dsimp only
  rw [h]

theorem entryLeaf_world (v : State) (r : Req) (va : Nat) : v.world.entryLeaf r va = v.entryLeaf r va := entryLeaf_unfolded _ rfl (walk_world ..)

theorem placeOf_world (v : State) (r : Req) (l : LaneReq) : v.world.placeOf r l = v.placeOf r l := by
  simp only [State.placeOf, entryLeaf_world]

theorem ordersAll_world (v : State) (r : Req) : v.world.ordersAll r = v.ordersAll r := by
  simp only [State.ordersAll, entryLeaf_world]

theorem comesFirst_world (v : State) (q r : Req) : v.world.comesFirst q r = v.comesFirst q r := by
  simp only [State.comesFirst, State.sameThread, State.sameByte, State.sameBytes, State.threadsOf, ordersAll_world, placeOf_world]

theorem mayAccess_world (v : State) (i : Issue) (sp : Space) (va a w : Nat) (rel so : Bool) :
    v.world.mayAccess i sp va a w rel so = v.mayAccess i sp va a w rel so := by
  simp only [State.mayAccess, State.inOrder, comesFirst_world]
  rfl

/-- Likewise unfolded as a constant. -/
theorem reachNow_unfolded (T : State → Nat → Option Nat → Nat → Nat → Need → Reach) (hT : T = State.reachNow) {s u : State} {ctx : Nat} {b : Option Nat}
    {va w : Nat} {n : Need} (hreach : u.reach ctx b [] va w n = s.reach ctx b [] va w n) (hwalk : u.walk ctx va = s.walk ctx va)
    (hthrough : State.through u = State.through s) : T u ctx b va w n = T s ctx b va w n := by
  delta State.reachNow at hT
  subst hT
  dsimp only
  rw [hreach, hwalk, hthrough]

section
variable {i : Issue} {s u : State} (h : Alike i s u)
include h

theorem Alike.reachNow (ctx : Nat) (b : Option Nat) (va w : Nat) (n : Need) : u.reachNow ctx b va w n = s.reachNow ctx b va w n :=
  reachNow_unfolded _ rfl (h.reach ..) (h.of_world (fun v => v.walk ctx va) fun _ => walk_world ..)
    (funext fun ctx => funext fun va => funext fun n => funext fun l => h.through ctx va n l)

theorem Alike.mayAccess (sp : Space) (va a w : Nat) (rel so : Bool) : u.mayAccess i sp va a w rel so = s.mayAccess i sp va a w rel so :=
  h.of_world (fun v => v.mayAccess i sp va a w rel so) fun _ => mayAccess_world ..

end

/-! ### The time of the first issue -/

/-- Two states that differ only in when words of their threads first issued. -/
structure Noted (s u : State) : Prop where
  world : u.world = s.world
  groups : u.groups = s.groups
  thread : ∀ k, ∃ w, u.thread k = { s.thread k with waitFrom := w }

theorem Noted.trans {s t u : State} (h : Noted s t) (g : Noted t u) : Noted s u where
  world := g.world.trans h.world
  groups := g.groups.trans h.groups
  thread k := by
    obtain ⟨w, hw⟩ := h.thread k
    obtain ⟨w', hw'⟩ := g.thread k
    exact ⟨w', by rw [hw', hw]⟩

section
variable {s u : State} (h : Noted s u)
include h

theorem Noted.of_world {α : Type} (f : State → α) (hf : ∀ v, f v.world = f v) : f u = f s := by
  rw [← hf u, h.world, hf s]

theorem Noted.time : u.time = s.time := h.of_world State.time fun _ => rfl
theorem Noted.block (b : Nat) : u.block b = s.block b := h.of_world (fun v => v.block b) fun _ => rfl
theorem Noted.group (k : Nat) : u.group k = s.group k := by rw [State.group, h.groups, ← State.group]

theorem Noted.role (k : Nat) : (u.thread k).role = (s.thread k).role := by
  obtain ⟨w, hw⟩ := h.thread k
  rw [hw]

theorem Noted.holdOf (i : Issue) : u.holdOf i = s.holdOf i := by rw [State.holdOf, h.group, ← State.holdOf]

theorem Noted.alike (i : Issue) : Alike i s u := by
  refine ⟨h.world, ?_, ?_, ?_, ?_⟩
  · rw [h.group]
  · rw [h.group]
  · rw [h.group]
  · rw [State.failedPages, h.group, ← State.failedPages]

theorem Noted.locate (k : Nat) (code : BitVec 7) (o : Opd) (index : Option Nat) : locate (u.thread k) code o index = locate (s.thread k) code o index := by
  obtain ⟨w, hw⟩ := h.thread k
  rw [hw]
  exact locate_congr rfl ..

theorem Noted.cells (i : Issue) (t : Nat) (l : Loc) (n : Nat) : u.cells i t l n = s.cells i t l n := by
  obtain ⟨w, hw⟩ := h.thread (i.tk t)
  refine List.map_congr_left fun j _ => ?_
  cases l with
  | v r => simp only [State.cell, hw]
  | s r => simp only [State.cell, h.group]

theorem Noted.read (i : Issue) (t : Nat) (code : BitVec 7) (e : Bool) (o : Opd) (index : Option Nat) :
    u.read i t code e o index = s.read i t code e o index := by
  unfold State.read
  rw [h.locate]
  simp only [h.cells]

theorem Noted.readUniform (i : Issue) (t : Nat) (l : List (BitVec 7 × Bool × Opd × Option Nat)) : u.readUniform i t l = s.readUniform i t l := by
  induction l with
  | nil => rfl
  | cons a l ih =>
    obtain ⟨code, e, o, x⟩ := a
    simp only [State.readUniform, h.read, ih]

theorem Noted.destReady (i : Issue) (t : Nat) (l : Loc) (n : Nat) : u.destReady i t l n = s.destReady i t l n := by
  obtain ⟨w, hw⟩ := h.thread (i.tk t)
  simp only [State.destReady, h.cells, hw]

theorem Noted.eachReady (i : Issue) (q : Fields) (sh : Shape) : u.eachReady i q sh = s.eachReady i q sh := by
  have hactive : u.active i (extGuard q.ext) = s.active i (extGuard q.ext) := by
    refine List.filter_congr fun t _ => ?_
    obtain ⟨w, hw⟩ := h.thread (i.tk t)
    rw [hw]
    rfl
  simp only [State.eachReady, State.receivers, hactive, h.locate, h.destReady]

end

/-- Noting the first issue on one thread. -/
def Thread.startWait (th : Thread) (pc : W64) (time : Nat) : Thread :=
  if th.waitFrom.any (fun w => w.1 == pc) then th else { th with waitFrom := some (pc, time) }

theorem noted_modThread (s : State) (k : Nat) (pc : W64) (time : Nat) : Noted s (s.modThread k (fun th => th.startWait pc time)) where
  world := rfl
  groups := rfl
  thread j := by
    rw [State.thread_modThread]
    split
    · unfold Thread.startWait
      split
      · exact ⟨_, rfl⟩
      · exact ⟨_, rfl⟩
    · exact ⟨_, rfl⟩

/-- The same time is noted on every thread of the path. -/
theorem startWait_eq (s : State) (i : Issue) : s.startWait i = (lanesOf i.path).foldl (fun u t => u.modThread (i.tk t) (fun th => th.startWait i.pc s.time)) s := by
  have h : ∀ (l : List Nat) (u : State), u.time = s.time → l.foldl (fun u t => u.modThread (i.tk t) (fun th =>
      if th.waitFrom.any (fun w => w.1 == i.pc) then th else { th with waitFrom := some (i.pc, u.time) })) u =
      l.foldl (fun u t => u.modThread (i.tk t) (fun th => th.startWait i.pc s.time)) u := by
    intro l
    induction l with
    | nil => exact fun _ _ => rfl
    | cons t l ih =>
      intro u hu
      rw [List.foldl_cons, List.foldl_cons, hu]
      exact ih _ hu
  exact h _ s rfl

theorem noted_startWait (s : State) (i : Issue) : Noted s (s.startWait i) := by
  rw [startWait_eq]
  generalize s.time = time
  induction lanesOf i.path generalizing s with
  | nil => exact ⟨rfl, rfl, fun k => ⟨_, rfl⟩⟩
  | cons t l ih => exact (noted_modThread s (i.tk t) i.pc time).trans (ih _)

/-- When a word that a path issues first issued, its first issue being noted. -/
theorem firstIssue_startWait {s : State} {i : Issue} (hmem : firstLane i.path ∈ lanesOf i.path) : (s.startWait i).firstIssue i =
    (match (s.thread (i.tk (firstLane i.path))).waitFrom with
      | some (p, t) => if p = i.pc then t else s.time
      | none => s.time) := by
  have hfind : Table.find (s.startWait i).threads (i.tk (firstLane i.path)) =
      (Table.find s.threads (i.tk (firstLane i.path))).map (fun th => th.startWait i.pc s.time) := by
    rw [startWait_eq, fold_mod i (fun _ th => th.startWait i.pc s.time) _ (lanesOf_nodup _), if_pos hmem]
  have htime : (s.startWait i).time = s.time := (noted_startWait s i).time
  unfold State.firstIssue
  rw [htime]
  cases hth : Table.find s.threads (i.tk (firstLane i.path)) with
  | none =>
    rw [hth] at hfind
    have hnone : s.thread (i.tk (firstLane i.path)) = {} := by rw [State.thread, Table.get, hth]; rfl
    have hnone' : (s.startWait i).thread (i.tk (firstLane i.path)) = {} := by rw [State.thread, Table.get, hfind]; rfl
    rw [hnone, hnone']
    rfl
  | some th =>
    have hnoted : Table.find (s.startWait i).threads (i.tk (firstLane i.path)) = some (th.startWait i.pc s.time) := by rw [hfind, hth]; rfl
    rw [State.thread_of_find hth, State.thread_of_find hnoted, Thread.startWait]
    cases hw : th.waitFrom with
    | none => simp
    | some w =>
      obtain ⟨p, t⟩ := w
      by_cases hp : p = i.pc
      · simp [hw, hp]
      · simp [hp]

theorem firstLane_mem_of_ne {m : W32} (h : m ≠ 0#32) : firstLane m ∈ lanesOf m := by
  refine firstLane_mem ?_
  refine Classical.byContradiction fun hnone => ?_
  refine h (BitVec.eq_of_getLsbD_eq fun t ht => ?_)
  rw [BitVec.getLsbD_zero]
  refine Classical.byContradiction fun hbit => ?_
  exact hnone ⟨t, (mem_lanesOf m t).mpr ⟨ht, by simpa using hbit⟩⟩

/-! ### WAITW -/

/-- WAITW whose word lies on a wake-enabled page and may be read now (R300). -/
theorem exec_waitw {f : RForm} {sh : Shape} {s : State} {i : Issue} {x c r a pa o : Nat} (hlegal : LegalR s i 0xC3 f sh) (honce : Once s i f.ext)
    (hsome : i.path ≠ 0#32) (hcalm : ∀ t ∈ lanesOf i.path, (s.thread (i.tk t)).pending = none)
    (hread : s.readUniform i (firstLane i.path) [(f.a, f.ea, sh.a, if extXo f.ext == 1 then some (extXs f.ext) else none),
      (extC f.ext, extEc f.ext, sh.c, none)] = .vals [x, c])
    (hrecord : (s.group i.gk).record (f.b.toNat % 16) f.eb = .val r) (haddr : waitAddress (f.b.toNat % 16) (BitVec.ofNat 128 r) x = .addr a)
    (hreach : s.reachNow (s.block i.b).ctx (some i.b) a 8 Need.read = .ok .main pa o) (hwake : s.wakeEnabled (s.block i.b).ctx a = true)
    (hmay : s.mayAccess i .main a pa 8 (releases (extRnd f.ext)) (o == 0) = true) (hready : s.eachReady i (Fields.ofR f) sh = true) :
    exec (.waitw f) s = .next ((s.startWait i).waitAt i f sh a pa o c) := by
  have hn := noted_startWait s i
  generalize hu : s.startWait i = u at hn
  have hlive : ((u.thread (i.tk (firstLane i.path))).role == Role.helper) = false := by rw [hn.role, honce.live]; rfl
  have hreadu : u.readUniform i (firstLane i.path) [((Fields.ofR f).a, (Fields.ofR f).ea, sh.a, if (Fields.ofR f).xo == 1 then some (Fields.ofR f).xs
      else none), ((Fields.ofR f).c, (Fields.ofR f).ec, sh.c, none)] = .vals [x, c] := (hn.readUniform ..).trans hread
  have hwakeu : u.wakeEnabled (u.block i.b).ctx a = true := by
    rw [hn.block, ← hwake]
    exact hn.of_world (fun v => v.wakeEnabled (s.block i.b).ctx a) fun _ => rfl
  have hreachu : u.waitReach i a = .ok .main pa o := by
    have hnow : u.reachNow (u.block i.b).ctx (some i.b) a 8 Need.read = .ok .main pa o := by rw [hn.block, (hn.alike i).reachNow, hreach]
    simp only [State.waitReach, hnow, hwakeu, beq_self_eq_true, Bool.and_self, if_true]
  change execWaitw f s = _
  simp only [execWaitw, memoryWord_of_legal honce.fresh.cur hlegal, withPending_calm honce.guard hcalm hsome, hu, hlive, hreadu, hn.group, hrecord,
    argsOf, List.cons_append, List.nil_append, haddr, hreachu, (hn.alike i).mayAccess, hmay, hn.eachReady, hready, Bool.not_true, Bool.or_self,
    Bool.false_eq_true, if_false]

/-- Settles O32. -/
theorem wakeWordsComplete : Obligations.WakeWordsComplete := by
  unfold Obligations.WakeWordsComplete
  refine ⟨fun f sh s i x c r a pa o t0 hlegal honce hsome hcalm hread hrecord haddr hreach hwake hmay hready hclean ht0 => ?_, fun s b g => rfl⟩
  have hn := noted_startWait s i
  have hload : (s.startWait i).load .main pa 8 = s.load .main pa 8 := hn.of_world (fun v => v.load .main pa 8) fun _ => rfl
  have hpoison : (s.startWait i).poisoned .main pa = false := (hn.of_world (fun v => v.poisoned .main pa) fun _ => rfl).trans hclean
  have hissue : (s.startWait i).firstIssue i = t0 := (firstIssue_startWait (firstLane_mem_of_ne hsome)).trans ht0.symm
  have hlimit : (s.startWait i).waitLimit i (extSub f.ext / 8) =
      if extSub f.ext / 8 = 0 then none else some (t0 + 2 ^ (extSub f.ext / 8)) := by
    simp only [State.waitLimit, hissue, beq_iff_eq]
  rw [exec_waitw hlegal honce hsome hcalm hread hrecord haddr hreach hwake hmay hready]
  simp only [State.waitAt, hn.holdOf, hload, hpoison, hn.block, hn.time, hlimit, Bool.false_eq_true, if_false]
  refine ⟨fun hgo => ?_, fun hsame htmo hhold hearly => ?_⟩
  · rw [if_pos ?_]
    · simp only [Bool.or_eq_true, beq_iff_eq]
    · simp only [Bool.or_eq_true, bne_iff_ne, beq_iff_eq]
      rcases hgo with hne | htmo | hover | ⟨hhold, htmo, hlate⟩
      · exact .inl (.inl hne)
      · exact .inl (.inr htmo)
      · exact .inr (.inl hover)
      · refine .inr (.inr ?_)
        simp [hhold, htmo, hlate]
  · rw [hhold, if_neg ?_, if_neg Bool.false_ne_true]
    rcases hearly with hzero | hearly
    · simp [hsame, hzero]
    · have hany : ∀ z : Bool, (if z then none else some (t0 + 2 ^ (extSub f.ext / 8))).any (fun d => decide (d ≤ s.time)) = false := by
        rintro (_ | _)
        · simpa using hearly
        · rfl
      simpa [hsame, htmo] using hany (decide (extSub f.ext / 8 = 0))

end Sys2Proof.Machine
end


section
/-! SUPPORT. Clause headers (O33) and the system words (O34). -/

namespace Sys2Proof.Machine

/-! ### The waits of a header -/

/-- Where no live thread holds a marked register, none leaves the path (R210). -/
theorem takeMarks_none {s : State} {i : Issue} (h : ∀ t ∈ s.liveOf i, s.markTrap i t = none) : s.takeMarks i = (s, i) := by
  have hnone : (s.liveOf i).filterMap (fun t => (s.markTrap i t).map (fun r => (t, r))) = [] := by
    rw [List.filterMap_eq_nil_iff]
    intro t ht
    rw [h t ht]
    rfl
  rw [State.takeMarks, hnone, leavePath_nil]

section
variable {h : Header} {s : State} {i : Issue} {k : Nat}

/-- The load wait of a header is satisfied (R37). -/
theorem headerLoads_done (hsome : i.path ≠ 0#32)
    (hwl : h.wl = true → (∀ t ∈ lanesOf i.path, (s.thread (i.tk t)).pending = none) ∧ s.loadsFilled i k = true ∧ ∀ t ∈ s.liveOf i, s.markTrap i t = none) :
    s.headerLoads i h k = s.headerStores i h k := by
  unfold State.headerLoads
  cases hw : h.wl with
  | false => rfl
  | true =>
    obtain ⟨hcalm, hfilled, hmarks⟩ := hwl hw
    simp only [Bool.not_true, Bool.false_eq_true, if_false, takePending_calm hcalm, takeMarks_none hmarks, hfilled, beq_eq_false_iff_ne.mpr hsome]

theorem headerBarrier_off (hbv : h.bv = false) (phase : Option Nat) : s.headerBarrier i h k phase = s.enterClause i := by
  simp [State.headerBarrier, hbv]

theorem headerTag_off (htv : h.tv = false) : s.headerTag i h k = s.headerBarrier i h k none := by
  simp [State.headerTag, htv]

theorem headerStores_done (hws : h.ws = true → s.storesDone i k = true) : s.headerStores i h k = s.headerTag i h k := by
  unfold State.headerStores
  cases hw : h.ws with
  | false => rfl
  | true => rw [hws hw]; rfl

/-- A legal header met by a path that nothing holds begins its waits (R37). -/
theorem exec_clauseHeader (hcur : s.cur = .group i) (hlegal : h.legal = true) (hhold : s.holdOf i = none) :
    exec (.clauseHeader h) s = .next (s.headerLoads i h s.nextId) := by
  change execClauseHeader h s = _
  simp only [execClauseHeader, onGroup_of_cur hcur, hlegal, hhold, Bool.not_true, Bool.false_eq_true, if_false]

/-- The barrier wait of a header whose path arrives. -/
theorem headerBarrier_arrives {u : State} {p : Nat} (hbv : h.bv = true) (hlive : s.liveOf i ≠ [])
    (hbroken : (s.block i.b).broken h.nb.toNat = false) (harrive : s.arriveAt i h.nb.toNat = some (u, p)) :
    s.headerBarrier i h k none = if p < (u.block i.b).phase h.nb.toNat then (u.clearNear (s.block i.b).core).enterClause i
      else u.holdPath i (.header 3 k (some p)) := by
  simp only [State.headerBarrier, hbv, State.barrier, List.isEmpty_eq_false_iff.mpr hlive, hbroken, harrive, Bool.not_true, Bool.false_eq_true, if_false,
    decide_eq_true_eq]
  by_cases hp : p < (u.block i.b).phase h.nb.toNat
  · simp only [hp, if_true]
  · simp only [hp, if_false]

end

/-- Settles O33. -/
theorem headersComplete : Obligations.HeadersComplete := by
  unfold Obligations.HeadersComplete
  rintro h s i k hcur hlegal hhold hsome rfl hwl
  rw [exec_clauseHeader hcur hlegal hhold, headerLoads_done hsome hwl]
  refine ⟨fun _ hstores htv hbv => ?_, fun hws hstores => ?_, fun hws htv hbv => ?_, fun hws htv hbv howned => ?_,
    fun u p hws htv hbv hlive hbroken harrive => ?_⟩
  · rw [headerStores_done fun _ => hstores, headerTag_off htv, headerBarrier_off hbv]
  · simp only [State.headerStores, hws, hstores, Bool.not_false, Bool.and_self, if_true]
  · rw [headerStores_done (by simp [hws]), headerTag_off htv, headerBarrier_off hbv]
  · rw [headerStores_done (by simp [hws])]
    simp only [State.headerTag, htv, howned, headerBarrier_off hbv, Bool.not_true, Bool.false_eq_true, if_false]
    cases (s.block i.b).tgm.getLsbD h.tag.toNat <;> rfl
  · rw [headerStores_done (by simp [hws]), headerTag_off htv, headerBarrier_arrives hbv hlive hbroken harrive]

/-! ### System words -/

theorem exec_mcall {f : RForm} {sh : Shape} {s : State} {i : Issue} (hlegal : LegalR s i 0xE0 f sh) (hcur : s.cur = .group i) (hbody : i.body = none)
    (hmacro : extSub f.ext < (s.block i.b).macros.length) : exec (.mcall f) s =
      .next ((lanesOf i.path).foldl (fun u t => u.modThread (i.tk t) (fun th => { th with inMacro := .body })) s) := by
  change execMcall f s = _
  simp only [execMcall, control_of_legal hcur hlegal, hbody, Nat.not_le.mpr hmacro, if_false]

/-- SLEEP at its first issue, or issued again (R443). -/
theorem exec_sleep {f : RForm} {sh : Shape} {s : State} {i : Issue} {t0 a : Nat} (hlegal : LegalR s i 0xF5 f sh) (hcur : s.cur = .group i)
    (hhold : s.holdOf i = none) (hsome : i.path ≠ 0#32) (hguard : extGuard f.ext (s.thread (i.tk (firstLane i.path))) = true)
    (ht0 : t0 = (match (s.thread (i.tk (firstLane i.path))).waitFrom with
      | some (p, t) => if p = i.pc then t else s.time
      | none => s.time))
    (hread : s.readA i (firstLane i.path) f Opd.one = .val a) :
    exec (.sleep f) s = .next (if t0 + a ≤ s.time then { ((s.startWait i).waitOver i).endPass i with contexts := s.contexts }
      else (s.startWait i).holdPath i (.sleep (t0 + a))) := by
  have hissue : (s.startWait i).firstIssue i = t0 := (firstIssue_startWait (firstLane_mem_of_ne hsome)).trans ht0.symm
  have hcontexts : ((s.startWait i).waitOver i).contexts = s.contexts := by
    have hover : ((s.startWait i).waitOver i).contexts = (s.startWait i).contexts := by
      unfold State.waitOver
      exact foldl_modThread_of i _ State.contexts (fun _ _ _ => rfl) _ _
    exact hover.trans ((noted_startWait s i).of_world State.contexts fun _ => rfl)
  change execSleep f s = _
  simp only [execSleep, control_of_legal hcur hlegal, hhold, State.uniformGuard, hguard, hread, hissue, State.quietEnd, hcontexts, Bool.not_true,
    Bool.false_eq_true, if_false]

/-- Settles O34, word by word. -/
theorem systemWordsComplete : Obligations.SystemWordsComplete := by
  unfold Obligations.SystemWordsComplete
  intro s i hbegins
  have hcur := hbegins.cur
  refine ⟨?_, fun f sh hlegal => ?_, fun f sh hlegal => ?_, fun f sh hlegal hbody hmacro => exec_mcall hlegal hcur hbody hmacro,
    fun f sh t0 hlegal hhold hsome hguard ht0 a hread => exec_sleep hlegal hcur hhold hsome hguard ht0 hread, fun f sh hlegal hhold => ?_,
    fun b g => rfl, fun f sh u hlegal hguard hu => ?_⟩
  · change execNop s = _
    rw [execNop, onGroup_of_cur hcur]
  · change execTrap f s = _
    rw [execTrap, softTrap, control_of_legal hcur hlegal]
  · change execBkpt f s = _
    rw [execBkpt, softTrap, control_of_legal hcur hlegal]
  · have hcontexts : (s.waitOver i).contexts = s.contexts := by
      unfold State.waitOver
      exact foldl_modThread_of i _ State.contexts (fun _ _ _ => rfl) _ _
    change execSleep f s = _
    simp only [execSleep, control_of_legal hcur hlegal, hhold, State.quietEnd, hcontexts]
  · subst hu
    change execYield f s = _
    simp only [execYield, control_of_legal hcur hlegal, State.uniformGuard, hguard, Bool.not_true, Bool.false_eq_true, if_false, Bool.and_eq_true,
      beq_iff_eq]

end Sys2Proof.Machine
end


section
/-! SUPPORT. CSRR and CSRW (O35). -/

namespace Sys2Proof.Machine

/-! ### CSRR -/

/-- What a control register reads rests on the reading thread, the first thread of the path, the group and the block. -/
theorem csrValue_congr {s u : State} {i : Issue} {t n : Nat} (hthread : u.thread (i.tk t) = s.thread (i.tk t))
    (hth : (u.thread (i.tk (firstLane i.path))).th = (s.thread (i.tk (firstLane i.path))).th) (hgroup : u.group i.gk = s.group i.gk)
    (hblock : u.block i.b = s.block i.b) : u.csrValue i t n = s.csrValue i t n := by
  unfold State.csrValue
  rw [hthread, hth, hgroup, hblock]

/-- CSRR writes one register or a pair, named directly. -/
theorem csrr_shape {f : RForm} {sh : Shape} (hshape : rShape 0xF2 f = some sh) : sh.d.raw = false ∧ sh.d.n ≠ 0 ∧ extXo f.ext = 0 := by
  change controlShape 0xF2 f = some sh at hshape
  simp only [controlShape] at hshape
  split at hshape
  · next w _ =>
    unfold shapeIf at hshape
    split at hshape
    · next hok =>
      simp only [Bool.and_eq_true] at hok
      obtain ⟨-, hext⟩ := hok
      obtain rfl := Option.some.inj hshape
      refine ⟨?_, ?_, ?_⟩
      · dsimp only
        split <;> rfl
      · dsimp only
        split <;> decide
      · unfold guardOnly at hext
        cases he : f.ext with
        | none => rfl
        | some e =>
          rw [he] at hext
          simp only [Bool.and_eq_true, beq_iff_eq] at hext
          simp [extXo, hext]
    · simp at hshape
  · simp at hshape

/-- A thread's turn of CSRR on v registers. -/
def State.csrrWrite (s : State) (f : RForm) (sh : Shape) (i : Issue) (u : State) (t : Nat) : State :=
  u.writeCells i t (.v f.d.toNat) sh.d.n (s.csrValue i t (32 * f.a.toNat + f.b.toNat))

section
variable (s u : State) (f : RForm) (sh : Shape) (i : Issue)

theorem csrrWrite_alike (t : Nat) : Alike i u (s.csrrWrite f sh i u t) ∧ ∀ k, k ≠ i.tk t → (s.csrrWrite f sh i u t).thread k = u.thread k :=
  ⟨.writeCells_v .., fun k hk => writeCells_thread u i t _ _ _ k (.inl ⟨_, rfl⟩) hk⟩

theorem csrrWrite_th (pre : List Nat) (k : Nat) : ((pre.foldl (s.csrrWrite f sh i) u).thread k).th = (u.thread k).th := by
  refine foldl_keep _ (fun v => (v.thread k).th) (fun v t => ?_) pre u
  unfold State.csrrWrite
  rw [writeCells_v]
  exact State.thread_modThread_of _ _ _ _ Thread.th fun _ => rfl

theorem csrrWrite_group (pre : List Nat) (k : Nat) : (pre.foldl (s.csrrWrite f sh i) u).group k = u.group k :=
  foldl_keep _ (fun v => v.group k) (fun v t => writeCells_group v i t _ _ _ k (.inl ⟨_, rfl⟩)) pre u

end

section
variable {f : RForm} {sh : Shape} {s : State} {i : Issue}

theorem csrr_uniform {l : Loc} (hlegal : LegalR s i 0xF2 f sh) (hcur : s.cur = .group i) (huniform : (Fields.ofR f).uniform sh = true)
    (hguard : extGuard f.ext (s.thread (i.tk (firstLane i.path))) = true)
    (hplace : locate (s.thread (i.tk (firstLane i.path))) f.d sh.d none = .ok l) (hready : s.destReady i (firstLane i.path) l sh.d.n = true) :
    exec (.csrr f) s =
      .next ((s.writeCells i (firstLane i.path) l sh.d.n (s.csrValue i (firstLane i.path) (32 * f.a.toNat + f.b.toNat))).endPass i) := by
  have hd : 96 ≤ f.d.toNat := by
    simp only [Fields.uniform, Bool.and_eq_true, decide_eq_true_eq] at huniform
    exact huniform.2
  have hl : l = .s (f.d.toNat - 96) := by
    rw [locate, if_neg (by omega)] at hplace
    exact (Except.ok.inj hplace).symm
  have hready' : s.destReady i (firstLane i.path) (.s ((Fields.ofR f).d.toNat - 96)) sh.d.n = true := hl ▸ hready
  subst hl
  change execCsrr f s = _
  simp only [execCsrr, onGroup_of_cur hcur, hlegal.shape, hlegal.legal, hlegal.below, huniform, State.uniformGuard, hguard, hready', csrNumber,
    Nat.mul_comm 32, Bool.not_true, Bool.or_self, Bool.false_eq_true, if_false, if_true]
  rfl

theorem csrr_each {l : Nat → Loc} (hlegal : LegalR s i 0xF2 f sh) (hbegins : Begins s i) (huniform : (Fields.ofR f).uniform sh = false)
    (hready : ∀ t ∈ s.active i (extGuard f.ext), locate (s.thread (i.tk t)) f.d sh.d none = .ok (l t) ∧ s.destReady i t (l t) sh.d.n = true) :
    exec (.csrr f) s = .next (State.endPass ((s.active i (extGuard f.ext)).foldl
      (fun u t => u.writeCells i t (l t) sh.d.n (s.csrValue i t (32 * f.a.toNat + f.b.toNat))) s) i) := by
  obtain ⟨hraw, hn, hxo⟩ := csrr_shape hlegal.shape
  have hd : f.d.toNat < 96 := by
    have hxo' : (Fields.ofR f).xo = 0 := hxo
    simp only [Fields.uniform, hraw, hxo', Bool.not_false, Bool.true_and, Bool.and_eq_false_iff, bne_eq_false_iff_eq, hn, false_or,
      decide_eq_false_iff_not] at huniform
    have hd' : ¬ 96 ≤ (Fields.ofR f).d.toNat := by simpa using huniform
    exact Nat.not_le.mp hd'
  have hloc : ∀ t ∈ s.active i (extGuard f.ext), l t = .v f.d.toNat := by
    intro t ht
    have hplace := (hready t ht).1
    rw [locate, if_pos hd] at hplace
    exact (Except.ok.inj hplace).symm
  have hexec : exec (.csrr f) s = .next (s.perThread i (extGuard f.ext) (csrrTurn i (Fields.ofR f) sh (32 * f.a.toNat + f.b.toNat))) := by
    change execCsrr f s = _
    simp only [execCsrr, onGroup_of_cur hbegins.cur, hlegal.shape, hlegal.legal, hlegal.below, huniform, csrNumber, Nat.mul_comm 32, Bool.not_true,
      Bool.or_self, Bool.false_eq_true, if_false]
  have hfold : (s.active i (extGuard f.ext)).foldl (fun u t => u.writeCells i t (l t) sh.d.n (s.csrValue i t (32 * f.a.toNat + f.b.toNat))) s =
      (s.active i (extGuard f.ext)).foldl (s.csrrWrite f sh i) s := foldl_congr_mem s fun u t ht => by rw [hloc t ht]; rfl
  rw [hexec, hfold, perThread_done hbegins.fresh _ _ (s.csrrWrite f sh i)]
  intro pre t post hsplit
  have hmem := mem_of_split hsplit
  obtain ⟨hplace, hdest⟩ := hready t hmem
  rw [hloc t hmem] at hplace hdest
  obtain ⟨halike, hthread⟩ := foldl_alike (g := s.csrrWrite f sh i) (fun u t _ => csrrWrite_alike s u f sh i t) (active_nodup ..) s hsplit
  have hvalue := csrValue_congr (n := 32 * f.a.toNat + f.b.toNat) hthread (csrrWrite_th s s f sh i pre _) (csrrWrite_group s s f sh i pre _)
    (halike.of_world (fun v => v.block i.b) fun _ => rfl)
  have hdest' := (halike.destReady hthread ..).trans hdest
  have hplace' : locate ((pre.foldl (s.csrrWrite f sh i) s).thread (i.tk t)) (Fields.ofR f).d sh.d none = .ok (.v f.d.toNat) := hthread ▸ hplace
  simp only [csrrTurn, hplace', hdest', hvalue, if_true]
  rfl

end

/-! ### CSRW -/

section
variable {f : RForm} {sh : Shape} {s : State} {i : Issue}

/-- CSRW of a register of its threads (R442). -/
theorem csrw_each {n : Nat} {x : Nat → Nat} (hlegal : LegalR s i 0xF3 f sh) (hbegins : Begins s i) (hn : n = 32 * f.d.toNat + f.b.toNat)
    (hwhich : n = 0x101 ∨ n = 0x102) (hread : ∀ t ∈ s.active i (extGuard f.ext), s.readA i t f Opd.pair = .val (x t)) :
    exec (.csrw f) s = .next (State.endPass ((s.active i (extGuard f.ext)).foldl (fun u t => u.modThread (i.tk t) (fun th =>
      if n == 0x101 then { th with tepc := pcStored (x t) } else { th with tnpc := pcStored (x t) })) s) i) := by
  have hnumber : csrNumber f.d f.b = n := by rw [hn, csrNumber, Nat.mul_comm]
  have hthreads : (n == 0x101 || n == 0x102) = true := by rcases hwhich with h | h <;> simp [h]
  change execCsrw f s = _
  simp only [execCsrw, control_of_legal hbegins.cur hlegal, hnumber, hthreads, if_true]
  rw [perThread_done hbegins.fresh]
  intro pre t post hsplit
  have hmem := mem_of_split hsplit
  have hpre := not_mem_of_split (active_nodup s i (extGuard f.ext)) hsplit
  have hsame : ∀ u : State, u.thread (i.tk t) = s.thread (i.tk t) → (u.group i.gk).s = (s.group i.gk).s → csrwTurn i f n u t [] =
      .done (u.modThread (i.tk t) (fun th => if n == 0x101 then { th with tepc := pcStored (x t) } else { th with tnpc := pcStored (x t) })) [] := by
    intro u hthread hs
    have hval : u.readA i t f Opd.pair = .val (x t) := (read_congr hthread hs ..).trans (hread t hmem)
    simp only [csrwTurn, hval]
  exact hsame _ (foldl_modThread_thread _ hpre s) (foldl_modThread_of i _ (fun v => (v.group i.gk).s) (fun _ _ _ => rfl) _ _)

/-- CSRW of a register of the group (R434, R442). -/
theorem csrw_once {n x : Nat} (hlegal : LegalR s i 0xF3 f sh) (hcur : s.cur = .group i) (hn : n = 32 * f.d.toNat + f.b.toNat)
    (hguard : extGuard f.ext (s.thread (i.tk (firstLane i.path))) = true) (hgroup : n ≠ 0x101 ∧ n ≠ 0x102)
    (hread : s.readA i (firstLane i.path) f (if n = 0x108 then Opd.pair else Opd.one) = .val x) :
    exec (.csrw f) s = .next (s.csrwGroup i n x) := by
  have hnumber : csrNumber f.d f.b = n := by rw [hn, csrNumber, Nat.mul_comm]
  change execCsrw f s = _
  simp only [execCsrw, control_of_legal hcur hlegal, hnumber, beq_iff_eq, Bool.or_eq_true, hgroup.1, hgroup.2, or_self, if_false, State.uniformGuard,
    hguard, hread, Bool.not_true, Bool.false_eq_true]

end

/-- Settles O35, register by register. -/
theorem controlRegisterWordsComplete : Obligations.ControlRegisterWordsComplete := by
  unfold Obligations.ControlRegisterWordsComplete
  intro f sh s i hbegins
  have hcur := hbegins.cur
  refine ⟨fun hlegal ts l hts hguard hready => ?_, fun hlegal n hn => ⟨fun x hread => ⟨?_, ?_⟩, fun hguard x hread => ⟨?_, ?_, ?_⟩,
    fun hguard x hread hn' => ?_⟩⟩
  · cases huniform : (Fields.ofR f).uniform sh with
    | true =>
      rw [if_pos huniform] at hts
      subst hts
      obtain ⟨hplace, hdest⟩ := hready _ List.mem_cons_self
      exact csrr_uniform hlegal hcur huniform (hguard huniform) hplace hdest
    | false =>
      rw [huniform] at hts
      subst hts
      exact csrr_each hlegal hbegins huniform hready
  · rintro rfl
    rw [csrw_each hlegal hbegins hn (.inl rfl) hread]
    simp only [beq_self_eq_true, if_true, pcStored]
  · rintro rfl
    rw [csrw_each hlegal hbegins hn (.inr rfl) hread]
    simp only [Nat.reduceBEq, Bool.false_eq_true, if_false, pcStored]
  · rintro rfl
    rw [csrw_once hlegal hcur hn hguard (by decide) hread]
    simp only [State.csrwGroup, BitVec.ofNat_toNat, BitVec.setWidth_eq, writeFst]
  · rintro rfl hth
    rw [csrw_once hlegal hcur hn hguard (by decide) hread]
    simp only [State.csrwGroup, hth, BitVec.ofNat_toNat, BitVec.setWidth_eq, Bool.false_eq_true, if_false]
  · rintro rfl hth
    rw [csrw_once hlegal hcur hn hguard (by decide) hread]
    simp only [State.csrwGroup, hth, BitVec.ofNat_toNat, BitVec.setWidth_eq, if_true]
  · subst hn'
    rw [csrw_once hlegal hcur hn hguard (by decide) hread]
    simp only [State.csrwGroup, codeAddrOk_iff, BitVec.ofNat_toNat, BitVec.setWidth_eq]

end Sys2Proof.Machine
end


section
/-! SUPPORT. Remote operations (10 R280 to R292): what sending a packet changes, the turns of the remote words, and RFENCE (O36). -/

namespace Sys2Proof.Machine

/-! ### Sending a packet -/

/-- The state with ports, scale-out peers and records to the outside replaced. -/
def State.sent (s : State) (ports : Table Port) (fars : Table Far) (outbox : List Out) : State := { s with ports := ports, fars := fars, outbox := outbox }

theorem sendFlits_sent (s : State) (n : Nat) (p : Packet) : ∃ ports outbox, s.sendFlits n p = s.sent ports s.fars outbox := by
  unfold State.sendFlits
  generalize pieces64 6 p.bytes = l
  induction l generalizing s with
  | nil => exact ⟨s.ports, s.outbox, rfl⟩
  | cons d l ih =>
    rw [List.foldl_cons]
    obtain ⟨ports, outbox, h⟩ := ih _
    exact ⟨ports, outbox, h⟩

theorem sendPort_sent (s : State) (p : Packet) : ∃ ports outbox, s.sendPort p = s.sent ports s.fars outbox := by
  unfold State.sendPort
  dsimp only
  split
  · exact ⟨_, s.outbox, rfl⟩
  · exact sendFlits_sent ..

theorem send_sent (s : State) (so : Bool) (pkg : Nat) (p : Packet) : ∃ ports fars outbox, s.send so pkg p = s.sent ports fars outbox := by
  cases so with
  | true => exact ⟨s.ports, _, _, rfl⟩
  | false =>
    obtain ⟨ports, outbox, h⟩ := sendPort_sent s p
    exact ⟨ports, s.fars, outbox, h⟩

theorem Table.length_put {α : Type} (m : Table α) (k : Nat) (v : α) : (Table.put m k v).length ≤ m.length + 1 := by
  induction m with
  | nil => exact Nat.le_refl _
  | cons e m ih =>
    rw [Table.put]
    split
    · simp
    · split
      · simp
      · simpa using ih

/-- A request changes the table of outstanding operations and what is sent, and takes a number. -/
theorem request_sent (s : State) (op : RemoteOp) (so : Bool) (h : Head) (body : List Byte) :
    ∃ remote k ports fars outbox, s.request op so h body = ({ s with remote := remote, nextId := k } : State).sent ports fars outbox ∧
      remote.length ≤ s.remote.length + 1 := by
  unfold State.request
  cases s.freeTag with
  | none => exact ⟨s.remote, s.nextId, s.ports, s.fars, s.outbox, rfl, Nat.le_succ _⟩
  | some tag =>
    obtain ⟨ports, fars, outbox, hsent⟩ := send_sent
      { s with remote := Table.put s.remote tag { op with seq := s.nextId, since := s.time, so := so }, nextId := s.nextId + 1 } so op.pkg
      { hdr := { h with dst := s.peerPackage so op.pkg, src := s.package, path := op.path, tag := tag }.bits, body := body }
    exact ⟨_, _, ports, fars, outbox, hsent, Table.length_put ..⟩

/-- What a request leaves alone. -/
theorem request_keeps {β : Type} (g : State → β) (hg : ∀ u remote k ports fars outbox, g (({ u with remote := remote, nextId := k } : State).sent ports fars
    outbox) = g u) (s : State) (op : RemoteOp) (so : Bool) (h : Head) (body : List Byte) : g (s.request op so h body) = g s := by
  obtain ⟨remote, k, ports, fars, outbox, heq, -⟩ := request_sent s op so h body
  rw [heq, hg]

/-! ### The turns of returning remote words -/

theorem remoteTurn_done {f : RForm} {sh : Shape} {w : Nat} {ret : Bool} {i : Issue} {addr c t : Nat} {r : Route} {l : Loc} {s : State}
    (h : RemoteReady f sh w ret i addr c r l s t) {kind : RemoteKind} {lane : LaneReq} {head : Head} {body : List Byte}
    {go : State → Nat → Loc → Nat → Nat → Route → State}
    (hgo : ∀ u l', (ret = true → l' = l) → go u t l' addr c r = u.request (u.remoteOp i kind r (lane.va % 2 ^ 46) [lane]) r.so head body) :
    remoteTurn i f sh w ret go s t [] = .done (s.takeRemote i t sh.d.n ret kind lane l r head body) [] := by
  have hread : s.readA i t f sh.a = .val addr := h.reads
  have hdata : s.read i t (Fields.ofR f).c (Fields.ofR f).ec sh.c none = .val c := h.data
  have hinto : ∃ l', (if ret then locate (s.thread (i.tk t)) (Fields.ofR f).d sh.d (if (Fields.ofR f).xo == 3 then some (Fields.ofR f).xs else none)
      else .ok (Loc.v 0)) = .ok l' ∧ (ret = true → l' = l) := by
    cases ret with
    | false => exact ⟨_, rfl, by simp⟩
    | true => exact ⟨l, (h.place rfl).1, fun _ => rfl⟩
  obtain ⟨l', hloc, hl'⟩ := hinto
  have hready : (ret && !s.destReady i t l' sh.d.n) = false := by
    cases ret with
    | false => rfl
    | true => rw [hl' rfl, (h.place rfl).2]; rfl
  unfold remoteTurn
  simp only [h.calm, hread, hdata, hloc, hready, h.route, Bool.false_eq_true, if_false]
  unfold State.takeRemote
  cases hrole : (s.thread (i.tk t)).role with
  | helper =>
    cases ret with
    | false => rfl
    | true => rw [hl' rfl]; rfl
  | live =>
    obtain ⟨hroom, hresponse⟩ := h.room hrole
    have hfull : (!s.remoteRoom i.b r (addr % 2 ^ 46 / 256) 0 || (ret && !s.responseRoom (s.block i.b).core)) = false := by
      cases ret with
      | false => rw [hroom]; rfl
      | true => rw [hroom, hresponse rfl]; rfl
    simp only [hfull, Bool.false_eq_true, if_false, hgo _ l' hl']
    cases ret with
    | false => rfl
    | true => rw [hl' rfl]

/-! ### Frames of the turns -/

theorem pass_setCell (s : State) (i : Issue) (t : Nat) (l : Loc) (j : Nat) (c : Cell) (k : Nat) :
    ((s.setCell i t l j c).group k).pass = (s.group k).pass := by
  cases l with
  | v r => rfl
  | s r => exact State.group_modGroup_of _ _ _ _ Group.pass fun _ => rfl

theorem pass_writeCells (s : State) (i : Issue) (t : Nat) (l : Loc) (n x k : Nat) : ((s.writeCells i t l n x).group k).pass = (s.group k).pass := by
  unfold State.writeCells
  exact foldl_keep _ (fun u => (u.group k).pass) (fun u j => pass_setCell ..) _ s

theorem pass_emptyCells (s : State) (i : Issue) (t : Nat) (l : Loc) (n k : Nat) : ((s.emptyCells i t l n).group k).pass = (s.group k).pass := by
  unfold State.emptyCells
  exact foldl_keep _ (fun u => (u.group k).pass) (fun u j => pass_setCell ..) _ s

section
variable (s : State) (i : Issue) (t n : Nat) (ret : Bool) (kind : RemoteKind) (lane : LaneReq) (l : Loc) (r : Route) (h : Head) (body : List Byte)

theorem park_takeRemote (k : Nat) : ((s.takeRemote i t n ret kind lane l r h body).thread k).park = (s.thread k).park := by
  unfold State.takeRemote
  cases (s.thread (i.tk t)).role with
  | helper =>
    cases ret with
    | false => rfl
    | true => exact park_writeCells ..
  | live =>
    refine (request_keeps (fun u => (u.thread k).park) (fun _ _ _ _ _ _ => rfl) ..).trans ?_
    refine (State.thread_modThread_of _ _ _ (fun th => { th with replay := none }) Thread.park fun _ => rfl).trans ?_
    cases ret with
    | false => rfl
    | true => exact park_emptyCells ..

theorem pass_takeRemote (k : Nat) : ((s.takeRemote i t n ret kind lane l r h body).group k).pass = (s.group k).pass := by
  unfold State.takeRemote
  cases (s.thread (i.tk t)).role with
  | helper =>
    cases ret with
    | false => rfl
    | true => exact pass_writeCells ..
  | live =>
    refine (request_keeps (fun u => (u.group k).pass) (fun _ _ _ _ _ _ => rfl) ..).trans ?_
    cases ret with
    | false => rfl
    | true => exact pass_emptyCells ..

end

theorem commit_nothing {s : State} {i : Issue} (h : (s.group i.gk).pass = none) (kind : ReqKind) (ord : Nat) (once : Bool) :
    s.commit i kind ord once = s := by
  rw [State.commit, h]

/-! ### A remote word whose turns go through -/

theorem withActivePending_calm {s : State} {i : Issue} {x : Option Ext} (hguard : extGuard x (s.thread (i.tk (firstLane i.path))) = true)
    (hclear : Clear s i) (go : State → Issue → State) : s.withActivePending i x go = go s i := by
  have hnone : (s.active i (extGuard x)).filterMap (fun t => (s.thread (i.tk t)).pending.map (fun r => (t, r))) = [] := by
    rw [List.filterMap_eq_nil_iff]
    intro t ht
    rw [hclear.calm t (List.mem_filter.mp ht).1]
    rfl
  simp [State.withActivePending, State.uniformGuard, hguard, hnone, leavePath_nil, hclear.some_]

/-- The end of a remote word (R213, R289). -/
def State.remoteDone (s : State) (i : Issue) (uniform : Bool) : State := if uniform then (s.replayed i).endPass i else s.endPass i

theorem remoteWord_done {f : RForm} {op : Nat} {sh : Shape} {s : State} {i : Issue} {ts : List Nat} (hlegal : LegalR s i op f sh) (hbegins : Begins s i)
    (hturns : Turns (Fields.ofR f) sh s i ts) (hclear : (Fields.ofR f).uniform sh = true → Clear s i)
    {turn : Issue → Shape → State → Nat → List Nat → Turned} {go : State → Nat → State}
    (hgo : ∀ pre t post, ts = pre ++ t :: post → turn i sh (pre.foldl go s) t [] = .done (go (pre.foldl go s) t) [])
    (hpark : ∀ u t k, ((go u t).thread k).park = (u.thread k).park) (hpass : ∀ u t k, ((go u t).group k).pass = (u.group k).pass) :
    s.remoteWord op f turn = (ts.foldl go s).remoteDone i ((Fields.ofR f).uniform sh) := by
  rw [State.remoteWord, memoryWord_of_legal hbegins.cur hlegal]
  cases huniform : (Fields.ofR f).uniform sh with
  | true =>
    obtain ⟨rfl, hguard, hstays⟩ := hturns.once huniform
    have hguard' : extGuard f.ext (s.thread (i.tk (firstLane i.path))) = true := hguard
    have hnothing : (((go s (firstLane i.path)).replayed i).group i.gk).pass = none :=
      (group_replayed ..).symm ▸ (hpass ..).trans hbegins.fresh
    rw [if_pos rfl, withActivePending_calm hguard' (hclear huniform), memoryOnce_done hguard' .load 0 (hgo [] _ [] rfl) ((hpark ..).trans hstays)]
    simp only [State.memoryDone, if_true, State.memoryEnd, commit_nothing hnothing, State.remoteDone, List.foldl_cons, List.foldl_nil]
  | false =>
    obtain rfl := hturns.each huniform
    rw [if_neg Bool.false_ne_true]
    exact perThread_done hbegins.fresh _ _ go hgo

end Sys2Proof.Machine
end


section
/-! SUPPORT. RST, RLD, RATOM, RFADD and RFENCE (O36). -/

namespace Sys2Proof.Machine

/-! ### Looking up a remote address -/

/-- Unfolded as constants, for their arguments would be evaluated. -/
theorem tableEntry_unfolded (T : State → Nat → Nat → Except Nat Nat) (hT : T = State.tableEntry) {s u : State} {ctx va : Nat}
    (hreach : u.reachNow ctx none (va % 2 ^ 57) 8 Need.read = s.reachNow ctx none (va % 2 ^ 57) 8 Need.read)
    (hpoison : State.poisoned u = State.poisoned s) (hload : State.load u = State.load s) : T u ctx va = T s ctx va := by
  delta State.tableEntry at hT
  subst hT
  dsimp only
  rw [hreach, hpoison, hload]

theorem look_unfolded (T : State → Nat → Nat → Nat → Look) (hT : T = State.look) {s u : State} {ctx addr w : Nat}
    (hcontext : u.context ctx = s.context ctx) (hentry : ∀ va, u.tableEntry ctx va = s.tableEntry ctx va) : T u ctx addr w = T s ctx addr w := by
  delta State.look at hT
  subst hT
  dsimp only
  simp only [hcontext, hentry]

section
variable {i : Issue} {s u : State} (h : Alike i s u)
include h
theorem Alike.tableEntry (ctx va : Nat) : u.tableEntry ctx va = s.tableEntry ctx va :=
  tableEntry_unfolded _ rfl (h.reachNow ..) (h.of_world (fun v => v.poisoned) fun _ => rfl) (h.of_world (fun v => v.load) fun _ => rfl)

theorem Alike.look (ctx addr w : Nat) : u.look ctx addr w = s.look ctx addr w :=
  look_unfolded _ rfl (h.of_world (fun v => v.context ctx) fun _ => rfl) (h.tableEntry ctx)
end

/-! ### RST -/

/-- The accesses a pass has gathered. -/
def State.gatheredCount (s : State) (i : Issue) : Nat :=
  match (s.group i.gk).pass with
  | some p => p.gathered.length
  | none => 0

theorem gatheredCount_gather (s : State) (i : Issue) (x : Gathered) : (s.gather i x).gatheredCount i ≤ s.gatheredCount i + 1 := by
  unfold State.gatheredCount State.gather
  rw [State.group_modGroup]
  by_cases hfind : (Table.find s.groups i.gk).isSome = true
  · simp only [hfind, and_self, if_true]
    cases (s.group i.gk).pass with
    | none => simp [emptyPass]
    | some p => simp
  · simp [hfind]

/-- A thread's turn of a plain RST: its bytes are gathered; a helper stores nothing (R288, R429). -/
def State.rstGather (s : State) (i : Issue) (w : Nat) (addr c : Nat → Nat) (r : Nat → Route) (u : State) (t : Nat) : State :=
  if (s.thread (i.tk t)).role = .helper then u
  else u.gather i { lane := { t := t, va := addr t, addr := addr t % 2 ^ 46, w := w, data := c t }, space := .main, route := some (r t) }

section
variable (s : State) (i : Issue) (w : Nat) (addr c : Nat → Nat) (r : Nat → Route)

theorem rstGather_alike (u : State) (t : Nat) : Alike i u (s.rstGather i w addr c r u t) ∧ (s.rstGather i w addr c r u t).threads = u.threads := by
  unfold State.rstGather
  split
  · exact ⟨.refl i u, rfl⟩
  · exact ⟨.gather i u _, rfl⟩

theorem rstGather_fold (pre : List Nat) (u : State) : Alike i u (pre.foldl (s.rstGather i w addr c r) u) ∧
    (pre.foldl (s.rstGather i w addr c r) u).threads = u.threads ∧
    (pre.foldl (s.rstGather i w addr c r) u).gatheredCount i ≤ u.gatheredCount i + pre.length := by
  induction pre generalizing u with
  | nil => exact ⟨.refl i u, rfl, Nat.le_refl _⟩
  | cons t pre ih =>
    obtain ⟨halike, hthreads⟩ := rstGather_alike s i w addr c r u t
    obtain ⟨halike', hthreads', hcount⟩ := ih (s.rstGather i w addr c r u t)
    have hone : (s.rstGather i w addr c r u t).gatheredCount i ≤ u.gatheredCount i + 1 := by
      unfold State.rstGather
      split
      · exact Nat.le_succ _
      · exact gatheredCount_gather ..
    refine ⟨halike.trans halike', hthreads'.trans hthreads, Nat.le_trans hcount ?_⟩
    rw [List.length_cons]
    omega

end

theorem active_length (s : State) (i : Issue) (g : Thread → Bool) : (s.active i g).length ≤ 32 :=
  Nat.le_trans (List.length_filter_le ..) (Nat.le_trans (List.length_filter_le ..) (by simp))

/-- A pass whose turns are all done, by what it has gathered. -/
theorem exec_rst {f : RForm} {sh : Shape} {s : State} {i : Issue} (hlegal : LegalR s i 0xD0 f sh) (hbegins : Begins s i) (go : State → Nat → State)
    (hgo : ∀ pre t post, s.active i (extGuard f.ext) = pre ++ t :: post → rstTurn i f sh (pre.foldl go s) t [] = .done (go (pre.foldl go s) t) [])
    (hroom : ((s.active i (extGuard f.ext)).foldl go s).gatheredRoom i = true) :
    exec (.rst f) s = .next ((((s.active i (extGuard f.ext)).foldl go s).sendGathered i).endPass i) := by
  change execRst f s = _
  simp only [execRst, memoryWord_of_legal hbegins.cur hlegal, passStart_fresh hbegins.fresh, runLanes_done i _ go _ s 0#32 [] hgo, hroom, if_true]

theorem gatheredRoom_of {s : State} {i : Issue} (h : s.tagsTaken + s.gatheredCount i ≤ 131072) : s.gatheredRoom i = true := decide_eq_true h

section
variable {f : RForm} {sh : Shape} {s : State} {i : Issue} {addr c : Nat → Nat} {r : Nat → Route}

theorem rst_plain (hlegal : LegalR s i 0xD0 f sh) (hbegins : Begins s i) (hsub : extSub f.ext < 8)
    (hready : ∀ t ∈ s.active i (extGuard f.ext), (s.thread (i.tk t)).pending = none ∧ s.readA i t f sh.a = .val (addr t) ∧
      s.look (s.block i.b).ctx (addr t) (sizeBytes (extSub f.ext)) = .ok (r t) ∧
      s.read i t f.d false sh.d (if extXo f.ext == 3 then some (extXs f.ext) else none) = .val (c t) ∧
      ((s.thread (i.tk t)).role = .live → ∀ n < 32, s.remoteRoom i.b (r t) (addr t % 2 ^ 46 / 256) n = true))
    (htags : s.tagsTaken + 32 ≤ 131072) :
    exec (.rst f) s = .next ((((s.active i (extGuard f.ext)).foldl (s.rstGather i (sizeBytes (extSub f.ext)) addr c r) s).sendGathered i).endPass i) := by
  have hnone : s.gatheredCount i = 0 := by rw [State.gatheredCount, hbegins.fresh]
  refine exec_rst hlegal hbegins _ (fun pre t post hsplit => ?_) (gatheredRoom_of ?_)
  · obtain ⟨hpending, hread, hlook, hdata, hroom⟩ := hready t (mem_of_split hsplit)
    obtain ⟨halike, hthreads, hcount⟩ := rstGather_fold s i (sizeBytes (extSub f.ext)) addr c r pre s
    have hlen : pre.length < 32 := by
      have hall := active_length s i (extGuard f.ext)
      rw [hsplit, List.length_append, List.length_cons] at hall
      omega
    generalize hu : pre.foldl (s.rstGather i (sizeBytes (extSub f.ext)) addr c r) s = u at *
    have hthread : u.thread (i.tk t) = s.thread (i.tk t) := by rw [State.thread, hthreads, ← State.thread]
    have hread' : u.readA i t f sh.a = .val (addr t) := (halike.read hthread ..).trans hread
    have hdata' : u.read i t (Fields.ofR f).d false sh.d (if (Fields.ofR f).xo == 3 then some (Fields.ofR f).xs else none) = .val (c t) :=
      (halike.read hthread ..).trans hdata
    have hlook' : u.look (u.block i.b).ctx (addr t) (sizeBytes (extSub f.ext)) = .ok (r t) := by
      rw [halike.of_world (fun v => v.block i.b) fun _ => rfl, halike.look, hlook]
    have hmod : extSub f.ext % 8 = extSub f.ext := Nat.mod_eq_of_lt hsub
    have hplain : ¬ 8 ≤ extSub f.ext := Nat.not_le.mpr hsub
    unfold rstTurn
    simp only [hthread, hpending, hread', hmod, hlook', hdata', State.rstGather]
    cases hrole : (s.thread (i.tk t)).role with
    | helper => rfl
    | live =>
      have hfits : u.remoteRoom i.b (r t) (addr t % 2 ^ 46 / 256) (u.gatheredCount i) = true :=
        (halike.of_world (fun v => v.remoteRoom i.b (r t) (addr t % 2 ^ 46 / 256) (u.gatheredCount i)) fun _ => rfl).trans
          (hroom hrole _ (by omega))
      have hfull : ¬ (!u.remoteRoom i.b (r t) (addr t % 2 ^ 46 / 256) (u.gatheredCount i)) = true := by rw [hfits]; decide
      simp only [hplain, decide_false, Bool.false_and, Bool.false_eq_true, if_false, reduceCtorEq]
      exact if_neg hfull
  · obtain ⟨halike, -, hcount⟩ := rstGather_fold s i (sizeBytes (extSub f.ext)) addr c r (s.active i (extGuard f.ext)) s
    have htaken := halike.of_world State.tagsTaken fun _ => rfl
    have hall := active_length s i (extGuard f.ext)
    omega

/-- A flagged store is sent at its turn (R288). -/
theorem rst_flagged {t : Nat} (hlegal : LegalR s i 0xD0 f sh) (hbegins : Begins s i) (hsub : 8 ≤ extSub f.ext)
    (hactive : s.active i (extGuard f.ext) = [t]) (hpending : (s.thread (i.tk t)).pending = none) (hread : s.readA i t f sh.a = .val (addr t))
    (hlook : s.look (s.block i.b).ctx (addr t) (sizeBytes (extSub f.ext % 8)) = .ok (r t)) (hlive : (s.thread (i.tk t)).role = .live)
    (hdata : s.read i t f.d false sh.d (if extXo f.ext == 3 then some (extXs f.ext) else none) = .val (c t))
    (hwrites : s.writesTo i.b (r t).peer = false) (hroom : s.remoteRoom i.b (r t) (addr t % 2 ^ 46 / 256) 0 = true) :
    exec (.rst f) s = .next ((s.sendStore i (r t) (addr t % 2 ^ 46) (natToBytes (sizeBytes (extSub f.ext % 8)) (c t))
      [{ t := t, va := addr t, addr := addr t % 2 ^ 46, w := sizeBytes (extSub f.ext % 8), data := c t }] true).endPass i) := by
  have hgroup : ∀ bytes lanes, ((s.sendStore i (r t) (addr t % 2 ^ 46) bytes lanes true).group i.gk).pass = none := fun bytes lanes =>
    (request_keeps (fun u => (u.group i.gk).pass) (fun _ _ _ _ _ _ => rfl) ..).trans hbegins.fresh
  have htags : ∀ bytes lanes, (s.sendStore i (r t) (addr t % 2 ^ 46) bytes lanes true).tagsTaken ≤ s.tagsTaken + 1 := by
    intro bytes lanes
    obtain ⟨remote, k, ports, fars, outbox, heq, hlen⟩ := request_sent s (s.remoteOp i .store (r t) (addr t % 2 ^ 46) lanes) (r t).so
      { type_ := 0, dst := 0, src := 0, offset := addr t % 2 ^ 46, window := (r t).iw, len := bytes.length, ord := true } bytes
    rw [State.sendStore, heq]
    change remote.length + s.late.length ≤ s.remote.length + s.late.length + 1
    omega
  have hdata' : s.read i t (Fields.ofR f).d false sh.d (if (Fields.ofR f).xo == 3 then some (Fields.ofR f).xs else none) = .val (c t) := hdata
  have hmany : s.tagsTaken < 131072 := by
    simp only [State.remoteRoom, Bool.and_eq_true, decide_eq_true_eq] at hroom
    exact hroom.2
  have hturn : rstTurn i f sh s t [] = .done (s.sendStore i (r t) (addr t % 2 ^ 46) (natToBytes (sizeBytes (extSub f.ext % 8)) (c t))
      [{ t := t, va := addr t, addr := addr t % 2 ^ 46, w := sizeBytes (extSub f.ext % 8), data := c t }] true) [] := by
    unfold rstTurn
    simp only [hpending, hread, hlook, hdata', hlive, hwrites, hbegins.fresh, hroom, hsub, decide_true, Bool.and_false, Bool.not_true,
      Bool.false_eq_true, if_false, if_true]
  rw [exec_rst hlegal hbegins (fun u t => u.sendStore i (r t) (addr t % 2 ^ 46) (natToBytes (sizeBytes (extSub f.ext % 8)) (c t))
    [{ t := t, va := addr t, addr := addr t % 2 ^ 46, w := sizeBytes (extSub f.ext % 8), data := c t }] true) ?_ ?_, hactive]
  · rw [List.foldl_cons, List.foldl_nil, State.sendGathered, hgroup]
  · intro pre t' post hsplit
    rw [hactive] at hsplit
    obtain ⟨rfl, rfl, rfl⟩ : pre = [] ∧ t' = t ∧ post = [] := by
      cases pre with
      | nil => simp_all
      | cons a pre => simp at hsplit
    exact hturn
  · rw [hactive]
    refine gatheredRoom_of ?_
    have hcount : ∀ bytes lanes, (s.sendStore i (r t) (addr t % 2 ^ 46) bytes lanes true).gatheredCount i = 0 := fun bytes lanes => by
      rw [State.gatheredCount, hgroup]
    rw [List.foldl_cons, List.foldl_nil, hcount]
    have := htags (natToBytes (sizeBytes (extSub f.ext % 8)) (c t))
      [{ t := t, va := addr t, addr := addr t % 2 ^ 46, w := sizeBytes (extSub f.ext % 8), data := c t }]
    omega

end

/-! ### Tags -/

theorem tagFrom_spec {s : State} {fuel k n : Nat} (h : s.tagFrom fuel k = some n) :
    k ≤ n ∧ Table.find s.remote n = none ∧ Table.find s.late n = none ∧ n < 131072 ∧
      ∀ j, k ≤ j → j < n → (Table.find s.remote j).isSome ∨ (Table.find s.late j).isSome := by
  induction fuel generalizing k with
  | zero => simp [State.tagFrom] at h
  | succ fuel ih =>
    rw [State.tagFrom] at h
    split at h
    · simp at h
    · next hk =>
      split at h
      · next hfree =>
        obtain rfl := Option.some.inj h
        simp only [Bool.and_eq_true, Option.isNone_iff_eq_none] at hfree
        exact ⟨Nat.le_refl _, hfree.1, hfree.2, by omega, fun j hj hj' => absurd hj' (by omega)⟩
      · next htaken =>
        obtain ⟨hle, hremote, hlate, hlt, hall⟩ := ih h
        refine ⟨by omega, hremote, hlate, hlt, fun j hj hj' => ?_⟩
        rcases Nat.eq_or_lt_of_le hj with rfl | hlt'
        · simp only [Bool.and_eq_true, Option.isNone_iff_eq_none, Classical.not_and_iff_not_or_not] at htaken
          exact htaken.imp Option.isSome_iff_ne_none.mpr Option.isSome_iff_ne_none.mpr
        · exact hall j hlt' hj'

/-! ### RFENCE -/

theorem RemoteOp.counts_iff (op : RemoteOp) : op.counts = true ↔ op.kind ≠ .relay ∧ ∀ id, op.kind ≠ .coll id := by
  unfold RemoteOp.counts
  cases op.kind <;> simp

/-- RFENCE, with the number of the first operation it does not wait for (R292). -/
theorem exec_rfence {f : RForm} {sh : Shape} {s u : State} {i : Issue} {n : Nat} (hlegal : LegalR s i 0xD4 f sh) (hcur : s.cur = .group i)
    (hclear : Clear s i) (hguard : extGuard f.ext (s.thread (i.tk (firstLane i.path))) = true)
    (hfirst : s.holdOf i = none ∧ n = s.nextId ∧ u = s.modBlock i.b (fun bl => { bl with epoch := !bl.epoch }) ∨
      s.holdOf i = some (.rfence n) ∧ u = s) :
    exec (.rfence f) s = .next (if s.remote.any (fun e => e.2.b == i.b && decide (e.2.seq < n) && e.2.counts) then u.holdPath i (.rfence n)
      else u.endPass i) := by
  change execRfence f s = _
  rw [execRfence, memoryWord_of_legal hcur hlegal, withPending_calm hguard hclear.calm hclear.some_]
  rcases hfirst with ⟨hhold, rfl, rfl⟩ | ⟨hhold, rfl⟩
  · simp only [hhold, State.modBlock_remote]
  · simp only [hhold]

/-- Settles O36. -/
theorem remoteWordsComplete : Obligations.RemoteWordsComplete := by
  unfold Obligations.RemoteWordsComplete
  refine ⟨fun f op sh s i addr c r l ts done hlegal hbegins hturns hclear hdone => ?_, fun s op so h body tag htag => ?_, fun s k hk => ?_,
    fun f sh s u i n waits hlegal hbegins hclear hguard hfirst hwaits => ?_⟩
  · have hend : ∀ u : State, u.remoteDone i ((Fields.ofR f).uniform sh) = done u := fun u => by rw [hdone, State.remoteDone]
    refine ⟨?_, ?_, ?_, ?_, ?_⟩
    · rintro rfl hsub hready htags
      exact rst_plain hlegal hbegins hsub hready htags
    · rintro rfl hsub t hactive hpending hread hlook hlive hdata hwrites hroom
      exact rst_flagged hlegal hbegins hsub hactive hpending hread hlook hlive hdata hwrites hroom
    · rintro rfl go hgo hgoes
      change execRld f s = _
      rw [execRld, remoteWord_done (go := go) hlegal hbegins hturns hclear, hend]
      · intro pre t post hsplit
        have hready := hgoes pre t post hsplit
        subst hgo
        refine remoteTurn_done hready fun u l' hl => ?_
        rw [hl rfl]
      · subst hgo
        exact fun u t k => park_takeRemote ..
      · subst hgo
        exact fun u t k => pass_takeRemote ..
    · rintro rfl go n w ret rfl rfl rfl hgo hgoes
      change execRatom f s = _
      rw [execRatom, remoteWord_done (go := go) hlegal hbegins hturns hclear, hend]
      · intro pre t post hsplit
        have hready := hgoes pre t post hsplit
        subst hgo
        refine remoteTurn_done hready fun u l' hl => ?_
        simp only [bne] at hl ⊢
        have hinto : (if (extSub f.ext / 16 == 1) = true then Into.nothing else l'.into sh.d.n) =
            if (!(extSub f.ext / 16 == 1)) = true then (l t).into sh.d.n else Into.nothing := by
          cases hnr : (extSub f.ext / 16 == 1) with
          | true => rfl
          | false =>
            rw [hl (by rw [hnr]; rfl)]
            rfl
        rw [hinto]
        simp only [Bool.not_not, beq_iff_eq]
      · subst hgo
        exact fun u t k => park_takeRemote ..
      · subst hgo
        exact fun u t k => pass_takeRemote ..
    · rintro rfl go hgo hgoes
      change execRfadd f s = _
      rw [execRfadd, remoteWord_done (go := go) hlegal hbegins hturns hclear, hend]
      · intro pre t post hsplit
        have hready := hgoes pre t post hsplit
        subst hgo
        refine remoteTurn_done hready fun u l' hl => ?_
        rw [hl rfl]
      · subst hgo
        exact fun u t k => park_takeRemote ..
      · subst hgo
        exact fun u t k => pass_takeRemote ..
  · rw [State.request, htag]
    rfl
  · obtain ⟨-, hremote, hlate, hlt, hall⟩ := tagFrom_spec hk
    exact ⟨hremote, hlate, hlt, fun j hj => hall j (Nat.zero_le j) hj⟩
  · have hany : s.remote.any (fun e => e.2.b == i.b && decide (e.2.seq < n) && e.2.counts) = true ↔ waits := by
      rw [hwaits, List.any_eq_true]
      simp only [Bool.and_eq_true, beq_iff_eq, decide_eq_true_eq, RemoteOp.counts_iff, Prod.exists, and_assoc]
    rw [exec_rfence hlegal hbegins.cur hclear hguard hfirst]
    exact ⟨fun hno => by rw [if_neg (mt hany.mp hno)], fun hyes => by rw [if_pos (hany.mpr hyes)]⟩

end Sys2Proof.Machine
end


section
/-! SUPPORT. What translation reads of the state; requests served at their home and answers to them (O37). -/

namespace Sys2Proof.Machine

/-! ### What translation reads -/

/-- Two states that translate addresses and read memory alike. -/
structure Charted (s u : State) : Prop where
  blocks : u.blocks = s.blocks
  contexts : u.contexts = s.contexts
  partitions : u.partitions = s.partitions
  lsplit : u.lsplit = s.lsplit
  tlb : u.tlb = s.tlb
  mem : u.mem = s.mem
  spaces : u.spaces = s.spaces
  poison : u.poison = s.poison
  lost : u.lost = s.lost

section
variable {s u : State} (h : Charted s u)
include h

theorem Charted.context (n : Nat) : u.context n = s.context n := by rw [State.context, h.contexts, ← State.context]
theorem Charted.partition (n : Nat) : u.partition n = s.partition n := by rw [State.partition, h.partitions, ← State.partition]
theorem Charted.block (n : Nat) : u.block n = s.block n := by rw [State.block, h.blocks, ← State.block]
theorem Charted.memOf (sp : Space) : u.memOf sp = s.memOf sp := memOf_congr h.mem h.spaces sp
theorem Charted.load (sp : Space) (a n : Nat) : u.load sp a n = s.load sp a n := by rw [State.load, h.memOf, ← State.load]

theorem Charted.poisoned (sp : Space) (a : Nat) : u.poisoned sp a = s.poisoned sp a := by
  have hlost : u.lostAt sp a = s.lostAt sp a := by
    cases sp with
    | main | shared b => rfl
    | scratch c d => simp only [State.lostAt, h.contexts, h.lost]
  rw [State.poisoned, h.poison, hlost, ← State.poisoned]

theorem Charted.sharedTarget (b a w : Nat) : u.sharedTarget b a w = s.sharedTarget b a w := by
  have hblock : u.sharedBlock b a = s.sharedBlock b a := by
    unfold State.sharedBlock
    rw [h.block, h.blocks]
  unfold State.sharedTarget
  rw [hblock]
  simp only [h.block]

theorem Charted.scratchTarget (ctx a w : Nat) : u.scratchTarget ctx a w = s.scratchTarget ctx a w := by
  unfold State.scratchTarget
  rw [h.context]

theorem Charted.walkFrom (p : Partition) (va : Nat) (ls : List (Nat × Nat)) (table : Nat) : u.walkFrom p va ls table = s.walkFrom p va ls table := by
  induction ls generalizing table with
  | nil => rfl
  | cons e ls ih =>
    obtain ⟨shift, n⟩ := e
    simp only [State.walkFrom, ih, h.lsplit, h.poisoned, h.mem]

theorem Charted.walk (ctx va : Nat) : u.walk ctx va = s.walk ctx va := by
  have hc := h.context ctx
  have hp := h.partition (s.context ctx).partition
  change u.walkFrom (u.partition (u.context ctx).partition) va walkLevels (u.context ctx).root = s.walkFrom _ va walkLevels _
  rw [hc, hp, h.walkFrom]

theorem Charted.through (ctx va : Nat) (n : Need) (l : Leaf) : u.through ctx va n l = s.through ctx va n l := by
  have hleaf : u.leafCause ctx l n = s.leafCause ctx l n := by
    rw [State.leafCause, h.context, h.partition, h.lsplit, ← State.leafCause]
  cases hcause : s.leafCause ctx l n with
  | none => rw [through_of_none hcause, through_of_none (hleaf.trans hcause)]
  | some c => rw [through_of_cause hcause, through_of_cause (hleaf.trans hcause)]

theorem Charted.reach (ctx : Nat) (b : Option Nat) (failed : List (Nat × Nat)) (va w : Nat) (n : Need) :
    u.reach ctx b failed va w n = s.reach ctx b failed va w n := by
  have hwindow : u.window ctx b va w n = s.window ctx b va w n := by
    unfold State.window
    simp only [h.sharedTarget, h.scratchTarget]
  by_cases hva : windowBase ≤ va
  · rw [reach_window hva, reach_window hva, hwindow]
  · cases hfind : Table.find s.tlb (pageKey ctx va) with
    | some l => rw [reach_hit hva hfind, reach_hit hva (h.tlb ▸ hfind), h.through]
    | none => rw [State.reach, State.reach, if_neg hva, if_neg hva, h.tlb, hfind]

theorem Charted.reachNow (ctx : Nat) (b : Option Nat) (va w : Nat) (n : Need) : u.reachNow ctx b va w n = s.reachNow ctx b va w n :=
  reachNow_unfolded _ rfl (h.reach ..) (h.walk ..) (funext fun ctx => funext fun va => funext fun n => funext fun l => h.through ctx va n l)

end

theorem charted_sent (s : State) (ports : Table Port) (fars : Table Far) (outbox : List Out) : Charted s (s.sent ports fars outbox) :=
  ⟨rfl, rfl, rfl, rfl, rfl, rfl, rfl, rfl, rfl⟩

/-! ### The request at the head of a channel -/

theorem tellFlow_sent (s : State) (n : Nat) : ∃ ports outbox, s.tellFlow n = s.sent ports s.fars outbox := by
  unfold State.tellFlow
  dsimp only
  split
  · exact ⟨s.ports, s.outbox, rfl⟩
  · exact ⟨_, _, rfl⟩

/-- Taking a packet out of its channel touches ports and the outbox alone. -/
theorem popPacket_sent (s : State) (n vc : Nat) : ∃ ports outbox, s.popPacket n vc = s.sent ports s.fars outbox := by
  unfold State.popPacket
  dsimp only
  obtain ⟨ports, outbox, h⟩ := tellFlow_sent (s.setPort n { s.port n with
    queues := Table.put (s.port n).queues vc ((Table.get [] (s.port n).queues vc).eraseP (fun p => s.packetOwner p == s.turnOf n vc))
    served := Table.put (s.port n).served vc (s.turnOf n vc) }) n
  exact ⟨ports, outbox, h⟩

/-- What the responder needs of a request before it serves it. -/
structure Servable (s : State) (n ctx a o : Nat) (p : Packet) (sp : Space) : Prop where
  admits : windowAdmits (Table.get 0#128 s.inbound p.window) p = true
  context : iwField (Table.get 0#128 s.inbound p.window) 108 12 = ctx
  known : (Table.find s.contexts ctx).isSome
  going : (s.context ctx).ending = false
  owner : s.windowOwner p.window = some (s.context ctx).partition
  unheld : s.heldBefore s.nextId n p = none
  reached : s.reachNow ctx none ((iwField (Table.get 0#128 s.inbound p.window) 0 57 + p.offset) % 2 ^ 57) p.width p.need = .ok sp a o

theorem Servable.sent {s : State} {n ctx a o : Nat} {p : Packet} {sp : Space} (h : Servable s n ctx a o p sp) (ports : Table Port) (fars : Table Far)
    (outbox : List Out) : Servable (s.sent ports fars outbox) n ctx a o p sp :=
  ⟨h.admits, h.context, h.known, h.going, h.owner, h.unheld, ((charted_sent s ports fars outbox).reachNow ..).trans h.reached⟩

theorem Servable.answer {s : State} {n ctx a o : Nat} {p : Packet} {sp : Space} (h : Servable s n ctx a o p sp)
    (hatomic : p.type_ = 2 → s.hostRefuses sp a p.op p.atype = false) (hadd : p.type_ = 3 → sp = .main → a < hostBase) :
    s.answer s.nextId n p = some (s.serve n p ctx sp a) := by
  have hknown : (Table.find s.contexts ctx).isNone = false := by simpa using h.known
  have hserved : ((p.type_ == 2 && s.hostRefuses sp a p.op p.atype) || (p.type_ == 3 && sp == .main && decide (hostBase ≤ a))) = false := by
    by_cases h2 : p.type_ = 2
    · simp [h2, hatomic h2]
    · by_cases h3 : p.type_ = 3
      · by_cases hsp : sp = .main
        · simp [h3, hsp, hadd h3 hsp]
        · simp [h3, hsp]
      · simp [h2, h3]
  unfold State.answer
  dsimp only
  simp only [h.context, h.admits, hknown, h.going, h.owner, h.unheld, Bool.not_true, Bool.or_false, Bool.false_eq_true, if_false, bne_self_eq_false]
  rw [h.reached]
  simp only [hserved, Bool.false_eq_true, if_false]

/-- A servable request is taken and served, and its context shows activity. -/
theorem Servable.serveHead {s : State} {n ctx a o vc ty : Nat} {p : Packet} {sp : Space} (h : Servable s n ctx a o p sp)
    (hhead : s.head n vc ty = some p) (hatomic : p.type_ = 2 → s.hostRefuses sp a p.op p.atype = false)
    (hadd : p.type_ = 3 → sp = .main → a < hostBase) :
    s.serveHead n vc ty = ((s.popPacket n vc).serve n p ctx sp a).pulse ctx := by
  obtain ⟨ports, outbox, hpop⟩ := popPacket_sent s n vc
  have hans : (s.popPacket n vc).answer s.nextId n p = some ((s.popPacket n vc).serve n p ctx sp a) := by
    rw [hpop]
    exact (h.sent ports s.fars outbox).answer hatomic hadd
  unfold State.serveHead
  simp only [hhead, hans, h.context]

section
variable {s : State} {n ctx a : Nat} {p : Packet} {sp : Space}

theorem serve_store (h : p.type_ = 0) : s.serve n p ctx sp a = (s.setMem sp ((s.memOf sp).writeList a p.body)).respond n p 4 0 [] := by
  unfold State.serve
  simp only [h]

theorem serve_load (h : p.type_ = 1) (hbad : s.poisoned sp a = false) :
    s.serve n p ctx sp a = s.respond n p 5 0 (natToBytes p.width (s.load sp a p.width)) := by
  unfold State.serve
  simp [h, hbad]

theorem serve_atomic (h : p.type_ = 2) (hbad : s.poisoned sp a = false) :
    s.serve n p ctx sp a = (s.store sp a p.width (atomicNew p.op p.atype (s.load sp a p.width)
      (if p.op = 1 then bytesToNat p.body / 2 ^ (8 * p.width) else bytesToNat p.body % 2 ^ (8 * p.width))
      (bytesToNat p.body % 2 ^ (8 * p.width)))).respond n p (if p.ord then 4 else 5) 0
        (if p.ord then [] else natToBytes p.width (s.load sp a p.width)) := by
  have hanswer : p.answer = if p.ord then 4 else 5 := by simp [Packet.answer, h]
  unfold State.serve
  simp [h, hbad, hanswer]

theorem serve_add (h : p.type_ = 3) (hbad : s.poisoned sp a = false) :
    s.serve n p ctx sp a = (if s.load sp a 8 + bytesToNat p.body % 2 ^ 64 ≤ bytesToNat p.body / 2 ^ 64
      then s.store sp a 8 (s.load sp a 8 + bytesToNat p.body % 2 ^ 64) else s).respond n p 5 0 (natToBytes 8 (s.load sp a 8)) := by
  unfold State.serve
  simp [h, hbad]

end

/-! ### Answers -/

theorem landRemote_eq {s : State} {op : RemoteOp} (h : s.inert op.b = false) (status x : Nat) :
    s.landRemote op status x = if (s.block op.b).place = .moving then { s with landed := s.landed ++ [{ op := op, status := status, data := x }] }
      else s.finishRemote op status x := by
  have hresident : ((s.block op.b).place == .resident && s.coreFrozen (s.block op.b).core) = false := by
    unfold State.inert at h
    cases hp : (s.block op.b).place == .resident
    · rfl
    · simpa [hp] using h
  unfold State.landRemote
  simp only [beq_iff_eq, hresident, Bool.false_eq_true, if_false]

/-- The answer to a thread's operation lands, and its context shows activity. -/
theorem response_lands {s : State} {n : Nat} {p : Packet} {op : RemoteOp} (hfind : Table.find s.remote p.tag = some op)
    (hsrc : s.peerPackage op.so op.pkg % 1024 = p.src) (hrelay : op.kind ≠ .relay) (hcoll : ∀ id, op.kind ≠ .coll id) :
    s.response n p = (State.pulse { s with remote := Table.erase s.remote p.tag } op.ctx).landRemote op p.status (bytesToNat p.body) := by
  unfold State.response
  simp only [hfind, hsrc, bne_self_eq_false, Bool.false_eq_true, if_false]

/-- A thread whose remote write has failed keeps the trap, or counts one more (R425). -/
def Thread.latch (th : Thread) (r : TrapRec) : Thread :=
  { th with pendRemote := match th.pendRemote with | some p => some { p with more := true } | none => some r }

theorem latchRemote_live {s : State} {b g t : Nat} {th : Thread} (r : TrapRec) (hfind : Table.find s.threads (tkey (gkey b g) t) = some th)
    (hlive : th.exited = false) : s.latchRemote b g t r = s.setThread (tkey (gkey b g) t) (th.latch r) := by
  unfold State.latchRemote Thread.latch
  cases hp : th.pendRemote <;> simp [hfind, hlive, hp]

theorem latchRemote_exited {s : State} {b g t : Nat} {th : Thread} (r : TrapRec) (hfind : Table.find s.threads (tkey (gkey b g) t) = some th)
    (hexited : th.exited = true) : s.latchRemote b g t r = s.trapExited b g t r := by
  unfold State.latchRemote
  simp [hfind, hexited]

section
variable {s : State} {op : RemoteOp} {l : LaneReq} (hl : op.lanes = [l]) {status : Nat} (x : Nat)
include hl

theorem finishRemote_fill (h : l.into ≠ .nothing) (hs : status = 0) : s.finishRemote op status x = s.fillInto op.b op.g l (extendBytes l.ext x) := by
  simp [State.finishRemote, hl, hs]

theorem finishRemote_mark (h : l.into ≠ .nothing) (hs : status ≠ 0) :
    s.finishRemote op status x = s.markInto op.b op.g l (remoteMark op.origin l.va status) := by
  simp [State.finishRemote, hl, hs]

theorem finishRemote_quiet (h : l.into = .nothing) (hs : status = 0 ∨ status = 2) : s.finishRemote op status x = s := by
  simp [State.finishRemote, hl, hs, h]

theorem finishRemote_latch (h : l.into = .nothing) (h0 : status ≠ 0) (h2 : status ≠ 2) :
    s.finishRemote op status x = s.latchRemote op.b op.g l.t
      { code := if status = 4 then 12 else 11, tval := BitVec.ofNat 64 l.va, info := BitVec.ofNat 64 status, origin := some op.origin, src := 2 } := by
  simp [State.finishRemote, hl, h, h0, h2]

end

theorem remoteMark_eq (origin : W64) (addr status : Nat) : remoteMark origin addr status =
    { code := if status = 2 then 5 else if status = 4 then 12 else 11, src := 2, origin := origin
      tval := BitVec.ofNat 64 (if status = 2 then addr / 128 * 128 else addr), info := if status = 2 then 0 else status } := by
  by_cases h2 : status = 2
  · simp [remoteMark, h2]
  · simp [remoteMark, h2]

theorem ack_served {s : State} {n : Nat} {p : Packet} (hcur : s.cur = .port n) (hhead : s.head n 1 4 = some p) :
    exec .ack s = .next ((s.popPacket n 1).response n p) := by
  change Host.Outcome.next (s.onPort _) = _
  simp only [State.onPort, hcur, hhead]

theorem rdata_served {s : State} {n : Nat} {p : Packet} (hcur : s.cur = .port n) (hhead : s.head n 1 5 = some p) :
    exec .rdata s = .next ((s.popPacket n 1).response n p) := by
  change Host.Outcome.next (s.onPort _) = _
  simp only [State.onPort, hcur, hhead]

theorem remoteTimeoutExpiry_lands {s : State} {tag : Nat} {op : RemoteOp} (hfind : Table.find s.remote tag = some op)
    (htime : op.since + 1000 * (if (s.context op.ctx).timeout = 0 then 100000 else (s.context op.ctx).timeout) ≤ s.time) :
    exec (.remoteTimeoutExpiry tag) s =
      .next (State.landRemote { s with remote := Table.erase s.remote tag, late := Table.put s.late tag () } op 4 0) := by
  change execRemoteTimeoutExpiry tag s = _
  unfold execRemoteTimeoutExpiry
  simp only [hfind, beq_iff_eq, if_neg (Nat.not_lt.mpr htime)]

/-- The answer at the head of a response channel lands. -/
theorem response_popped {s : State} {n : Nat} {p : Packet} {op : RemoteOp} (hfind : Table.find s.remote p.tag = some op)
    (hsrc : s.peerPackage op.so op.pkg % 1024 = p.src) (hrelay : op.kind ≠ .relay) (hcoll : ∀ id, op.kind ≠ .coll id) (hinert : s.inert op.b = false) :
    (s.popPacket n 1).response n p = if (s.block op.b).place = .moving
      then { State.pulse { s.popPacket n 1 with remote := Table.erase s.remote p.tag } op.ctx with
        landed := s.landed ++ [{ op := op, status := p.status, data := bytesToNat p.body }] }
      else (State.pulse { s.popPacket n 1 with remote := Table.erase s.remote p.tag } op.ctx).finishRemote op p.status (bytesToNat p.body) := by
  obtain ⟨ports, outbox, hpop⟩ := popPacket_sent s n 1
  rw [hpop, response_lands (s := s.sent ports s.fars outbox) hfind hsrc hrelay hcoll]
  exact landRemote_eq (s := State.pulse { s.sent ports s.fars outbox with remote := Table.erase s.remote p.tag } op.ctx) hinert ..

/-- Settles O37: a servable request is taken and served; an answer or a timeout lands at its operation, and ends it on its thread. -/
theorem requestsAndAnswersComplete : Obligations.RequestsAndAnswersComplete := by
  unfold Obligations.RequestsAndAnswersComplete
  refine ⟨fun s u n ctx a o w x p sp e hcur _ hhead hu hheld he hadmits hctx hknown hending howner hreach hbad hw hx => ?_,
    fun s op land hinert hkind hland => ?_⟩
  · have hserv : Servable s n ctx a o p sp := {
      admits := he ▸ hadmits
      context := he ▸ hctx.symm
      known := hknown
      going := hending
      owner := howner
      unheld := hheld
      reached := by
        rw [← he]
        simpa only [iwField, Nat.pow_zero, Nat.div_one] using hreach }
    obtain ⟨ports, outbox, hpop⟩ := popPacket_sent s n (if p.type_ = 0 then 2 else 0)
    have hchart : Charted s u := by
      rw [hu, hpop]
      exact charted_sent ..
    have hbadu : u.poisoned sp a = false := (hchart.poisoned sp a).trans hbad
    subst hw hx
    refine ⟨fun h0 => ?_, fun h1 => ?_, fun h2 hatomic => ?_, fun h3 hadd => ?_⟩
    · have hrun := hserv.serveHead hhead (by omega) (by omega)
      rw [← hu, serve_store h0, hchart.memOf, h0, if_pos rfl] at hrun
      change Host.Outcome.next (s.onPort _) = _
      rw [State.onPort, hcur]
      exact congrArg _ hrun
    · have hrun := hserv.serveHead hhead (by omega) (by omega)
      rw [← hu, serve_load h1 hbadu, hchart.load, h1, if_neg (by decide)] at hrun
      change Host.Outcome.next (s.onPort _) = _
      rw [State.onPort, hcur]
      exact congrArg _ hrun
    · have hrun := hserv.serveHead hhead (fun _ => hatomic) (by omega)
      rw [← hu, serve_atomic h2 hbadu, hchart.load, h2, if_neg (by decide)] at hrun
      change Host.Outcome.next (s.onPort _) = _
      rw [State.onPort, hcur]
      exact congrArg _ hrun
    · have hrun := hserv.serveHead hhead (by omega) (fun _ => hadd)
      rw [← hu, serve_add h3 hbadu, hchart.load, h3, if_neg (by decide)] at hrun
      change Host.Outcome.next (s.onPort _) = _
      rw [State.onPort, hcur]
      exact congrArg _ hrun
  · obtain ⟨hrelay, hcoll⟩ := hkind
    subst hland
    refine ⟨fun n p hcur hfind hsrc => ⟨fun hhead => ?_, fun hhead => ?_⟩, fun tag hfind htime => ?_, fun l status x hl => ⟨?_, ?_, ?_, ?_, ?_⟩⟩
    · rw [ack_served hcur hhead, response_popped hfind hsrc hrelay hcoll hinert]
      obtain ⟨ports, outbox, hpop⟩ := popPacket_sent s n 1
      rw [hpop]
      rfl
    · rw [rdata_served hcur hhead, response_popped hfind hsrc hrelay hcoll hinert]
      obtain ⟨ports, outbox, hpop⟩ := popPacket_sent s n 1
      rw [hpop]
      rfl
    · rw [remoteTimeoutExpiry_lands hfind htime]
      exact congrArg _ (landRemote_eq
        (s := { s with remote := Table.erase s.remote tag, late := Table.put s.late tag () }) hinert 4 0)
    · exact fun h hs => finishRemote_fill hl x h hs
    · exact fun h hs => (finishRemote_mark hl x h hs).trans (congrArg _ (remoteMark_eq ..))
    · exact fun h hs => finishRemote_quiet hl x h hs
    · exact fun th h h0 h2 hfind hexited => (finishRemote_latch hl x h h0 h2).trans (latchRemote_exited _ hfind hexited)
    · intro th h h0 h2 hfind hlive
      refine (finishRemote_latch hl x h h0 h2).trans ((latchRemote_live _ hfind hlive).trans ?_)
      unfold Thread.latch
      cases th.pendRemote <;> rfl

end Sys2Proof.Machine
end


section
/-! SUPPORT. COLL, the packets of a collective and its completion (O38). -/

namespace Sys2Proof.Machine

section
variable {s : State} {i : Issue} {f : RForm} {x c rs rd da : Nat} {src dst : CopySide} {bo : Space × Nat} {sp : Space}

/-- The collective that a COLL's operands and descriptor describe (R298). -/
def State.collOf (s : State) (i : Issue) (h : CollPkt) (x : Nat) (src dst : CopySide) (bo : Space × Nat) : Coll :=
  { b := i.b, ctx := (s.block i.b).ctx, core := (s.block i.b).core, cid := h.cid, src := src, dst := dst
    len := x / 2 ^ 64 % 2 ^ 32, unit := fmtBytes h.fmt, bo := bo, head := h
    pieces := if h.hops = [] then 0 else max 1 ((x / 2 ^ 64 % 2 ^ 32 + 255) / 256)
    want := h.hops.any (fun h => h.op == 5 && h.pkg == s.package) }

/-- A COLL whose descriptor, sides and barrier object pass every check, and whose source can be read, starts. -/
theorem collBody_starts {h : CollPkt} (hdesc : badDescriptor (s.load sp da 32) = false) (hh : h = CollPkt.ofHeader (s.load sp da 32) [])
    (hsrc : s.collSide i f.b.toNat (x % 2 ^ 32) (x / 2 ^ 64 % 2 ^ 32) (fmtBytes h.fmt) (BitVec.ofNat 128 rs) = .ok src)
    (hdst : s.collSide i f.d.toNat (x / 2 ^ 32 % 2 ^ 32) (x / 2 ^ 64 % 2 ^ 32) (fmtBytes h.fmt) (BitVec.ofNat 128 rd) = .ok dst)
    (hlen : x / 2 ^ 64 % 2 ^ 32 % fmtBytes h.fmt = 0) (hbo : s.boTarget i.b (x / 2 ^ 96) = .ok bo)
    (hread : s.sourceFault (s.block i.b).ctx i.b src (x / 2 ^ 64 % 2 ^ 32) = none) :
    s.collBody i f x (BitVec.ofNat 128 rs) (BitVec.ofNat 128 rd) sp da = (s.startColl (s.collOf i h x src dst bo)).endPass i := by
  have hempty : ∀ n : Nat, (if h.hops.isEmpty = true then 0 else n) = if h.hops = [] then 0 else n := by simp
  unfold State.collBody
  simp only [← hh, hdesc, hsrc, hdst, hlen, hbo, hread, hempty, Bool.false_eq_true, if_false, bne_self_eq_false]
  rfl

/-- COLL comes to its checks where its operands read and the group's earlier stores are acknowledged. -/
theorem exec_coll {sh : Shape} (hlegal : LegalR s i 0xD5 f sh) (honce : Once s i f.ext) (hclear : Clear s i)
    (hread : s.readUniform i (firstLane i.path) [(f.a, f.ea, sh.a, none), (extC f.ext, extEc f.ext, sh.c, none)] = .vals [x, c])
    (hrs : (s.group i.gk).sideRecord f.b.toNat f.eb = .val rs) (hrd : (s.group i.gk).sideRecord f.d.toNat false = .val rd) (haligned : c % 32 = 0)
    (htarget : s.sharedTarget i.b c 32 = some (sp, da)) (hreqs : ∀ e ∈ s.reqs, e.2.b ≠ i.b ∨ e.2.g ≠ i.g ∨ e.2.kind.writes = false) :
    exec (.coll f) s = .next (s.collBody i f x (BitVec.ofNat 128 rs) (BitVec.ofNat 128 rd) sp da) := by
  have hlive : (s.thread (i.tk (firstLane i.path))).role ≠ Role.helper := by simp [honce.live]
  have hacked : s.reqs.any (fun e => e.2.b == i.b && e.2.g == i.g && e.2.kind.writes) = false := by
    rw [List.any_eq_false]
    intro e he
    rcases hreqs e he with h | h | h <;> simp [h]
  have hargs : argsOf ([x, c] ++ [0, 0]) = { a := x, b := c, c := 0, d := 0 } := rfl
  change Host.Outcome.next (s.memoryWord 0xD5 f _) = _
  rw [memoryWord_of_legal honce.fresh.cur hlegal, withPending_calm honce.guard hclear.calm hclear.some_]
  simp only [beq_iff_eq, hlive, hread, hargs, hrs, hrd, haligned, htarget, hacked, if_false, bne_self_eq_false, Bool.false_eq_true]

end

/-- A collective packet that can be taken is acknowledged and reaches its hop. -/
theorem collPacket_taken {s : State} {n : Nat} {p : Packet} (hcur : s.cur = .port n) (hhead : s.head n 3 6 = some p)
    (htake : s.canTake n (CollPkt.ofHeader (bytesToNat (p.body.take 32)) (p.body.drop 32)) = true) :
    exec .collPacket s = .next (((s.popPacket n 3).respond n p 4 0 []).hopArrive 9 (some n)
      (CollPkt.ofHeader (bytesToNat (p.body.take 32)) (p.body.drop 32))) := by
  change Host.Outcome.next (s.onPort _) = _
  simp only [State.onPort, hcur, hhead, htake, if_true]

/-- A collective whose packets are acknowledged and whose copy out is written, the first of its block, counts into its barrier object. -/
theorem collCompletion_counts {s : State} {id : Nat} {c : Coll} (hfind : Table.find s.colls id = some c) (hsent : c.pieces ≤ c.sent)
    (hacked : ∀ e ∈ s.remote, e.2.kind ≠ .coll id) (hwhole : c.want = true → ∃ n, c.last = some n ∧ ∀ k ≤ n, k ∈ c.steps)
    (hfirst : ∀ e ∈ s.colls, e.2.b = c.b → id ≤ e.1) (htodo : c.todo = []) (hearly : ∀ e ∈ s.early, e.waitsFor c.cid = false) :
    exec (.collCompletion id) s = .next ({ s with colls := Table.erase s.colls id }.updateBo c.bo.1 c.bo.2 (c.covered : Int) false
      (if c.fc ≠ 0 then c.fc else if c.mm then 7 else 0) c.flags.toNat) := by
  have hnone : s.remote.any (fun e => e.2.kind == .coll id) = false := by simpa using hacked
  have hfirst' : s.colls.all (fun e => !(e.2.b == c.b && decide (e.1 < id))) = true := by
    rw [List.all_eq_true]
    intro e he
    by_cases hb : e.2.b = c.b
    · simp [hb, hfirst e he hb]
    · simp [hb]
  have hearly' : s.early.any (fun e => e.waitsFor c.cid) = false := by
    rw [List.any_eq_false]
    intro e he
    simp [hearly e he]
  have hsteps : ∀ n, c.last = some n → (∀ k ≤ n, k ∈ c.steps) → (List.range (n + 1)).all c.steps.contains = true := by
    intro n _ h
    rw [List.all_eq_true]
    intro k hk
    exact List.contains_iff_mem.mpr (h k (Nat.lt_succ_iff.mp (List.mem_range.mp hk)))
  have hcode : (if (c.fc != 0) = true then c.fc else if c.mm = true then 7 else 0) = if c.fc ≠ 0 then c.fc else if c.mm = true then 7 else 0 := by
    simp
  change execCollCompletion id s = _
  unfold execCollCompletion
  cases hwant : c.want
  · simp only [hfind, hnone, hfirst', hearly', hwant, htodo, hsent, hcode, Nat.not_lt.mpr hsent, decide_true, decide_false, Bool.not_false, Bool.and_self,
      Bool.or_self, Bool.true_or, Bool.false_eq_true, if_false, if_true, List.isEmpty_nil]
  · obtain ⟨n, hlast, hn⟩ := hwhole hwant
    simp only [hfind, hnone, hfirst', hearly', hwant, htodo, hsent, hcode, hlast, hsteps n hlast hn, Nat.not_lt.mpr hsent, decide_true, decide_false,
      Bool.not_false, Bool.not_true, Bool.and_self, Bool.or_self, Bool.false_or, Bool.false_eq_true, if_false, if_true, List.isEmpty_nil]

/-- Settles O38: COLL passes its checks and starts; a collective packet that can be taken reaches its hop; a collective that is done counts. -/
theorem collectivesComplete : Obligations.CollectivesComplete := by
  unfold Obligations.CollectivesComplete
  refine ⟨?_, ?_, ?_⟩
  · intro f sh s i x c rs rd da unit src dst bo sp h hlegal honce hclear hread hrs hrd haligned htarget hreqs hdesc hh hunit hsrc hdst hlen hbo hfault
    subst hunit
    exact (exec_coll hlegal honce hclear hread hrs hrd haligned htarget hreqs).trans
      (congrArg _ (collBody_starts hdesc hh hsrc hdst hlen hbo hfault))
  · intro s n p q hcur hhead hq htake
    subst hq
    exact collPacket_taken hcur hhead htake
  · intro s id c hfind hsent hacked hwhole hfirst htodo hearly
    exact collCompletion_counts hfind hsent hacked hwhole hfirst htodo hearly

end Sys2Proof.Machine
end


section
/-! SUPPORT. What a port makes of flits, packets and datagrams, and how the counter is kept (O39). -/

namespace Sys2Proof.Machine

/-! ### Flits -/

section
variable {s : State} {n : Nat} {f : Flit}

/-- A flit that passes its checks updates stop and go, and those packets that waited for a go are sent. -/
def State.flitTaken (s : State) (n : Nat) (f : Flit) (idle : Bool) : State :=
  (List.range 5).foldl (fun v vc => if (v.port n).stopped.getLsbD vc = true then v else v.flush n vc)
    (s.setPort n { s.port n with
      rxSeq := if idle then (s.port n).rxSeq else (s.port n).rxSeq + 1#12, stopped := ((s.port n).stopped ||| f.stop) &&& ~~~f.go })

theorem flitReceive_idle (hlanes : (s.port n).lanes ≠ 0) (hthawed : s.portFrozen n = false)
    (hcrc : f.crc = Config.linkCrc f.data f.seq f.vc f.stop f.go) : exec (.flitReceive n f true none) s = .next (s.flitTaken n f true) := by
  have hcheck : f.crc = f.check := hcrc
  change execFlitReceive n f true none s = _
  unfold execFlitReceive
  simp only [beq_iff_eq, hlanes, hthawed, ← hcheck, Bool.or_eq_true, Bool.and_eq_true, bne_self_eq_false, Bool.not_true, Bool.false_eq_true, or_self,
    and_false, false_and, if_false, if_true]
  rfl

theorem flitReceive_good (hlanes : (s.port n).lanes ≠ 0) (hthawed : s.portFrozen n = false)
    (hcrc : f.crc = Config.linkCrc f.data f.seq f.vc f.stop f.go) (hseq : f.seq = (s.port n).rxSeq) (hvc : f.vc < 5) :
    exec (.flitReceive n f false none) s = .next (((s.flitTaken n f false).assemble n f.vc (natToBytes 64 f.data.toNat)).tellFlow n) := by
  have hcheck : f.crc = f.check := hcrc
  change execFlitReceive n f false none s = _
  unfold execFlitReceive
  simp only [beq_iff_eq, hlanes, hthawed, ← hcheck, hseq, Nat.not_le.mpr hvc, Bool.or_eq_true, Bool.and_eq_true, bne_self_eq_false, Bool.not_false,
    Bool.false_eq_true, or_self, and_false, if_false]
  rfl

theorem flitReceive_bad (hlanes : (s.port n).lanes ≠ 0) (hthawed : s.portFrozen n = false)
    (hbad : f.crc ≠ Config.linkCrc f.data f.seq f.vc f.stop f.go ∨ f.seq ≠ (s.port n).rxSeq) :
    exec (.flitReceive n f false none) s = .next { s with outbox := s.outbox ++ [.replayFrom n (s.port n).rxSeq] } := by
  have hbad' : f.crc ≠ f.check ∨ f.seq ≠ (s.port n).rxSeq := hbad
  change execFlitReceive n f false none s = _
  unfold execFlitReceive
  simp only [beq_iff_eq, bne_iff_ne, hlanes, hthawed, hbad', Bool.or_eq_true, Bool.and_eq_true, Bool.not_false, Bool.false_eq_true, or_self,
    false_and, if_false, if_true, true_and]

end

theorem tellFlow_eq (s : State) (n : Nat) : s.tellFlow n =
    (if n < 64 ∧ ((s.port n).stops &&& ~~~(s.port n).told ≠ 0#5 ∨ (s.port n).goes &&& (s.port n).told ≠ 0#5)
      then { s.setPort n { s.port n with told := ((s.port n).told ||| (s.port n).stops) &&& ~~~(s.port n).goes } with
             outbox := s.outbox ++ [.flow n ((s.port n).stops &&& ~~~(s.port n).told) ((s.port n).goes &&& (s.port n).told)] } else s) := by
  unfold State.tellFlow Port.tell
  simp only [Bool.or_eq_true, Bool.and_eq_true, decide_eq_true_eq, beq_iff_eq]
  by_cases htold : n < 64 ∧ ((s.port n).stops &&& ~~~(s.port n).told ≠ 0#5 ∨ (s.port n).goes &&& (s.port n).told ≠ 0#5)
  · rw [if_pos htold, if_neg]
    obtain ⟨hn, hflow⟩ := htold
    exact not_or.mpr ⟨Nat.not_le.mpr hn, fun hnone => hflow.elim (· hnone.1) (· hnone.2)⟩
  · rw [if_neg htold, if_pos]
    simpa only [Classical.not_and_iff_not_or_not, Nat.not_lt, not_or, ne_eq, Classical.not_not] using htold

theorem assemble_eq (s : State) (n vc : Nat) (bs : List Byte) (h : BitVec 128)
    (hh : h = BitVec.ofNat 128 (bytesToNat ((Table.get [] (s.port n).parts vc ++ bs).take 16))) :
    s.assemble n vc bs = (if (Table.get [] (s.port n).parts vc ++ bs).length < 16 + bodyLength h
      then s.setPort n { s.port n with parts := Table.put (s.port n).parts vc (Table.get [] (s.port n).parts vc ++ bs) }
      else (s.setPort n { s.port n with parts := Table.erase (s.port n).parts vc }).received n
        { hdr := h, body := ((Table.get [] (s.port n).parts vc ++ bs).drop 16).take (bodyLength h) }) := by
  unfold State.assemble
  simp only [← hh, Nat.add_sub_cancel_left]

/-! ### Datagrams -/

/-- A packet that has arrived whole touches its port, or is reported. -/
theorem received_of {β : Type} (s : State) (n : Nat) (p : Packet) (g : State → β) (hports : ∀ (u : State) (ports : Table Port), g { u with ports := ports } = g u)
    (hevent : ∀ u o dr dw dl, g { u with outbox := o, deviceRing := dr, deviceWaiting := dw, deviceLost := dl } = g u) : g (s.received n p) = g s := by
  unfold State.received State.portError
  dsimp only
  split
  · exact (State.event_of _ _ _ _ _ _ _ g hevent).trans (hports ..)
  · exact hports ..

theorem takeFar_farMap (peer : Nat) (ps : List Packet) : ∀ (s : State) (seq : BitVec 32), (s.takeFar peer seq ps).farMap = s.farMap := by
  induction ps with
  | nil => exact fun _ _ => rfl
  | cons p ps ih =>
    intro s seq
    refine (ih _ _).trans ?_
    split
    · exact received_of _ _ _ State.farMap (fun _ _ => rfl) fun _ _ _ _ _ => rfl
    · rfl

/-- The packets of a datagram are received from the one expected on; what is unacknowledged stays. -/
theorem takeFar_fars (peer : Nat) (ps : List Packet) : ∀ (s : State) (seq : BitVec 32) (f : Far), Table.find s.fars peer = some f →
    ∃ g, Table.find (s.takeFar peer seq ps).fars peer = some g ∧ g.unacked = f.unacked ∧
      g.rx = if (f.rx - seq).toNat < ps.length then seq + BitVec.ofNat 32 ps.length else f.rx := by
  induction ps with
  | nil => exact fun s seq f hf => ⟨f, hf, rfl, by simp⟩
  | cons p ps ih =>
    intro s seq f hf
    have hget : Table.get ({} : Far) s.fars peer = f := by rw [Table.get, hf, Option.getD_some]
    by_cases hseq : seq = f.rx
    · have hnext : Table.find (({ s with fars := Table.put s.fars peer { f with rx := f.rx + 1#32 } } : State).received (64 + peer) p).fars peer =
          some { f with rx := f.rx + 1#32 } := by
        rw [received_of _ _ _ State.fars (fun _ _ => rfl) fun _ _ _ _ _ => rfl]
        exact Table.find_put_self ..
      obtain ⟨g, hg, hunacked, hrx⟩ := ih _ (seq + 1#32) _ hnext
      refine ⟨g, ?_, hunacked, ?_⟩
      · simpa only [State.takeFar, hget, hseq, beq_self_eq_true, if_true] using hg
      · rw [hrx, hseq]
        simp only [BitVec.sub_self, List.length_cons]
        by_cases hps : ps.length = 0
        · simp [hps]
        · rw [if_pos (by simpa using Nat.pos_of_ne_zero hps), if_pos (by simp), BitVec.add_assoc, Nat.add_comm, BitVec.ofNat_add]
    · obtain ⟨g, hg, hunacked, hrx⟩ := ih s (seq + 1#32) f hf
      refine ⟨g, ?_, hunacked, ?_⟩
      · simpa only [State.takeFar, hget, beq_iff_eq, hseq, if_false] using hg
      · have hlt : (f.rx - (seq + 1#32)).toNat < ps.length ↔ (f.rx - seq).toNat < ps.length + 1 := by
          have : (f.rx - seq).toNat ≠ 0 := by
            intro h0
            exact hseq (by bv_omega)
          have : (f.rx - (seq + 1#32)).toNat = (f.rx - seq).toNat - 1 := by bv_omega
          omega
        rw [hrx, List.length_cons, Nat.add_comm ps.length 1, BitVec.ofNat_add, ← BitVec.add_assoc, Nat.add_comm 1 ps.length]
        simp only [hlt]

/-- A far peer's entry once an acknowledgement has freed what it covers (R303). -/
def State.farAcked (s : State) (n : Nat) (ack : BitVec 32) : Far :=
  let f := Table.get ({} : Far) s.fars n
  let left := f.unacked.filter (fun e => (e.1 - ack).toNat < 2 ^ 31)
  { f with unacked := left, since := if left.length < f.unacked.length then s.time else f.since }

/-- The state once the packets of a datagram are received. -/
def State.farTaken (s : State) (n : Nat) (seq ack : BitVec 32) (ps : List Packet) : State :=
  ({ s with fars := Table.put s.fars n (s.farAcked n ack) } : State).takeFar n seq ps

theorem exec_scaleOutDatagram (s : State) (n : Nat) (seq ack : BitVec 32) (ps : List Packet) :
    exec (.scaleOutDatagram n seq ack ps) s = .next (if ps.isEmpty then s.farTaken n seq ack ps else
      { s.farTaken n seq ack ps with outbox := (s.farTaken n seq ack ps).outbox ++ [.datagram ((s.farTaken n seq ack ps).farEntry n) 1
          (Table.get ({} : Far) (s.farTaken n seq ack ps).fars n).tx (Table.get ({} : Far) (s.farTaken n seq ack ps).fars n).rx []] }) := rfl

/-- What a datagram of a far peer leaves of the peer's entry, and the acknowledgement it is answered with. -/
theorem scaleOutDatagram_taken (s : State) (n : Nat) (seq ack : BitVec 32) (ps : List Packet) :
    ∃ t far, exec (.scaleOutDatagram n seq ack ps) s = .next t ∧ Table.find t.fars n = some far ∧
      far.unacked = (Table.get ({} : Far) s.fars n).unacked.filter (fun e => decide ((e.1 - ack).toNat < 2 ^ 31)) ∧
      far.rx = (if ((Table.get ({} : Far) s.fars n).rx - seq).toNat < ps.length then seq + BitVec.ofNat 32 ps.length
        else (Table.get ({} : Far) s.fars n).rx) ∧
      (ps ≠ [] → t.outbox.getLast? = some (.datagram (Table.get {} s.farMap n) 1 far.tx far.rx [])) := by
  obtain ⟨far, hfar, hunacked, hrx⟩ :=
    takeFar_fars n ps { s with fars := Table.put s.fars n (s.farAcked n ack) } seq _ (Table.find_put_self s.fars n (s.farAcked n ack))
  have hfind : Table.find (s.farTaken n seq ack ps).fars n = some far := hfar
  have hget : Table.get ({} : Far) (s.farTaken n seq ack ps).fars n = far := by rw [Table.get, hfind, Option.getD_some]
  have hfarMap : (s.farTaken n seq ack ps).farMap = s.farMap := takeFar_farMap n ps _ seq
  have hmap : (s.farTaken n seq ack ps).farEntry n = Table.get {} s.farMap n := by rw [State.farEntry, hfarMap]
  refine ⟨_, far, exec_scaleOutDatagram s n seq ack ps, ?_, hunacked, hrx, fun hps => ?_⟩
  · split
    · exact hfar
    · exact hfar
  · rw [if_neg (by simpa using hps), hget, hmap, List.getLast?_concat]

theorem scaleOutResendTimeout_resends {s : State} {n : Nat} (hsome : (Table.get ({} : Far) s.fars n).unacked ≠ [])
    (htime : (Table.get ({} : Far) s.fars n).since + 20000 ≤ s.time) :
    exec (.scaleOutResendTimeout n) s = .next { s with
      outbox := s.outbox ++ (Table.get ({} : Far) s.fars n).unacked.map (fun e => Out.datagram (Table.get {} s.farMap n) e.2.vc e.1
        (Table.get ({} : Far) s.fars n).rx [e.2])
      fars := Table.put s.fars n { Table.get ({} : Far) s.fars n with since := s.time } } := by
  have hsome' : (Table.get ({} : Far) s.fars n).unacked.isEmpty = false := by simpa using hsome
  change execScaleOutResendTimeout n s = _
  unfold execScaleOutResendTimeout
  simp only [hsome', Nat.not_lt.mpr htime, decide_false, Bool.or_self, Bool.false_eq_true, if_false]
  rfl

/-! ### Time -/

theorem within20_iff (x : Int) : within20 x = true ↔ -20 ≤ x ∧ x ≤ 20 := by simp [within20]

theorem estimate_time (s : State) (count : Nat) :
    (s.estimate count).time = if s.stepped = false ∧ s.time + 20 < count then count else s.time := by
  have hstep : (!s.stepped && decide ((s.time : Int) - count < -20)) = true ↔ s.stepped = false ∧ s.time + 20 < count := by
    rw [Bool.and_eq_true, decide_eq_true_eq, Bool.not_eq_true']
    exact and_congr_right fun _ => by omega
  change (if (!s.stepped && decide ((s.time : Int) - count < -20)) = true then count else s.time) = _
  exact ite_congr_iff hstep rfl rfl

theorem estimate_lock (s : State) (count : Nat) :
    (s.estimate count).lock = true ↔ s.lock = true ∧ -20 ≤ (s.estimate count).off ∧ (s.estimate count).off ≤ 20 := by
  change (s.lock && within20 (s.estimate count).off) = true ↔ _
  rw [Bool.and_eq_true, within20_iff]

theorem estimate_syncGood (s : State) (count : Nat) :
    (s.estimate count).syncGood = if -20 ≤ (s.estimate count).off ∧ (s.estimate count).off ≤ 20 then s.syncGood else 0 := by
  change (if within20 (s.estimate count).off then s.syncGood else 0) = _
  exact ite_congr_iff (within20_iff _) rfl rfl

section
variable {s u : State} {n count : Nat} {p : Packet} (hcur : s.cur = .port n) (hhead : s.head n 4 7 = some p)
  (hu : u = { s.popPacket n 4 with heard := Table.put s.heard p.src s.time })
include hcur hhead hu

/-- A SYNC packet is taken; that of the chosen master gives an estimate, but on the master. -/
theorem exec_sync : exec .sync s = .next (if s.master || p.src != u.chosenMaster then u
    else ({ u with syncAt := s.time, ptp := bytesToNat ((p.body.drop 12).take 1) % 2 == 1 } : State).estimate
      (bytesToNat (p.body.take 8) + bytesToNat ((p.body.drop 8).take 4))) := by
  obtain ⟨ports, outbox, hpop⟩ := popPacket_sent s n 4
  rw [hpop] at hu
  change Host.Outcome.next (s.onPort _) = _
  simp only [State.onPort, hcur, hhead, hpop]
  subst hu
  rfl

theorem sync_estimate (hslave : s.master = false) (hchosen : p.src = u.chosenMaster)
    (hcount : count = bytesToNat (p.body.take 8) + bytesToNat ((p.body.drop 8).take 4)) :
    ∃ t, exec .sync s = .next t ∧ t.syncAt = s.time ∧ t.syncSeen = true ∧
      t.ptp = (bytesToNat ((p.body.drop 12).take 1) % 2 == 1) ∧ t.time = (if s.stepped = false ∧ s.time + 20 < count then count else s.time) ∧
      t.off = (t.time : Int) - count ∧ t.rate = max (-200) (min 200 (-t.off)) ∧ t.syncGood = (if -20 ≤ t.off ∧ t.off ≤ 20 then s.syncGood else 0) ∧
      (t.lock = true ↔ s.lock = true ∧ -20 ≤ t.off ∧ t.off ≤ 20) := by
  have hrun := exec_sync hcur hhead hu
  rw [hslave, ← hchosen, ← hcount, if_neg (by simp)] at hrun
  obtain ⟨ports, outbox, hpop⟩ := popPacket_sent s n 4
  rw [hpop] at hu
  subst hu
  exact ⟨_, hrun, rfl, rfl, rfl, estimate_time _ count, rfl, rfl, estimate_syncGood _ count, estimate_lock _ count⟩

end

/-- What a step of the clock's keeping says of a state, whatever its ports and outbox. -/
theorem foldl_sendFlits_sent (p : State → Packet) (ns : List Nat) (s : State) :
    ∃ ports outbox, ns.foldl (fun s n => if (s.port n).stopped.getLsbD 4 then s else s.sendFlits n (p s)) s = s.sent ports s.fars outbox := by
  induction ns generalizing s with
  | nil => exact ⟨s.ports, s.outbox, rfl⟩
  | cons n ns ih =>
    rw [List.foldl_cons]
    split
    · exact ih s
    · obtain ⟨ports, outbox, h⟩ := sendFlits_sent s n (p s)
      rw [h]
      obtain ⟨ports', outbox', h'⟩ := ih (s.sent ports s.fars outbox)
      exact ⟨ports', outbox', h'⟩

/-- A package that becomes, or stops being, the master of its domain starts afresh. -/
def State.asMaster (s : State) (m : Bool) : State :=
  if m == s.master then s else { s with master := m, lock := m, off := if m then 0 else s.off, syncGood := 0, ptp := false, rate := 0 }

theorem asMaster_master (s : State) (m : Bool) : (s.asMaster m).master = m := by
  unfold State.asMaster
  split
  case isTrue h => exact (beq_iff_eq.mp h).symm
  case isFalse => rfl

theorem asMaster_same {s : State} {m : Bool} (h : m = s.master) : s.asMaster m = s := if_pos (beq_iff_eq.mpr h)

/-- The state at the end of a SYNC interval, before the packets are sent: the master is chosen. -/
def State.masterChosen (s : State) : State := (if s.master then s else s.countInterval).asMaster (s.chosenMaster == s.package)

theorem masterChosen_slave {s : State} (hbefore : s.master = false) (hafter : s.masterChosen.master = false) : s.masterChosen = s.countInterval := by
  have hm : (s.chosenMaster == s.package) = false := (asMaster_master ..).symm.trans hafter
  rw [State.masterChosen, hbefore, hm]
  exact asMaster_same hbefore.symm

theorem exec_syncInterval (s : State) : ∃ ports outbox, exec .syncInterval s = .next (s.masterChosen.sent ports s.masterChosen.fars outbox) := by
  obtain ⟨ports, outbox, h⟩ := foldl_sendFlits_sent
    (fun u => { hdr := Head.bits { type_ := 7, dst := u.package, src := u.package, len := 16 }
                body := natToBytes 8 s.masterChosen.time ++ natToBytes 4 (Config.freeWord s.masterChosen.tick).toNat ++
                  natToBytes 4 s.masterChosen.ptp.toNat })
    (s.masterChosen.ports.map Prod.fst) s.masterChosen
  exact ⟨ports, outbox, congrArg Host.Outcome.next h⟩

theorem syncInterval_counts (s : State) : ∃ t, exec .syncInterval s = .next t ∧ t.master = (s.chosenMaster == s.package) ∧
    (s.master = false → t.master = false → t.syncSeen = false ∧
      t.syncGood = (if s.syncSeen = true ∧ -20 ≤ s.off ∧ s.off ≤ 20 then s.syncGood + 1 else s.syncGood) ∧
      (t.lock = true ↔ s.lock = true ∨ 16 ≤ t.syncGood)) := by
  obtain ⟨ports, outbox, h⟩ := exec_syncInterval s
  refine ⟨_, h, asMaster_master .., fun hbefore hafter => ?_⟩
  have heq := masterChosen_slave hbefore hafter
  refine ⟨congrArg State.syncSeen heq, (congrArg State.syncGood heq).trans (ite_congr_iff ?_ rfl rfl), ?_⟩
  · rw [Bool.and_eq_true, within20_iff]
  · change s.masterChosen.lock = true ↔ s.lock = true ∨ 16 ≤ s.masterChosen.syncGood
    rw [heq]
    simp [State.countInterval]

theorem syncLossTimeout_clears {s : State} (hslave : s.master = false) (htime : s.syncAt + 16000 ≤ s.time) :
    exec .syncLossTimeout s = .next { s with lock := false, syncGood := 0 } := by
  change execSyncLossTimeout s = _
  unfold execSyncLossTimeout
  simp only [hslave, htime, decide_true, Bool.not_false, Bool.and_self, if_true]

theorem ieee1588Message_keeps {s : State} (x : Nat) (hmaster : s.master = true) :
    ∃ t, exec (.ieee1588Message x) s = .next t ∧ t.time = (if s.stepped then s.time else max s.time x) ∧ t.stepped = true ∧
      t.rate = max (-200) (min 200 (x - t.time : Int)) ∧ (t.ptp = true ↔ -20 ≤ (t.time - x : Int) ∧ (t.time - x : Int) ≤ 20) := by
  refine ⟨_, congrArg Host.Outcome.next (if_pos hmaster), rfl, rfl, ?_, within20_iff _⟩
  exact congrArg (fun d => max (-200) (min 200 d)) (Int.neg_sub ..)

/-- Settles O39: part by part, what a port makes of flits and datagrams, and what SYNC and the grandmaster make of the counter. -/
theorem linkEventsComplete : Obligations.LinkEventsComplete := by
  unfold Obligations.LinkEventsComplete
  refine fun s n => ⟨?_, ?_, tellFlow_eq s n, fun vc bs h hh => assemble_eq s n vc bs h hh, rfl, scaleOutDatagram_taken s n, ?_, ?_,
    syncInterval_counts s, ?_, fun x => ieee1588Message_keeps x⟩
  · rintro f idle u hlanes hthawed hcrc rfl
    refine ⟨?_, ?_⟩
    · rintro rfl
      exact flitReceive_idle hlanes hthawed hcrc
    · rintro rfl hseq hvc
      exact flitReceive_good hlanes hthawed hcrc hseq hvc
  · exact fun f hlanes hthawed hbad => flitReceive_bad hlanes hthawed hbad
  · exact fun hsome htime => scaleOutResendTimeout_resends hsome htime
  · intro p u count hcur hhead hu hcount
    refine ⟨fun h => ?_, fun hslave hchosen => sync_estimate hcur hhead hu hslave hchosen hcount⟩
    rw [exec_sync hcur hhead hu, if_pos (by simpa using h)]
  · exact fun hslave htime => syncLossTimeout_clears hslave htime

end Sys2Proof.Machine
end


section
/-! SUPPORT. The packets of a command queue (O40). -/

namespace Sys2Proof.Machine

section
variable {s : State} {slot : Nat} {flags : BitVec 12} {ws : List W32} {count : Option Nat}

/-- A packet that is parsed runs its own effect. -/
theorem Parses.packet (h : Parses s slot flags ws count) (go : Nat → Queue → State) : s.packet flags ws count go = go slot (s.queue slot) := by
  have hcount : (count.isSome && count != some ws.length) = false := by
    cases count with
    | none => rfl
    | some n => simp [h.count n rfl]
  have hflags : flags.toNat / 4 = 0 := Nat.div_eq_of_lt h.legal
  have hser : (flags.getLsbD 0 && !(s.queue slot).uncommitted.isEmpty) = false := by
    cases hbit : flags.getLsbD 0
    · rfl
    · simp [h.ser hbit]
  unfold State.packet
  simp only [h.cur, h.state, h.enabled, h.fault, hcount, hflags, hser, bne_self_eq_false, Bool.not_true, Option.isSome_none, Bool.or_self,
    Bool.false_eq_true, if_false]

/-- A packet with a wrong count stops its queue. -/
theorem packet_miscounted {n : Nat} (hcur : s.cur = .queue slot) (hstate : (s.queue slot).state = 1) (henabled : (s.queue slot).enabled = true)
    (hfault : (s.queue slot).fault = none) (hlen : ws.length ≠ n) (go : Nat → Queue → State) : s.packet flags ws (some n) go = s.stopQueue slot 3 := by
  have hcount : ((some n).isSome && some n != some ws.length) = true := by simp [Ne.symm hlen]
  unfold State.packet
  simp only [hcur, hstate, henabled, hfault, hcount, bne_self_eq_false, Bool.not_true, Option.isSome_none, Bool.or_self, Bool.false_eq_true, if_false,
    if_true]

/-- A packet with a flag that is not one stops its queue. -/
theorem packet_flagged (hcur : s.cur = .queue slot) (hstate : (s.queue slot).state = 1) (henabled : (s.queue slot).enabled = true)
    (hfault : (s.queue slot).fault = none) (hflags : 4 ≤ flags.toNat) (go : Nat → Queue → State) : s.packet flags ws none go = s.stopQueue slot 10 := by
  have hbad : flags.toNat / 4 ≠ 0 := by omega
  unfold State.packet
  simp [hcur, hstate, henabled, hfault, hbad]

theorem packetAddr_of {a k : Nat} (hk : a % k = 0) (ha : a < 2 ^ 57) : packetAddr a k = true := by
  rw [packetAddr, hk, decide_eq_true ha, beq_self_eq_true, Bool.and_self]

theorem queueReach_of {va w a : Nat} {need : Need} {sp : Space} (h : s.queueGets slot va w need sp a) : s.queueReach slot va w need = .ok sp a := by
  obtain ⟨⟨o, hreach⟩, hclean⟩ := h
  have hbad : (need.r && s.poisoned sp a) = false := by
    cases hr : need.r
    · rfl
    · exact hclean hr
  unfold State.queueReach
  dsimp only
  rw [hreach]
  simp only [hbad, Bool.false_eq_true, if_false]

/-- The queue once a packet in its ring has taken effect and is complete. -/
theorem effect_plain (hstate : (s.queue slot).state = 1) (hframes : (s.queue slot).frames = []) (hnone : (s.queue slot).uncommitted = []) (k : Nat) :
    (s.effect slot flags k none).queue slot = { s.queue slot with
      head := (s.queue slot).head + 4 * (k + 1), prog := (s.queue slot).head + 4 * (k + 1), held := none } ∧
    (s.effect slot flags k none).outbox = s.outbox ++ (if flags.getLsbD 1 then [.msix slot] else []) := by
  have hpast : (s.queue slot).past k = ({ s.queue slot with head := (s.queue slot).head + 4 * (k + 1) }, some ((s.queue slot).head + 4 * (k + 1))) := by
    simp only [Queue.past, hframes]
  let q : Queue := { s.queue slot with
    head := (s.queue slot).head + 4 * (k + 1), uncommitted := [{ upTo := some ((s.queue slot).head + 4 * (k + 1)), irq := flags.getLsbD 1, grid := none }]
    held := none }
  have heffect : s.effect slot flags k none = ((s.setQueue slot q).commitQueue slot).pulse (s.queue slot).ctx := by
    unfold State.effect
    simp only [hpast, hframes, hnone, leaveFrames, List.nil_append, q]
  have hq : (s.setQueue slot q).queue slot = q := Table.get_put_self ..
  have hcommit : (s.setQueue slot q).commitQueue slot =
      { (s.setQueue slot q).setQueue slot { q with uncommitted := [], prog := (s.queue slot).head + 4 * (k + 1) } with
        outbox := s.outbox ++ List.replicate (if flags.getLsbD 1 then 1 else 0) (Out.msix slot) } := by
    have hq1 : q.state = 1 := hstate
    unfold State.commitQueue
    simp only [hq, hq1, Nat.reduceBEq, Bool.or_self, Bool.false_eq_true, if_false]
    simp only [q, commitFront, Option.getD_some, Nat.zero_add]
    rfl
  refine ⟨?_, ?_⟩
  · rw [heffect, hcommit]
    refine (Table.get_put_self ..).trans ?_
    simp only [q, ← hnone]
  · rw [heffect, hcommit]
    cases flags.getLsbD 1 <;> rfl

end

/-- Settles O40: a parsed packet runs its effect, which its own conditions decide. -/
theorem packetsTakeEffect : Obligations.PacketsTakeEffect := by
  unfold Obligations.PacketsTakeEffect
  intro s slot flags ws
  refine ⟨?_, ?_, ?_, ?_, ?_, ?_, ?_, ?_, ?_, ?_, ?_, ?_⟩
  · exact fun h => congrArg Host.Outcome.next (h.packet _)
  · intro h hframes hnone _
    obtain ⟨hqueue, hout⟩ := effect_plain (flags := flags) h.state hframes hnone ws.length
    exact ⟨_, congrArg Host.Outcome.next (h.packet _), hqueue, hout⟩
  · intro h haligned hbelow hone hmax hframes
    refine (congrArg Host.Outcome.next (h.packet _)).trans ?_
    have hsize : ((ws.getD 2 0#32).toNat == 0 || decide (2 ^ 20 < (ws.getD 2 0#32).toNat)) = false := by
      rw [Bool.or_eq_false_iff]
      exact ⟨beq_false_of_ne (by omega), decide_eq_false (by omega)⟩
    simp only [packetAddr_of haligned hbelow, Bool.not_true, Bool.false_or, hsize, Bool.false_eq_true, if_false, Queue.past, hframes, List.length_nil]
    rfl
  · intro h haligned hbelow hone hmax hframes
    refine (congrArg Host.Outcome.next (h.packet _)).trans ?_
    have hsize : ((ws.getD 2 0#32).toNat == 0 || decide (2 ^ 20 < (ws.getD 2 0#32).toNat)) = false := by
      rw [Bool.or_eq_false_iff]
      exact ⟨beq_false_of_ne (by omega), decide_eq_false (by omega)⟩
    simp only [packetAddr_of haligned hbelow, Bool.not_true, Bool.false_or, hsize, Bool.false_eq_true, if_false, hframes, if_true]
  · intro h haligned hbelow b hbits
    refine (congrArg Host.Outcome.next (h.packet _)).trans ?_
    cases b <;>
      simp only [packetAddr_of haligned hbelow, hbits, Bool.not_true, Bool.false_eq_true, if_false, if_true]
  · intro h haligned hbelow hcond sp a hgets
    refine (congrArg Host.Outcome.next (h.packet _)).trans ?_
    simp only [packetAddr_of haligned hbelow, Nat.not_lt.mpr hcond, decide_false, Bool.not_true, Bool.or_self, Bool.false_eq_true, if_false,
      State.tryWaitmem, queueReach_of hgets]
  · intro hcur hstate hfault hheld sp a hgets
    change execWaitmemRecheck s = _
    unfold execWaitmemRecheck
    simp only [hcur, hstate, hfault, hheld, bne_self_eq_false, Option.isSome_none, Bool.or_self, Bool.false_eq_true, if_false,
      State.tryWaitmem, queueReach_of hgets]
  · intro h haligned hbelow sp a hgets
    refine (congrArg Host.Outcome.next (h.packet _)).trans ?_
    simp only [packetAddr_of haligned hbelow, Bool.not_true, Bool.false_eq_true, if_false, State.queueStore, queueReach_of hgets]
  · intro h haligned hbelow hnone sp a hgets
    refine (congrArg Host.Outcome.next (h.packet _)).trans ?_
    simp only [packetAddr_of haligned hbelow, hnone, List.isEmpty_nil, Bool.not_true, Bool.false_eq_true, if_false, State.queueStore,
      queueReach_of hgets]
  · intro h hbad
    refine (congrArg Host.Outcome.next (h.packet _)).trans ?_
    have haddr : packetAddr (word64 ws 0) 8 = false := by
      rw [packetAddr, Bool.and_eq_false_iff]
      exact hbad.imp (fun h => beq_false_of_ne h) fun h => decide_eq_false (Nat.not_lt.mpr h)
    simp only [haddr, Bool.not_false, if_true]
  · exact fun hcur hstate henabled hfault hlen => congrArg Host.Outcome.next (packet_miscounted hcur hstate henabled hfault hlen _)
  · exact fun hcur hstate henabled hfault hflags => congrArg Host.Outcome.next (packet_flagged hcur hstate henabled hfault hflags _)

end Sys2Proof.Machine
end


section
/-! SUPPORT. Grids accepted or refused, and the end of a block (O41). -/

namespace Sys2Proof.Machine

/-! ### Acceptance -/

/-- The lowest handle that no grid of a context has. -/
theorem freeHandle_of {s : State} {ctx h : Nat} (hlt : h < 1024) (hfree : Table.find s.grids (gridKey ctx h) = none)
    (htaken : ∀ k < h, (Table.find s.grids (gridKey ctx k)).isSome) : s.freeHandle ctx = some h := by
  unfold State.freeHandle
  rw [List.find?_range_eq_some]
  refine ⟨by simp [hfree], List.mem_range.mpr hlt, fun k hk => ?_⟩
  simpa using htaken k hk

section
variable {s : State} {slot : Nat} {flags : BitVec 12} {ws : List W32} {cont : Bool} (hp : Parses s slot flags ws (some 32))
include hp

/-- The number a launch record's words stand for. -/
def recordBits (ws : List W32) : Nat := ws.foldr (fun w acc => w.toNat + 2 ^ 32 * acc) 0

theorem acceptGrid_illegal (h : launchLegal cont (recordBits ws) = false) : s.acceptGrid cont flags ws = s.stopQueue slot 6 := by
  unfold recordBits at h
  refine (hp.packet _).trans ?_
  simp only [h, Bool.not_false, if_true]

theorem acceptGrid_unfit (h : launchLegal cont (recordBits ws) = true)
    (hfit : s.clusterFits (Launch.ofBits (recordBits ws)) (s.queue slot).ctx = false) : s.acceptGrid cont flags ws = s.stopQueue slot 7 := by
  unfold recordBits at h hfit
  refine (hp.packet _).trans ?_
  simp only [h, hfit, Bool.not_true, Bool.not_false, Bool.false_eq_true, if_false, if_true]

theorem acceptGrid_pool (h : launchLegal cont (recordBits ws) = true)
    (hfit : s.clusterFits (Launch.ofBits (recordBits ws)) (s.queue slot).ctx = true) (hcont : cont = true)
    (hopen : (s.poolGrid (s.queue slot).ctx (Launch.ofBits (recordBits ws)).own).isSome) : s.acceptGrid cont flags ws = s.stopQueue slot 9 := by
  unfold recordBits at h hfit hopen
  rw [hcont] at h ⊢
  refine (hp.packet _).trans ?_
  simp only [h, hfit, hopen, Bool.not_true, Bool.and_self, Bool.false_eq_true, if_false, if_true]

theorem acceptGrid_taken {l : Launch} {h : Nat} {u : State} (hl : l = Launch.ofBits (recordBits ws)) (hlegal : launchLegal cont (recordBits ws) = true)
    (hfit : s.clusterFits l (s.queue slot).ctx = true) (hpool : cont = true → s.poolGrid (s.queue slot).ctx l.own = none)
    (hhandle : s.freeHandle (s.queue slot).ctx = some h)
    (hzero : (if l.clear = true ∧ l.tiles ≠ 0 then s.zeroWords slot l.tiles ((l.blocks + 63) / 64) else .ok s) = .ok u) :
    s.acceptGrid cont flags ws = State.effect { u with
      grids := Table.put u.grids (gridKey (s.queue slot).ctx h) { ctx := (s.queue slot).ctx, queue := slot, order := u.nextId, cont := cont, l := l }
      nextId := u.nextId + 1
      bitmaps := if l.tiles = 0 then u.bitmaps else ((s.queue slot).ctx, l.tiles, l.blocks) :: u.bitmaps } slot flags 32
        (some (gridKey (s.queue slot).ctx h)) := by
  have hopen : (cont && (s.poolGrid (s.queue slot).ctx l.own).isSome) = false := by
    cases hc : cont
    · rfl
    · simp [hpool hc]
  have hclear : (if (l.clear && l.tiles != 0) = true then s.zeroWords slot l.tiles ((l.blocks + 63) / 64) else .ok s) = .ok u := by
    rw [← hzero]
    exact ite_congr_iff (by simp) rfl rfl
  unfold recordBits at hl hlegal
  refine (hp.packet _).trans ?_
  simp only [hlegal, ← hl, hfit, hopen, hhandle, hclear, Bool.not_true, Bool.false_eq_true, if_false, beq_iff_eq]

end

theorem exec_grid (flags : BitVec 12) (ws : List W32) (cont : Bool) (s : State) :
    exec (if cont then .cgrid flags ws else .grid flags ws) s = .next (s.acceptGrid cont flags ws) := by
  cases cont <;> rfl

/-! ### The end of a block -/

theorem grids_freeCluster (s : State) (bl : Block) : (s.freeCluster bl).grids = s.grids := by
  unfold State.freeCluster
  dsimp only
  split
  · refine foldl_keep _ State.grids ?_ _ s
    exact fun _ _ => rfl
  · rfl

/-- A block that is done ends; its grid, which has other blocks, counts one more. -/
theorem blockEnd_counts {s u : State} {b : Nat} {bl : Block} (hfind : Table.find s.blocks b = some bl) (hplace : bl.place = .resident)
    (hdone : s.blockDone b = true) (hnear : s.nearDone b = true) (hbit : s.setTileBit bl = .ok u) (hcont : (u.grid bl.gridKey).cont = false)
    (hsome : (Table.find u.grids bl.gridKey).isSome) (hmore : (u.grid bl.gridKey).ended + 1 ≠ (u.grid bl.gridKey).l.blocks) :
    exec (.blockEnd b) s = .next (State.pulse (State.modGrid (State.freeCluster ((u.clearBlock b).modBlock b (fun x => { x with place := .ended })) bl)
      bl.gridKey (fun g => { g with ended := g.ended + 1 })) bl.ctx) := by
  have hgrids := grids_freeCluster ((u.clearBlock b).modBlock b (fun x => { x with place := .ended })) bl
  have hgrid : (State.modGrid (State.freeCluster ((u.clearBlock b).modBlock b (fun x => { x with place := .ended })) bl) bl.gridKey
      (fun g => { g with ended := g.ended + 1 })).grid bl.gridKey = { u.grid bl.gridKey with ended := (u.grid bl.gridKey).ended + 1 } := by
    unfold State.grid State.modGrid
    dsimp only
    rw [hgrids]
    exact Table.get_modify_self _ u.grids _ _ hsome
  change execBlockEnd b s = _
  unfold execBlockEnd
  simp only [hfind, hplace, hdone, hnear, hbit, bne_self_eq_false, Bool.not_true, Bool.or_self, Bool.false_eq_true, if_false]
  rw [hgrid]
  simp only [hcont, beq_iff_eq, hmore, Bool.false_eq_true, if_false]

theorem setTileBit_none {s : State} {bl : Block} (h : (s.grid bl.gridKey).l.tiles = 0) : s.setTileBit bl = .ok s := by
  unfold State.setTileBit
  simp only [h, beq_self_eq_true, if_true]

theorem setTileBit_sets {s : State} {bl : Block} {sp : Space} {a o : Nat} (h : (s.grid bl.gridKey).l.tiles ≠ 0)
    (hreach : s.reachNow bl.ctx none ((s.grid bl.gridKey).l.tiles + 8 * (bl.lin / 64)) 8 { r := true, w := true } = .ok sp a o) :
    s.setTileBit bl = .ok ((s.store sp a 8 (s.load sp a 8 ||| 2 ^ (bl.lin % 64))).postChange bl.ctx) := by
  unfold State.setTileBit
  dsimp only
  rw [hreach]
  simp only [beq_iff_eq, h, if_false]

theorem find_clearBlock {s : State} {b k : Nat} {th : Thread} (h : Table.find (s.clearBlock b).threads k = some th) : k / 1024 ≠ b := by
  obtain ⟨_, hk⟩ := List.mem_filter.mp (Table.mem_of_find h)
  simpa using hk

/-- Settles O41: what a launch record's checks decide, and what the end of a block leaves. -/
theorem gridsAreAcceptedAndBlocksEnd : Obligations.GridsAreAcceptedAndBlocksEnd := by
  unfold Obligations.GridsAreAcceptedAndBlocksEnd
  refine ⟨?_, ?_⟩
  · rintro s slot flags ws cont e x l hp rfl rfl rfl
    rw [exec_grid]
    refine ⟨fun h => ?_, fun h hfit => ?_, fun h hfit hcont hopen => ?_, fun h u hlegal hfit hpool hlt hfree htaken hzero => ?_⟩
    · exact congrArg _ (acceptGrid_illegal hp h)
    · exact congrArg _ (acceptGrid_unfit hp h hfit)
    · exact congrArg _ (acceptGrid_pool hp h hfit hcont hopen)
    · exact congrArg _ (acceptGrid_taken hp rfl hlegal hfit hpool (freeHandle_of hlt hfree htaken) hzero)
  · intro s u b bl hfind hplace hdone
    refine ⟨fun hnear hbit hcont hsome hmore => blockEnd_counts hfind hplace hdone hnear hbit hcont hsome hmore, setTileBit_none,
      fun sp a o h hreach => setTileBit_sets h hreach, fun k hk => ?_⟩
    obtain ⟨th, hth⟩ := hk
    exact find_clearBlock hth

end Sys2Proof.Machine
end


section
/-! SUPPORT. LAUNCH, POSTC and the bins of continuation records (O42). -/

namespace Sys2Proof.Machine

/-! ### LAUNCH -/

/-- Words for a ring that can be written are appended, an event for the command cores (R348). -/
theorem append_written {s u : State} {i : Issue} {a : Nat} {ws : List Nat} (h : s.ringWrite (s.queue a) (s.queue a).tail ws = .ok u)
    (done : State → State) : s.append i a ws done =
      done ((u.setQueue a { s.queue a with tail := (s.queue a).tail + 4 * ws.length }).post (.queue a)) := by
  unfold State.append
  dsimp only
  rw [h]

section
variable {f : RForm} {sh : Shape} {s : State} {i : Issue} {a b c p : Nat} {sp : Space}

/-- LAUNCH of a packet that can be read, for a queue that takes appends of its context, up to the room in the ring. -/
theorem exec_launch (hlegal : LegalR s i 0xD6 f sh) (honce : Once s i f.ext) (hclear : Clear s i)
    (hready : s.eachReady i (Fields.ofR f) sh = true) (hread : s.readUniform i (firstLane i.path) (boSources f sh) = .vals [a, b])
    (hfeeds : (s.queue a).feeds (s.block i.b).ctx = true) (haligned : b % 4 = 0) (htarget : s.sharedTarget i.b b 4 = some (sp, p))
    (hc : c = fieldOf (s.load sp p 4) 12 12) (hmax : c ≤ 63) (hdone : s.storesDone i s.nextId = true)
    (hwhole : (s.sharedTarget i.b b (4 * (c + 1))).isSome) :
    exec (.launch f) s = .next (if 2 ^ (s.queue a).n < (s.queue a).tail - (s.queue a).head + 4 * (c + 1)
      then (s.putEach i (Fields.ofR f) sh 1).endPass i
      else s.append i a ((List.range (c + 1)).map (fun k => s.load sp (p + 4 * k) 4)) (fun s => (s.putEach i (Fields.ofR f) sh 0).endPass i)) := by
  have hlive : (s.thread (i.tk (firstLane i.path))).role ≠ Role.helper := by simp [honce.live]
  have hargs : argsOf ([a, b] ++ [0, 0]) = { a := a, b := b, c := 0, d := 0 } := rfl
  have hsize : (decide (63 < c) || (s.sharedTarget i.b b (4 * (c + 1))).isNone) = false := by
    rw [decide_eq_false (Nat.not_lt.mpr hmax), Bool.false_or]
    simpa using hwhole
  change Host.Outcome.next (s.memoryWord 0xD6 f _) = _
  rw [memoryWord_of_legal honce.fresh.cur hlegal, withPending_calm honce.guard hclear.calm hclear.some_]
  simp only [hread, hargs, hready, hlive, hfeeds, haligned, htarget, ← hc, hdone, hsize, beq_iff_eq, bne_self_eq_false, Bool.not_true,
    Bool.false_eq_true, if_false]

end

/-! ### POSTC -/

/-- A record on its way to its pool's bins (R345, R347). -/
def State.postRecord (s : State) (i : Issue) (key n x y : Nat) : State :=
  { s with
    posted := Table.put s.posted s.nextId { die := (s.block i.b).core / 128, grid := key, pc := BitVec.ofNat 64 x
                                            words := (List.range 14).map (fun k => if k < n then BitVec.ofNat 32 (y / 2 ^ (32 * k)) else 0#32) }
    nextId := s.nextId + 1 }

theorem postcTurn_done {f : RForm} {sh : Shape} {s : State} {i : Issue} {t x y key : Nat}
    (hread : s.readAll i t [(f.a, f.ea, sh.a, if extXo f.ext == 1 then some (extXs f.ext) else none), (f.b, f.eb, sh.b, none)] = .vals [x, y])
    (haligned : x % 4 = 0) (hbelow : x < 2 ^ 57) (hroom : s.poolRoom i.b = some key) (hcalm : (s.thread (i.tk t)).pending = none)
    (hlive : (s.thread (i.tk t)).role = .live) (hperf : s.performed i [t] = true) :
    postcTurn i f sh s t [] = .done ((s.postRecord i key sh.b.n x y).exitThread i.b i.g t) [] := by
  have hread' : s.readAll i t [((Fields.ofR f).a, (Fields.ofR f).ea, sh.a, if (Fields.ofR f).xo == 1 then some (Fields.ofR f).xs else none),
      ((Fields.ofR f).b, (Fields.ofR f).eb, sh.b, none)] = .vals [x, y] := hread
  have haddr : (x % 4 != 0 || decide (2 ^ 57 ≤ x)) = false := by
    rw [haligned, decide_eq_false (Nat.not_le.mpr hbelow)]
    rfl
  unfold postcTurn
  simp only [hread', List.getD_cons_zero, haddr, hroom, hcalm, hlive, hperf, Bool.not_true, Bool.false_eq_true, if_false]
  rfl

theorem postc_posts {f : RForm} {sh : Shape} {s : State} {i : Issue} {t x y key : Nat} (hlegal : LegalR s i 0xD7 f sh) (hbegins : Begins s i)
    (hactive : s.active i (extGuard f.ext) = [t])
    (hread : s.readAll i t [(f.a, f.ea, sh.a, if extXo f.ext == 1 then some (extXs f.ext) else none), (f.b, f.eb, sh.b, none)] = .vals [x, y])
    (haligned : x % 4 = 0) (hbelow : x < 2 ^ 57) (hroom : s.poolRoom i.b = some key) (hcalm : (s.thread (i.tk t)).pending = none)
    (hlive : (s.thread (i.tk t)).role = .live) (hperf : s.performed i [t] = true) :
    exec (.postc f) s = .next (((s.postRecord i key sh.b.n x y).exitThread i.b i.g t).endPass i) := by
  have hturn := postcTurn_done hread haligned hbelow hroom hcalm hlive hperf
  have hpass := perThread_done hbegins.fresh (extGuard f.ext) (postcTurn i f sh)
    (fun u t => (u.postRecord i key sh.b.n x y).exitThread i.b i.g t) (by
      intro pre t' post hsplit
      rw [hactive, List.cons_eq_append_iff] at hsplit
      obtain ⟨rfl, hcons⟩ | ⟨_, _, hnil⟩ := hsplit
      · obtain ⟨rfl, _⟩ := List.cons.inj hcons
        exact hturn
      · simp at hnil)
  change Host.Outcome.next (s.memoryWord 0xD7 f _) = _
  rw [memoryWord_of_legal hbegins.cur hlegal, hpass, hactive, List.foldl_cons, List.foldl_nil]

/-! ### Bins -/

theorem none_before {s : State} {id : Nat} {p : Posted} (hfirst : ∀ e ∈ s.posted, e.2.die = p.die → id ≤ e.1) :
    s.posted.any (fun e => decide (e.1 < id) && e.2.die == p.die) = false := by
  rw [List.any_eq_false]
  intro e he
  by_cases hdie : e.2.die = p.die
  · simp [hdie, hfirst e he hdie]
  · simp [hdie]

section
variable {s : State} {id : Nat} {p : Posted} (hfind : Table.find s.posted id = some p) (hfirst : ∀ e ∈ s.posted, e.2.die = p.die → id ≤ e.1)
include hfind hfirst

theorem arrival_joins {k : Nat} {bn : Bin}
    (hbin : s.bins.find? (fun e => e.2.die == p.die && e.2.grid == p.grid && e.2.pc == p.pc) = some (k, bn)) :
    exec (.continuationRecordArrival id) s = .next (if bn.recs.length + 1 = 32
      then State.formGroup { s with posted := Table.erase s.posted id, bins := Table.put s.bins k { bn with recs := bn.recs ++ [p.words] } } k
      else { s with posted := Table.erase s.posted id, bins := Table.put s.bins k { bn with recs := bn.recs ++ [p.words] } }) := by
  change execContinuationRecordArrival id s = _
  unfold execContinuationRecordArrival
  simp only [hfind, none_before hfirst, hbin, beq_iff_eq, Bool.false_eq_true, if_false]

theorem arrival_opens (hbin : s.bins.find? (fun e => e.2.die == p.die && e.2.grid == p.grid && e.2.pc == p.pc) = none)
    (hroom : (s.bins.filter (fun e => e.2.die == p.die)).length < 256) :
    exec (.continuationRecordArrival id) s = .next { s with
      posted := Table.erase s.posted id, nextId := s.nextId + 1
      bins := Table.put s.bins s.nextId { die := p.die, grid := p.grid, pc := p.pc, recs := [p.words], deadline := s.time + 1000 * (s.grid p.grid).l.timer } } := by
  change execContinuationRecordArrival id s = _
  unfold execContinuationRecordArrival
  simp only [hfind, none_before hfirst, hbin, if_pos hroom, Bool.false_eq_true, if_false]
  rfl

end

theorem formGroup_eq {s : State} {id : Nat} {bn : Bin} (hfind : Table.find s.bins id = some bn) :
    s.formGroup id = State.modGrid { s with bins := Table.erase s.bins id } bn.grid (fun g =>
      { g with formed := g.formed ++ [{ serial := g.serial, die := bn.die, pc := bn.pc, recs := bn.recs }], serial := (g.serial + 1) % 2 ^ 32 }) := by
  unfold State.formGroup
  simp only [hfind]

theorem binFlushTimeout_forms {s : State} {id : Nat} {bn : Bin} (hfind : Table.find s.bins id = some bn) (htime : bn.deadline ≤ s.time) :
    exec (.binFlushTimeout id) s = .next ((s.formGroup id).testPool bn.grid) := by
  change execBinFlushTimeout id s = _
  unfold execBinFlushTimeout
  simp only [hfind, Nat.not_lt.mpr htime, if_false]

/-- Settles O42: LAUNCH appends its packet, POSTC posts its record, and records gather in bins that form groups. -/
theorem launchesAndPostsComplete : Obligations.LaunchesAndPostsComplete := by
  unfold Obligations.LaunchesAndPostsComplete
  refine ⟨?_, ?_, ?_, ?_⟩
  · intro f sh s u i a b c p sp ws hlegal honce hclear hready hread hfeeds haligned htarget hc hmax hdone hwhole hws
    have hrun := exec_launch hlegal honce hclear hready hread hfeeds haligned htarget hc hmax hdone hwhole
    refine ⟨fun hfull => ?_, fun hroom hwrite => ?_⟩
    · rw [hrun, if_pos hfull]
    · have hlen : ws.length = c + 1 := by rw [hws, List.length_map, List.length_range]
      rw [hrun, if_neg (Nat.not_lt.mpr hroom), ← hws, append_written hwrite, hlen]
  · intro f sh s i t x y key hlegal hbegins hactive hread haligned hbelow hroom hcalm hlive hperf
    exact postc_posts hlegal hbegins hactive hread haligned hbelow hroom hcalm hlive hperf
  · intro s id p hfind hfirst
    exact ⟨fun k bn hbin => arrival_joins hfind hfirst hbin, fun hbin hroom => arrival_opens hfind hfirst hbin hroom⟩
  · intro s id bn hfind
    exact ⟨formGroup_eq hfind, fun htime => binFlushTimeout_forms hfind htime⟩

end Sys2Proof.Machine
end


section
/-! SUPPORT. NLAUNCH, NOPEN, NCMD, NCLOSE and SEARCH (O43). -/

namespace Sys2Proof.Machine

/-! ### The page loop -/

/-- Pages that can all be held can be held from any one on. -/
theorem pageLoop_from {s : State} {ctx : Nat} (plans : List PagePlan) : ∀ (k pix : Nat) (acc acc' pages : List (Nat × Nat)),
    s.pageLoop ctx plans k 0 acc = .held pages → ∃ got, s.pageLoop ctx plans k pix acc' = .held got := by
  induction plans with
  | nil => exact fun k pix acc acc' pages _ => ⟨_, rfl⟩
  | cons p rest ih =>
    intro k pix acc acc' pages h
    rw [State.pageLoop, if_neg (Nat.not_lt_zero k)] at h
    rw [State.pageLoop]
    cases hleaf : s.nearLeaf ctx p.va (if p.write then Need.write else Need.read) with
    | error c => simp [hleaf] at h
    | ok l =>
      cases hslice : s.sliceOk ctx l p.va p.slice with
      | false => simp [hleaf, hslice] at h
      | true =>
        simp only [hleaf, hslice, if_true] at h
        split
        · exact ih _ _ _ _ _ h
        · simp only [hslice, if_true]
          exact ih _ _ _ _ _ h

/-- A launch whose pages can all be held goes on once its group's stores are released. -/
theorem launchPages_held {s : State} {i : Issue} {plans : List PagePlan} {pages : List (Nat × Nat)} (hpix : PixFree s i)
    (hheld : s.pageLoop (s.block i.b).ctx plans 0 0 [] = .held pages) (go : State → List (Nat × Nat) → State) :
    s.launchPages i plans go =
      if s.storesDone i s.nextId then go (s.setPix i 0) pages else (s.setPix i plans.length).holdPath i .fence := by
  have htake : s.takePix i = s := by simp [State.takePix, hpix.own]
  have hfree : s.pixTaken i = false := by simp [State.pixTaken, hpix.free]
  obtain ⟨got, hgot⟩ := pageLoop_from plans 0 (s.group i.gk).pix.toNat [] [] pages hheld
  unfold State.launchPages
  simp only [htake, hfree, hgot, hheld, Bool.false_eq_true, if_false]

/-! ### NLAUNCH and NOPEN -/

section
variable {f : RForm} {s : State} {i : Issue} {streamed : Bool} {plan : List PagePlan} {w : NearWork}

theorem nearLaunch_passes (hpix : PixFree s i) (h : Launches s i f streamed plan w) (go : State → NearWork → State) :
    s.nearLaunch i f streamed go =
      if s.storesDone i s.nextId then go (s.setPix i 0) w else (s.setPix i plan.length).holdPath i .fence := by
  obtain ⟨a, r, sp, pa, bo, pages, hread, hrecord, haligned, htarget, hcheck, hplan, hheld, hw⟩ := h.passes
  have hread' : s.readUniform i (firstLane i.path) [((Fields.ofR f).a, (Fields.ofR f).ea, Opd.one, none)] = .vals [a] := hread
  unfold State.nearLaunch
  simp only [hread', hrecord, List.headD_cons, haligned, htarget, hcheck, ← hplan, bne_self_eq_false, Bool.false_eq_true, if_false]
  rw [launchPages_held hpix hheld, hw]
  rfl

variable {sh : Shape}

theorem exec_nlaunch (hlegal : LegalR s i 0xD9 f sh) (honce : Once s i f.ext) (hclear : Clear s i) (hpix : PixFree s i)
    (h : Launches s i f false plan w) : exec (.nlaunch f) s = .next (if s.storesDone i s.nextId then ((s.setPix i 0).sendLaunch w).1.endPass i
      else (s.setPix i plan.length).holdPath i .fence) := by
  have hlive : ((s.thread (i.tk (firstLane i.path))).role == Role.helper) = false := by simp [honce.live]
  change Host.Outcome.next (s.memoryWord 0xD9 f _) = _
  rw [memoryWord_of_legal honce.fresh.cur hlegal, withPending_calm honce.guard hclear.calm hclear.some_]
  simp only [hlive, nearLaunch_passes hpix h, Bool.false_eq_true, if_false]

theorem exec_nopen (hlegal : LegalR s i 0xDA f sh) (honce : Once s i f.ext) (hclear : Clear s i) (hpix : PixFree s i) (hhold : s.holdOf i = none)
    (h : Launches s i f true plan w) (hready : s.eachReady i (Fields.ofR f) sh = true) (hdone : s.storesDone i s.nextId = true) :
    exec (.nopen f) s = .next (((s.setPix i 0).sendLaunch w).1.holdPath i (.nopen s.nextId)) := by
  have hlive : ((s.thread (i.tk (firstLane i.path))).role == Role.helper) = false := by simp [honce.live]
  change Host.Outcome.next (s.memoryWord 0xDA f _) = _
  rw [memoryWord_of_legal honce.fresh.cur hlegal, withPending_calm honce.guard hclear.calm hclear.some_]
  simp only [hlive, hhold, hready, nearLaunch_passes hpix h, hdone, Bool.not_true, Bool.false_eq_true, if_false, if_true]
  rfl

theorem nopen_opened {x : Nat} (hlegal : LegalR s i 0xDA f sh) (honce : Once s i f.ext) (hclear : Clear s i) (hhold : s.holdOf i = some (.opened x)) :
    exec (.nopen f) s = .next ((s.putEach i (Fields.ofR f) sh x).endPass i) := by
  have hlive : ((s.thread (i.tk (firstLane i.path))).role == Role.helper) = false := by simp [honce.live]
  change Host.Outcome.next (s.memoryWord 0xDA f _) = _
  rw [memoryWord_of_legal honce.fresh.cur hlegal, withPending_calm honce.guard hclear.calm hclear.some_, hlive, hhold]
  rfl

/-! ### SEARCH -/

theorem exec_search {a x pa : Nat} {sp : Space} {bo : Space × Nat} {w : Search} {pages : List (Nat × Nat)} {entries : List W64}
    (hlegal : LegalR s i 0xD8 f sh) (honce : Once s i f.ext) (hclear : Clear s i) (hpix : PixFree s i)
    (hread : s.readUniform i (firstLane i.path) [(f.a, f.ea, Opd.one, none)] = .vals [a]) (haligned : a % 128 = 0)
    (htarget : s.sharedTarget i.b a 128 = some (sp, pa)) (hx : x = s.load sp pa 128) (hbound : searchBound x = false)
    (hbo : s.boTarget i.b (byteField x 52 4) = .ok bo) (hw : w = searchOf i (s.block i.b).ctx (firstLane i.path) x bo)
    (hheld : s.pageLoop (s.block i.b).ctx (w.plan (byteField x 56 8)) 0 0 [] = .held pages) (hdone : s.storesDone i s.nextId = true)
    (hentries : entries = (List.range (w.nq * w.perQuery)).map (fun k =>
      BitVec.ofNat 64 (bytesToNat (s.heldBytes pages (byteField x 56 8 + 8 * k) 8))))
    (hmask : ∀ e ∈ entries, bitAt w.stackSet (e.toNat / 2 ^ 60) ≠ 0) :
    exec (.search f) s = .next (State.endPass { s.setPix i 0 with
      searches := Table.put s.searches s.nextId { w with pages := pages, entries := entries }, nextId := s.nextId + 1 } i) := by
  have hlive : ((s.thread (i.tk (firstLane i.path))).role == Role.helper) = false := by simp [honce.live]
  have hread' : s.readUniform i (firstLane i.path) [((Fields.ofR f).a, (Fields.ofR f).ea, Opd.one, none)] = .vals [a] := hread
  have hbytes : (List.range (w.nq * w.perQuery)).map (fun k =>
      BitVec.ofNat 64 (bytesToNat ((s.setPix i 0).heldBytes pages (byteField x 56 8 + 8 * k) 8))) = entries := hentries.symm
  have hin : entries.any (fun e => bitAt w.stackSet (e.toNat / 2 ^ 60) == 0) = false := by
    rw [List.any_eq_false]
    exact fun e he => by simpa using hmask e he
  change Host.Outcome.next (s.memoryWord 0xD8 f _) = _
  rw [memoryWord_of_legal honce.fresh.cur hlegal, withPending_calm honce.guard hclear.calm hclear.some_]
  simp only [hlive, hread', List.headD_cons, haligned, htarget, ← hx, hbound, hbo, ← hw, launchPages_held hpix hheld, hdone, hbytes, hin,
    bne_self_eq_false, Bool.false_eq_true, if_false, if_true]
  rfl

/-! ### NCLOSE -/

section
variable (hlegal : LegalR s i 0xDC f sh) (honce : Once s i f.ext) (hclear : Clear s i)
include hlegal honce hclear

theorem nclose_ended {n : Nat} (hhold : s.holdOf i = some (.nclose n)) (hnone : Table.find s.opens n = none) :
    exec (.nclose f) s = .next ((s.putEach i (Fields.ofR f) sh 0).endPass i) := by
  change Host.Outcome.next (s.memoryWord 0xDC f _) = _
  rw [memoryWord_of_legal honce.fresh.cur hlegal, withPending_calm honce.guard hclear.calm hclear.some_]
  simp only [hhold, hnone, Option.isSome_none, Bool.false_eq_true, if_false]

/-- NCLOSE of a handle that reads, as yet not waiting: what the open it names decides (R371). -/
theorem exec_nclose {h : Nat} (hhold : s.holdOf i = none) (hread : s.readUniform i (firstLane i.path) [(f.a, f.ea, sh.a, none)] = .vals [h])
    (hready : s.eachReady i (Fields.ofR f) sh = true) :
    (s.openOf h = none → exec (.nclose f) s = .next ((s.putEach i (Fields.ofR f) sh 2).endPass i)) ∧
    (∀ o, s.openOf h = some o → exec (.nclose f) s = .next (if o.b != i.b || o.g != i.g then (s.putEach i (Fields.ofR f) sh 1).endPass i
      else if o.stopped then (State.putEach { s with opens := Table.erase s.opens (handleSerial h) } i (Fields.ofR f) sh 3).endPass i
      else if s.commands.any (fun e => e.2.handle == h && e.2.answer.isNone) then s.holdPath i .fence
      else State.holdPath { s with opens := Table.put s.opens (handleSerial h) { o with closing := true } } i (.nclose (handleSerial h)))) := by
  have hread' : s.readUniform i (firstLane i.path) [((Fields.ofR f).a, (Fields.ofR f).ea, sh.a, none)] = .vals [h] := hread
  refine ⟨fun hopen => ?_, fun o hopen => ?_⟩
  · change Host.Outcome.next (s.memoryWord 0xDC f _) = _
    rw [memoryWord_of_legal honce.fresh.cur hlegal, withPending_calm honce.guard hclear.calm hclear.some_]
    simp only [hhold, hread', List.headD_cons, hready, hopen, Bool.not_true, Bool.false_eq_true, if_false]
  · change Host.Outcome.next (s.memoryWord 0xDC f _) = _
    rw [memoryWord_of_legal honce.fresh.cur hlegal, withPending_calm honce.guard hclear.calm hclear.some_]
    simp only [hhold, hread', List.headD_cons, hready, hopen, Bool.not_true, Bool.false_eq_true, if_false]
    rfl

end

end

/-! ### NCMD -/

section
variable {f : RForm} {sh : Shape} {s : State} {i : Issue} {x y r : Nat → Nat}

/-- The command a thread of NCMD sends (R370). -/
def columnCommandOf (i : Issue) (f : RForm) (t reg handle operand : Nat) : Command :=
  { b := i.b, g := i.g, t := t, reg := reg, pn := extRnd f.ext % 8, handle := handle, operand := BitVec.ofNat 64 operand, code := extSub f.ext }

/-- A thread's turn of NCMD: a command is sent, or a helper receives zeros (R370). -/
def State.command (s : State) (i : Issue) (f : RForm) (x y r : Nat → Nat) (u : State) (t : Nat) : State :=
  if (s.thread (i.tk t)).role = .helper
  then (u.writeCells i t (.v (r t)) 2 0).modThread (i.tk t) (fun th => { th with p := th.p &&& ~~~(1#8 <<< (extRnd f.ext % 8)) })
  else { u with commands := Table.put u.commands u.nextId (columnCommandOf i f t (r t) (x t) (y t)), nextId := u.nextId + 1 }

theorem command_thread (u : State) (t k : Nat) (hk : k ≠ i.tk t) : (s.command i f x y r u t).thread k = u.thread k := by
  unfold State.command
  split
  · exact (State.thread_modThread_ne _ _ hk).trans (writeCells_thread u i t (.v (r t)) 2 0 k (.inl ⟨_, rfl⟩) hk)
  · rfl

theorem command_group (u : State) (t k : Nat) : (s.command i f x y r u t).group k = u.group k := by
  unfold State.command
  split
  · exact writeCells_group u i t (.v (r t)) 2 0 k (.inl ⟨_, rfl⟩)
  · rfl

/-- Thread `t` can take its turn of NCMD. -/
structure CommandReady (s : State) (i : Issue) (f : RForm) (sh : Shape) (x y r : Nat → Nat) (t : Nat) : Prop where
  calm : (s.thread (i.tk t)).pending = none
  handle : s.read i t f.a f.ea sh.a (if extXo f.ext == 1 then some (extXs f.ext) else none) = .val (x t)
  operand : s.read i t f.b f.eb sh.b (if extXo f.ext == 2 then some (extXs f.ext) else none) = .val (y t)
  place : locate (s.thread (i.tk t)) f.d sh.d (if extXo f.ext == 3 then some (extXs f.ext) else none) = .ok (.v (r t))
  ready : s.destReady i t (.v (r t)) 2 = true

theorem ncmdTurn_done {u : State} {t : Nat} (h : CommandReady s i f sh x y r t) (hthread : u.thread (i.tk t) = s.thread (i.tk t))
    (hs : (u.group i.gk).s = (s.group i.gk).s) : ncmdTurn i f sh u t [] = .done (s.command i f x y r u t) [] := by
  have hx : u.read i t (Fields.ofR f).a (Fields.ofR f).ea sh.a (if (Fields.ofR f).xo == 1 then some (Fields.ofR f).xs else none) = .val (x t) :=
    (read_congr hthread hs ..).trans h.handle
  have hy : u.read i t (Fields.ofR f).b (Fields.ofR f).eb sh.b (if (Fields.ofR f).xo == 2 then some (Fields.ofR f).xs else none) = .val (y t) :=
    (read_congr hthread hs ..).trans h.operand
  have hplace : locate (s.thread (i.tk t)) (Fields.ofR f).d sh.d (if (Fields.ofR f).xo == 3 then some (Fields.ofR f).xs else none) = .ok (.v (r t)) :=
    h.place
  have hready : u.destReady i t (.v (r t)) 2 = true := (destReady_congr s u i t hthread hs ..).trans h.ready
  unfold ncmdTurn State.command
  cases hrole : (s.thread (i.tk t)).role with
  | helper =>
    simp only [hthread, h.calm, hx, hy, hplace, hready, hrole, Bool.not_true, Bool.false_eq_true, if_false, beq_self_eq_true, if_true]
  | live =>
    have hlive : (Role.live == Role.helper) = false := rfl
    simp only [hthread, h.calm, hx, hy, hplace, hready, hrole, hlive, Bool.not_true, Bool.false_eq_true, if_false, reduceCtorEq]
    rfl

/-- NCMD of threads that can all take their turns sends its commands and waits for the answers. -/
theorem exec_ncmd (hlegal : LegalR s i 0xDB f sh) (hbegins : Begins s i) (hhold : s.holdOf i = none) (hdone : s.storesDone i s.nextId = true)
    (hready : ∀ t ∈ s.active i (extGuard f.ext), CommandReady s i f sh x y r t) :
    exec (.ncmd f) s = .next (
      let u := (s.active i (extGuard f.ext)).foldl (s.command i f x y r) s
      if u.commandsOf i then (u.modGroup i.gk (fun gr => { gr with pass := none })).holdPath i .ncmd else u.endPass i) := by
  have hturns : ∀ pre t post, s.active i (extGuard f.ext) = pre ++ t :: post →
      ncmdTurn i f sh (pre.foldl (s.command i f x y r) s) t [] = .done (s.command i f x y r (pre.foldl (s.command i f x y r) s) t) [] := by
    intro pre t post hsplit
    refine ncmdTurn_done (hready t (mem_of_split hsplit)) ?_ ?_
    · exact foldl_thread_other command_thread (not_mem_of_split (active_nodup ..) hsplit) s
    · exact congrArg Group.s (foldl_keep _ (State.group · i.gk) (fun u t => command_group u t i.gk) pre s)
  have hlanes := runLanes_done i (ncmdTurn i f sh) (s.command i f x y r) (s.active i (extGuard f.ext)) s 0#32 [] hturns
  have hwait : (s.holdOf i == some .ncmd) = false := by rw [hhold]; rfl
  change Host.Outcome.next (s.memoryWord 0xDB f _) = _
  rw [memoryWord_of_legal hbegins.cur hlegal]
  simp only [hwait, hdone, passStart_fresh hbegins.fresh, hlanes, Bool.not_true, Bool.and_false, Bool.false_eq_true, if_false]

theorem ncmd_answered (hlegal : LegalR s i 0xDB f sh) (hcur : s.cur = .group i) (hhold : s.holdOf i = some .ncmd) (hnone : s.commandsOf i = false) :
    exec (.ncmd f) s = .next (s.endPass i) := by
  have hwait : (s.holdOf i == some .ncmd) = true := by rw [hhold]; rfl
  change Host.Outcome.next (s.memoryWord 0xDB f _) = _
  rw [memoryWord_of_legal hcur hlegal]
  simp only [hwait, hnone, Bool.false_eq_true, if_false, if_true]

end

/-- Settles O43: word by word, what a near launch, a command, a close and a search come to once their checks pass. -/
theorem nearWordsComplete : Obligations.NearWordsComplete := by
  unfold Obligations.NearWordsComplete
  refine ⟨?_, ?_, ?_, ?_, ?_, ?_, ?_⟩
  · intro f op sh s i plan w hlegal honce hclear hpix hhold hlaunch
    refine ⟨?_, ?_⟩
    · rintro rfl
      exact exec_nlaunch hlegal honce hclear hpix hlaunch
    · rintro rfl hready hdone
      exact exec_nopen hlegal honce hclear hpix hhold hlaunch hready hdone
  · exact fun f sh s i x hlegal honce hclear hhold => nopen_opened hlegal honce hclear hhold
  · intro f sh s i x y r hlegal hbegins hhold hdone _ _ hturns
    refine exec_ncmd (x := x) (y := y) (r := r) hlegal hbegins hhold hdone fun t ht => ?_
    obtain ⟨hcalm, hhandle, hoperand, hplace, hready⟩ := hturns t ht
    exact ⟨hcalm, hhandle, hoperand, hplace, hready⟩
  · exact fun f sh s i hlegal hcur hhold hnone => ncmd_answered hlegal hcur hhold hnone
  · intro f sh s i h hlegal honce hclear hhold hread hready
    obtain ⟨hgone, hrun⟩ := exec_nclose hlegal honce hclear hhold hread hready
    refine ⟨hgone, fun o ho hother => ?_, fun o ho hb hg hstopped => ?_, fun o ho hb hg hstopped hanswered => ?_⟩
    · rw [hrun o ho, if_pos (by simpa using hother)]
    · rw [hrun o ho, if_neg (by simp [hb, hg]), if_pos hstopped]
    · have hnone : s.commands.any (fun e => e.2.handle == h && e.2.answer.isNone) = false := by
        rw [List.any_eq_false]
        intro e he
        by_cases hh : e.2.handle = h
        · obtain ⟨v, hv⟩ := Option.isSome_iff_exists.mp (hanswered e he hh)
          simp [hv]
        · simp [hh]
      rw [hrun o ho, if_neg (by simp [hb, hg]), if_neg (by simp [hstopped]), hnone, if_neg Bool.false_ne_true]
  · exact fun f sh s i n hlegal honce hclear hhold hnone => nclose_ended hlegal honce hclear hhold hnone
  · intro f sh s i a x pa sp bo w pages entries hlegal honce hclear hpix hread haligned htarget hx hbound hbo hw hheld hdone hentries hmask
    exact exec_search hlegal honce hclear hpix hread haligned htarget hx hbound hbo hw hheld hdone hentries hmask

end Sys2Proof.Machine
end


section
/-! SUPPORT. What stack controllers and homes do for near work and searches (O44). -/

namespace Sys2Proof.Machine

/-! ### Near grids and streamed contexts -/

theorem frames_owned {s : State} {w : NearWork} {js : List Nat}
    (h : ∀ j ∈ js, ∀ a ∈ w.frames j, (s.partition (s.context w.ctx).partition).owns s.lsplit a = true) :
    js.any (fun j => (w.frames j).any (fun a => !(s.partition (s.context w.ctx).partition).owns s.lsplit a)) = false := by
  rw [List.any_eq_false]
  intro j hj
  rw [Bool.not_eq_true, List.any_eq_false]
  intro a ha
  simp [h j hj a ha]

section
variable {s : State} {id work stack : Nat} {w : NearWork} {js : List Nat} (hpacket : Table.find s.nearPackets id = some (work, stack))
  (hwork : Table.find s.nearWork work = some w) (hjs : js = (List.range w.blocks).filter (fun j => w.engine s.lsplit j / 64 == stack))
include hpacket hwork hjs

theorem nearLaunchPacket_violates
    (h : ∃ j ∈ js, ∃ a ∈ w.frames j, (s.partition (s.context w.ctx).partition).owns s.lsplit a = false) :
    exec (.nearLaunchPacket id) s =
      .next (State.isolate { s with nearPackets := Table.erase s.nearPackets id } 3 0 (s.block w.b).core w.ctx w.base) := by
  have hout : js.any (fun j => (w.frames j).any (fun a => !(s.partition (s.context w.ctx).partition).owns s.lsplit a)) = true := by
    obtain ⟨j, hj, a, ha, howns⟩ := h
    exact List.any_eq_true.mpr ⟨j, hj, List.any_eq_true.mpr ⟨a, ha, by simp [howns]⟩⟩
  change execNearLaunchPacket id s = _
  unfold execNearLaunchPacket
  simp only [hpacket, hwork, ← hjs, hout, if_true]

section
variable (h : ∀ j ∈ js, ∀ a ∈ w.frames j, (s.partition (s.context w.ctx).partition).owns s.lsplit a = true)
include h

theorem nearLaunchPacket_refused (hstreamed : w.streamed = true) (hbusy : s.streamedOn (w.engine s.lsplit 0) = true) :
    exec (.nearLaunchPacket id) s = .next { State.tellOpen { s with nearPackets := Table.erase s.nearPackets id } w work 0x80000001 with
      nearWork := Table.erase s.nearWork work } := by
  have hown := frames_owned h
  change execNearLaunchPacket id s = _
  unfold execNearLaunchPacket
  simp only [hpacket, hwork, ← hjs, hown, hstreamed, hbusy, Bool.and_self, Bool.false_eq_true, if_false, if_true]

theorem nearLaunchPacket_queues (hfree : w.streamed = false ∨ s.streamedOn (w.engine s.lsplit 0) = false) (hslots : codeSlots s stack < 16) :
    exec (.nearLaunchPacket id) s = .next { s with
      nearPackets := Table.erase s.nearPackets id
      images := Table.put s.images (16 * work + stack) (s.imageWords w.pages w.code)
      nearQueue := Table.put s.nearQueue stack (Table.get [] s.nearQueue stack ++ js.map (fun j => (work, j))) } := by
  have hown := frames_owned h
  have hnew : (w.streamed && s.streamedOn (w.engine s.lsplit 0)) = false := Bool.and_eq_false_iff.mpr hfree
  change execNearLaunchPacket id s = _
  unfold execNearLaunchPacket
  simp only [hpacket, hwork, ← hjs, hown, hnew, Nat.not_le.mpr hslots, Bool.false_eq_true, if_false]

end

end

section
variable {s u : State} {stack be c work j : Nat} {w : NearWork}

/-- The state once a block or open has its context (R362, R364). -/
def State.nearStarted (s : State) (stack be c work j : Nat) (w : NearWork) : State :=
  { s with
    nearQueue := Table.put s.nearQueue stack ((Table.get [] s.nearQueue stack).filter (fun x => x != (work, j)))
    engines := Table.put s.engines (beKey stack be c) (s.freshContext w work j) }

/-- The first waiter of an engine starts on a free context where its window fits. -/
theorem startNear_starts (hwaiter : s.nearWaiter stack be = some (work, j, w)) (hlow : 1 ≤ c) (hhigh : c ≤ 3)
    (hfree : Table.find s.engines (beKey stack be c) = none) (hroom : s.windowUse stack + w.winSize ≤ 14 * 2 ^ 20) :
    s.startNear stack be c w.streamed = some (s.nearStarted stack be c work j w, work, w) := by
  have hbusy : engineBusy s (beKey stack be c) = false := by rw [engineBusy, hfree]; rfl
  have hzero : (c == 0) = false := beq_false_of_ne (by omega)
  unfold State.startNear
  simp only [hwaiter, hbusy, hzero, bne_self_eq_false, decide_eq_false (Nat.not_lt.mpr hhigh), decide_eq_false (Nat.not_lt.mpr hroom), Bool.or_self,
    Bool.false_eq_true, if_false]
  rfl

theorem nearBlockStart_starts (h : s.startNear stack be c false = some (u, work, w)) : exec (.nearBlockStart stack be c) s = .next u := by
  change execNearBlockStart stack be c s = _
  unfold execNearBlockStart
  simp only [h]

theorem streamedContextStart_starts (h : s.startNear stack be c true = some (u, work, w)) :
    exec (.streamedContextStart stack be c) s = .next { u.tellOpen w work (handleOf (u.openSerial % 2 ^ 19) (beKey stack be c)) with
      opens := Table.put u.opens (u.openSerial % 2 ^ 19) { b := w.b, g := w.g, key := beKey stack be c, work := work }
      openSerial := u.openSerial + 1 } := by
  change execStreamedContextStart stack be c s = _
  unfold execStreamedContextStart
  simp only [h]

end

/-! ### Column commands -/

section
variable {s : State} {id : Nat} {c : Command} (hfind : Table.find s.commands id = some c) (hnew : c.arrived = false)
  (hfirst : ∀ e ∈ s.commands, e.1 < id → e.2.b = c.b → e.2.g = c.g → e.2.handle = c.handle → e.2.arrived = true)
include hfind hnew hfirst

/-- A command that is the first of its owner to its engine reaches the open it names, which decides (R367, R370). -/
theorem exec_columnCommand :
    (s.openOf c.handle = none → exec (.columnCommand id) s =
      .next { s with commands := Table.put s.commands id { c with arrived := true, answer := some (BitVec.ofNat 64 2, false) } }) ∧
    (∀ o, s.openOf c.handle = some o → exec (.columnCommand id) s = .next (
      if o.b != c.b || o.g != c.g then { s with commands := Table.put s.commands id { c with arrived := true, answer := some (BitVec.ofNat 64 1, false) } }
      else if o.stopped then { s with commands := Table.put s.commands id { c with arrived := true, answer := some (BitVec.ofNat 64 3, false) } }
      else if o.closing then { s with commands := Table.put s.commands id { c with arrived := true, answer := some (BitVec.ofNat 64 2, false) } }
      else { s with commands := Table.put s.commands id { c with arrived := true } })) := by
  have hbefore : s.commands.any (fun e => decide (e.1 < id) && !e.2.arrived && e.2.b == c.b && e.2.g == c.g && e.2.handle == c.handle) = false := by
    rw [List.any_eq_false]
    intro e he
    simp only [Bool.and_eq_true, decide_eq_true_eq, beq_iff_eq, Bool.not_eq_true', not_and, and_imp]
    intro hid hnot hb hg hh
    exact Bool.false_ne_true (hnot.symm.trans (hfirst e he hid hb hg hh))
  refine ⟨fun hopen => ?_, fun o hopen => ?_⟩
  · change execColumnCommand id s = _
    unfold execColumnCommand
    simp only [hfind, hnew, hbefore, hopen, Bool.or_self, Bool.false_eq_true, if_false]
  · change execColumnCommand id s = _
    unfold execColumnCommand
    simp only [hfind, hnew, hbefore, hopen, Bool.or_self, Bool.false_eq_true, if_false]

end

section
variable {s : State} {id : Nat} {c : Command} {x : W64} {ok : Bool} (hfind : Table.find s.commands id = some c) (hanswer : c.answer = some (x, ok))
  (hplace : (s.block c.b).place ≠ .moving)
include hfind hanswer hplace

theorem ncmdAnswer_discarded (hinert : s.inert c.b = true) :
    exec (.ncmdAnswer id) s = .next { s with commands := Table.erase s.commands id, discarded := s.discarded + 1 } := by
  change execNcmdAnswer id s = _
  unfold execNcmdAnswer
  simp only [hfind, hanswer, beq_false_of_ne hplace, hinert, Bool.false_eq_true, if_false, if_true]
  rfl

theorem ncmdAnswer_written (hinert : s.inert c.b = false) :
    exec (.ncmdAnswer id) s = .next { State.modThread (s.writeCells (groupOnly c.b c.g) c.t (.v c.reg) 2 x.toNat) (tkey (gkey c.b c.g) c.t) (fun th =>
      { th with p := if ok then th.p ||| (1#8 <<< c.pn) else th.p &&& ~~~(1#8 <<< c.pn) }) with commands := Table.erase s.commands id } := by
  have hcommands : (s.writeCells (groupOnly c.b c.g) c.t (.v c.reg) 2 x.toNat).commands = s.commands := by
    rw [writeCells_v]
    rfl
  change execNcmdAnswer id s = _
  unfold execNcmdAnswer
  simp only [hfind, hanswer, beq_false_of_ne hplace, hinert, Bool.false_eq_true, if_false, State.modThread, hcommands]
  rfl

end

/-! ### Searches -/

theorem searchViolates_iff (s : State) (w : Search) : s.searchViolates w = true ↔ ∃ k < 64 * w.stackList.length * w.slice,
    (s.partition (s.context w.ctx).partition).owns s.lsplit (heldAddr w.pages (w.base + 65536 * k)) = false := by
  simp [State.searchViolates]

theorem searchAdmission_decides {s : State} {id : Nat} {w : Search} (h : s.searches.find? (fun e => !e.2.admitted) = some (id, w)) :
    exec .searchAdmission s = .next (if s.searchViolates w
      then State.isolate { s with searches := Table.erase s.searches id } 3 0 (s.block w.b).core w.ctx w.base
      else if s.searchFits w then s.takeIn id w else s) := by
  change execSearchAdmission s = _
  unfold execSearchAdmission
  simp only [h]

section
variable {s : State} {stack be c : Nat} {w : Walker} {rest : List Walker} {q : Search} {x : Query}
  (hhead : Table.get [] s.walkers (64 * stack + be) = w :: rest) (hc : c ≤ 3) (hfree : Table.find s.engines (beKey stack be c) = none)
  (hother : c = 0 ∨ s.nearWaiter stack be = none) (hsearch : s.search w.search = some q) (hquery : q.queries[w.q]? = some x)
include hhead hc hfree hother hsearch hquery

theorem exec_walkerDispatch : exec (.walkerDispatch stack be c) s = .next (if q.spent x
    then { s with
      walkers := Table.set [] s.walkers (64 * stack + be) rest
      searches := Table.modify s.searches w.search (fun q => q.modQuery w.q (fun y => { y with truncated := true, live := y.live - 1 })) }
    else { s with
      walkers := Table.set [] s.walkers (64 * stack + be) rest
      engines := (Table.put s.engines (beKey stack be c)
        { who := .walker w.search w.q
          g := (w.g.foldl (fun (acc : Table W64 × Nat) y => (Table.set 0#64 acc.1 acc.2 y, acc.2 + 1)) ([], 8)).1
          frames := q.frames (64 * stack + be), winSize := q.qsize, win := Memory.writeList [] 0 x.buffer })
      searches := Table.put s.searches w.search (q.modQuery w.q (fun y => { y with dispatches := y.dispatches + 1 })) }) := by
  have hbusy : engineBusy s (beKey stack be c) = false := by rw [engineBusy, hfree]; rfl
  have hwaits : (c != 0 && (s.nearWaiter stack be).isSome) = false := by
    rcases hother with h | h
    · simp [h]
    · simp [h]
  change execWalkerDispatch stack be c s = _
  unfold execWalkerDispatch
  simp only [hhead, decide_eq_false (Nat.not_lt.mpr hc), hbusy, hwaits, hsearch, hquery, Option.getD_some, Bool.or_self, Bool.false_eq_true, if_false]
  rfl

end

theorem spent_iff (w : Search) (x : Query) : w.spent x = true ↔ w.budget ≠ 0 ∧ w.budget ≤ x.dispatches := by simp [Search.spent]

theorem walkerRegistration_decides {s : State} {id : Nat} {r : Registration} {w : Search} {x : Query} (hfind : Table.find s.registrations id = some r)
    (hsearch : s.search r.walker.search = some w) (hquery : w.queries[r.walker.q]? = some x) (hnew : r.granted = false) :
    exec (.walkerRegistration id) s = .next (if w.spent x || (!r.hop && decide (w.wq ≤ x.live))
      then State.sendDone { s with
        searches := Table.modify s.searches r.walker.search (fun w => w.modQuery r.walker.q (fun x =>
          { x with truncated := true, live := if r.hop then x.live - 1 else x.live }))
        registrations := Table.erase s.registrations id } r
      else { s with
        searches := Table.modify s.searches r.walker.search (fun w => w.modQuery r.walker.q (fun x =>
          { x with live := if r.hop then x.live else x.live + 1 }))
        registrations := Table.put s.registrations id { r with granted := true } }) := by
  change execWalkerRegistration id s = _
  unfold execWalkerRegistration
  simp only [hfind, hsearch, hquery, hnew, Bool.false_eq_true, if_false]
  rfl

theorem walkerMessage_stored {s : State} {id : Nat} {r : Registration} (hfind : Table.find s.registrations id = some r) (hgranted : r.granted = true) :
    exec (.walkerMessage id) s = .next (State.sendDone { s with
      registrations := Table.erase s.registrations id
      walkers := Table.put s.walkers r.target (Table.get [] s.walkers r.target ++ [r.walker]) } r) := by
  change execWalkerMessage id s = _
  unfold execWalkerMessage
  simp only [hfind, hgranted, if_true]
  rfl

theorem walkerEndNotice_counts {s : State} {id search q : Nat} {stopped : Bool} (hfind : Table.find s.endNotices id = some (search, q, stopped)) :
    exec (.walkerEndNotice id) s = .next { s with
      endNotices := Table.erase s.endNotices id
      searches := Table.modify s.searches search (fun w => w.modQuery q (fun x => { x with live := x.live - 1, stopped := x.stopped || stopped })) } := by
  change execWalkerEndNotice id s = _
  unfold execWalkerEndNotice
  simp only [hfind]
  rfl

theorem searches_putHeld (pages : List (Nat × Nat)) (bs : List Byte) : ∀ (s : State) (va : Nat), (s.putHeld pages va bs).searches = s.searches := by
  induction bs with
  | nil => exact fun _ _ => rfl
  | cons b bs ih => exact fun s va => ih _ _

theorem queryMerge_merges {s : State} {search q : Nat} {w : Search} {x : Query} {hs : List BeHeap} {es : List Entry}
    (hsearch : s.search search = some w) (hquery : w.queries[q]? = some x) (hadmitted : w.admitted = true) (hopen : x.merged = false) (hlive : x.live = 0)
    (hhs : hs = w.stackList.map (fun k => Table.get ({ engine := 0, cap := 0 } : BeHeap) s.heaps (queryHeap search q k)))
    (hes : es = hs.foldl (fun l h => h.entries.foldl (offerEntry w.k) l) []) :
    exec (.queryMerge search q) s = .next (State.freeSearch
      { (s.putHeld w.pages (w.result + q * w.block) (resultBlock w.k es ((hs.map BeHeap.nan).sum) x)).sendCount
          { space := w.bo.1, addr := w.bo.2, n := w.block, near := some w.b } with
        searches := Table.put s.searches search (w.modQuery q (fun x => { x with merged := true })) }
      search (w.modQuery q (fun x => { x with merged := true }))) := by
  have hsearches : ∀ c, ((s.putHeld w.pages (w.result + q * w.block) (resultBlock w.k es ((hs.map BeHeap.nan).sum) x)).sendCount c).searches =
      s.searches := fun c => searches_putHeld ..
  change execQueryMerge search q s = _
  unfold execQueryMerge
  simp only [hsearch, hquery, hadmitted, hopen, hlive, ← hhs, ← hes, hsearches, bne_self_eq_false, Bool.not_true, Bool.or_self, Bool.false_eq_true,
    if_false]

/-- Settles O44: event by event, what the conditions of a launch, a command, a search and a walker decide. -/
theorem nearAndSearchEventsComplete : Obligations.NearAndSearchEventsComplete := by
  unfold Obligations.NearAndSearchEventsComplete
  refine ⟨⟨?_, ?_, ?_, ?_⟩, ?_, ?_, ?_, ?_, ?_, ?_⟩
  · intro s u id work stack w js hpacket hwork hjs hu
    subst hu
    refine ⟨nearLaunchPacket_violates hpacket hwork hjs, fun h => ⟨?_, ?_⟩⟩
    · exact fun hstreamed hbusy => nearLaunchPacket_refused hpacket hwork hjs h hstreamed hbusy
    · exact fun hfree hslots => nearLaunchPacket_queues hpacket hwork hjs h hfree hslots
  · intro s u stack be c work j w hwaiter hlow hhigh hfree hroom hu
    have hstart := startNear_starts hwaiter hlow hhigh hfree hroom
    subst hu
    refine ⟨fun hplain => ?_, fun hstreamed => ?_⟩
    · exact nearBlockStart_starts (hplain ▸ hstart)
    · exact streamedContextStart_starts (hstreamed ▸ hstart)
  · intro s id c hfind hnew hfirst
    obtain ⟨hnone, hsome⟩ := exec_columnCommand hfind hnew hfirst
    refine ⟨fun o ho hb hg hrun hopen => ?_, fun x hx hne => ?_⟩
    · rw [hsome o ho, if_neg (by simp [hb, hg]), if_neg (by simp [hrun]), if_neg (by simp [hopen])]
    · cases ho : s.openOf c.handle with
      | none =>
        simp only [ho] at hx
        rw [hnone ho, hx]
      | some o =>
        simp only [ho] at hx
        rw [hsome o ho]
        by_cases hown : o.b ≠ c.b ∨ o.g ≠ c.g
        · rw [if_pos (by simpa using hown), hx, if_pos hown]
        · rw [if_neg (by simpa using hown)]
          rw [if_neg hown] at hx
          by_cases hstopped : o.stopped = true
          · rw [if_pos hstopped, hx, if_pos hstopped]
          · rw [if_neg hstopped] at hx ⊢
            by_cases hclosing : o.closing = true
            · rw [if_pos hclosing, hx, if_pos hclosing]
            · rw [if_neg hclosing] at hx
              exact absurd hx hne
  · intro s id c x ok hfind hanswer hplace
    exact ⟨ncmdAnswer_discarded hfind hanswer hplace, ncmdAnswer_written hfind hanswer hplace⟩
  · exact fun s id w h => ⟨searchViolates_iff s w, searchAdmission_decides h⟩
  · intro s stack be c w rest q x hhead hc hfree hother hsearch hquery
    have hrun := exec_walkerDispatch hhead hc hfree hother hsearch hquery
    refine ⟨fun hbudget hspent => ?_, fun hleft => ?_⟩
    · rw [hrun, if_pos ((spent_iff q x).mpr ⟨hbudget, hspent⟩)]
    · rw [hrun, if_neg]
      rw [spent_iff]
      omega
  · intro s id r w x spent hfind hsearch hquery hnew hspent
    have hrun := walkerRegistration_decides hfind hsearch hquery hnew
    have hiff : (w.spent x || (!r.hop && decide (w.wq ≤ x.live))) = true ↔ spent := by
      rw [hspent, Bool.or_eq_true, spent_iff, Bool.and_eq_true, decide_eq_true_eq, Bool.not_eq_true']
    refine ⟨fun h => ?_, fun h => ?_⟩
    · rw [hrun, if_pos (hiff.mpr h)]
    · rw [hrun, if_neg (mt hiff.mp h)]
  · exact fun s id r hfind hgranted => walkerMessage_stored hfind hgranted
  · exact fun s id search q stopped hfind => walkerEndNotice_counts hfind
  · intro s search q w x hs es hsearch hquery hadmitted hopen hlive hhs hes
    exact queryMerge_merges hsearch hquery hadmitted hopen hlive hhs hes

end Sys2Proof.Machine
end


section
/-! SUPPORT. The control words of a bank engine, its register arithmetic and its stops (O45). -/

namespace Sys2Proof.Machine

/-! ### Going on -/

/-- A context of an engine that goes on: changed, at its next word, ready. -/
theorem find_beGo (s : State) (key n : Nat) (g : BeCtx → BeCtx) (k : Nat) : Table.find (s.beGo key n g).engines k =
    if k = key then (Table.find s.engines key).map (fun c => { g c with upc := n % 16384, state := .ready }) else Table.find s.engines k := by
  have hengines : (s.beGo key n g).engines = Table.modify s.engines key (fun c => { g c with upc := n % 16384, state := .ready }) := by
    unfold State.beGo
    cases Table.find s.engines key <;> rfl
  rw [hengines, Table.find_modify]

theorem beGo_frame (s : State) (key n : Nat) (g : BeCtx → BeCtx) : { s.beGo key n g with engines := s.engines, contexts := s.contexts } = s := by
  unfold State.beGo
  cases Table.find s.engines key <;> rfl

theorem beTarget_inside {c : BeCtx} {len : Nat} {off : BitVec 15} {t : Int} (ht : t = c.upc + off.toInt) (hlow : 0 ≤ t) (hhigh : t < len) :
    beTarget c len off = some t.toNat := by
  unfold beTarget
  rw [← ht]
  exact if_pos ⟨hlow, hhigh⟩

theorem beTarget_outside {c : BeCtx} {len : Nat} {off : BitVec 15} {t : Int} (ht : t = c.upc + off.toInt) (hout : t < 0 ∨ (len : Int) ≤ t) :
    beTarget c len off = none := by
  unfold beTarget
  rw [← ht]
  exact if_neg (by omega)

theorem bst_congr {c d : BeCtx} (hstate : d.state = c.state) (hflags : d.flags = c.flags) : d.bst = c.bst := by
  unfold BeCtx.bst
  rw [hstate, hflags]

/-- A stop is latched on the launching thread and reported (R175). -/
theorem reportStop_eq {u : State} {key b g t ctx : Nat} {origin nfr bst : W64} {d : BeCtx} (hengine : u.engine key = d)
    (hlauncher : u.launcher d = some (b, g, t, ctx, origin)) (hnfr : d.nfr = nfr) (hbst : d.bst = bst) :
    u.reportStop key = ((u.latchNear b g t origin nfr bst).faultReport (beStack key) ctx (4 * 2 ^ 16 + 14) nfr.toNat).endContext key (some (nfr, bst)) := by
  unfold State.reportStop
  simp only [hengine, hlauncher, hnfr, hbst]

section
variable {s : State} {key : Nat} {c : BeCtx} (h : Runs s key c)
include h

/-- Only what a change makes of the context that runs counts. -/
theorem Runs.beGo_congr {f g : BeCtx → BeCtx} (n : Nat) (hfg : f c = g c) : s.beGo key n f = s.beGo key n g := by
  unfold State.beGo State.modEngine
  rw [Table.modify_congr (g := fun c => { g c with upc := n % 16384, state := .ready }) fun x hx => by
    rw [h.found, Option.some_inj] at hx
    rw [← hx, hfg]]

/-! ### Branches -/

theorem Runs.exec_br {f : BjForm} {t : Int} (hlegal : bjLegal 0x02 f = true) (ht : t = c.upc + f.off.toInt) :
    (0 ≤ t → t < (s.imageOf key c).length → exec (.br f) s = .next (s.beGo key
      (if beCond f.cond.toNat (c.reg f.a) (c.reg f.b) then t.toNat else c.upc + 1) id)) ∧
    (t < 0 ∨ (s.imageOf key c).length ≤ t → exec (.br f) s = .next (s.beStop key 1 {})) := by
  refine ⟨fun hlow hhigh => ?_, fun hout => ?_⟩
  · refine congrArg Host.Outcome.next ((h.beWord hlegal _).trans ?_)
    simp only [beTarget_inside ht hlow hhigh]
    split
    · rfl
    · exact h.beNext rfl
  · refine congrArg Host.Outcome.next ((h.beWord hlegal _).trans ?_)
    simp only [beTarget_outside ht hout]
    rfl

theorem Runs.exec_bcall {f : BjForm} {t : Int} (hlegal : bjLegal 0x03 f = true) (ht : t = c.upc + f.off.toInt) :
    (0 ≤ t → t < (s.imageOf key c).length →
      exec (.bcall f) s = .next (s.beGo key t.toNat (fun c => c.setReg f.a (BitVec.ofNat 64 (c.upc + 1))))) ∧
    (t < 0 ∨ (s.imageOf key c).length ≤ t → exec (.bcall f) s = .next (s.beStop key 1 {})) := by
  refine ⟨fun hlow hhigh => ?_, fun hout => ?_⟩
  · refine congrArg Host.Outcome.next ((h.beWord hlegal _).trans ?_)
    simp only [beTarget_inside ht hlow hhigh]
  · refine congrArg Host.Outcome.next ((h.beWord hlegal _).trans ?_)
    simp only [beTarget_outside ht hout]
    rfl

/-- A stop is latched on the launching thread, reported, and ends the context (R173 to R175). -/
theorem Runs.beStop_eq {b g t ctx : Nat} {origin : W64} (hlauncher : s.launcher c = some (b, g, t, ctx, origin)) (code : Nat) (w : Where) :
    s.beStop key code w = State.endContext (((s.modEngine key (fun c => { c with state := .stopped, nfr := nfrBits code c.upc w })).latchNear b g t origin
      (nfrBits code c.upc w) ({ c with state := .stopped } : BeCtx).bst).faultReport (beStack key) ctx (4 * 2 ^ 16 + 14) (nfrBits code c.upc w).toNat)
      key (some (nfrBits code c.upc w, ({ c with state := .stopped } : BeCtx).bst)) := by
  have hengine : (s.modEngine key (fun c => { c with state := .stopped, nfr := nfrBits code c.upc w })).engine key =
      { c with state := .stopped, nfr := nfrBits code c.upc w } := by
    rw [State.engine, State.modEngine, Table.get, Table.find_modify, if_pos rfl, h.found]
    rfl
  have hlauncher' : (s.modEngine key (fun c => { c with state := .stopped, nfr := nfrBits code c.upc w })).launcher
      { c with state := .stopped, nfr := nfrBits code c.upc w } = some (b, g, t, ctx, origin) := hlauncher
  exact reportStop_eq hengine hlauncher' rfl (bst_congr rfl rfl)

end

/-- Settles O45: the control words go on at their targets or stop, and a stop is reported. -/
theorem burrowControlComplete : Obligations.BurrowControlComplete := by
  unfold Obligations.BurrowControlComplete
  intro s key c h
  refine ⟨fun n g _ => ⟨?_, fun k hk => ?_, beGo_frame s key n g⟩, fun f hlegal => ?_, fun f t hlegal ht => h.exec_br hlegal ht,
    fun f t hlegal ht => h.exec_bcall hlegal ht, fun f hlegal => ?_, fun f hlegal => ?_, fun f hlegal => ?_, ?_, fun f hlegal => ?_,
    fun f hlegal => ?_, fun code w b g t ctx origin hlauncher _ => h.beStop_eq hlauncher code w⟩
  · rw [find_beGo, if_pos rfl, h.found]
    rfl
  · rw [find_beGo, if_neg hk]
  · exact congrArg Host.Outcome.next ((h.beWord hlegal _).trans (h.beNext rfl))
  · exact congrArg Host.Outcome.next (h.beWord hlegal _)
  · exact congrArg Host.Outcome.next (h.beWord hlegal _)
  · exact congrArg Host.Outcome.next (h.beWord hlegal _)
  · exact congrArg Host.Outcome.next (h.onBe _)
  · exact congrArg Host.Outcome.next ((h.beWord hlegal _).trans (h.beNext rfl))
  · exact congrArg Host.Outcome.next ((h.beWord hlegal _).trans (h.beNext rfl))

end Sys2Proof.Machine
end


section
/-! SUPPORT. The words of a bank engine that move data (O46). -/

namespace Sys2Proof.Machine

section
variable {s : State} {key : Nat} {c : BeCtx} (h : Runs s key c)
include h

/-- A legal word that completes goes on, changing its context. -/
theorem Runs.completes {legal : Bool} (hlegal : legal = true) {f : Nat → BeCtx → State} {g : BeCtx → BeCtx} (hf : f key c = s.beNext key g) :
    Host.Outcome.next (φ := Fault) (ρ := Refusal) (s.beWord legal f) = .next (s.beGo key (c.upc + 1) g) :=
  congrArg Host.Outcome.next ((h.beWord hlegal f).trans (hf.trans (h.beNext rfl)))

/-! ### Window and slice -/

theorem Runs.exec_wld {f : BmForm} (haligned : windowAddress c f % 2 ^ f.size.toNat = 0) (hin : c.inWindow (windowAddress c f) (2 ^ f.size.toNat) = true)
    (hclean : c.windowBad (windowAddress c f) (2 ^ f.size.toNat) = false) : exec (.wld f) s = .next (s.beGo key (c.upc + 1) (fun x =>
      x.setReg f.d (BitVec.ofNat 64 (x.win.readNat (windowAddress c f) (2 ^ f.size.toNat))))) := by
  refine h.completes rfl ?_
  simp only [haligned, hin, hclean, bne_self_eq_false, Bool.not_true, Bool.false_eq_true, if_false]

theorem Runs.exec_wst {f : BmForm} (haligned : windowAddress c f % 2 ^ f.size.toNat = 0) (hin : c.inWindow (windowAddress c f) (2 ^ f.size.toNat) = true)
    (hblock : c.isWalker = false) : exec (.wst f) s = .next (s.beGo key (c.upc + 1) (fun x =>
      { x with win := x.win.writeNat (windowAddress c f) (2 ^ f.size.toNat) (x.reg f.d).toNat })) := by
  refine h.completes rfl ?_
  simp only [haligned, hin, hblock, bne_self_eq_false, Bool.not_true, Bool.or_self, Bool.false_eq_true, if_false]

omit h in
theorem atomCheck_of {f : BrForm} (hw : (c.reg f.a).toNat % 8 = 0) (ha : (c.reg f.b).toNat % 128 = 0)
    (hslice : c.inSlice (c.reg f.b).toNat (128 * (f.sub.toNat + 1)) = true)
    (hwindow : c.inWindow (c.reg f.a).toNat (128 * (f.sub.toNat + 1)) = true) (hblock : c.isWalker = false) (store : Bool) :
    atomCheck c f store = none := by
  unfold atomCheck
  simp only [hw, ha, hslice, hwindow, hblock, bne_self_eq_false, Bool.not_true, Bool.and_false, Bool.or_self, Bool.false_eq_true, if_false]

theorem Runs.exec_ald {f : BrForm} (hlegal : brLegal 0x12 f = true) (hcheck : ∀ store, atomCheck c f store = none)
    (hclean : s.poisonedAtom c (c.reg f.b).toNat (f.sub.toNat + 1) = none) : exec (.ald f) s = .next (s.beGo key (c.upc + 1) (fun x =>
      x.putWindow (x.reg f.a).toNat (s.atoms x (c.reg f.b).toNat (f.sub.toNat + 1)))) := by
  refine h.completes hlegal ?_
  simp only [hcheck, hclean]

theorem Runs.exec_ast {f : BrForm} (hlegal : brLegal 0x13 f = true) (hcheck : ∀ store, atomCheck c f store = none)
    (hclean : c.windowBad (c.reg f.a).toNat (128 * (f.sub.toNat + 1)) = false) : exec (.ast f) s =
      .next ((s.putAtoms c (c.reg f.b).toNat (f.sub.toNat + 1) (c.win.readList (c.reg f.a).toNat (128 * (f.sub.toNat + 1)))).beNext key id) := by
  refine congrArg Host.Outcome.next ((h.beWord hlegal _).trans ?_)
  simp only [hcheck, hclean, Bool.false_eq_true, if_false]

/-! ### Row buffers -/

theorem Runs.exec_hrd {f : BhForm} (hlegal : bhLegal 0x14 f = true) (hrow : (c.reg f.a).toNat < c.rows)
    (hclean : s.poisonedAtom c (1024 * (c.reg f.a).toNat) 8 = none) :
    exec (.hrd f) s = .next (s.beGo key (c.upc + 1) (fun x => x.setRow f.h (s.atoms x (1024 * (c.reg f.a).toNat) 8))) := by
  refine h.completes hlegal ?_
  simp only [hclean, Nat.not_le.mpr hrow, if_false]

theorem Runs.hrd_outside {f : BhForm} (hlegal : bhLegal 0x14 f = true) (hrow : c.rows ≤ (c.reg f.a).toNat) :
    exec (.hrd f) s = .next (s.beStop key 2 (c.outside (1024 * (c.reg f.a).toNat))) := by
  refine congrArg Host.Outcome.next ((h.beWord hlegal _).trans ?_)
  simp only [hrow, if_true]

theorem Runs.exec_hwr {f : BhForm} (hlegal : bhLegal 0x15 f = true) (hrow : (c.reg f.a).toNat < c.rows) :
    exec (.hwr f) s = .next ((s.putAtoms c (1024 * (c.reg f.a).toNat) 8 (c.row f.h)).beNext key id) := by
  refine congrArg Host.Outcome.next ((h.beWord hlegal _).trans ?_)
  simp only [Nat.not_le.mpr hrow, if_false]

theorem Runs.hwin_in {f : BhForm} (hlegal : bhLegal 0x17 f = true) (haligned : (c.reg f.a).toNat % 8 = 0)
    (hin : c.inWindow (c.reg f.a).toNat 1024 = true) (hsub : f.sub = 0#8) (hclean : c.windowBad (c.reg f.a).toNat 1024 = false) :
    exec (.hwin f) s = .next (s.beGo key (c.upc + 1) (fun x => x.setRow f.h (x.win.readList (c.reg f.a).toNat 1024))) := by
  have hout : (0#8 == 1#8) = false := rfl
  refine h.completes hlegal ?_
  simp only [haligned, hin, hsub, hclean, hout, bne_self_eq_false, beq_self_eq_true, Bool.not_true, Bool.false_and, Bool.and_false, Bool.or_self,
    Bool.false_eq_true, if_false, if_true]

theorem Runs.hwin_out {f : BhForm} (hlegal : bhLegal 0x17 f = true) (haligned : (c.reg f.a).toNat % 8 = 0)
    (hin : c.inWindow (c.reg f.a).toNat 1024 = true) (hsub : f.sub = 1#8) (hblock : c.isWalker = false) :
    exec (.hwin f) s = .next (s.beGo key (c.upc + 1) (fun x => x.putWindow (c.reg f.a).toNat (x.row f.h))) := by
  have hinto : (1#8 == 0#8) = false := rfl
  refine h.completes hlegal ?_
  simp only [haligned, hin, hsub, hblock, hinto, bne_self_eq_false, beq_self_eq_true, Bool.not_true, Bool.false_and, Bool.and_false, Bool.or_self,
    Bool.false_eq_true, if_false]

end

/-! ### What atoms change -/

theorem putAtoms_frame (c : BeCtx) (n : Nat) : ∀ (s : State) (a : Nat) (bs : List Byte),
    { s.putAtoms c a n bs with mem := s.mem, poison := s.poison } = s := by
  induction n with
  | zero => exact fun _ _ _ => rfl
  | succ n ih =>
    intro s a bs
    exact congrArg (fun u : State => { u with mem := s.mem, poison := s.poison }) (ih _ (a + 128) (bs.drop 128))

theorem putAtoms_byte_outside (c : BeCtx) (x n : Nat) : ∀ (s : State) (a : Nat) (bs : List Byte), s.mem.wf = true →
    (∀ k < n, x < c.sliceAddr (a + 128 * k) ∨ c.sliceAddr (a + 128 * k) + 128 ≤ x) → (s.putAtoms c a n bs).mem.byte x = s.mem.byte x := by
  induction n with
  | zero => exact fun _ _ _ _ _ => rfl
  | succ n ih =>
    intro s a bs hwf hout
    have hfirst : x < c.sliceAddr a ∨ c.sliceAddr a + (bs.take 128).length ≤ x := by
      have h0 := hout 0 (Nat.succ_pos n)
      rw [Nat.mul_zero, Nat.add_zero] at h0
      have hlen : (bs.take 128).length ≤ 128 := List.length_take_le ..
      omega
    refine (ih _ (a + 128) (bs.drop 128) (Memory.wf_writeList hwf ..) fun k hk => ?_).trans (Memory.byte_writeList_outside hwf _ _ _ hfirst)
    have hk' := hout (k + 1) (Nat.succ_lt_succ hk)
    rwa [Nat.mul_add, Nat.mul_one, Nat.add_comm (128 * k), ← Nat.add_assoc] at hk'

end Sys2Proof.Machine
end


section
/-! SUPPORT. The associative row processor, the truth tables, the distance unit and the heaps (O46). -/

namespace Sys2Proof.Machine

section
variable {s : State} {key : Nat} {c : BeCtx} (h : Runs s key c)
include h

/-- A legal word that completes, its change written in another way at the context that runs. -/
theorem Runs.completesAs {legal : Bool} (hlegal : legal = true) {f : Nat → BeCtx → State} {g k : BeCtx → BeCtx} (hf : f key c = s.beNext key g)
    (hgk : g c = k c) : Host.Outcome.next (φ := Fault) (ρ := Refusal) (s.beWord legal f) = .next (s.beGo key (c.upc + 1) k) :=
  (h.completes hlegal hf).trans (congrArg Host.Outcome.next (h.beGo_congr _ hgk))

/-! ### Tags and truth tables -/

omit h in
/-- What TOP makes of a context (R188). -/
def BeCtx.topped (f : BhForm) (c : BeCtx) : Nat → BeCtx
  | 0 => { c with tags := c.allTags }
  | 1 => { c with tags := 0#1024 }
  | 2 => { c with tags := ~~~c.tags &&& c.allTags }
  | 3 => c.setReg f.c (BitVec.ofNat 64 c.tagBits.length)
  | 4 => c.setReg f.c (c.tagBits.head?.elim (BitVec.allOnes 64) (BitVec.ofNat 64))
  | 5 => c.setReg f.c ((c.tags >>> c.tagPiece (c.reg f.a)).setWidth 64)
  | 6 => { c with tags := (c.tags &&& ~~~((0xFFFFFFFFFFFFFFFF#1024) <<< c.tagPiece (c.reg f.a)))
                            ||| ((c.reg f.b).setWidth 1024 <<< c.tagPiece (c.reg f.a)) }
  | _ => { c with tags := c.tagBits.head?.elim c.tags (fun n => c.tags &&& ~~~(1#1024 <<< n)) }

theorem Runs.exec_top {f : BhForm} (hlegal : bhLegal 0x1C f = true) :
    exec (.top f) s = .next (s.beGo key (c.upc + 1) (fun x => x.topped f f.sub.toNat)) := by
  refine h.completesAs hlegal rfl ?_
  generalize f.sub.toNat = n
  match n with
  | 0 | 1 | 2 | 3 | 5 | 6 => rfl
  | 4 =>
    refine congrArg (c.setReg f.c) ?_
    cases c.tagBits <;> rfl
  | n + 7 =>
    refine congrArg (fun t => { c with tags := t }) ?_
    cases c.tagBits <;> rfl

theorem Runs.exec_ttp {f : BhForm} (hlegal : bhLegal 0x1E f = true) (hpos : positionsOk (c.reg f.a).toNat (f.sub.toNat % 64 + 1) c.width = true) :
    exec (.ttp f) s = .next (s.beGo key (c.upc + 1) (fun c => c.setRow f.h (c.ofWords ((c.wordsOf f.h).mapIdx (fun k x =>
      if c.tags.getLsbD k then (List.range (f.sub.toNat % 64 + 1)).foldl (fun x j => truthStep (tableRows (Table.get 0#128 c.tables f.c.toNat))
        (c.reg f.a).toNat (f.sub.toNat % 64 + 1) j (decide (64 ≤ f.sub.toNat)) x) x else x))))) := by
  refine h.completesAs (g := fun x => x.setRow f.h (x.ofWords ((x.wordsOf f.h).mapIdx (fun k y =>
      if x.tags.getLsbD k then (List.range (f.sub.toNat % 64 + 1)).foldl (fun y j => truthStep (tableRows (Table.get 0#128 x.tables f.c.toNat))
        (c.reg f.a).toNat (f.sub.toNat % 64 + 1) j (decide (64 ≤ f.sub.toNat)) y) y else y)))) hlegal ?_ rfl
  simp only [hpos, Bool.not_true, Bool.false_eq_true, if_false]

/-! ### Distances -/

theorem Runs.exec_dist {f : BrForm} {p : DistPlan} {g k : Nat} (hlegal : brLegal 0x20 f = true) (hplan : distPlan c f = .ok p)
    (hg : g = (c.reg f.c).toNat) (hone : 1 ≤ g % 2 ^ 32) (hmany : g % 2 ^ 32 ≤ 2 ^ 20) (hstride : 1 ≤ g / 2 ^ 32) (hwide : g / 2 ^ 32 ≤ 64)
    (hbytes : p.bytes ≤ 128 * (g / 2 ^ 32)) (hheap : s.heapOf key c (f.sub.toNat / 32) = some k) (hin : c.inWindow p.window p.bytes = true) :
    exec (.dist f) s = .next (s.distFrom key k p (c.reg f.b).toNat (g / 2 ^ 32) (c.reg f.d) (g % 2 ^ 32 - c.vpr)) := by
  have hmod : g / 2 ^ 32 % 256 = g / 2 ^ 32 := Nat.mod_eq_of_lt (by omega)
  have hlimits : (g % 2 ^ 32 == 0 || decide (2 ^ 20 < g % 2 ^ 32) || g / 2 ^ 32 == 0 || decide (64 < g / 2 ^ 32) || decide (2 ^ 40 ≤ g) ||
      decide (128 * (g / 2 ^ 32) < p.bytes)) = false := by
    simp only [Bool.or_eq_false_iff, beq_eq_false_iff_ne, decide_eq_false_iff_not]
    omega
  refine congrArg Host.Outcome.next ((h.beWord hlegal _).trans ?_)
  simp only [hplan, ← hg, hmod, hlimits, hheap, hin, Bool.not_true, Bool.false_eq_true, if_false]

omit h in
/-- The next vector of DIST: its distance is offered and counted (R190). -/
def State.distStep (s : State) (key heap vpr : Nat) (ident : W64) (d : BitVec 32 × Flags) : State :=
  (s.modHeap heap (fun q => q.offer { dist := d.1, tag := BitVec.ofNat 32 vpr, id := ident + BitVec.ofNat 64 vpr })).modEngine key
    (fun x => { x with vpr := vpr + 1, flags := x.flags ||| d.2 })

theorem Runs.distFrom_zero (heap : Nat) (p : DistPlan) (base stride : Nat) (ident : W64) :
    s.distFrom key heap p base stride ident 0 = s.beGo key (c.upc + 1) (fun x => { x with vpr := 0 }) := h.beNext rfl

theorem Runs.distFrom_stops {heap : Nat} {p : DistPlan} {base stride : Nat} {e : Nat × Where}
    (hd : s.vectorDistance c p (base + 128 * stride * c.vpr) = .error e) (ident : W64) (n : Nat) :
    s.distFrom key heap p base stride ident (n + 1) = s.beStop key e.1 e.2 := by
  rw [State.distFrom, h.engine_eq]
  simp only [hd]

theorem Runs.distFrom_offers {heap : Nat} {p : DistPlan} {base stride : Nat} {d : BitVec 32 × Flags}
    (hd : s.vectorDistance c p (base + 128 * stride * c.vpr) = .ok d) (ident : W64) (n : Nat) :
    s.distFrom key heap p base stride ident (n + 1) = (s.distStep key heap c.vpr ident d).distFrom key heap p base stride ident n := by
  rw [State.distFrom, h.engine_eq]
  simp only [hd]
  rfl

theorem Runs.exec_distg {f : BrForm} {p : DistPlan} {d : BitVec 32 × Flags} (hlegal : brLegal 0x21 f = true) (hplan : distPlan c f = .ok p)
    (hin : c.inWindow p.window p.bytes = true) (hd : s.vectorDistance c p (c.reg f.b).toNat = .ok d) :
    exec (.distg f) s = .next (s.beGo key (c.upc + 1) (fun c => { c.setReg f.d (d.1.setWidth 64) with flags := c.flags ||| d.2 })) := by
  refine h.completes hlegal ?_
  simp only [hplan, hin, hd, Bool.not_true, Bool.false_eq_true, if_false]

/-! ### Heaps -/

theorem Runs.heap_init {f : BrForm} (hlegal : brLegal 0x22 f = true) (hsub : f.sub = 0#8) (hblock : c.isWalker = false) (hlow : 1 ≤ (c.reg f.a).toNat)
    (hhigh : (c.reg f.a).toNat ≤ 1024) : exec (.heap f) s = .next ((s.heapInit key f.c.toNat (c.reg f.a).toNat).1.beNext key (fun x =>
      x.setReg f.d (if (s.heapInit key f.c.toNat (c.reg f.a).toNat).2 then 0#64 else 1#64))) := by
  have hcap : (c.isWalker || (c.reg f.a).toNat == 0 || decide (1024 < (c.reg f.a).toNat)) = false := by
    rw [hblock, beq_false_of_ne (by omega), decide_eq_false (by omega)]
    rfl
  have hn : (f.sub.toNat == 0) = true := by rw [hsub]; rfl
  refine congrArg Host.Outcome.next ((h.beWord hlegal _).trans ?_)
  simp only [hn, hcap, Bool.false_eq_true, if_false, if_true]

section
variable {f : BrForm} {k : Nat} {o : BeHeap} (hlegal : brLegal 0x22 f = true) (hheap : s.heapOf key c f.c.toNat = some k)
  (hfind : Table.find s.heaps k = some o)
include hlegal hheap hfind

omit hfind in
theorem Runs.heap_free (hsub : f.sub = 1#8) (hblock : c.isWalker = false) :
    exec (.heap f) s = .next (State.beNext { s with heaps := Table.erase s.heaps k } key id) := by
  have hn : f.sub.toNat = 1 := by rw [hsub]; rfl
  refine congrArg Host.Outcome.next ((h.beWord hlegal _).trans ?_)
  simp only [hn, hblock, hheap, Nat.reduceBEq, Bool.and_false, Bool.false_eq_true, if_false]

omit hfind in
theorem Runs.heap_clear (hsub : f.sub = 2#8) :
    exec (.heap f) s = .next ((s.modHeap k (fun h => { h with entries := [], nan := 0 })).beNext key id) := by
  have hn : f.sub.toNat = 2 := by rw [hsub]; rfl
  refine congrArg Host.Outcome.next ((h.beWord hlegal _).trans ?_)
  simp only [hn, hheap, Nat.reduceBEq, Bool.false_and, Bool.false_eq_true, if_false]

theorem Runs.heap_length (hsub : f.sub = 3#8) :
    exec (.heap f) s = .next (s.beGo key (c.upc + 1) (fun c => c.setReg f.d (BitVec.ofNat 64 o.entries.length))) := by
  have hn : f.sub.toNat = 3 := by rw [hsub]; rfl
  refine h.completes hlegal ?_
  simp only [hn, hheap, Table.get, hfind, Option.getD_some, Nat.reduceBEq, Bool.false_and, Bool.false_eq_true, if_false]

theorem Runs.heap_nan (hsub : f.sub = 4#8) :
    exec (.heap f) s = .next (s.beGo key (c.upc + 1) (fun c => c.setReg f.d (BitVec.ofNat 64 o.nan))) := by
  have hn : f.sub.toNat = 4 := by rw [hsub]; rfl
  refine h.completes hlegal ?_
  simp only [hn, hheap, Table.get, hfind, Option.getD_some, Nat.reduceBEq, Bool.false_and, Bool.false_eq_true, if_false]

theorem Runs.heap_bound (hsub : f.sub = 5#8) : exec (.heap f) s = .next (s.beGo key (c.upc + 1) (fun c => c.setReg f.d o.bound)) := by
  have hn : f.sub.toNat = 5 := by rw [hsub]; rfl
  refine h.completes hlegal ?_
  simp only [hn, hheap, Table.get, hfind, Option.getD_some, Nat.reduceBEq, Bool.false_and, Bool.false_eq_true, if_false]

omit hfind in
theorem Runs.heap_merge {j : Nat} {q : BeHeap} (hsub : f.sub = 6#8) (hother : s.heapOf key c f.b.toNat = some j)
    (hq : Table.find s.heaps j = some q) : exec (.heap f) s = .next ((s.modHeap k (fun h =>
      { q.entries.foldl BeHeap.offer h with nan := min ((q.entries.foldl BeHeap.offer h).nan + q.nan) (2 ^ 32 - 1) })).beNext key id) := by
  have hn : f.sub.toNat = 6 := by rw [hsub]; rfl
  refine congrArg Host.Outcome.next ((h.beWord hlegal _).trans ?_)
  simp only [hn, hheap, hother, Table.get, hq, Option.getD_some, Nat.reduceBEq, Bool.false_and, Bool.false_eq_true, if_false]

end

theorem Runs.exec_hoffer {f : BrForm} {k : Nat} (hlegal : brLegal 0x23 f = true) (hheap : s.heapOf key c f.c.toNat = some k) :
    exec (.hoffer f) s = .next ((s.modHeap k (fun h =>
      h.offer { dist := (c.reg f.a).setWidth 32, id := c.reg f.b, tag := (c.reg f.d).setWidth 32 })).beNext key id) := by
  refine congrArg Host.Outcome.next ((h.beWord hlegal _).trans ?_)
  simp only [hheap]

theorem Runs.hoffer_unallocated {f : BrForm} (hlegal : brLegal 0x23 f = true) (hheap : s.heapOf key c f.c.toNat = none) :
    exec (.hoffer f) s = .next (s.beStop key 5 {}) := by
  refine congrArg Host.Outcome.next ((h.beWord hlegal _).trans ?_)
  simp only [hheap]

theorem Runs.exec_hout {f : BrForm} {k : Nat} {o : BeHeap} (hlegal : brLegal 0x24 f = true) (hheap : s.heapOf key c f.c.toNat = some k)
    (hfind : Table.find s.heaps k = some o) (haligned : (c.reg f.a).toNat % 8 = 0) (hblock : c.isWalker = false)
    (hin : c.inWindow (c.reg f.a).toNat (16 * o.entries.length) = true) : exec (.hout f) s = .next (s.beGo key (c.upc + 1) (fun x =>
      { x.setReg f.d (BitVec.ofNat 64 o.entries.length) with
        win := x.win.writeList (c.reg f.a).toNat (o.entries.flatMap (fun e => natToBytes 16 e.bits)) })) := by
  refine h.completes hlegal ?_
  simp only [hheap, Table.get, hfind, Option.getD_some, haligned, hblock, hin, bne_self_eq_false, Bool.not_true, Bool.or_self, Bool.false_eq_true,
    if_false]

theorem Runs.hout_unallocated {f : BrForm} (hlegal : brLegal 0x24 f = true) (hheap : s.heapOf key c f.c.toNat = none) :
    exec (.hout f) s = .next (s.beStop key 5 {}) := by
  refine congrArg Host.Outcome.next ((h.beWord hlegal _).trans ?_)
  simp only [hheap]

end

/-- Settles O46: word by word, what a bank engine's moves, rows, distances and heaps leave. -/
theorem burrowMovesAndRowsComplete : Obligations.BurrowMovesAndRowsComplete := by
  unfold Obligations.BurrowMovesAndRowsComplete
  refine ⟨?_, ?_⟩
  · intro s key c h
    refine ⟨?_, ?_, ?_, ?_, ?_, ?_, ?_, ?_, ?_⟩
    · rintro f a n rfl rfl haligned hin
      exact ⟨h.exec_wld haligned hin, h.exec_wst haligned hin⟩
    · rintro f w a n rfl rfl rfl hw ha hslice hwindow hblock
      have hcheck := atomCheck_of (c := c) hw ha hslice hwindow hblock
      exact ⟨fun hlegal hclean => h.exec_ald hlegal hcheck hclean, fun hlegal hclean => h.exec_ast hlegal hcheck hclean⟩
    · rintro f r rfl hrow
      exact ⟨fun hlegal hclean => h.exec_hrd hlegal hrow hclean, fun hlegal => h.exec_hwr hlegal hrow⟩
    · rintro f r rfl hrow hlegal
      exact h.hrd_outside hlegal hrow
    · exact fun f hlegal => h.completes hlegal rfl
    · rintro f a hlegal rfl haligned hin
      exact ⟨h.hwin_in hlegal haligned hin, h.hwin_out hlegal haligned hin⟩
    · exact fun f hlegal => h.completes hlegal rfl
    · exact fun f hlegal => h.completes hlegal rfl
    · exact fun n a x bs => ⟨putAtoms_frame c n s a bs, putAtoms_byte_outside c x n s a bs⟩
  · intro s key c h
    refine ⟨?_, ?_, ?_, ?_, ?_, ?_, ?_, ?_, ?_, ?_, ?_⟩
    · exact fun f hlegal => h.completes hlegal rfl
    · exact fun f hlegal => h.completes hlegal rfl
    · exact fun f hlegal => h.exec_top hlegal
    · exact fun f hlegal hpos => h.exec_ttp hlegal hpos
    · exact fun f p g k hlegal hplan hg hone hmany hstride hwide hbytes hheap hin =>
        h.exec_dist hlegal hplan hg hone hmany hstride hwide hbytes hheap hin
    · intro p heap base stride n ident
      refine ⟨h.distFrom_zero heap p base stride ident, ?_⟩
      cases hd : s.vectorDistance c p (base + 128 * stride * c.vpr) with
      | error e => exact h.distFrom_stops hd ident n
      | ok d => exact h.distFrom_offers hd ident n
    · exact fun f p d hlegal hplan hin hd => h.exec_distg hlegal hplan hin hd
    · intro f hlegal
      refine ⟨h.heap_init hlegal, fun k o hheap hfind => ⟨h.heap_free hlegal hheap, h.heap_clear hlegal hheap,
        h.heap_length hlegal hheap hfind, h.heap_nan hlegal hheap hfind, h.heap_bound hlegal hheap hfind, fun j q hsub hother hq => ?_⟩⟩
      exact h.heap_merge hlegal hheap hsub hother hq
    · exact fun f k hlegal hheap => h.exec_hoffer hlegal hheap
    · rintro f k a o hlegal hheap hfind rfl haligned hblock hin
      exact h.exec_hout hlegal hheap hfind haligned hblock hin
    · exact fun f => ⟨h.hoffer_unallocated, h.hout_unallocated⟩

end Sys2Proof.Machine
end


section
/-! SUPPORT. POST, the words of a walker, commands and status reads of a bank engine (O47). -/

namespace Sys2Proof.Machine

/-! ### POST -/

/-- A barrier object's name is resolved by blocks and contexts alone (R243). -/
theorem boTarget_congr {s u : State} (hblocks : u.blocks = s.blocks) (hcontexts : u.contexts = s.contexts) (b name : Nat) :
    u.boTarget b name = s.boTarget b name := by
  have hblock : ∀ n, u.block n = s.block n := fun n => by rw [State.block, hblocks, ← State.block]
  have hcontext : ∀ n, u.context n = s.context n := fun n => by rw [State.context, hcontexts, ← State.context]
  have hshared : ∀ a, u.sharedTarget b a 16 = s.sharedTarget b a 16 := by
    intro a
    unfold State.sharedTarget State.sharedBlock
    simp only [hblock, hblocks]
  have hscratch : ∀ a, u.scratchTarget (s.block b).ctx a 16 = s.scratchTarget (s.block b).ctx a 16 := by
    intro a
    unfold State.scratchTarget
    simp only [hcontext]
  unfold State.boTarget
  simp only [hblock, hshared, hscratch]

/-- Writing over the pieces of a destination leaves what `g` reads, which neither memory nor poison has part in. -/
theorem putPieces_of {β : Type} (g : State → β) (hmem : ∀ u sp m, g (State.setMem u sp m) = g u) (hclear : ∀ u sp a, g (State.clearPoison u sp a) = g u)
    (ps : List (Space × Nat × Nat)) : ∀ (s : State) (bs : List Byte), g (s.putPieces ps bs) = g s := by
  induction ps with
  | nil => exact fun _ _ => rfl
  | cons p ps ih =>
    obtain ⟨sp, a, w⟩ := p
    intro s bs
    refine (ih _ _).trans ((foldl_keep _ g (fun u x => hclear u sp x) _ _).trans (hmem ..))

theorem boTarget_putPieces (s : State) (ps : List (Space × Nat × Nat)) (bs : List Byte) (b name : Nat) :
    (s.putPieces ps bs).boTarget b name = s.boTarget b name := by
  refine boTarget_congr (putPieces_of State.blocks ?_ ?_ ps s bs) (putPieces_of State.contexts ?_ ?_ ps s bs) b name
  · exact fun u sp m => by cases sp <;> rfl
  · exact fun _ _ _ => rfl
  · exact fun u sp m => by cases sp <;> rfl
  · exact fun _ _ _ => rfl

section
variable {s : State} {key : Nat} {c : BeCtx} (h : Runs s key c)
include h

/-- POST whose destination translates whole writes its bytes, and counts them where it names a barrier object. -/
theorem Runs.exec_post {f : BrForm} {b g t ctx : Nat} {origin : W64} {ps : List (Space × Nat × Nat)} (hlegal : brLegal 0x28 f = true)
    (hlauncher : s.launcher c = some (b, g, t, ctx, origin)) (hsrc : (c.reg f.a).toNat % 8 = 0) (hn : (c.reg f.b).toNat % 8 = 0)
    (hva : (c.reg f.c).toNat % 8 = 0) (hin : c.inWindow (c.reg f.a).toNat (c.reg f.b).toNat = true)
    (hclean : c.windowBad (c.reg f.a).toNat (c.reg f.b).toNat = false)
    (hpieces : s.postPieces ctx (spanFuel (c.reg f.b).toNat) (c.reg f.c).toNat (c.reg f.b).toNat = .ok ps) :
    (f.sub = 0#8 → exec (.post f) s = .next ((s.putPieces ps (c.win.readList (c.reg f.a).toNat (c.reg f.b).toNat)).beNext key id)) ∧
    (∀ sp a, f.sub ≠ 0#8 → s.boTarget b (c.reg f.d).toNat = .ok (sp, a) → exec (.post f) s =
      .next (((s.putPieces ps (c.win.readList (c.reg f.a).toNat (c.reg f.b).toNat)).sendCount
        { space := sp, addr := a, n := (c.reg f.b).toNat }).beNext key id)) := by
  refine ⟨fun hsub => ?_, fun sp a hsub hbo => ?_⟩
  · refine congrArg Host.Outcome.next ((h.beWord hlegal _).trans ?_)
    simp only [hlauncher, hsrc, hn, hva, hin, hclean, hpieces, hsub, bne_self_eq_false, beq_self_eq_true, Bool.not_true, Bool.or_self,
      Bool.false_eq_true, if_false, if_true]
  · refine congrArg Host.Outcome.next ((h.beWord hlegal _).trans ?_)
    simp only [hlauncher, hsrc, hn, hva, hin, hclean, hpieces, hbo, beq_false_of_ne hsub, bne_self_eq_false, Bool.not_true, Bool.or_self,
      Bool.false_eq_true, if_false]

/-! ### Walkers -/

section
variable {id q : Nat} {w : Search} (hwho : c.who = .walker id q) (hsearch : s.search id = some w)
include hwho hsearch

theorem Runs.sendWalker_registers {f : BrForm} {op x : Nat} (hnone : c.registration = none) (hlegal : brLegal op f = true) (hx : x = (c.reg f.a).toNat)
    (hbe : x < 1024) (hstack : x % 16 < 12) (hmask : bitAt w.stackSet (x % 16) = 1) (hop : Bool) : s.sendWalker op f hop =
      { s with
        engines := Table.modify s.engines key (fun c => { c with registration := some s.nextId, state := .waiting })
        registrations := Table.put s.registrations s.nextId
          { sender := key, hop := hop, walker := c.message w id q, target := 64 * (x % 16) + x / 16 }
        nextId := s.nextId + 1 } := by
  have hbit : (bitAt w.stackSet (x % 16) == 0) = false := by rw [hmask]; rfl
  refine (h.beWord hlegal _).trans ?_
  simp only [hwho, hsearch, hnone, ← hx, hbit, decide_eq_false (Nat.not_le.mpr hbe), decide_eq_false (Nat.not_le.mpr hstack), Option.isSome_none,
    Bool.or_self, Bool.false_eq_true, if_false]
  rfl

theorem Runs.exec_visit {f : BrForm} (hlegal : brLegal 0x2B f = true) (hstack : (c.reg f.a).toNat / 2 ^ 60 = beStack key)
    (hnode : (c.reg f.a).toNat % 2 ^ 54 < w.nmax) : exec (.visit f) s = .next (State.beNext { s with
      searches := Table.put s.searches id
        { w with visited := Table.put w.visited (visitKey q (beStack key) ((c.reg f.a).toNat / 2 ^ 54 % 64) ((c.reg f.a).toNat % 2 ^ 54)) () } } key
      (fun c' => c'.setReg f.d
        (if (Table.find w.visited (visitKey q (beStack key) ((c.reg f.a).toNat / 2 ^ 54 % 64) ((c.reg f.a).toNat % 2 ^ 54))).isSome then 1#64 else 0#64))) := by
  refine congrArg Host.Outcome.next ((h.beWord hlegal _).trans ?_)
  simp only [hwho, hsearch, hstack, decide_eq_false (Nat.not_le.mpr hnode), bne_self_eq_false, Bool.or_self, Bool.false_eq_true, if_false]

end

/-! ### Streamed mode and status -/

section
variable {f : BrForm} {n : Nat} (hlegal : brLegal 0x2C f = true) (hstreamed : c.isStreamed = true) (hserial : (s.replyZero key c).serialOf c = some n)
include hlegal hstreamed hserial

theorem Runs.cwait_takes {id : Nat} {m : Command} (hnext : (s.replyZero key c).nextCommand n = some (id, m)) :
    exec (.cwait f) s = .next ((s.replyZero key c).beNext key (fun c =>
      { (c.setReg f.d m.operand).setReg f.a (BitVec.ofNat 64 m.code) with cmd := some id })) := by
  refine congrArg Host.Outcome.next ((h.beWord hlegal _).trans ?_)
  simp only [hstreamed, hserial, hnext, Bool.not_true, Bool.false_eq_true, if_false]

theorem Runs.cwait_waits {o : Open} (hnone : (s.replyZero key c).nextCommand n = none) (hopen : Table.find (s.replyZero key c).opens n = some o) :
    exec (.cwait f) s = .next (if o.closing then (s.replyZero key c).endContext key none
      else (s.replyZero key c).modEngine key (fun c => { c with state := .waiting })) := by
  refine congrArg Host.Outcome.next ((h.beWord hlegal _).trans ?_)
  simp only [hstreamed, hserial, hnone, hopen, Option.any_some, Bool.not_true, Bool.false_eq_true, if_false]

end

theorem Runs.creply_answers {f : BrForm} {id : Nat} (hlegal : brLegal 0x2D f = true) (hcmd : c.cmd = some id) :
    exec (.creply f) s = .next ((s.answerCommand id (c.reg f.a) true).beNext key (fun c => { c with cmd := none })) := by
  refine congrArg Host.Outcome.next ((h.beWord hlegal _).trans ?_)
  simp only [hcmd]

theorem Runs.creply_stops {f : BrForm} (hlegal : brLegal 0x2D f = true) (hcmd : c.cmd = none) :
    exec (.creply f) s = .next (s.beStop key 1 {}) := by
  refine congrArg Host.Outcome.next ((h.beWord hlegal _).trans ?_)
  simp only [hcmd]
  rfl

theorem Runs.exec_rds {f : BrForm} {x : W64} (hlegal : brLegal 0x2E f = true)
    (hread : s.beStatus key { c with state := .ready } (f.sub.toNat % 16) = some x) : exec (.rds f) s = .next (s.beGo key (c.upc + 1) (fun c =>
      { c.setReg f.d x with flags := if 128 ≤ f.sub.toNat then 0#6 else c.flags })) := by
  refine h.completes hlegal ?_
  simp only [hread]

end

/-- Settles O47: what POST, the walkers' words, CWAIT, CREPLY and RDS leave where their conditions hold. -/
theorem burrowSendsComplete : Obligations.BurrowSendsComplete := by
  unfold Obligations.BurrowSendsComplete
  intro s key c h
  refine ⟨?_, ?_, ?_, ?_, ?_, ?_, ?_⟩
  · rintro f b g t ctx src n va origin ps hlegal hlauncher rfl rfl rfl hsrc hn hva hin hclean hpieces
    obtain ⟨hplain, hcounted⟩ := h.exec_post hlegal hlauncher hsrc hn hva hin hclean hpieces
    exact ⟨hplain, fun sp a hsub hbo => hcounted sp a hsub ((boTarget_putPieces ..).symm.trans hbo)⟩
  · rintro f op x id q w r hwho hsearch hnone hlegal hx hbe hstack hmask rfl (rfl | rfl)
    · exact congrArg Host.Outcome.next (h.sendWalker_registers hwho hsearch hnone hlegal hx hbe hstack hmask true)
    · exact congrArg Host.Outcome.next (h.sendWalker_registers hwho hsearch hnone hlegal hx hbe hstack hmask false)
  · rintro f n id q k w hlegal hwho hsearch rfl hstack hnode rfl
    exact h.exec_visit hwho hsearch hlegal hstack hnode
  · rintro f u n hlegal hstreamed rfl hserial
    exact ⟨fun id m hnext => h.cwait_takes hlegal hstreamed hserial hnext,
      fun hnone o hopen => h.cwait_waits hlegal hstreamed hserial hnone hopen⟩
  · exact fun f id hlegal hcmd => h.creply_answers hlegal hcmd
  · exact fun f hlegal hcmd => h.creply_stops hlegal hcmd
  · exact fun f x hlegal hread => h.exec_rds hlegal hread

end Sys2Proof.Machine
end


section
/-! SUPPORT. The control words of a matrix sequencer (O49). -/

namespace Sys2Proof.Machine

/-! ### Branches -/

/-- Where a branch that is taken, or not, leaves the sequencer (R144). -/
def Msq.branch (m : Msq) (take : Bool) (off : BitVec 24) : Msq :=
  if take then { m.next with mpc := (m.mpc + 8#64 * off.signExtend 64) &&& 0x1FFFFFFFFFFFFF8#64 } else m.next

section
variable {s : State} {b : Nat} (hcur : s.cur = .msq b)
include hcur

/-- The five conditions on a register. -/
theorem exec_mbr_register {cond : BitVec 3} {qa : BitVec 5} (off : BitVec 24) {take : Bool} (hcond : cond.toNat < 5) (hqa : cond = 0#3 → qa = 0#5)
    (htake : take = (match cond.toNat with
      | 0 => true
      | 1 => (s.block b).msq.reg qa.toNat == 0#64
      | 2 => (s.block b).msq.reg qa.toNat != 0#64
      | 3 => ((s.block b).msq.reg qa.toNat).msb
      | _ => !((s.block b).msq.reg qa.toNat).msb)) :
    exec (.mbr cond qa off) s = .next (s.modMsq b (fun m => m.branch take off)) := by
  refine congrArg Host.Outcome.next ((onMsq_of_cur hcur _).trans ?_)
  have hcases : cond = 0#3 ∨ cond = 1#3 ∨ cond = 2#3 ∨ cond = 3#3 ∨ cond = 4#3 := by bv_omega
  subst htake
  obtain rfl | rfl | rfl | rfl | rfl := hcases
  · rw [hqa rfl]; rfl
  all_goals rfl

/-- The condition that counts a register down. -/
theorem exec_mbr_count (qa : BitVec 5) (off : BitVec 24) :
    exec (.mbr 5#3 qa off) s = .next (s.modMsq b (fun x =>
      if (s.block b).msq.reg qa.toNat - 1#64 ≠ 0#64
      then { (x.setReg qa.toNat ((s.block b).msq.reg qa.toNat - 1#64)).next with mpc := (x.mpc + 8#64 * off.signExtend 64) &&& 0x1FFFFFFFFFFFFF8#64 }
      else (x.setReg qa.toNat ((s.block b).msq.reg qa.toNat - 1#64)).next)) := by
  refine congrArg Host.Outcome.next ((onMsq_of_cur hcur _).trans ((if_neg (by simp)).trans ?_))
  refine congrArg (s.modMsq b) (funext fun m => ?_)
  by_cases hzero : (s.block b).msq.reg qa.toNat - 1#64 = 0#64
  · rw [if_neg (not_not_intro hzero)]
    exact if_neg (by simp [hzero])
  · rw [if_pos hzero]
    exact if_pos (by simpa using hzero)

theorem exec_mbr_illegal {qa : BitVec 5} (off : BitVec 24) (hqa : qa ≠ 0#5) : exec (.mbr 0#3 qa off) s = .next (s.msqStop b illegalStop) := by
  refine congrArg Host.Outcome.next ((onMsq_of_cur hcur _).trans (if_pos ?_))
  simp [hqa]

/-! ### Arithmetic, words of memory and predicates -/

theorem exec_malu (qd qa qb : BitVec 5) {op : BitVec 4} {bimm : Bool} {imm : BitVec 32} (hop : op.toNat ≤ 9) (hqb : bimm = true → qb = 0#5)
    (himm : bimm = false → imm = 0#32) :
    exec (.malu qd qa qb op bimm imm) s = .next (s.modMsq b (fun x =>
      (x.setReg qd.toNat (maluValue op.toNat (x.reg qa.toNat) (if bimm then imm.signExtend 64 else (s.block b).msq.reg qb.toNat))).next)) := by
  refine congrArg Host.Outcome.next ((onMsq_of_cur hcur _).trans (if_neg ?_))
  cases bimm with
  | true => simp [hqb rfl, hop]
  | false => simp [himm rfl, hop]

section
variable (qd qa : BitVec 5) (n : BitVec 3) (off : BitVec 32) (hfits : qd.toNat + (n.toNat + 1) ≤ 32)
  (haligned : mqAddress (s.block b).msq qa off % 8 = 0)
include hfits haligned

theorem exec_mldq {x : Nat} (hread : s.msqElements b (mqAddress (s.block b).msq qa off) (n.toNat + 1) 64 6 = .ok x) :
    exec (.mldq qd qa n off) s = .next (s.modMsq b (fun y =>
      ((List.range (n.toNat + 1)).foldl (fun y j => y.setReg (qd.toNat + j) (BitVec.ofNat 64 (x / 2 ^ (64 * j)))) y).next)) := by
  refine congrArg Host.Outcome.next ((onMsq_of_cur hcur _).trans ?_)
  dsimp only
  rw [if_neg (Nat.not_lt.mpr hfits), if_neg (by simp [haligned]), hread]

theorem exec_mstq {ps : List (Space × Nat × Nat)}
    (hspan : s.span b (spanFuel (8 * (n.toNat + 1))) (mqAddress (s.block b).msq qa off) (8 * (n.toNat + 1)) Need.write 6 = .ok ps) :
    exec (.mstq qd qa n off) s = .next
      ((s.putPieces ps ((List.range (n.toNat + 1)).flatMap (fun j => natToBytes 8 ((s.block b).msq.reg (qd.toNat + j)).toNat))).msqNext b) := by
  refine congrArg Host.Outcome.next ((onMsq_of_cur hcur _).trans ?_)
  dsimp only
  rw [if_neg (Nat.not_lt.mpr hfits), if_neg (by simp [haligned]), hspan]

end

/-- A predicate set of the lowest rows or columns. -/
theorem exec_mpred_low {sel : BitVec 2} {qa : BitVec 5} {useq : Bool} {count : BitVec 8} (hsel : sel.toNat < 2) (hqa : useq = false → qa = 0#5)
    (hcount : (if useq then ((s.block b).msq.reg qa.toNat).toNat else count.toNat) ≤ 128) :
    exec (.mpred sel qa useq count) s = .next (s.modMsq b (fun x =>
      (if sel = 0#2 then { x with mrp := lowMask (if useq then ((s.block b).msq.reg qa.toNat).toNat else count.toNat) }
       else { x with mcp := lowMask (if useq then ((s.block b).msq.reg qa.toNat).toNat else count.toNat) }).next)) := by
  refine congrArg Host.Outcome.next ((onMsq_of_cur hcur _).trans ((if_pos hsel).trans ((if_neg ?_).trans ?_)))
  · rw [decide_eq_false (Nat.not_lt.mpr hcount)]
    cases useq with
    | true => simp
    | false => simp [hqa rfl]
  · simp only [beq_iff_eq]

/-- A predicate set taken from a register pair. -/
theorem exec_mpred_pair {sel : BitVec 2} {qa : BitVec 5} (hsel : 2 ≤ sel.toNat) (heven : qa.toNat % 2 = 0) :
    exec (.mpred sel qa false 0#8) s = .next (s.modMsq b (fun x =>
      (if sel = 2#2
       then { x with mrp := ((s.block b).msq.reg qa.toNat).setWidth 128 ||| (((s.block b).msq.reg (qa.toNat + 1)).setWidth 128 <<< 64) }
       else { x with mcp := ((s.block b).msq.reg qa.toNat).setWidth 128 ||| (((s.block b).msq.reg (qa.toNat + 1)).setWidth 128 <<< 64) }).next)) := by
  refine congrArg Host.Outcome.next ((onMsq_of_cur hcur _).trans ((if_neg (Nat.not_lt.mpr hsel)).trans ((if_neg ?_).trans ?_)))
  · simp [heven]
  · simp only [beq_iff_eq]

/-! ### Barriers -/

theorem exec_mbar_join (mask : BitVec 16) :
    exec (.mbar 3#2 0#4 mask) s = .next (((s.modBlock b (fun bl => { bl with mjoin := mask })).testBarriers b).msqNext b) :=
  congrArg Host.Outcome.next (onMsq_of_cur hcur _)

section
variable {nb : BitVec 4} (hjoined : (s.block b).mjoin.getLsbD nb.toNat = true)
include hjoined

/-- Of a joined barrier, an operation below 3 is taken. -/
theorem exec_mbar_joined {op : BitVec 2} (hop : op ≠ 3#2) :
    exec (.mbar op nb 0#16) s = .next (match op.toNat with
      | 0 => match s.msqArrive b nb.toNat with
        | none => s.msqStay b (.mbar op nb 0#16)
        | some s => s.msqNext b
      | 1 => s.msqWait b nb.toNat (.mbar op nb 0#16)
      | _ =>
        if (s.block b).msq.wtd then s.msqWait b nb.toNat (.mbar op nb 0#16)
        else match s.msqArrive b nb.toNat with
          | none => s.msqStay b (.mbar op nb 0#16)
          | some s => (s.modMsq b (fun m => { m with wtd := true })).msqWait b nb.toNat (.mbar op nb 0#16)) := by
  refine congrArg Host.Outcome.next ((onMsq_of_cur hcur _).trans ?_)
  refine (if_neg ?_).trans ((if_neg ?_).trans ?_)
  · simpa using hop
  · rw [hjoined]; decide
  · rfl

end
end

/-- The sequencer's arrival in the open phase of a barrier (R136, R149). -/
def State.msqArrived (s : State) (b n : Nat) : State :=
  (s.modBlock b (fun bl =>
    { bl with nb := Table.set {} bl.nb n { Table.get {} (s.block b).nb n with msq := true }
              msq := { bl.msq with arrivals := Table.put bl.msq.arrivals n (Table.get {} (s.block b).nb n).phase } })).testBarrier b n

theorem msqArrive_eq (s : State) (b n : Nat) :
    s.msqArrive b n = if (Table.get {} (s.block b).nb n).msq = true then none else some (s.msqArrived b n) := rfl

/-! ### Reads -/

/-- What MRDS reads (R151). -/
def State.mrdsValue (s : State) (b : Nat) (sel : BitVec 3) : Option W64 :=
  match sel.toNat with
  | 0 => some (s.block b).msq.mst
  | 1 => some (BitVec.ofNat 64 (s.block b).msq.mrow)
  | 2 => some (s.block b).msq.mpc
  | 3 => some (BitVec.ofNat 64 s.time)
  | 4 => some (s.block b).msq.mfa
  | 5 => some ((s.block b).mjoin.setWidth 64)
  | _ => none

section
variable {s : State} {b : Nat} (hcur : s.cur = .msq b) (qd : BitVec 5) {sel : BitVec 3} {clr : Bool}
include hcur

/-- A selector with no value, and a clearing read of another than the flags, are illegal. -/
theorem exec_mrds : exec (.mrds qd sel clr) s = .next (match s.mrdsValue b sel with
    | none => s.msqStop b illegalStop
    | some x =>
      if clr && sel != 0#3 then s.msqStop b illegalStop
      else s.modMsq b (fun m => ({ m with flags := if clr then 0#7 else m.flags }.setReg qd.toNat x).next)) :=
  congrArg Host.Outcome.next (onMsq_of_cur hcur _)

theorem exec_mrds_value {y : W64} (hclr : clr = true → sel = 0#3) (hvalue : s.mrdsValue b sel = some y) :
    exec (.mrds qd sel clr) s =
      .next (s.modMsq b (fun m => ({ m with flags := if clr then 0#7 else m.flags }.setReg qd.toNat y).next)) := by
  have hlegal : ¬(clr && sel != 0#3) = true := by
    cases clr with
    | true => simp [hclr rfl]
    | false => simp
  simp only [exec_mrds hcur, hvalue, if_neg hlegal]

theorem exec_mrds_illegal (hvalue : s.mrdsValue b sel = none) : exec (.mrds qd sel clr) s = .next (s.msqStop b illegalStop) := by
  simp only [exec_mrds hcur, hvalue]

end

/-- Settles O49: each control word by the lemma of its legal form, the words the block's sequencer executes. -/
theorem matrixControlComplete : Obligations.MatrixControlComplete := by
  unfold Obligations.MatrixControlComplete
  intro s b m hcur hm
  subst hm
  refine ⟨congrArg Host.Outcome.next (onMsq_of_cur hcur _), congrArg Host.Outcome.next (onMsq_of_cur hcur _),
    congrArg Host.Outcome.next (onMsq_of_cur hcur _), congrArg Host.Outcome.next (onMsq_of_cur hcur _), ?_,
    fun qa off => exec_mbr_count hcur qa off, ?_, fun qd qa qb op bimm imm hop hqb himm => exec_malu hcur qd qa qb hop hqb himm, ?_, ?_,
    fun mask => exec_mbar_join hcur mask, ?_, ?_⟩
  · intro cond qa off take hcond hqa htake
    exact exec_mbr_register hcur off hcond hqa htake
  · intro cond qa off _ hcond hqa
    obtain rfl : cond = 0#3 := BitVec.eq_of_toNat_eq hcond
    exact exec_mbr_illegal hcur off hqa
  · intro qd qa n off a hfits ha haligned
    subst ha
    exact ⟨fun x hread => exec_mldq hcur qd qa n off hfits haligned hread, fun ps hspan => exec_mstq hcur qd qa n off hfits haligned hspan⟩
  · intro sel qa useq count
    refine ⟨fun c hsel hqa hc hcount => ?_, fun hsel heven huseq hzero => ?_⟩
    · subst hc
      exact exec_mpred_low hcur hsel hqa hcount
    · subst huseq hzero
      exact exec_mpred_pair hcur hsel heven
  · intro nb x u stay hjoined hx hu hstay
    subst hx hstay
    have hu : u = s.msqArrived b nb.toNat := hu
    subst hu
    refine ⟨(exec_mbar_joined hcur hjoined (by decide)).trans (congrArg Host.Outcome.next ?_),
      exec_mbar_joined hcur hjoined (by decide), fun hwtd => (exec_mbar_joined hcur hjoined (by decide)).trans (congrArg Host.Outcome.next ?_),
      fun hwtd => (exec_mbar_joined hcur hjoined (by decide)).trans (congrArg Host.Outcome.next (if_pos hwtd))⟩
    · cases harrived : (Table.get {} (s.block b).nb nb.toNat).msq with
      | true => simp [msqArrive_eq, harrived, State.msqStay]
      | false => simp [msqArrive_eq, harrived]
    · refine (if_neg (by simp [hwtd])).trans ?_
      cases harrived : (Table.get {} (s.block b).nb nb.toNat).msq with
      | true => simp [msqArrive_eq, harrived, State.msqStay]
      | false => simp [msqArrive_eq, harrived]
  · intro qd sel clr x hclr hx
    have hvalue : s.mrdsValue b sel = x := hx.symm
    cases x with
    | none => exact exec_mrds_illegal hcur qd hvalue
    | some y => exact exec_mrds_value hcur qd hclr hvalue

end Sys2Proof.Machine
end


section
/-! SUPPORT. The engine words of a matrix sequencer, the commit of their bands, and a stop that is delivered (O50). -/

namespace Sys2Proof.Machine

/-! ### The words -/

theorem exec_mzero {s : State} {b : Nat} (hcur : s.cur = .msq b) (t : BitVec 2) {fill : Bool} {qa : BitVec 5} (hqa : fill = false → qa = 0#5) :
    exec (.mzero t fill qa) s = .next (State.msqNext (((List.range 128).filter (fun i => (s.block b).msq.mrp.getLsbD i)).foldl
      (fun u i => u.putRow b t.toNat i ((s.block b).msq.cols.map (fun _ => if fill then ((s.block b).msq.reg qa.toNat).setWidth 32 else 0#32))) s) b) := by
  refine congrArg Host.Outcome.next ((onMsq_of_cur hcur _).trans (if_neg ?_))
  cases fill with
  | true => simp
  | false => simp [hqa rfl]

/-- An engine word whose checks pass becomes the engine's work, and one whose checks fail stops the sequencer. -/
theorem exec_engineWord {s : State} {b : Nat} (hcur : s.cur = .msq b) {e : Instr} {stop : Option Stop}
    (hword : (∃ f, e = .mma f ∧ stop = stopOf ((s.block b).msq.plan f none)) ∨
      (∃ f n qm, e = .mmas f n qm ∧ stop = stopOf ((s.block b).msq.plan f (some (n.toNat + 1, qm.toNat)))) ∨
      (∃ t fmt qa, e = .mldt t fmt qa ∧ stop = stopOf ((s.block b).msq.mldtPlan fmt.toNat qa.toNat)) ∨
      (∃ f, e = .mstt f ∧ stop = stopOf ((s.block b).msq.msttPlan f))) :
    exec e s = .next (s.startJob b e stop) := by
  obtain ⟨f, rfl, rfl⟩ | ⟨f, n, qm, rfl, rfl⟩ | ⟨t, fmt, qa, rfl, rfl⟩ | ⟨f, rfl, rfl⟩ := hword
  all_goals exact congrArg Host.Outcome.next (onMsq_of_cur hcur _)

/-! ### Bands -/

section
variable {s : State} {b : Nat} {e : Instr} (hjob : (s.block b).msq.job = some e) (hplace : (s.block b).place = .resident)
  (hstate : (s.block b).msq.state = .running)
include hjob hplace hstate

/-- What the engine does for a resident block whose sequencer runs. -/
theorem exec_mmaBandCommit : exec (.mmaBandCommit b) s = .next (match (s.block b).msq.bandsLeft with
    | [] => s.endJob b e
    | band :: rest =>
      match s.commitBand b band e with
      | .error p => s.msqStop b p
      | .ok s => if rest.isEmpty then (s.pulse (s.block b).ctx).endJob b e
        else (s.pulse (s.block b).ctx).modMsq b (fun m => { m with mrow := 16 * band + 16 })) := by
  change execMmaBandCommit b s = _
  unfold execMmaBandCommit
  dsimp only
  rw [hjob, hplace, hstate]
  rfl

theorem mmaBandCommit_ends (hbands : (s.block b).msq.bandsLeft = []) : exec (.mmaBandCommit b) s = .next (s.endJob b e) := by
  simp only [exec_mmaBandCommit hjob hplace hstate, hbands]

section
variable {band : Nat} {rest : List Nat} (hbands : (s.block b).msq.bandsLeft = band :: rest)
include hbands

theorem mmaBandCommit_commits {u : State} (hcommit : s.commitBand b band e = .ok u) :
    exec (.mmaBandCommit b) s = .next (if rest = [] then (u.pulse (u.block b).ctx).endJob b e
      else (u.pulse (u.block b).ctx).modMsq b (fun m => { m with mrow := 16 * band + 16 })) := by
  simp only [exec_mmaBandCommit hjob hplace hstate, hbands, hcommit, List.isEmpty_iff]

theorem mmaBandCommit_stops {p : Stop} (hcommit : s.commitBand b band e = .error p) :
    exec (.mmaBandCommit b) s = .next (s.msqStop b p) := by
  simp only [exec_mmaBandCommit hjob hplace hstate, hbands, hcommit]

end
end

theorem mem_bandRows {m : Msq} {band i : Nat} : i ∈ m.bandRows band ↔ (∃ k < 16, 16 * band + k = i) ∧ m.mrp.getLsbD i = true := by
  simp only [Msq.bandRows, List.mem_filter, List.mem_map, List.mem_range]

theorem bandRows_nonempty (m : Msq) (band : Nat) : (!(m.bandRows band).isEmpty) = true ↔ ∃ i, i < 16 ∧ m.mrp.getLsbD (16 * band + i) = true := by
  rw [Bool.not_eq_true', List.isEmpty_eq_false_iff_exists_mem]
  constructor
  · rintro ⟨i, hi⟩
    obtain ⟨⟨k, hk, rfl⟩, hrow⟩ := mem_bandRows.mp hi
    exact ⟨k, hk, hrow⟩
  · rintro ⟨k, hk, hrow⟩
    exact ⟨16 * band + k, mem_bandRows.mpr ⟨⟨k, hk, rfl⟩, hrow⟩⟩

theorem bandsLeft_rising (m : Msq) : m.bandsLeft.Pairwise (· < ·) :=
  (List.pairwise_lt_range.filter _).filter _

theorem mem_bandsLeft (m : Msq) (k : Nat) :
    k ∈ m.bandsLeft ↔ k < 8 ∧ m.mrow ≤ 16 * k ∧ ∃ i, i < 16 ∧ m.mrp.getLsbD (16 * k + i) = true := by
  simp only [Msq.bandsLeft, List.mem_filter, List.mem_range, decide_eq_true_eq, bandRows_nonempty, and_assoc]

/-! ### A stop that is delivered -/

theorem blocks_reportCause (s : State) (cause core ctx va : Nat) : (s.reportCause cause core ctx va).blocks = s.blocks := by
  unfold State.reportCause
  split
  · exact State.event_of s 0 0 core ctx cause va State.blocks (fun _ _ _ _ _ => rfl)
  · rfl

theorem blocks_faultReport (s : State) (core ctx who va : Nat) : (s.faultReport core ctx who va).blocks = s.blocks :=
  State.event_of s 0 0 core ctx who va State.blocks (fun _ _ _ _ _ => rfl)

theorem block_eq_of_blocks {s u : State} (h : u.blocks = s.blocks) (b : Nat) : u.block b = s.block b := by
  rw [State.block, h, ← State.block]

/-- The sequencer of a block that stands in the table, changed. -/
theorem msq_modMsq {s : State} {b : Nat} (hfind : (Table.find s.blocks b).isSome) (f : Msq → Msq) :
    ((s.modMsq b f).block b).msq = f (s.block b).msq := by
  rw [State.modMsq, block_modBlock_self hfind]

/-- What a stop leaves in the registers of the sequencer (R130). -/
def Msq.stopped (m : Msq) (p : Stop) : Msq :=
  { m with
    state := .stopped, fcode := p.code, fop := p.fop, job := none, fetched := none
    mfa := match p.mfa with
      | some a => BitVec.ofNat 64 (a % 2 ^ 57)
      | none => m.mfa }

theorem msqStop_delivered {s : State} {b : Nat} {p : Stop} (hfind : (Table.find s.blocks b).isSome)
    (hpage : p.code ≠ 2) (hhandover : p.code ≠ 4) :
    ((s.msqStop b p).block b).msq = { (s.block b).msq.stopped p with delivered := true, fault := none } := by
  have hstop : s.msqStop b p = ((s.modMsq b (fun m => m.stopped p)).reportCause p.cause (s.block b).core (s.block b).ctx p.va).deliverMsq b :=
    if_neg (by simp [hpage, hhandover])
  have hreport : ∀ u : State, ((u.deliverMsq b).block b) = ((u.modMsq b (fun m => { m with delivered := true, fault := none })).block b) :=
    fun u => block_eq_of_blocks (blocks_faultReport _ _ _ _ _) b
  have hblocks := blocks_reportCause (s.modMsq b (fun m => m.stopped p)) p.cause (s.block b).core (s.block b).ctx p.va
  rw [hstop, hreport, msq_modMsq ?_, block_eq_of_blocks hblocks, msq_modMsq hfind]
  rw [hblocks, State.modMsq, State.modBlock, Table.find_modify, if_pos rfl, Option.isSome_map]
  exact hfind

/-- Settles O50: MZERO and the engine words, the bands by what the next one's commit answers, and the delivered stop. -/
theorem matrixEngineComplete : Obligations.MatrixEngineComplete := by
  unfold Obligations.MatrixEngineComplete
  refine ⟨fun s b m hcur hm => ?_, fun s b band rest e hjob hplace hstate hbands => ⟨fun u hcommit => ?_, fun p hcommit => ?_⟩,
    fun s b e hjob hplace hstate hbands => ?_, fun m => ⟨bandsLeft_rising m, mem_bandsLeft m⟩,
    fun s b p _ hfind hpage hhandover => ?_⟩
  · subst hm
    refine ⟨fun t fill qa hqa => exec_mzero hcur t hqa, fun e stop hword => (exec_engineWord hcur hword).trans ?_⟩
    cases stop with
    | none => rfl
    | some p => rfl
  · exact mmaBandCommit_commits hjob hplace hstate hbands hcommit
  · exact mmaBandCommit_stops hjob hplace hstate hbands hcommit
  · exact mmaBandCommit_ends hjob hplace hstate hbands
  · refine (msqStop_delivered hfind hpage hhandover).trans ?_
    unfold Msq.stopped
    cases p.mfa with
    | none => rfl
    | some a => rfl

end Sys2Proof.Machine
end


section
/-! SUPPORT. The events of the scheduler: a bind record whose block is listed twice (O52). -/

namespace Sys2Proof.Machine

/-- A block that is out, with its image at 128. -/
def outBlock : Block := { place := .out, image := 128 }

/-- A state whose list of blocks holds two blocks under one key: the first stands on core 1, and the second is out. Sector 0 of device memory, in
which only the first one's image lies, is poisoned. -/
def twiceListed : State :=
  { State.reset with
    partitions := [(0, { valid := true, clusters := 1#32 })]
    contexts := [(0, {})]
    grids := [(0, { ctx := 0, queue := 0, order := 0, cont := false, l := {} })]
    blocks := [(0, { core := 1 }), (0, outBlock)]
    poison := [(0, ())] }

/-- A bind record that resumes, on core 0, the block whose image lies at 128. -/
def resumeRecord : BitVec 128 := BitVec.ofNat 128 (2 ^ 127 + 128)

/-- The record passes its checks, and the image of the block listed first reads poisoned: the context is destroyed. -/
theorem exec_bindResume_twiceListed :
    exec (.bindResume 0 0 resumeRecord) twiceListed = .next ((twiceListed.event 0 4 0 0 13 0).beginDestroy 0) := rfl

theorem imagePoisoned_outBlock : twiceListed.imagePoisoned outBlock = false := by decide

/-- Refutes O52: in `twiceListed` the image of the block that the record names is not poisoned, and the record destroys the context
instead of resuming the block. -/
theorem not_schedulingEventsComplete : ¬ Obligations.SchedulingEventsComplete := by
  unfold Obligations.SchedulingEventsComplete
  rintro ⟨-, -, -, hbind, -⟩
  obtain ⟨-, -, -, hresume⟩ := hbind twiceListed 0 0 resumeRecord (BindRec.ofBits resumeRecord) 0 rfl rfl (by decide)
  obtain ⟨hclean, -⟩ := hresume 0 0 outBlock (by decide) (by decide) (by decide) (by decide) (by decide) (by decide)
  have hnext := (exec_bindResume_twiceListed.symm.trans (hclean imagePoisoned_outBlock))
  rw [Host.Outcome.next.injEq] at hnext
  have hending := congrArg (fun u => (u.context 0).ending) hnext
  exact absurd hending (by decide)

end Sys2Proof.Machine
end


section
/-! SUPPORT. Walks, fault records, their answers, invalidations and hand-overs (O53). -/

namespace Sys2Proof.Machine

/-! ### Walks -/

/-- The walk of a page is under way no longer. -/
def State.walked (s : State) (key : Nat) : State := { s with walks := Table.erase s.walks key }

section
variable {s : State} {ctx page : Nat} (hasked : (Table.find s.walks (pageKey ctx (page * 65536))).isSome)
include hasked

/-- The event unfolds as a constant and keeps the walk as a variable: the kernel would evaluate the walk. -/
theorem pageWalkComplete_unfolded (walk : State → Nat → Nat → Except Nat Leaf) (hW : walk = State.walk)
    (T : Nat → Nat → State → Host.Outcome State Fault Refusal) (hT : T = execPageWalkComplete) :
    (∀ l, walk (s.walked (pageKey ctx (page * 65536))) ctx (page * 65536) = .ok l → T ctx page s =
      .next { (s.walked (pageKey ctx (page * 65536))).walkEnds (pageKey ctx (page * 65536)) none with
        tlb := Table.put s.tlb (pageKey ctx (page * 65536)) l }) ∧
    (∀ c, walk (s.walked (pageKey ctx (page * 65536))) ctx (page * 65536) = .error c → T ctx page s =
      .next ((s.walked (pageKey ctx (page * 65536))).walkEnds (pageKey ctx (page * 65536)) (some c))) := by
  obtain ⟨x, hx⟩ := Option.isSome_iff_exists.mp hasked
  delta execPageWalkComplete at hT
  rw [← hW] at hT
  subst hT
  unfold State.walked
  refine ⟨fun l hwalk => ?_, fun c hwalk => ?_⟩
  · simp only [hx, hwalk]
  · simp only [hx, hwalk]

theorem exec_pageWalkComplete_leaf {l : Leaf} (hwalk : (s.walked (pageKey ctx (page * 65536))).walk ctx (page * 65536) = .ok l) :
    exec (.pageWalkComplete ctx page) s =
      .next { (s.walked (pageKey ctx (page * 65536))).walkEnds (pageKey ctx (page * 65536)) none with
        tlb := Table.put s.tlb (pageKey ctx (page * 65536)) l } :=
  (pageWalkComplete_unfolded hasked _ rfl _ rfl).1 l hwalk

theorem exec_pageWalkComplete_cause {c : Nat} (hwalk : (s.walked (pageKey ctx (page * 65536))).walk ctx (page * 65536) = .error c) :
    exec (.pageWalkComplete ctx page) s =
      .next ((s.walked (pageKey ctx (page * 65536))).walkEnds (pageKey ctx (page * 65536)) (some c)) :=
  (pageWalkComplete_unfolded hasked _ rfl _ rfl).2 c hwalk

end

/-! ### Records -/

section
variable {s : State} {id : Nat} {f : FaultRec} (hfault : Table.find s.faults id = some f)
include hfault

theorem exec_faultEvent_written (hroom : (s.page (s.context f.ctx).partition).ringRoom = true) (hfirst : s.heldEarlier id f = false)
    (hstage : f.stage = 0) : exec (.faultEvent id) s = .next ((s.writeRecord id f).pulse f.ctx) := by
  change execFaultEvent id s = _
  simp only [execFaultEvent, hfault, hstage, hroom, hfirst, bne_self_eq_false, Bool.false_eq_true, if_false, Bool.not_false, Bool.and_self, if_true]

theorem exec_faultEvent_held (hroom : (s.page (s.context f.ctx).partition).ringRoom = false) (hstage : f.stage = 0) :
    exec (.faultEvent id) s = .next { s with faults := Table.put s.faults id { f with stage := 1 } } := by
  change execFaultEvent id s = _
  simp only [execFaultEvent, hfault, hstage, hroom, bne_self_eq_false, Bool.false_eq_true, if_false, Bool.false_and]

theorem exec_faultRecordDeferred (hroom : (s.page (s.context f.ctx).partition).ringRoom = true) (hfirst : s.heldEarlier id f = false)
    (hstage : f.stage = 1) : exec (.faultRecordDeferred id) s = .next (s.writeRecord id f) := by
  change execFaultRecordDeferred id s = _
  simp only [execFaultRecordDeferred, hfault, hstage, hroom, hfirst, BEq.rfl, Bool.not_false, Bool.and_self, if_true]

end

/-- Where the next record of a partition's ring stands (R396). -/
def Page.recordAt (p : Page) : Nat := hostBase + p.reg 0 + 32 * (p.frtail % 2 ^ p.reg 8)

theorem mem_writeRecord (s : State) (id : Nat) (f : FaultRec) :
    (s.writeRecord id f).mem = s.mem.writeNat (s.page (s.context f.ctx).partition).recordAt 32
      (f.bytes (s.page (s.context f.ctx).partition).serial s.time) := rfl

theorem page_modPage_self (s : State) (p : Nat) (f : Page → Page) : (s.modPage p f).page p = f (s.page p) := Table.get_put_self _ _ _ _

theorem frtail_writeRecord (s : State) (id : Nat) (f : FaultRec) :
    ((s.writeRecord id f).page (s.context f.ctx).partition).frtail = ((s.page (s.context f.ctx).partition).frtail + 1) % 2 ^ 32 :=
  congrArg Page.frtail (page_modPage_self s (s.context f.ctx).partition
    (fun p => { p with serial := (p.serial + 1) % 2 ^ 32, frtail := (p.frtail + 1) % 2 ^ 32 }))

/-! ### Answers -/

/-- An answer that names an outstanding record of its partition is taken. -/
theorem answerRecord_taken {s : State} {p : Nat} {v : W64} {verd : Bool} {id : Nat} {f : FaultRec} (go : Nat → FaultRec → State)
    (hverdict : v.getLsbD 60 = verd) (hcontext : s.contextIn p (fieldOf v.toNat 48 12) = true)
    (hrecord : s.faults.find? (fun e => e.2.stage == 2 && e.2.ctx == fieldOf v.toNat 48 12 && e.2.serial == fieldOf v.toNat 0 32) = some (id, f)) :
    s.answerRecord p v verd go = (go id f).pulse (fieldOf v.toNat 48 12) := by
  unfold State.answerRecord
  simp only [hverdict, hcontext, hrecord, bne_self_eq_false, Bool.false_eq_true, if_false, Bool.not_true]

theorem fieldOf_zero (x n : Nat) : fieldOf x 0 n = x % 2 ^ n := by
  rw [fieldOf, Nat.pow_zero, Nat.div_one]

/-! ### Invalidations -/

/-- The invalidation that a partition's registers name (R394). -/
def State.namedInval (s : State) (p : Nat) : Inval :=
  { ctx := fieldOf ((s.page p).reg 0x88) 32 12, page := fieldOf ((s.page p).reg 0x80) 16 41, pages := fieldOf ((s.page p).reg 0x88) 0 32
    upto := s.nextId + 1, counted := true }

theorem exec_tlbInvalidate (s : State) (p : Nat) :
    exec (.tlbInvalidate p) s = .next (if !s.contextIn p (s.namedInval p).ctx then s.event 0 4 0 (s.namedInval p).ctx 15 0
      else (s.startInval (s.namedInval p)).modPage p (fun pg => { pg with invals := pg.invals ++ [s.namedInval p] })) := rfl

theorem mem_tlb_startInval (s : State) (i : Inval) (k : Nat) (l : Leaf) :
    (k, l) ∈ (s.startInval i).tlb ↔ (k, l) ∈ s.tlb ∧ i.touches k l = false := by
  change (k, l) ∈ s.tlb.filter _ ↔ _
  rw [List.mem_filter, Bool.not_eq_true']

theorem onPartition_of_cur {s : State} {p : Nat} (hcur : s.cur = .partition p) (f : Nat → Page → State) : s.onPartition f = f p (s.page p) := by
  simp only [State.onPartition, hcur]

theorem exec_tlbInvalidateComplete {s : State} {p : Nat} {i : Inval} {rest : List Inval} (hcur : s.cur = .partition p)
    (hinvals : (s.page p).invals = i :: rest) :
    exec .tlbInvalidateComplete s = .next (if s.invalDone i then (s.startInval i).modPage p (fun pg =>
      { pg with invals := rest, tlbdone := (pg.tlbdone + (if i.counted then 1 else 0)) % 2 ^ 64 }) else s) := by
  refine congrArg Host.Outcome.next ((onPartition_of_cur hcur _).trans ?_)
  simp only [hinvals]

/-! ### Hand-over -/

section
variable {s : State} {p : Nat} {ws : List W64} {rest : List (List W64)} (hcur : s.cur = .partition p)
  (hnext : (s.page p).handovers = ws :: rest)
include hcur hnext

section
variable (hidle : (s.page p).acquiring = none)
include hidle

/-- What becomes of the next command of a kind. -/
theorem onHandover_next {release : Bool} (hkind : (Handover.ofWords ws).release = release) (go : Nat → Handover → State) :
    s.onHandover release go =
      if !s.handoverOk p ws then (s.modPage p (fun pg => { pg with handovers := rest })).handoverDone p (Handover.ofWords ws).serial 1
      else if s.leafBeyond (Handover.ofWords ws) then (s.modPage p (fun pg => { pg with handovers := rest })).handoverDone p (Handover.ofWords ws).serial 2
      else go p (Handover.ofWords ws) := by
  refine (onPartition_of_cur hcur _).trans ?_
  simp only [hnext, hidle, hkind, Option.isSome_none, bne_self_eq_false, Bool.or_self, Bool.false_eq_true, if_false]

/-- The step that takes up a command of either kind. -/
theorem exec_handover (h : Handover) (hword : h = Handover.ofWords ws) :
    exec (if h.release then .handoverRelease else .handoverAcquire) s =
      .next (if !s.handoverOk p ws then (s.modPage p (fun pg => { pg with handovers := rest })).handoverDone p h.serial 1
        else if s.leafBeyond h then (s.modPage p (fun pg => { pg with handovers := rest })).handoverDone p h.serial 2
        else if h.release then
          ((s.setHost h false).startInval (h.inval (s.nextId + 1))).modPage p (fun pg => { pg with acquiring := some (h.inval (s.nextId + 1)) })
        else ((s.setHost h true).startInval { h.inval (s.nextId + 1) with taken := s.handoverTakes h }).modPage p (fun pg =>
          { pg with acquiring := some { h.inval (s.nextId + 1) with taken := s.handoverTakes h } })) := by
  subst hword
  cases hkind : (Handover.ofWords ws).release with
  | true =>
    refine congrArg Host.Outcome.next ((onPartition_of_cur hcur _).trans ?_)
    simp only [hidle]
    exact onHandover_next hcur hnext hidle hkind _
  | false => exact congrArg Host.Outcome.next (onHandover_next hcur hnext hidle hkind _)

end

section
variable {i : Inval} (hunder : (s.page p).acquiring = some i) (hdone : s.invalDone i = true)
include hunder hdone

theorem exec_handoverAcquireComplete (hkind : (Handover.ofWords ws).release = false) (hquiet : s.rangeQuiet i = true) :
    exec .handoverAcquireComplete s = .next
      ((State.modPage { s.startInval i with cores := s.cores.map (fun e => (e.1, { e.2 with near := [], nearPoison := [] })) } p
        (fun pg => { pg with acquiring := none, handovers := rest })).handoverDone p (Handover.ofWords ws).serial 0) := by
  refine congrArg Host.Outcome.next ((onPartition_of_cur hcur _).trans ?_)
  simp only [hunder, hnext]
  exact if_pos (by rw [hkind, hdone, hquiet]; rfl)

theorem exec_handoverRelease_ends (hkind : (Handover.ofWords ws).release = true) :
    exec .handoverRelease s = .next (s.endRelease p i (Handover.ofWords ws) rest) := by
  refine congrArg Host.Outcome.next ((onPartition_of_cur hcur _).trans ?_)
  simp only [hunder, hnext]
  exact if_pos (by rw [hkind, hdone]; rfl)

end
end

/-- Settles O53: each event of the fault service by the lemma of its case. -/
theorem faultServiceCompletes : Obligations.FaultServiceCompletes := by
  unfold Obligations.FaultServiceCompletes
  refine ⟨fun s u ctx page hasked hu => ?_, fun s id f hfault => ⟨fun hroom hfirst => ?_, fun hroom hstage => exec_faultEvent_held hfault hroom hstage,
    fun hwf p a hp ha => ?_⟩, fun s p ctx serial id v f hctx hserial hcontext hrecord => ?_, fun s p i hi => ?_, mem_tlb_startInval,
    fun s p i rest hcur hinvals => exec_tlbInvalidateComplete hcur hinvals, fun s p ws rest h hcur hnext hword hidle => ?_,
    fun s p i ws rest h hcur hnext hword hunder hdone => ?_⟩
  · have hu : u = s.walked (pageKey ctx (page * 65536)) := hu
    subst hu
    exact ⟨fun l hwalk => exec_pageWalkComplete_leaf hasked hwalk, fun c hwalk => exec_pageWalkComplete_cause hasked hwalk⟩
  · exact ⟨exec_faultEvent_written hfault hroom hfirst, exec_faultRecordDeferred hfault hroom hfirst⟩
  · subst hp ha
    rw [mem_writeRecord]
    exact ⟨Memory.readNat_writeNat hwf _ _ _, fun x hx => Memory.byte_writeNat_outside hwf _ _ _ _ hx, frtail_writeRecord s id f⟩
  · rw [← fieldOf_zero] at hserial
    subst hctx hserial
    exact ⟨fun hverdict => congrArg Host.Outcome.next (answerRecord_taken _ hverdict hcontext hrecord),
      fun hverdict => congrArg Host.Outcome.next (answerRecord_taken _ hverdict hcontext hrecord)⟩
  · have hnamed : i = s.namedInval p := by rw [hi, State.namedInval, fieldOf_zero]; rfl
    subst hnamed
    refine ⟨fun hcontext => (exec_tlbInvalidate s p).trans ?_, fun hcontext => (exec_tlbInvalidate s p).trans ?_⟩
    · rw [hcontext]; rfl
    · rw [hcontext]; rfl
  · have hexec := exec_handover hcur hnext hidle h hword
    refine ⟨fun hbad => ?_, fun hok hbeyond => ?_, fun hok hwithin hkind => ?_, fun hok hwithin hkind => ?_⟩
    · rw [hexec, hbad]; rfl
    · rw [hexec, hok, hbeyond]; rfl
    · rw [hok, hwithin, hkind] at hexec
      exact hexec
    · rw [hok, hwithin, hkind] at hexec
      exact hexec
  · subst hword
    refine ⟨fun hkind hquiet => exec_handoverAcquireComplete hcur hnext hunder hdone hkind hquiet, fun hkind u v hu hv => ?_⟩
    subst hu hv
    exact exec_handoverRelease_ends hcur hnext hunder hdone hkind

end Sys2Proof.Machine
end


section
/-! SUPPORT. Commands of a partition and accesses of the host (O54). -/

namespace Sys2Proof.Machine

/-! ### Commands -/

/-- A command that is done or refused: it leaves its queue, and its status goes to cdone. -/
def State.finishCommand (s : State) (p : Nat) (rest : List (List W64)) (serial status : Nat) : State :=
  (s.modPage p (fun pg => { pg with commands := rest })).commandDone p serial status

/-- The state that a command comes to. -/
def State.afterCommand (s : State) (p : Nat) (rest : List (List W64)) (serial : Nat) : Ran → State
  | .done u => u.finishCommand p rest serial 0
  | .refused => s.finishCommand p rest serial 1
  | .waits u => u

section
variable {s : State} {p : Nat} {ws : List W64} {rest : List (List W64)} (hcur : s.cur = .partition p) (hnext : (s.page p).commands = ws :: rest)
  (hidle : (s.page p).destroying = none)
include hcur hnext hidle

theorem onCommand_refused {op : Nat} (hop : (Command3.ofWords ws).op = op) (hbad : s.commandOk p (Command3.ofWords ws) = false)
    (go : Nat → Command3 → Ran) : s.onCommand op go = s.finishCommand p rest (Command3.ofWords ws).serial 1 := by
  refine (onPartition_of_cur hcur _).trans ?_
  simp only [hnext, hidle, hop, hbad, Option.isSome_none, BEq.rfl, Bool.true_or, Bool.not_true, Bool.or_self, Bool.false_eq_true, if_false,
    bne_self_eq_false, Bool.not_false, Bool.or_true, if_true]
  rfl

theorem onCommand_runs {op : Nat} (hop : (Command3.ofWords ws).op = op) (hok : s.commandOk p (Command3.ofWords ws) = true)
    (go : Nat → Command3 → Ran) :
    s.onCommand op go = s.afterCommand p rest (Command3.ofWords ws).serial (go p (Command3.ofWords ws)) := by
  refine (onPartition_of_cur hcur _).trans ?_
  simp only [hnext, hidle, hop, hok, Option.isSome_none, BEq.rfl, Bool.true_or, Bool.not_true, Bool.or_self, Bool.false_eq_true, if_false,
    bne_self_eq_false]
  cases go p (Command3.ofWords ws) <;> rfl

theorem exec_command_refused {e : Instr}
    (hword : ((Command3.ofWords ws).op, e) ∈ [(0, Instr.contextCreate), (1, .contextReload), (2, .contextDestroy), (3, .queueEnable),
      (4, .queueDisable), (5, .slotEntry), (6, .classQuotas)])
    (hbad : s.commandOk p (Command3.ofWords ws) = false) : exec e s = .next (s.finishCommand p rest (Command3.ofWords ws).serial 1) := by
  simp only [List.mem_cons, Prod.mk.injEq, List.not_mem_nil, or_false] at hword
  obtain ⟨hop, rfl⟩ | ⟨hop, rfl⟩ | ⟨hop, rfl⟩ | ⟨hop, rfl⟩ | ⟨hop, rfl⟩ | ⟨hop, rfl⟩ | ⟨hop, rfl⟩ := hword
  case inr.inr.inl =>
    refine congrArg Host.Outcome.next ((onPartition_of_cur hcur _).trans ?_)
    simp only [hnext, hidle, hop, hbad, Option.isSome_none, bne_self_eq_false, Bool.or_self, Bool.false_eq_true, if_false, Bool.not_false, if_true]
    rfl
  all_goals exact congrArg Host.Outcome.next (onCommand_refused hcur hnext hidle hop hbad _)

section
variable (hok : s.commandOk p (Command3.ofWords ws) = true)
include hok

/-- The effect of an operation whose function answers `r`. -/
theorem runs_of {op : Nat} (hop : (Command3.ofWords ws).op = op) {go : Nat → Command3 → Ran} {r : Ran} (hgo : go p (Command3.ofWords ws) = r) :
    s.onCommand op go = s.afterCommand p rest (Command3.ofWords ws).serial r := by
  rw [onCommand_runs hcur hnext hidle hop hok, hgo]

theorem done_of {op : Nat} (hop : (Command3.ofWords ws).op = op) {go : Nat → Command3 → Ran} {u : State}
    (hgo : go p (Command3.ofWords ws) = .done u) : s.onCommand op go = u.finishCommand p rest (Command3.ofWords ws).serial 0 :=
  runs_of hcur hnext hidle hok hop hgo

theorem waits_of {op : Nat} (hop : (Command3.ofWords ws).op = op) {go : Nat → Command3 → Ran} {u : State}
    (hgo : go p (Command3.ofWords ws) = .waits u) : s.onCommand op go = u :=
  runs_of hcur hnext hidle hok hop hgo

section
variable {x : Nat} (hx : x = s.mem.readNat (Command3.ofWords ws).a 64) (howned : s.ownedAt p (Command3.ofWords ws).a 64 = true)
  (hrecord : s.contextRecordOk p x = true)
include hx howned hrecord

theorem exec_contextCreate (hop : (Command3.ofWords ws).op = 0) {r : Nat} (hspot : s.remapSpot p = some r) :
    exec .contextCreate s = .next (State.finishCommand { s with
      contexts := Table.put s.contexts (Command3.ofWords ws).ctx (Context.load { partition := p, remap := r } (Command3.ofWords ws).a x) }
      p rest (Command3.ofWords ws).serial 0) := by
  refine congrArg Host.Outcome.next (done_of hcur hnext hidle hok hop ?_)
  simp only [← hx, howned, hrecord, hspot, Bool.not_true, Bool.or_self, Bool.false_eq_true, if_false]

theorem exec_contextCreate_waits (hop : (Command3.ofWords ws).op = 0) (hspot : s.remapSpot p = none) : exec .contextCreate s = .next s := by
  refine congrArg Host.Outcome.next (waits_of hcur hnext hidle hok hop ?_)
  simp only [← hx, howned, hrecord, hspot, Bool.not_true, Bool.or_self, Bool.false_eq_true, if_false]

theorem exec_contextReload_starts (hop : (Command3.ofWords ws).op = 1) {i : Inval}
    (hi : i = { ctx := (Command3.ofWords ws).ctx, page := 0, pages := 0, upto := s.nextId + 1, counted := false })
    (hnone : (s.page p).reloading = none) :
    exec .contextReload s = .next ((State.startInval { s with
      contexts := Table.modify s.contexts (Command3.ofWords ws).ctx (fun k => k.load (Command3.ofWords ws).a x) } i).modPage p
        (fun pg => { pg with reloading := some i })) := by
  subst hi
  refine congrArg Host.Outcome.next (waits_of hcur hnext hidle hok hop ?_)
  simp only [← hx, howned, hrecord, hnone, Bool.not_true, Bool.or_self, Bool.false_eq_true, if_false]

end

theorem exec_contextReload_ends (hop : (Command3.ofWords ws).op = 1) {i : Inval} (hunder : (s.page p).reloading = some i) :
    exec .contextReload s = .next (if s.invalDone i
      then ((s.startInval i).modPage p (fun pg => { pg with reloading := none })).finishCommand p rest (Command3.ofWords ws).serial 0 else s) := by
  refine congrArg Host.Outcome.next ((runs_of hcur hnext hidle hok hop (r := if s.invalDone i
    then .done ((s.startInval i).modPage p (fun pg => { pg with reloading := none })) else .waits s) ?_).trans ?_)
  · simp only [hunder]
  · split
    · rfl
    · rfl

theorem exec_contextDestroy (hop : (Command3.ofWords ws).op = 2) :
    exec .contextDestroy s = .next ((s.beginDestroy (Command3.ofWords ws).ctx).modPage p (fun pg =>
      { pg with destroying := some ((Command3.ofWords ws).ctx, (Command3.ofWords ws).serial), commands := rest })) := by
  refine congrArg Host.Outcome.next ((onPartition_of_cur hcur _).trans ?_)
  simp only [hnext, hidle, hop, hok, Option.isSome_none, bne_self_eq_false, Bool.or_self, Bool.false_eq_true, if_false, Bool.not_true]

/-- A queue that no slot holds is loaded from its record. -/
theorem exec_queueEnable (hop : (Command3.ofWords ws).op = 3) {x : Nat} {q : Queue} {u : State} (hx : x = s.mem.readNat (Command3.ofWords ws).b 64)
    (hslot : inRange (s.partition p).slots (Command3.ofWords ws).a 1 = true) (howned : s.ownedAt p (Command3.ofWords ws).b 64 = true)
    (hlegal : recordLegal x = true) (hctx : (Queue.ofRecord x).ctx = (Command3.ofWords ws).ctx)
    (hactive : (s.queue (Command3.ofWords ws).a).state ≠ 1) (hfull : (s.queue (Command3.ofWords ws).a).state ≠ 2)
    (hnew : ∀ e ∈ s.queues, e.2.record ≠ (Command3.ofWords ws).b ∨ e.2.ctx ≠ (Command3.ofWords ws).ctx)
    (hq : q = { Queue.ofRecord x with record := (Command3.ofWords ws).b, err := 0, state := 1, tail := (Queue.ofRecord x).captured.getD (Queue.ofRecord x).tail
                                      captured := none, uncommitted := [], frames := [] })
    (hu : u = { s with queues := Table.put s.queues (Command3.ofWords ws).a q
                       contexts := Table.modify s.contexts (Command3.ofWords ws).ctx (fun k => { k with halted := false }) }) :
    exec .queueEnable s = .next ((((u.saveQueue (Command3.ofWords ws).a).commitQueue (Command3.ofWords ws).a).post
      (.queue (Command3.ofWords ws).a)).finishCommand p rest (Command3.ofWords ws).serial 0) := by
  subst hq hu
  have hother : ∀ e ∈ s.queues, (e.2.record == (Command3.ofWords ws).b && e.2.ctx == (Command3.ofWords ws).ctx) = false := by
    intro e he
    have hdiffers := hnew e he
    simp only [Bool.and_eq_false_iff, beq_eq_false_iff_ne]
    exact hdiffers
  have hbefore : s.queues.find? (fun e => e.2.record == (Command3.ofWords ws).b && e.2.ctx == (Command3.ofWords ws).ctx) = none := by
    rw [List.find?_eq_none]
    intro e he
    rw [hother e he]
    exact Bool.false_ne_true
  have hkept : s.queues.filter (fun e => !(e.2.record == (Command3.ofWords ws).b && e.2.ctx == (Command3.ofWords ws).ctx)) = s.queues := by
    rw [List.filter_eq_self]
    intro e he
    rw [hother e he]
    rfl
  have hgrids : ∀ (l : Table Grid), l.map (fun e => e) = l := List.map_id'
  refine congrArg Host.Outcome.next (done_of hcur hnext hidle hok hop ?_)
  simp only [← hx, hslot, howned, hlegal, hctx, beq_false_of_ne hactive, beq_false_of_ne hfull, hbefore, hkept, bne_self_eq_false, Bool.not_true,
    Bool.or_self, Bool.false_eq_true, if_false, Option.map_none, Option.getD_none, Option.isSome_none, Bool.false_and, hgrids]

theorem exec_queueDisable (hop : (Command3.ofWords ws).op = 4) (hslot : inRange (s.partition p).slots (Command3.ofWords ws).a 1 = true)
    (hctx : (s.queue (Command3.ofWords ws).a).ctx = (Command3.ofWords ws).ctx) (hrecord : (s.queue (Command3.ofWords ws).a).record ≠ 0) :
    exec .queueDisable s = .next (((s.saveQueue (Command3.ofWords ws).a).modQueue (Command3.ofWords ws).a (fun q =>
      { q with state := 0, held := none, fault := none })).finishCommand p rest (Command3.ofWords ws).serial 0) := by
  refine congrArg Host.Outcome.next (done_of hcur hnext hidle hok hop ?_)
  simp only [hslot, hctx, beq_false_of_ne hrecord, bne_self_eq_false, Bool.not_true, Bool.or_self, Bool.false_eq_true, if_false]

theorem exec_slotEntry (hop : (Command3.ofWords ws).op = 5) (hhigh : (Command3.ofWords ws).a / 512 = 0) (hbit : (Command3.ofWords ws).a / 2 % 2 = 0)
    (hrange : inRange (if (Command3.ofWords ws).a % 2 = 0 then (s.partition p).entries0 else (s.partition p).entries1)
      ((Command3.ofWords ws).a / 4 % 64) 1 = true) :
    exec .slotEntry s = .next (State.finishCommand { s with
      slotTable := Table.set 0 s.slotTable (64 * ((Command3.ofWords ws).a % 2) + (Command3.ofWords ws).a / 4 % 64)
        ((Command3.ofWords ws).ctx + 2 ^ 31 * ((Command3.ofWords ws).a / 256 % 2)) } p rest (Command3.ofWords ws).serial 0) := by
  have hreserved : fieldOf (Command3.ofWords ws).a 1 1 = 0 := hbit
  have hentries : inRange (if (Command3.ofWords ws).a % 2 == 0 then (s.partition p).entries0 else (s.partition p).entries1)
      (fieldOf (Command3.ofWords ws).a 2 6) 1 = true := by
    simp only [beq_iff_eq]
    exact hrange
  refine congrArg Host.Outcome.next (done_of hcur hnext hidle hok hop ?_)
  simp only [hhigh, hreserved, hentries, bne_self_eq_false, Bool.not_true, Bool.or_self, Bool.false_eq_true, if_false]
  rfl

theorem exec_classQuotas (hop : (Command3.ofWords ws).op = 6) :
    exec .classQuotas s = .next (State.finishCommand { s with
      l2cq := Table.put (Table.put s.l2cq p (quotas (Command3.ofWords ws).a)) (8 + p) (quotas (Command3.ofWords ws).a) }
      p rest (Command3.ofWords ws).serial 0) :=
  congrArg Host.Outcome.next (done_of hcur hnext hidle hok hop rfl)

end
end

/-- The teardown of a context that is ready ends. -/
theorem exec_contextDestroyComplete {s : State} {p k : Nat} {x : Context} (hcur : s.cur = .partition p)
    (hready : s.contexts.find? (fun e => e.2.ending && e.2.partition == p && s.destroyReady e.1) = some (k, x)) :
    (∀ serial, (s.page p).destroying = some (k, serial) → exec .contextDestroyComplete s = .next
      (((s.endDestroy k).modPage p (fun pg => { pg with destroying := none })).commandDone p serial 0)) ∧
    ((s.page p).destroying = none → exec .contextDestroyComplete s = .next (s.endDestroy k)) := by
  refine ⟨fun serial hserial => congrArg Host.Outcome.next ((onPartition_of_cur hcur _).trans ?_),
    fun hnone => congrArg Host.Outcome.next ((onPartition_of_cur hcur _).trans ?_)⟩
  · simp only [hready, hserial, BEq.rfl, if_true]
  · simp only [hready, hnone]

end Sys2Proof.Machine
end


section
/-! SUPPORT. The host's writes and accesses, partition descriptors and the release of a frozen master (O54). -/

namespace Sys2Proof.Machine

/-! ### Tails -/

theorem tailOk_iff (q : Queue) (tail v : Nat) : q.tailOk tail v = true ↔ v % 4 = 0 ∧ tail ≤ v ∧ v ≤ q.head + 2 ^ q.n := by
  simp only [Queue.tailOk, Bool.and_eq_true, beq_iff_eq, decide_eq_true_eq, and_assoc]

section
variable {s : State} {slot : Nat} {v : W64} {q : Queue} (hqueue : Table.find s.queues slot = some q)
include hqueue

theorem exec_qtailWrite_taken (hfed : q.fed = false) (htail : q.tailOk (max q.tail (q.captured.getD q.tail)) v.toNat = true) :
    exec (.qtailWrite slot v) s = .next (if q.state = 0 ∨ q.state = 2 then (s.setQueue slot { q with captured := some v.toNat }).saveQueue slot
      else if q.state = 3 then (s.setQueue slot { q with tail := v.toNat }).saveQueue slot
      else (s.setQueue slot { q with tail := v.toNat }).post (.queue slot)) := by
  change execQtailWrite slot v s = _
  simp only [execQtailWrite, hqueue, hfed, htail, Bool.not_true, Bool.false_eq_true, if_false, Bool.or_eq_true, beq_iff_eq]

theorem exec_qtailWrite_bad (hfed : q.fed = false) (hstate : q.state ≠ 3)
    (htail : q.tailOk (max q.tail (q.captured.getD q.tail)) v.toNat = false) : exec (.qtailWrite slot v) s = .next (s.stopQueue slot 1) := by
  change execQtailWrite slot v s = _
  simp only [execQtailWrite, hqueue, hfed, htail, Bool.not_false, Bool.false_eq_true, if_false, if_true, beq_false_of_ne hstate]

theorem exec_qtailWrite_fed (hfed : q.fed = true) : exec (.qtailWrite slot v) s = .next (s.event 0 5 slot q.ctx 0 v.toNat) := by
  change execQtailWrite slot v s = _
  simp only [execQtailWrite, hqueue, hfed, if_true]

end

/-! ### Partition descriptors -/

theorem waysOverlap_iff (s : State) (die p : Nat) (v : W32) :
    s.waysOverlap die p v = true ↔ ∃ q, q < 8 ∧ q ≠ p ∧ (s.wayMask (8 * die + q) &&& v) ≠ 0#32 := by
  simp only [State.waysOverlap, List.any_eq_true, List.mem_range, Bool.and_eq_true, bne_iff_ne]

theorem waysOverlap_congr {s u : State} (h : u.l2wm = s.l2wm) (die p : Nat) (v : W32) : u.waysOverlap die p v = s.waysOverlap die p v := by
  unfold State.waysOverlap State.wayMask
  rw [h]

/-- Writing a mask of one die changes no mask of the other. -/
theorem wayMask_put {s : State} {die other p q : Nat} (w : W32) (hp : p < 8) (hq : q < 8) (hdie : other ≠ die) :
    ({ s with l2wm := Table.put s.l2wm (8 * die + p) w } : State).wayMask (8 * other + q) = s.wayMask (8 * other + q) :=
  Table.get_put_ne _ _ _ _ _ (by omega)

section
variable {s : State} {p : Nat} {d : Partition}

theorem exec_partitionDescriptorWrite_refused (hbad : s.descriptorOk p d = false) :
    exec (.partitionDescriptorWrite p d) s = .next (s.event 0 4 0 0 16 p) := by
  change execPartitionDescriptorWrite p d s = _
  simp only [execPartitionDescriptorWrite, hbad, Bool.not_false, if_true]

theorem exec_partitionDescriptorWrite (hok : s.descriptorOk p d = true) :
    exec (.partitionDescriptorWrite p d) s =
      .next ((State.writeWays { s with partitions := Table.put s.partitions p d } 0 0 p (d.ways.setWidth 32)).writeWays 0 1 p (d.ways.setWidth 32)) := by
  change execPartitionDescriptorWrite p d s = _
  simp only [execPartitionDescriptorWrite, hok, Bool.not_true, Bool.false_eq_true, if_false]

theorem writeWays_disjoint {die : Nat} {w : W32} (h : s.waysOverlap die p w = false) (cc : Nat) :
    s.writeWays cc die p w = { s with l2wm := Table.put s.l2wm (8 * die + p) w } := by
  rw [State.writeWays, h]
  exact if_neg Bool.false_ne_true

theorem writeWays_overlapping {die : Nat} {w : W32} (h : s.waysOverlap die p w = true) (cc : Nat) :
    s.writeWays cc die p w = s.event 0 4 cc 0 18 p := by
  rw [State.writeWays, h]
  exact if_pos rfl

/-- A descriptor is a partition's, one of eight. -/
theorem descriptorOk_lt (hok : s.descriptorOk p d = true) : p < 8 := by
  simp only [State.descriptorOk, Bool.and_eq_true, decide_eq_true_eq] at hok
  exact hok.1.1

theorem writeWays_both {w : W32} (hp : p < 8) (hfree : ∀ die, die < 2 → ∀ q, q < 8 → q ≠ p → (s.wayMask (8 * die + q) &&& w) = 0#32) :
    (s.writeWays 0 0 p w).writeWays 0 1 p w = { s with l2wm := Table.put (Table.put s.l2wm p w) (8 + p) w } := by
  have hdisjoint : ∀ die, die < 2 → ∀ u : State, (∀ q, q < 8 → u.wayMask (8 * die + q) = s.wayMask (8 * die + q)) → u.waysOverlap die p w = false := by
    intro die hdie u hsame
    rw [Bool.eq_false_iff]
    intro hoverlap
    obtain ⟨q, hq, hne, hmeets⟩ := (waysOverlap_iff u die p w).mp hoverlap
    rw [hsame q hq] at hmeets
    exact hmeets (hfree die hdie q hq hne)
  rw [writeWays_disjoint (hdisjoint 0 (by decide) s fun _ _ => rfl),
    writeWays_disjoint (hdisjoint 1 (by decide) _ fun q hq => wayMask_put w hp hq (by decide))]
  simp only [Nat.mul_zero, Nat.zero_add, Nat.mul_one]

theorem writeWays_neither {w : W32} (htaken : ∀ die, die < 2 → ∃ q, q < 8 ∧ q ≠ p ∧ (s.wayMask (8 * die + q) &&& w) ≠ 0#32) :
    (s.writeWays 0 0 p w).writeWays 0 1 p w = (s.event 0 4 0 0 18 p).event 0 4 0 0 18 p := by
  have hoverlap : ∀ die, die < 2 → s.waysOverlap die p w = true := fun die hdie => (waysOverlap_iff s die p w).mpr (htaken die hdie)
  have hkept : (s.event 0 4 0 0 18 p).l2wm = s.l2wm := State.event_of _ _ _ _ _ _ _ State.l2wm (fun _ _ _ _ _ => rfl)
  rw [writeWays_overlapping (hoverlap 0 (by decide)), writeWays_overlapping ((waysOverlap_congr hkept 1 p w).trans (hoverlap 1 (by decide)))]

end

/-! ### BAR2 -/

/-- Every byte of a range without poison lies in a sector without poison. -/
theorem poisoned_of_poisonedIn {s : State} {a n k : Nat} (hclean : s.poisonedIn .main a n = false) (hk : k < n) : s.poisoned .main (a + k) = false := by
  have hsector : ∀ x y, x / 128 = y / 128 → s.poisoned .main x = s.poisoned .main y := by
    intro x y hxy
    simp only [State.poisoned, State.lostAt, sectorOf, hxy]
  have hnone := List.any_eq_false.mp hclean ((a % 128 + k) / 128) (List.mem_range.mpr (by omega))
  rw [Bool.not_eq_true] at hnone
  rw [← hnone]
  refine hsector _ _ ?_
  by_cases hfirst : (a % 128 + k) / 128 = 0
  · simp only [hfirst, BEq.rfl, if_true]
    omega
  · simp only [beq_false_of_ne hfirst, Bool.false_eq_true, if_false]
    omega

theorem readNat_eq_bytes (m : Memory) : ∀ n a, bytesToNat ((List.range n).map (fun k => BitVec.ofNat 8 (m.readNat (a + k) 1))) = m.readNat a n := by
  intro n
  induction n with
  | zero => intro a; rfl
  | succ n ih =>
    intro a
    have hrest : (List.range n).map ((fun k => BitVec.ofNat 8 (m.readNat (a + k) 1)) ∘ Nat.succ) =
        (List.range n).map (fun k => BitVec.ofNat 8 (m.readNat (a + 1 + k) 1)) := by
      refine List.map_congr_left fun k _ => ?_
      rw [Function.comp, Nat.succ_eq_add_one, Nat.add_right_comm, Nat.add_assoc]
    rw [List.range_succ_eq_map, List.map_cons, List.map_map, hrest, bytesToNat, ih (a + 1)]
    simp [Memory.readNat]

/-- The host reads a clean range as it stands. -/
theorem hostRead_clean {s : State} {off n : Nat} (hclean : s.poisonedIn .main off n = false) : s.hostRead off n = s.mem.readNat off n := by
  rw [← readNat_eq_bytes]
  unfold State.hostRead
  refine congrArg bytesToNat (List.map_congr_left fun k hk => ?_)
  rw [poisoned_of_poisonedIn hclean (List.mem_range.mp hk)]
  exact if_neg Bool.false_ne_true

section
variable {s : State} {off n x : Nat} (hstage : s.stage = 3)
include hstage

theorem exec_hostBar2Access_hole (hhole : s.inDevice off n = false) (op : BarOp) :
    exec (.hostBar2Access op off n x) s = .next (State.event { s with outbox := s.outbox ++ [.unsupported] } 0 5 0 0 19 off) := by
  change execHostBar2Access op off n x s = _
  simp only [execHostBar2Access, hstage, hhole, bne_self_eq_false, Bool.false_eq_true, if_false, Bool.not_false, Bool.true_or, if_true]

section
variable (hdevice : s.inDevice off n = true)
include hdevice

theorem exec_hostBar2Access_read :
    exec (.hostBar2Access .read off n x) s = .next { s with outbox := s.outbox ++ [.bar2 (s.hostRead off n)] } := by
  change execHostBar2Access .read off n x s = _
  refine congrArg Host.Outcome.next ((if_neg (by simp [hstage])).trans (if_neg ?_))
  simp [hdevice, barAtomic]

theorem exec_hostBar2Access_write : exec (.hostBar2Access .write off n x) s = .next { s with mem := s.mem.writeNat off n x } := by
  change execHostBar2Access .write off n x s = _
  refine congrArg Host.Outcome.next ((if_neg (by simp [hstage])).trans (if_neg ?_))
  simp [hdevice, barAtomic]

/-- An atomic operation of 4 or 8 bytes in a clean sector. -/
theorem exec_hostBar2Access_atomic (hsize : n = 4 ∨ n = 8) (haligned : off % n = 0) (hclean : s.poisoned .main off = false) {op : BarOp}
    (hop : op = .fetchAdd ∨ op = .swap ∨ op = .cas) :
    exec (.hostBar2Access op off n x) s = .next
      { s with outbox := s.outbox ++ [.bar2 (s.hostRead off n)], mem := s.mem.writeNat off n (barResult op n x (s.mem.readNat off n)) } := by
  have hlegal : ¬((!s.inDevice off n || (barAtomic op && ((n != 4 && n != 8) || off % n != 0))) = true) := by
    have hn : (n != 4 && n != 8) = false := by
      obtain rfl | rfl := hsize
      · rfl
      · rfl
    simp only [hdevice, hn, haligned, bne_self_eq_false, Bool.or_self, Bool.and_false, Bool.not_true, Bool.false_eq_true, not_false_iff]
  obtain rfl | rfl | rfl := hop
  all_goals
    refine congrArg Host.Outcome.next ((if_neg (by simp [hstage])).trans ((if_neg hlegal).trans (if_neg ?_)))
    rw [hclean]
    exact Bool.false_ne_true

end
end

/-! ### Registers and releases -/

theorem not_frozen {s : State} {m : Master} (hfree : ∀ f ∈ s.frozenMasters, (f.1, f.2.1) ≠ masterKey m) :
    (s.frozenMasters.any (fun f => (f.1, f.2.1) == masterKey m)) = false := by
  rw [List.any_eq_false]
  intro f hf
  rw [beq_iff_eq]
  exact hfree f hf

theorem host_frozen_iff (s : State) :
    (s.frozenMasters.any (fun f => (f.1, f.2.1) == masterKey .host)) = true ↔ (5, 0) ∈ s.frozenMasters.map (fun f => (f.1, f.2.1)) := by
  rw [List.any_eq_true, List.mem_map]
  exact exists_congr fun f => and_congr_right fun _ => beq_iff_eq

theorem exec_registerWrite_host (s : State) (off : Nat) (v : W64) : exec (.registerWrite .host (.bar0 off) v) s =
    .next (if (5, 0) ∈ s.frozenMasters.map (fun f => (f.1, f.2.1)) then s else s.writeBar0 off v) :=
  congrArg Host.Outcome.next (ite_congr_iff (host_frozen_iff s) rfl rfl)

section
variable {s : State} {m : Master} (v : W64) (hfree : ∀ f ∈ s.frozenMasters, (f.1, f.2.1) ≠ masterKey m)
include hfree

theorem exec_registerWrite_actreg (n : Nat) : exec (.registerWrite m (.actreg n) v) s = .next (if m = .power
    then s.modStack n (fun k => { k with lim := max 64 (v.toNat / 2 ^ 16 % 2 ^ 16), win := max 64 (v.toNat % 2 ^ 16) }) else s.violate m n) := by
  change execRegisterWrite m (.actreg n) v s = _
  simp only [execRegisterWrite, not_frozen hfree, Bool.false_eq_true, if_false, beq_iff_eq, fieldOf_zero]
  rfl

theorem exec_registerWrite_mslen (die : Nat) : exec (.registerWrite m (.mslen die) v) s = .next (if m = .management
    then { s with mslen := Table.set 1000 s.mslen die (max 10 (v.toNat % 2 ^ 16)) } else if masterIsCore m then s else s.violate m die) := by
  change execRegisterWrite m (.mslen die) v s = _
  simp only [execRegisterWrite, not_frozen hfree, Bool.false_eq_true, if_false, beq_iff_eq, State.coreWrite, fieldOf_zero]

theorem exec_registerWrite_core {r : Reg} (hreg : r ∈ [Reg.pmsplit] ∨ (∃ die p, r = .l2wm die p ∨ r = .l2cq die p) ∨ (∃ die n, r = .slot die n)) :
    exec (.registerWrite m r v) s = .next (if masterIsCore m then s.coreWrite m r v else s.violate m 0) := by
  refine congrArg Host.Outcome.next ((if_neg ?_).trans ?_)
  · rw [not_frozen hfree]
    exact Bool.false_ne_true
  · obtain hsplit | ⟨die, p, rfl | rfl⟩ | ⟨die, n, rfl⟩ := hreg
    · obtain rfl := List.mem_singleton.mp hsplit
      rfl
    all_goals rfl

end

theorem exec_masterRelease {s : State} {kind index : Nat} {ctx : Option Nat}
    (hfrozen : s.frozenMasters.find? (fun f => f.1 == kind && f.2.1 == index) = some (kind, index, ctx)) (u : State)
    (hu : u = { s with frozenMasters := s.frozenMasters.filter (fun f => !(f.1 == kind && f.2.1 == index)) }) :
    exec (.masterRelease kind index) s = .next (match kind with
      | 0 => u.releaseCore index ctx
      | 1 => u.releaseCore index ctx
      | 2 => (u.engines.filter (fun e => beEngine e.1 == index)).foldl (fun s e => s.reportStop e.1) u
      | 3 => u.retrain index
      | 4 => u.dropEvent index
      | _ => u) := by
  subst hu
  change execMasterRelease kind index s = _
  rcases kind with _ | _ | _ | _ | _ | kind
  all_goals simp only [execMasterRelease, hfrozen] <;> rfl

/-- Settles O54: the commands of a partition by the lemma of each operation, and the host's accesses by that of each kind. -/
theorem hostCommandsComplete : Obligations.HostCommandsComplete := by
  unfold Obligations.HostCommandsComplete
  refine ⟨fun s p ws rest c e hcur hnext hc hidle => ?_, fun s p k x hcur hready => exec_contextDestroyComplete hcur hready,
    fun s slot v q tail hqueue htail => ?_, fun s u p d hu => ?_, fun s off n x hstage hwf => ⟨fun hdevice => ?_, fun hhole op => ?_⟩,
    fun s m v hfree => ?_, fun s u kind index ctx hfrozen hu => ?_⟩
  · subst hc
    refine ⟨fun hword hbad => exec_command_refused hcur hnext hidle hword hbad, fun hok fin hfin => ?_⟩
    subst hfin
    exact ⟨fun r x hop hx howned hrecord hspot => exec_contextCreate hcur hnext hidle hok hx howned hrecord hop hspot,
      fun x hop hx howned hrecord hspot => exec_contextCreate_waits hcur hnext hidle hok hx howned hrecord hop hspot,
      fun i x hop hx howned hrecord hi hnone => exec_contextReload_starts hcur hnext hidle hok hx howned hrecord hop hi hnone,
      fun i hop hunder => exec_contextReload_ends hcur hnext hidle hok hop hunder,
      fun hop => exec_contextDestroy hcur hnext hidle hok hop,
      fun x q u hop hx hslot howned hlegal hctx hactive hfull hnew hq hu =>
        exec_queueEnable hcur hnext hidle hok hop hx hslot howned hlegal hctx hactive hfull hnew hq hu,
      fun hop hslot hctx hrecord => exec_queueDisable hcur hnext hidle hok hop hslot hctx hrecord,
      fun hop hhigh hbit hrange => exec_slotEntry hcur hnext hidle hok hop hhigh hbit hrange,
      fun hop => exec_classQuotas hcur hnext hidle hok hop⟩
  · subst htail
    refine ⟨fun hfed haligned hlow hhigh => exec_qtailWrite_taken hqueue hfed ((tailOk_iff _ _ _).mpr ⟨haligned, hlow, hhigh⟩),
      fun hfed hstate hbad => exec_qtailWrite_bad hqueue hfed hstate ?_, fun hfed => exec_qtailWrite_fed hqueue hfed⟩
    rw [Bool.eq_false_iff, ne_eq, tailOk_iff]
    omega
  · subst hu
    refine ⟨exec_partitionDescriptorWrite_refused, fun hok => ⟨fun hfree => ?_, fun htaken => ?_⟩⟩
    · exact (exec_partitionDescriptorWrite hok).trans (congrArg Host.Outcome.next
        (writeWays_both (s := { s with partitions := Table.put s.partitions p d }) (descriptorOk_lt hok) hfree))
    · exact (exec_partitionDescriptorWrite hok).trans (congrArg Host.Outcome.next
        (writeWays_neither (s := { s with partitions := Table.put s.partitions p d }) htaken))
  · refine ⟨hostRead_clean, exec_hostBar2Access_read hstage hdevice, exec_hostBar2Access_write hstage hdevice,
      fun op new hsize haligned hclean hop => ?_, Memory.readNat_writeNat hwf _ _ _, fun a ha => Memory.byte_writeNat_outside hwf _ _ _ _ ha⟩
    simp only [List.mem_cons, Prod.mk.injEq, List.not_mem_nil, or_false] at hop
    obtain ⟨rfl, rfl⟩ | ⟨rfl, rfl⟩ | ⟨rfl, rfl⟩ := hop
    · exact exec_hostBar2Access_atomic hstage hdevice hsize haligned hclean (.inl rfl)
    · exact exec_hostBar2Access_atomic hstage hdevice hsize haligned hclean (.inr (.inl rfl))
    · rw [exec_hostBar2Access_atomic hstage hdevice hsize haligned hclean (.inr (.inr rfl))]
      simp only [barResult, beq_iff_eq]
  · exact exec_hostBar2Access_hole hstage hhole op
  · exact ⟨fun off => exec_registerWrite_host s off v, fun n => exec_registerWrite_actreg v hfree n, fun die => exec_registerWrite_mslen v hfree die,
      fun r hreg => exec_registerWrite_core v hfree hreg⟩
  · have hexec := exec_masterRelease hfrozen u hu
    subst hu
    rcases kind with _ | _ | _ | _ | _ | kind
    all_goals exact hexec

end Sys2Proof.Machine
end


section
/-! SUPPORT. Errors, self-tests, repairs, power steps and host accesses without a completion (O55). -/

namespace Sys2Proof.Machine

section
variable {s : State} (hlit : s.dark = false)
include hlit

/-! ### Errors and self-tests -/

theorem exec_errorDetect {site : Site} (hexists : s.siteExists site = true) (corrected : Bool) :
    exec (.errorDetect site corrected) s = .next { (if corrected then s else s.contain site) with
      nextId := (if corrected then s else s.contain site).nextId + 1
      tests := Table.put (if corrected then s else s.contain site).tests (if corrected then s else s.contain site).nextId
        { site := site, corrected := corrected } } := by
  refine congrArg Host.Outcome.next (if_neg ?_)
  rw [hlit, hexists]
  exact Bool.false_ne_true

/-- The verdict of a test, and what it leads to. -/
theorem exec_selfTestComplete {id : Nat} {t : Test} (htest : Table.find s.tests id = some t) (pass : Bool) {u : State} {r : State × Nat}
    (hu : u = { s with tests := Table.erase s.tests id })
    (hr : r = if pass then (u, 1) else (u.repairSite t.site).1.logRepair (s.siteUnit t.site) (u.repairSite t.site).2) :
    exec (.selfTestComplete id pass) s = .next (r.1.event 8 (unitMaster (s.siteUnit t.site).1) (s.siteUnit t.site).2.1 (u.siteContext t.site)
      ((s.siteUnit t.site).1 + (if t.corrected then 0 else 16) + 256 * r.2) (s.siteUnit t.site).2.2) := by
  subst hr hu
  change execSelfTestComplete id pass s = _
  simp only [execSelfTestComplete, htest, hlit, Bool.false_eq_true, if_false]

/-! ### Channels -/

theorem exec_hbmLaneFailure {stack ch : Nat} (hstack : stack < 12) (hch : ch < 32) :
    exec (.hbmLaneFailure stack ch) s = .next (s.laneFail stack ch) := by
  refine congrArg Host.Outcome.next (if_neg ?_)
  simp [hlit, hstack, hch]

theorem exec_channelFullWidthRestore {stack ch : Nat} (hstack : stack < 12) (hhalf : (s.stack stack).half.getLsbD ch = true) :
    exec (.channelFullWidthRestore stack ch) s = .next ((s.modStack stack (fun k =>
      { k with half := k.half &&& ~~~BitVec.twoPow 32 ch, lanef := k.lanef &&& ~~~BitVec.twoPow 32 ch
               lim := if k.hot then k.cool else k.lim, hot := false })).widthRecord stack ch) := by
  refine congrArg Host.Outcome.next (if_neg ?_)
  simp [hlit, hstack, hhalf]

theorem exec_stackThermalHigh {stack : Nat} (hstack : stack < 12) (hcool : (s.stack stack).hot = false) :
    exec (.stackThermalHigh stack) s = .next (((List.range 32).foldl (fun u c => u.halve stack c) s).modStack stack (fun k =>
      { k with hot := true, cool := k.lim, lim := max 64 (k.limit / 2) })) := by
  refine congrArg Host.Outcome.next (if_neg ?_)
  simp [hlit, hstack, hcool]

/-! ### Power -/

theorem exec_powerEvaluation (watts hot density : Nat) (exceeded low : Bool) (busy : BitVec 12) {u : State}
    (hu : u = { s with watts := watts, hottest := hot }) :
    exec (.powerEvaluation watts exceeded low busy (hot, density)) s = .next (if exceeded = true ∨ 3200 < watts ∨ 1500 < density then u.lowerPower busy
      else if low = true ∧ watts < 3000 then u.raisePower else u) := by
  subst hu
  refine congrArg Host.Outcome.next ((if_neg ?_).trans (ite_congr_iff ?_ rfl (ite_congr_iff ?_ rfl rfl)))
  · exact (Bool.eq_false_iff.mp hlit)
  · simp only [Bool.or_eq_true, decide_eq_true_eq, or_assoc]
  · simp only [Bool.and_eq_true, decide_eq_true_eq]

theorem exec_powerEmergency : exec .powerEmergency s = .next (s.stepClocks [0, 1] (min 1000)) :=
  congrArg Host.Outcome.next (if_neg (Bool.eq_false_iff.mp hlit))

theorem exec_thermalClockStep {die : Nat} (hdie : die < 2) : exec (.thermalClockStep die) s = .next (s.stepClocks [die] (fun c => c - 100)) := by
  refine congrArg Host.Outcome.next (if_neg ?_)
  simp [hlit, hdie]

/-! ### Accesses that get no completion -/

/-- A request to host memory, not in the side log, is given up. -/
theorem exec_pcieCompletionTimeout {id : Nat} {r : Req} (hreq : Table.find s.reqs id = some r) (hlogged : r.logged = none) (hspace : r.space = .main)
    (hhost : ∀ l ∈ r.lanes, hostBase ≤ l.addr) {u : State} (hu : u = { s with reqs := Table.erase s.reqs id }) :
    exec (.pcieCompletionTimeout id) s = .next (if r.kind.silent then r.lanes.foldl (fun s l => s.event 0 0 r.core r.ctx 21 l.addr) u
      else r.lanes.foldl (fun s l => s.markInto r.b r.g l (poisonMark r.origin l.va)) u) := by
  subst hu
  have hlanes : (r.lanes.all fun l => decide (hostBase ≤ l.addr)) = true := List.all_eq_true.mpr fun l hl => decide_eq_true (hhost l hl)
  change execPcieCompletionTimeout id s = _
  simp only [execPcieCompletionTimeout, hreq, hlit, hlogged, hspace, hlanes, Option.isSome_none, bne_self_eq_false, Bool.not_true, Bool.or_self,
    Bool.false_eq_true, if_false]

end

theorem silent_of_answered {k : ReqKind} (h : k = .load ∨ k = .near ∨ k = .literal ∨ (∃ op ty, k = .atomic op ty true)) : k.silent = false := by
  obtain rfl | rfl | rfl | ⟨op, ty, rfl⟩ := h
  all_goals rfl

theorem silent_of_written {k : ReqKind} (h : k = .store ∨ (∃ op ty, k = .atomic op ty false)) : k.silent = true := by
  obtain rfl | ⟨op, ty, rfl⟩ := h
  all_goals rfl

/-- A core without blocks takes its lower corecap. -/
theorem exec_repairCorecapChange {s : State} {core : Nat} {cap : W32} (hpending : (s.core core).pending = some cap)
    (hempty : ∀ e ∈ s.blocks, e.2.core = core → e.2.place ≠ .resident ∧ e.2.place ≠ .moving) :
    exec (.repairCorecapChange core) s = .next (s.modCore core (fun c => { c with corecap := cap, pending := none })) := by
  have hnone : (s.blocks.any fun e => e.2.core == core && (e.2.place == .resident || e.2.place == .moving)) = false := by
    rw [List.any_eq_false]
    intro e he
    simp only [Bool.and_eq_true, Bool.or_eq_true, beq_iff_eq, not_and, not_or]
    exact hempty e he
  change execRepairCorecapChange core s = _
  simp only [execRepairCorecapChange, hpending, hnone, Bool.false_eq_true, if_false]

/-- Settles O55: each event by the lemma of its case. -/
theorem recoveryCompletes : Obligations.RecoveryCompletes := by
  unfold Obligations.RecoveryCompletes
  refine ⟨fun s site corrected u hlit hexists hu => ?_, fun s u id t x r hlit htest hx hu => ?_,
    fun s core cap hpending hempty => exec_repairCorecapChange hpending hempty, fun s stack ch hlit hstack hch => ?_,
    fun s u watts hot density exceeded low busy hlit hu => ?_, fun s u id r hlit hreq hlogged hspace hhost hu => ?_⟩
  · subst hu
    exact exec_errorDetect hlit hexists corrected
  · subst hx
    exact ⟨exec_selfTestComplete hlit htest true hu rfl, fun hr => exec_selfTestComplete hlit htest false hu hr⟩
  · exact ⟨exec_hbmLaneFailure hlit hstack hch, exec_channelFullWidthRestore hlit hstack, exec_stackThermalHigh hlit hstack⟩
  · exact ⟨exec_powerEvaluation hlit watts hot density exceeded low busy hu, exec_powerEmergency hlit, fun die hdie => exec_thermalClockStep hlit hdie⟩
  · have hexec := exec_pcieCompletionTimeout hlit hreq hlogged hspace hhost hu
    refine ⟨fun hkind => ?_, fun hkind => ?_⟩
    · rw [hexec, silent_of_answered hkind]
      rfl
    · rw [hexec, silent_of_written hkind]
      rfl

end Sys2Proof.Machine
end


section
/-! SUPPORT. Start, reset, freeze and attestation (O56). -/

namespace Sys2Proof.Machine

/-! ### Firmware and start -/

section
variable {s : State} {m : Master} {ok : Bool} {img : List Byte} (hlit : s.frozen = false) (hmaster : m = (if s.stage = 3 then .management else .host))
  (himg : img = s.mem.readList (hostBase + s.fwaddr.toNat % 2 ^ 48) s.fwlen.toNat)
include hlit hmaster himg

/-- A load by the master of the stage, while the device is not frozen. -/
theorem exec_firmwareLoad :
    exec (.firmwareLoad m ok) s = .next (if s.fwlen.toNat < 8192 ∨ 67108864 < s.fwlen.toNat then { s with fwst := 5 }
      else if s.flash.accepts img = false then { s with fwst := 3 }
      else if ok = false then { s with fwst := 4, flash := { s.flash with image := some [] } }
      else { s with fwst := 2, flash := { s.flash with image := some img } }) := by
  have htaken : ¬((s.frozen || m != (if s.stage == 3 then .management else .host)) = true) := by
    simp only [hlit, hmaster, beq_iff_eq, bne_self_eq_false, Bool.or_self, Bool.false_eq_true, not_false_iff]
  refine congrArg Host.Outcome.next ((if_neg htaken).trans ?_)
  simp only [← himg, Bool.or_eq_true, decide_eq_true_eq, Bool.not_eq_true']

theorem firmwareLoad_length (hlength : s.fwlen.toNat < 8192 ∨ 67108864 < s.fwlen.toNat) :
    exec (.firmwareLoad m ok) s = .next { s with fwst := 5 } := by
  rw [exec_firmwareLoad hlit hmaster himg, if_pos hlength]

section
variable (hlow : 8192 ≤ s.fwlen.toNat) (hhigh : s.fwlen.toNat ≤ 67108864)
include hlow hhigh

theorem firmwareLoad_refused (hbad : s.flash.accepts img = false) : exec (.firmwareLoad m ok) s = .next { s with fwst := 3 } := by
  have hlength : ¬(s.fwlen.toNat < 8192 ∨ 67108864 < s.fwlen.toNat) := by omega
  rw [exec_firmwareLoad hlit hmaster himg, if_neg hlength, if_pos hbad]

theorem firmwareLoad_accepted (hgood : s.flash.accepts img = true) : exec (.firmwareLoad m ok) s = .next { s with
    fwst := if ok then 2 else 4, flash := { s.flash with image := some (if ok then img else []) } } := by
  have hlength : ¬(s.fwlen.toNat < 8192 ∨ 67108864 < s.fwlen.toNat) := by omega
  have hnot : ¬s.flash.accepts img = false := by simp [hgood]
  rw [exec_firmwareLoad hlit hmaster himg, if_neg hlength, if_neg hnot]
  cases ok with
  | true => rfl
  | false => rfl

end
end

theorem exec_svnRaise {s : State} {img : List Byte} (hrunning : s.running = some img) :
    exec .svnRaise s = .next { s with flash := { s.flash with minSvn := max s.flash.minSvn (imageSvn img) } } := by
  change execSvnRaise s = _
  simp only [execSvnRaise, hrunning]

section
variable {s : State} (hlit : s.dark = false) (hstage : s.stage = 0) (herr : s.startErr = 0) (stackSet : BitVec 12) (hub : Bool) (ports : BitVec 64) (l : Nat)
include hlit hstage herr

theorem exec_fullFunctionOpen_refused (hbad : s.flash.startError ≠ 0) :
    exec (.fullFunctionOpen stackSet hub ports l) s = .next { s with startErr := s.flash.startError } := by
  refine congrArg Host.Outcome.next ((if_neg ?_).trans (if_pos ?_))
  · simp [hlit, hstage, herr]
  · simpa using hbad

theorem exec_fullFunctionOpen (hgood : s.flash.startError = 0) {u : State}
    (hu : u = (State.issueAlias { s with running := s.flash.image, stage := 2 }).applyRepairs) :
    exec (.fullFunctionOpen stackSet hub ports l) s = .next (if stackSet ≠ BitVec.allOnes 12 then { u with startErr := 4 }
      else if hub = false then { u with startErr := 5 }
      else State.trainPorts { u with lsplit := min l 16, stage := 3, partitions := [(0, Partition.whole (min l 16))] } ports) := by
  subst hu
  refine congrArg Host.Outcome.next ((if_neg ?_).trans ((if_neg ?_).trans (ite_congr_iff ?_ rfl (ite_congr_iff ?_ rfl rfl))))
  · simp [hlit, hstage, herr]
  · simp [hgood]
  · exact bne_iff_ne
  · rw [Bool.not_eq_true']

end

/-! ### Reset and trip -/

/-- Of the listed cells, those from an address on read as before, and the bytes below it as unwritten. -/
theorem byte_filter (m : Memory) (lo a : Nat) :
    Memory.byte (m.filter (fun e => decide (lo ≤ e.1))) a = if lo ≤ a then m.byte a else 0#8 := by
  unfold Memory.byte Table.get
  induction m with
  | nil => simp [Table.find, Memory.unwritten]
  | cons e m ih =>
    obtain ⟨j, v⟩ := e
    by_cases hj : lo ≤ j
    · rw [List.filter_cons_of_pos (by simpa using hj)]
      simp only [Table.find]
      by_cases hja : j = a
      · subst hja
        simp [hj]
      · by_cases haj : a < j
        · simp [hja, haj, Memory.unwritten]
        · simp only [if_neg hja, if_neg haj]
          exact ih
    · rw [List.filter_cons_of_neg (by simpa using hj), ih]
      split
      · next hlo =>
        have hja : ¬j = a := by omega
        have haj : ¬a < j := by omega
        simp only [Table.find, if_neg hja, if_neg haj]
      · rfl

theorem byte_restart (s : State) (a : Nat) : s.restart.mem.byte a = if hostBase ≤ a then s.mem.byte a else 0#8 := byte_filter s.mem hostBase a

/-- What a trip leaves (R456). -/
def State.tripOff (s : State) : State :=
  { (s.event 9 5 0 0 1 0).restart with
    tripped := true, startErr := 6, deviceRing := (s.event 9 5 0 0 1 0).deviceRing
    deviceWaiting := (s.event 9 5 0 0 1 0).deviceWaiting, deviceLost := (s.event 9 5 0 0 1 0).deviceLost }

theorem exec_thermalTrip {s : State} (hup : s.tripped = false) : exec .thermalTrip s = .next s.tripOff :=
  congrArg Host.Outcome.next (if_neg (Bool.eq_false_iff.mp hup))

theorem tripOff_flash (s : State) : s.tripOff.flash = s.flash := State.event_of s 9 5 0 0 1 0 State.flash (fun _ _ _ _ _ => rfl)

theorem mem_tripOff {s : State} {e : Host.Cell} (h : e ∈ s.tripOff.mem) : hostBase ≤ e.1 := by
  change e ∈ (s.event 9 5 0 0 1 0).mem.filter (fun e => decide (hostBase ≤ e.1)) at h
  exact of_decide_eq_true (List.mem_filter.mp h).2

/-! ### Attestation -/

section
variable {s : State} (halias : s.alias_ = true)
include halias

/-- A request whose turn has come is answered. -/
theorem attest_in_order {stage : Nat} (hstage : stage ≤ s.spdmStage) (go : State) : s.attest stage go = go := by
  refine if_neg ?_
  simp [halias, hstage]

theorem exec_getVersion : exec .getVersion s = .next { s with spdmStage := 1, outbox := s.outbox ++ [.spdm (.version 0x13)] } :=
  congrArg Host.Outcome.next (attest_in_order halias (Nat.zero_le _) _)

theorem exec_getCapabilities (hstage : 1 ≤ s.spdmStage) :
    exec .getCapabilities s = .next { s with spdmStage := max s.spdmStage 2, outbox := s.outbox ++ [.spdm .capabilities] } :=
  congrArg Host.Outcome.next (attest_in_order halias hstage _)

theorem exec_negotiateAlgorithms (hstage : 2 ≤ s.spdmStage) : exec (.negotiateAlgorithms true true true) s =
    .next { s with spdmStage := 3, outbox := s.outbox ++ [.spdm (.algorithms true true true)] } :=
  congrArg Host.Outcome.next (attest_in_order halias hstage _)

section
variable (hstage : 3 ≤ s.spdmStage)
include hstage

theorem exec_getDigests {cs : List Byte} (hchain : s.chain.flatten = cs) :
    exec .getDigests s = .next { s with outbox := s.outbox ++ [.spdm (.digests 1 (bytesToNat (sha384 cs)))] } := by
  subst hchain
  exact congrArg Host.Outcome.next (attest_in_order halias hstage _)

theorem exec_getCertificate {cs : List Byte} (hchain : s.chain.flatten = cs) (off n : Nat) : exec (.getCertificate 0 off n) s =
    .next { s with outbox := s.outbox ++ [.spdm (.certificate ((cs.drop off).take n) (cs.length - off - n))] } := by
  subst hchain
  rw [← List.length_drop]
  exact congrArg Host.Outcome.next (attest_in_order halias hstage _)

theorem exec_challenge (nonce : BitVec 256) : exec (.challenge 0 nonce) s =
    .next (s.sign nonce ((List.range 5).map (fun k => s.measurement (k + 1))) (.challengeAuth nonce)) :=
  congrArg Host.Outcome.next (attest_in_order halias hstage _)

theorem exec_getMeasurements_count (nonce : BitVec 256) :
    exec (.getMeasurements 0 true nonce) s = .next (s.sign nonce [5] (.measurements [(0, 5)])) :=
  congrArg Host.Outcome.next (attest_in_order halias hstage _)

theorem exec_getMeasurements_one {n : Nat} (hlow : 1 ≤ n) (hhigh : n ≤ 5) (nonce : BitVec 256) :
    exec (.getMeasurements n true nonce) s = .next (s.sign nonce [s.measurement n] (.measurements [(n, s.measurement n)])) := by
  refine congrArg Host.Outcome.next ((attest_in_order halias hstage _).trans ?_)
  have hall : (n == 255) = false := beq_false_of_ne (by omega)
  have hzero : (n == 0) = false := beq_false_of_ne (by omega)
  simp only [hall, hzero, decide_eq_false (Nat.not_lt.mpr hhigh), Bool.not_true, Bool.false_and, Bool.or_self, Bool.false_eq_true, if_false,
    List.map_cons, List.map_nil]

theorem exec_vendorDefinedRequest {h : Nat} (hlast : s.lastSigned = some h) : exec (.vendorDefinedRequest 3 Config.vendorId 1) s =
    .next (s.reply (.vendor s.companion (Config.hssSign s.aliasKey (s.signed - 1) h))) := by
  refine congrArg Host.Outcome.next ((attest_in_order halias hstage _).trans ?_)
  simp only [hlast, bne_self_eq_false, Bool.or_self, Bool.false_eq_true, if_false]

end
end

theorem attest_refused {s : State} (halias : s.alias_ = false) (stage : Nat) (go : State) : s.attest stage go = s.reply .error := by
  refine if_pos ?_
  rw [halias]
  rfl

/-- Settles O56: each event by the lemma of its case. -/
theorem startAndTrustComplete : Obligations.StartAndTrustComplete := by
  unfold Obligations.StartAndTrustComplete
  refine ⟨fun s m ok img hlit hmaster himg => ?_, fun s img hrunning => exec_svnRaise hrunning,
    fun s u ports hub stackSet l hlit hstage herr => ?_, fun s => ?_, fun s halias => ?_, fun s halias e he => ?_⟩
  · exact ⟨firmwareLoad_length hlit hmaster himg, firmwareLoad_refused hlit hmaster himg, firmwareLoad_accepted hlit hmaster himg⟩
  · exact ⟨exec_fullFunctionOpen_refused hlit hstage herr stackSet hub ports l, fun hgood hu => exec_fullFunctionOpen hlit hstage herr stackSet hub ports l hgood hu⟩
  · refine ⟨rfl, rfl, rfl, fun hup => ⟨s.tripOff, exec_thermalTrip hup, rfl, rfl, rfl, rfl, rfl, tripOff_flash s, fun e he => mem_tripOff he⟩,
      ⟨rfl, rfl, rfl, rfl, rfl, rfl, byte_restart s⟩, fun _ => rfl, rfl, rfl⟩
  · refine ⟨exec_getVersion halias, exec_getCapabilities halias, exec_negotiateAlgorithms halias, fun hstage => ⟨fun cs hcs => ?_, ?_, ?_, ?_,
      fun h hlast => exec_vendorDefinedRequest halias hstage hlast⟩⟩
    · have hchain : s.chain.flatten = cs := by
        rw [hcs, State.chain, List.flatten_cons, List.flatten_cons, List.flatten_cons, List.flatten_nil, List.append_nil]
        rfl
      exact ⟨exec_getDigests halias hstage hchain, exec_getCertificate halias hstage hchain⟩
    · intro h nonce hh
      subst hh
      exact exec_challenge halias hstage nonce
    · intro h nonce hh
      subst hh
      exact exec_getMeasurements_count halias hstage nonce
    · intro h nonce n hlow hhigh hh
      subst hh
      exact exec_getMeasurements_one halias hstage hlow hhigh nonce
  · simp only [List.mem_cons, List.not_mem_nil, or_false] at he
    obtain rfl | rfl | rfl := he
    all_goals exact congrArg Host.Outcome.next (attest_refused halias _ _)

end Sys2Proof.Machine
end


section
/-! SUPPORT. Every instruction and every step has a next state (O59). -/

namespace Sys2Proof.Machine

/-- The machine has a next state. -/
def GoesOn (o : Host.Outcome State Fault Refusal) : Prop := ∃ t, o = .next t

theorem GoesOn.next (t : State) : GoesOn (.next t) := ⟨t, rfl⟩

theorem GoesOn.ite {p : Prop} [Decidable p] {a b : Host.Outcome State Fault Refusal} (ha : GoesOn a) (hb : GoesOn b) :
    GoesOn (if p then a else b) := by
  split
  · exact ha
  · exact hb

theorem GoesOn.settle {o : Host.Outcome State Fault Refusal} (h : GoesOn o) : GoesOn (settle o) := by
  obtain ⟨t, rfl⟩ := h
  exact .next _


/-! ### Instructions that look for what they act on -/

theorem goesOn_pmov (f : RForm) (s : State) : GoesOn (execPmov f s) := by
  unfold execPmov
  split
  · exact .next _
  · exact .next _

theorem goesOn_loadDataArrival (id : Nat) (s : State) : GoesOn (execLoadDataArrival id s) := by
  unfold execLoadDataArrival
  split
  · exact .next _
  · refine .ite (.next _) (.ite (.next _) ?_)
    split
    · exact .next _
    · exact .next _
    · exact .next _
    · exact .ite (.next _) (.next _)

theorem goesOn_longLatencyFill (id : Nat) (s : State) : GoesOn (execLongLatencyFill id s) := by
  unfold execLongLatencyFill
  split
  · exact .next _
  · exact .ite (.next _) (.next _)

theorem goesOn_storeAcknowledge (id : Nat) (s : State) : GoesOn (execStoreAcknowledge id s) := by
  unfold execStoreAcknowledge
  split
  case h_1 => exact .next _
  case h_2 r _ =>
    refine .ite (.next _) (.ite (.next _) (.ite (.next _) ?_))
    generalize r.kind = kind
    cases kind
    case atomic op ty ret => exact GoesOn.ite (.ite (.next _) (.next _)) (.ite (.next _) (.next _))
    all_goals exact GoesOn.next _

theorem goesOn_faultEvent (id : Nat) (s : State) : GoesOn (execFaultEvent id s) := by
  unfold execFaultEvent
  split
  · exact .next _
  · exact .next _

theorem goesOn_faultRecordDeferred (id : Nat) (s : State) : GoesOn (execFaultRecordDeferred id s) := by
  unfold execFaultRecordDeferred
  split
  · exact .next _
  · exact .next _

theorem goesOn_ceSlotAccept (b g : Nat) (s : State) : GoesOn (execCeSlotAccept b g s) := by
  refine .ite (.next _) ?_
  split
  · exact .next _
  · exact .next _

theorem goesOn_copySourceStart (id n : Nat) (s : State) : GoesOn (execCopySourceStart id n s) := by
  unfold execCopySourceStart
  split
  · exact .next _
  · exact .ite (.next _) (.ite (.next _) (.ite (.next _) (.next _)))

theorem goesOn_copyComplete (id : Nat) (s : State) : GoesOn (execCopyComplete id s) := by
  unfold execCopyComplete
  split
  · exact .next _
  · exact .ite (.next _) (.next _)

theorem goesOn_boCountUpdate (id : Nat) (s : State) : GoesOn (execBoCountUpdate id s) := by
  unfold execBoCountUpdate
  split
  · exact .next _
  · dsimp only
    split
    · split
      · exact .next _
      · exact .ite (.next _) (.ite (.next _) (.next _))
    · exact .next _

theorem goesOn_remoteTimeoutExpiry (tag : Nat) (s : State) : GoesOn (execRemoteTimeoutExpiry tag s) := by
  unfold execRemoteTimeoutExpiry
  split
  · exact .next _
  · exact .ite (.next _) (.next _)

theorem goesOn_collCompletion (id : Nat) (s : State) : GoesOn (execCollCompletion id s) := by
  unfold execCollCompletion
  split
  · exact .next _
  · exact .ite (.next _) (.ite (.next _) (.next _))

theorem goesOn_blockEnd (b : Nat) (s : State) : GoesOn (execBlockEnd b s) := by
  unfold execBlockEnd
  split
  · exact .next _
  · exact .next _

theorem goesOn_continuationRecordArrival (id : Nat) (s : State) : GoesOn (execContinuationRecordArrival id s) := by
  unfold execContinuationRecordArrival
  split
  · exact .next _
  · refine .ite (.next _) ?_
    dsimp only
    split
    · exact .next _
    · exact .next _

theorem goesOn_binFlushTimeout (id : Nat) (s : State) : GoesOn (execBinFlushTimeout id s) := by
  unfold execBinFlushTimeout
  split
  · exact .next _
  · exact .next _

theorem goesOn_masterRelease (kind index : Nat) (s : State) : GoesOn (execMasterRelease kind index s) := by
  unfold execMasterRelease
  split
  · exact .next _
  · exact .next _

theorem goesOn_waitmemRecheck (s : State) : GoesOn (execWaitmemRecheck s) := by
  unfold execWaitmemRecheck
  split
  · exact .next _
  · exact .next _

/-- Of the instructions, those above look for what they act on; the meaning of any other one is a next state. -/
theorem goesOn_exec (e : Instr) (s : State) : GoesOn (exec e s) := by
  cases e
  case pmov f => exact goesOn_pmov f s
  case loadDataArrival id => exact goesOn_loadDataArrival id s
  case longLatencyFill id => exact goesOn_longLatencyFill id s
  case storeAcknowledge id => exact goesOn_storeAcknowledge id s
  case faultEvent id => exact goesOn_faultEvent id s
  case faultRecordDeferred id => exact goesOn_faultRecordDeferred id s
  case ceSlotAccept b g => exact goesOn_ceSlotAccept b g s
  case copySourceStart id n => exact goesOn_copySourceStart id n s
  case copyComplete id => exact goesOn_copyComplete id s
  case boCountUpdate id => exact goesOn_boCountUpdate id s
  case remoteTimeoutExpiry tag => exact goesOn_remoteTimeoutExpiry tag s
  case collCompletion id => exact goesOn_collCompletion id s
  case scaleOutResendTimeout peer => exact GoesOn.ite (.next _) (.next _)
  case blockEnd b => exact goesOn_blockEnd b s
  case continuationRecordArrival id => exact goesOn_continuationRecordArrival id s
  case binFlushTimeout id => exact goesOn_binFlushTimeout id s
  case flitReceive n f idle ask => exact GoesOn.ite (.next _) (.ite (.next _) (.ite (.next _) (.ite (.next _) (.next _))))
  case masterRelease kind index => exact goesOn_masterRelease kind index s
  case waitmemRecheck => exact goesOn_waitmemRecheck s
  all_goals exact ⟨_, rfl⟩

/-! ### Turns -/

theorem goesOn_execFor (s : State) (a : Agent) (e : Instr) : GoesOn (s.execFor a e) := (goesOn_exec e _).settle

theorem goesOn_issue (s : State) (b g : Nat) (p : Path) : GoesOn (s.issue b g p) := by
  unfold State.issue
  split
  · exact goesOn_execFor ..
  · split
    · exact goesOn_execFor ..
    · exact .next _
    · exact .next _

theorem goesOn_groupTurn (s : State) (b g : Nat) : GoesOn (s.groupTurn b g) := by
  unfold State.groupTurn
  refine .ite (.next _) ?_
  split
  · refine .ite (.next _) ?_
    split
    · exact goesOn_execFor ..
    · exact goesOn_issue ..
  · refine .ite (.next _) (.ite (.next _) (.ite (.next _) ?_))
    split
    · exact .next _
    · exact goesOn_issue ..

theorem goesOn_msqTurn (s : State) (b : Nat) : GoesOn (s.msqTurn b) := by
  unfold State.msqTurn
  refine .ite (.next _) ?_
  split
  · exact goesOn_execFor ..
  · exact (GoesOn.next _).settle

theorem goesOn_engineTurn (s : State) (stack be c : Nat) : GoesOn (s.engineTurn stack be c) := by
  unfold State.engineTurn
  dsimp only
  split
  · exact .next _
  · exact .ite (.next _) (.ite (.next _) (goesOn_execFor ..))

theorem goesOn_queueTurn (s : State) (slot : Nat) : GoesOn (s.queueTurn slot) := by
  unfold State.queueTurn
  refine .ite (.next _) ?_
  split
  · exact goesOn_execFor ..
  · split
    · exact goesOn_execFor ..
    · exact .next _

theorem goesOn_serveQueue (s : State) (slot : Nat) : GoesOn (s.serveQueue slot) := by
  unfold State.serveQueue
  split
  · exact goesOn_execFor ..
  · exact goesOn_queueTurn ..

theorem goesOn_commandTurn (s : State) (cc : Nat) : GoesOn (s.commandTurn cc) := by
  unfold State.commandTurn
  refine .ite (.next _) ?_
  split
  · exact .next _
  · exact .ite (goesOn_serveQueue ..) (.next _)
  · exact .ite (goesOn_serveQueue ..) (.next _)
  · split
    · exact goesOn_execFor ..
    · exact .ite (goesOn_execFor ..) (.next _)
  · exact goesOn_execFor ..

theorem goesOn_takeTurn (s : State) (t : Turn) : GoesOn (s.takeTurn t) := by
  cases t with
  | group b g => exact goesOn_groupTurn s b g
  | msq b => exact goesOn_msqTurn s b
  | engine st be c => exact goesOn_engineTurn s st be c
  | queue slot => exact goesOn_queueTurn s slot
  | command cc => exact goesOn_commandTurn s cc
  | noted slot => exact .next _
  | arrive b => exact .next _
  | port n e => exact goesOn_execFor ..
  | partition p e => exact goesOn_execFor ..
  | recheck slot => exact goesOn_execFor ..
  | event e => exact goesOn_execFor ..

theorem goesOn_step (s : State) : GoesOn (step s) := by
  unfold step
  split
  · exact .ite (.next _) (goesOn_takeTurn ..)
  · exact .ite (.next _) (.ite (goesOn_takeTurn ..) (.next _))

/-- Settles O59: by the instruction, and by the turn that a step takes. -/
theorem everyStepGoesOn : Obligations.EveryStepGoesOn := ⟨goesOn_exec, goesOn_step⟩

end Sys2Proof.Machine
end


section
/-! SUPPORT. The words of the spec and the state after reset (O57, O58). -/

namespace Sys2Proof.Machine

/-- Settles O57: the decoders run on the words. -/
theorem specWordsDecode : Obligations.SpecWordsDecode := by
  unfold Obligations.SpecWordsDecode
  refine ⟨rfl, rfl, rfl, rfl, rfl, rfl, rfl, rfl, rfl, rfl, rfl, rfl, rfl, rfl, rfl, rfl, rfl, rfl, rfl, rfl, rfl, rfl⟩

/-- Of one partition listed, only number 0 reads as valid. -/
theorem valid_partition_reset (p : Nat) : (State.reset.partition p).valid = (p == 0) := by
  cases p with
  | zero => rfl
  | succ n => rfl

theorem core_reset (c : Nat) : State.reset.core c = {} := rfl

/-- The fields of corecap at reset (R349). -/
theorem capacity_reset (c : Nat) : (State.reset.core c).me = true ∧ (State.reset.core c).trk = 32 ∧ (State.reset.core c).gs = 64 ∧
    (State.reset.core c).shm = 96 ∧ (State.reset.core c).reg = 128 := by
  rw [core_reset]
  decide

/-- An entry that is not listed is not valid. -/
theorem slotEntry_reset (die n : Nat) : State.reset.slotEntry die n = none := by
  have hunlisted : Table.get 0 State.reset.slotTable (64 * die + n) = 0 := rfl
  rw [State.slotEntry, hunlisted]
  exact if_neg (by decide)

/-- Settles O58: a register that nothing lists reads as its default. -/
theorem resetValues : Obligations.ResetValues := by
  unfold Obligations.ResetValues
  refine ⟨rfl, rfl, rfl, rfl, rfl, rfl, rfl, rfl, rfl, capacity_reset, fun n => ⟨rfl, rfl, rfl, rfl⟩,
    fun p off => ⟨rfl, rfl, rfl, rfl, rfl⟩, valid_partition_reset, rfl, rfl, rfl, fun die p hp => ⟨?_, rfl⟩, fun die n => ⟨rfl, slotEntry_reset die n⟩,
    fun k => ⟨rfl, rfl, rfl, rfl⟩, fun ctx v => rfl, fun n => ⟨rfl, rfl⟩, rfl, rfl⟩
  change l2wmReset (8 * die + p) = _
  rw [l2wmReset, Nat.mul_add_mod, Nat.mod_eq_of_lt hp]
  simp only [beq_iff_eq]

end Sys2Proof.Machine
end


section
/-! SUPPORT. A step of a group executes the word its path stands on (O1). -/

namespace Sys2Proof.Machine

/-! ### Instructions of a word -/

/-- Whether an opcode is assigned does not depend on an extension; NOP takes none. -/
theorem epaelInstr_none_isSome {w x : W32} : (epaelInstr w (some x)).isSome = true → (epaelInstr w none).isSome = true := by
  unfold epaelInstr
  split
  case h_149 => simp
  all_goals exact id

theorem judge_inv {op : Nat} {i : Option Instr} {e : Instr} (h : judge op i = .ok e) : i = some e := by
  unfold judge at h
  cases i with
  | none => cases h
  | some i =>
    dsimp only at h
    split at h
    · cases h; rfl
    · cases h

/-- What decodes has the instruction of its word, with its extension where it has one. -/
theorem epaelInstr_of_decode {w x : W32} {e : Instr} (h : decodeEpael [w, x] = .ok (e, if hasExt w then [] else [x])) :
    epaelInstr w (if hasExt w then some x else none) = some e := by
  have judged : ∀ {o : Option Instr} {ws ws' : List W32}, (judge (epaelOp w) o).map (fun i => (i, ws)) = .ok (e, ws') → o = some e := by
    intro o ws ws' hmap
    cases hjudge : judge (epaelOp w) o with
    | error r => rw [hjudge] at hmap; cases hmap
    | ok i =>
      rw [hjudge] at hmap
      cases hmap
      exact judge_inv hjudge
  unfold decodeEpael at h
  cases hext : hasExt w with
  | true =>
    simp only [hext, if_true] at h
    exact judged h
  | false =>
    simp only [hext, Bool.false_eq_true, if_false] at h
    exact judged h

/-- A word that its clause accepts, and that ends it where it is a transfer, is its instruction. -/
theorem clauseInstr_of {cls : Nat} {last : Bool} {w : W32} {x : Option W32} {e : Instr} (haccepts : classAccepts cls w x = true)
    (hlast : isTransfer (epaelOp w) = true → last = true) (hinstr : epaelInstr w x = some e) : clauseInstr cls last w x = e := by
  have hplace : (isTransfer (epaelOp w) && !last) = false := by
    cases htransfer : isTransfer (epaelOp w) with
    | false => rfl
    | true => rw [hlast htransfer]; rfl
  rw [clauseInstr, haccepts, hplace, hinstr]
  rfl

/-! ### The word a path stands on -/

section
variable {u : State} {b g : Nat} {p : Path} {h : W32} (hlegal : (readHeader h).legal = true)
include hlegal

/-- The fetch stays a variable: the kernel would evaluate the walk in it. -/
theorem clauseWord_header_unfolded (fetch : State → Nat → Nat → Fetched) (hF : fetch = State.fetchWord)
    (T : State → Nat → Nat → W32 → W64 → NextWord) (hT : T = State.clauseWord) (hheader : fetch u (u.block b).ctx p.header.toNat = .word h)
    (hfirst : pcWidx p.tpc = 0) :
    T u b g p.mask p.tpc = .run (p.issue b g h 1 (h.setWidth 64) .nop) (.clauseHeader (readHeader h)) := by
  delta State.clauseWord at hT
  rw [← hF] at hT
  subst hT
  unfold Path.header at hheader
  unfold Path.issue Path.header
  have hstands : (pcWidx p.tpc == 0) = true := beq_iff_eq.mpr hfirst
  have hcount : pcWidx p.tpc ≤ (h.extractLsb' 28 4).toNat := hfirst ▸ Nat.zero_le _
  simp only [hheader, hlegal, hstands, hcount, if_true, decide_true, Bool.and_self]

section
variable {w x : W32} {e : Instr} {n : Nat} (hlater : pcWidx p.tpc ≠ 0) (hcount : pcWidx p.tpc ≤ (h.extractLsb' 28 4).toNat)
  (hn : n = (if hasExt w then 2 else 1)) (hroom : hasExt w = true → pcWidx p.tpc + 1 ≤ (h.extractLsb' 28 4).toNat)
  (hinstr : epaelInstr w (if hasExt w then some x else none) = some e)
  (haccepts : classAccepts (readHeader h).cls.toNat w (if hasExt w then some x else none) = true)
  (hlast : isTransfer (epaelOp w) = true → (h.extractLsb' 28 4).toNat < pcWidx p.tpc + n)
include hlater hcount hn hroom hinstr haccepts hlast

theorem clauseWord_word_unfolded (fetch : State → Nat → Nat → Fetched) (hF : fetch = State.fetchWord)
    (T : State → Nat → Nat → W32 → W64 → NextWord) (hT : T = State.clauseWord) (hheader : fetch u (u.block b).ctx p.header.toNat = .word h)
    (hword : fetch u (u.block b).ctx (pcAddr p.tpc).toNat = .word w)
    (hext : hasExt w = true → fetch u (u.block b).ctx ((pcAddr p.tpc).toNat + 4) = .word x) :
    T u b g p.mask p.tpc = .run (p.issue b g h n (if hasExt w then (x ++ w : BitVec 64) else w.setWidth 64) .nop) e := by
  delta State.clauseWord at hT
  rw [← hF] at hT
  subst hT hn
  unfold Path.header at hheader
  unfold Path.issue Path.header
  cases hlong : hasExt w with
  | true =>
    simp only [hlong, if_true] at hinstr haccepts hlast
    have hassigned : (epaelInstr w none).isNone = false := by
      rw [← Option.not_isSome, epaelInstr_none_isSome (by rw [hinstr]; rfl)]
      rfl
    have hclause : ∀ last, (isTransfer (epaelOp w) = true → last = true) → clauseInstr (readHeader h).cls.toNat last w (some x) = e :=
      fun last htransfer => clauseInstr_of haccepts htransfer hinstr
    simp only [hheader, hlegal, hword, hext hlong, hlong, hassigned, beq_false_of_ne hlater, hcount, Nat.not_lt.mpr hcount, Nat.not_lt.mpr (hroom hlong),
      decide_true, Bool.and_self, Bool.not_true, Bool.or_self, Bool.false_eq_true, if_false, if_true]
    exact congrArg (NextWord.run _) (hclause _ fun htransfer => decide_eq_true (hlast htransfer))
  | false =>
    simp only [hlong, Bool.false_eq_true, if_false] at hinstr haccepts hlast
    have hclause : ∀ last, (isTransfer (epaelOp w) = true → last = true) → clauseInstr (readHeader h).cls.toNat last w none = e :=
      fun last htransfer => clauseInstr_of haccepts htransfer hinstr
    simp only [hheader, hlegal, hword, hlong, beq_false_of_ne hlater, hcount, Nat.not_lt.mpr hcount,
      decide_true, Bool.and_self, Bool.not_true, Bool.not_false, Bool.true_or, Bool.false_eq_true, if_false, if_true]
    exact congrArg (NextWord.run _) (hclause _ fun htransfer => decide_eq_true (hlast htransfer))

end
end

/-- A path that stands in the body of no MCALL issues the word of its clause. -/
theorem nextWord_outside {u : State} {b g : Nat} {p : Path} {i : Issue} {e : Instr} (houtside : p.mac = false)
    (hword : u.clauseWord b g p.mask p.tpc = .run i e) : u.nextWord b g p = .run i e := by
  unfold State.nextWord
  rw [hword]
  simp only [houtside, Bool.not_false, if_true]

/-! ### The turn of a group -/

/-- The hand-out of tracks leaves `loads` of every group. -/
theorem loads_giveTracks (s : State) (core gk : Nat) : ((s.giveTracks core).group gk).loads = (s.group gk).loads := by
  have hands : ∀ (free : List Nat) (u : State), ((u.handTracks core free).group gk).loads = (u.group gk).loads := by
    intro free
    induction free with
    | nil => exact fun _ => rfl
    | cons n rest ih =>
      intro u
      unfold State.handTracks
      split
      · rfl
      · exact (ih _).trans (State.group_modGroup_of _ _ _ _ Group.loads fun _ => rfl)
  have notes : ((s.noteWaits core).group gk).loads = (s.group gk).loads := by
    unfold State.noteWaits
    refine foldl_keep _ (fun u => (u.group gk).loads) (fun u k => ?_) _ s
    dsimp only
    split
    · rfl
    · split
      · split
        · exact State.group_modGroup_of _ _ _ _ Group.loads fun _ => rfl
        · rfl
      · split
        · rfl
        · exact State.group_modGroup_of _ _ _ _ Group.loads fun _ => rfl
  unfold State.giveTracks
  exact (hands _ _).trans notes

/-- A group with a track, its records loaded and no pass under way, issues the path it chooses. -/
theorem groupTurn_chosen {v u : State} {b g : Nat} {p : Path} (hpresent : (Table.find v.groups (gkey b g)).isSome)
    (hgoing : (v.group (gkey b g)).ended = false) (hthawed : v.coreFrozen (v.block b).core = false) (hfresh : (v.group (gkey b g)).pass = none)
    (hplace : (v.block b).place = .resident) (hloaded : (v.group (gkey b g)).loads = [])
    (htrack : ((v.giveTracks (v.block b).core).group (gkey b g)).track.isSome)
    (hchosen : ((v.giveTracks (v.block b).core).expire (gkey b g)).choosePath (gkey b g) = some (u, p)) :
    v.groupTurn b g = u.issue b g p := by
  have hstarts : ((Table.find v.groups (gkey b g)).isNone || (v.group (gkey b g)).ended || v.coreFrozen (v.block b).core) = false := by
    rw [← Option.not_isSome, hpresent, hgoing, hthawed]; rfl
  have hstays : ((v.block b).place != Place.resident) = false := by rw [hplace]; rfl
  have htaken : ((v.giveTracks (v.block b).core).group (gkey b g)).track.isNone = false := by rw [← Option.not_isSome, htrack]; rfl
  have hready : ((!((v.giveTracks (v.block b).core).group (gkey b g)).loads.isEmpty) && (v.giveTracks (v.block b).core).hasRunnable (gkey b g)) = false := by
    rw [loads_giveTracks, hloaded]; rfl
  unfold State.groupTurn
  refine (if_neg (Bool.eq_false_iff.mp hstarts)).trans ?_
  rw [hfresh]
  refine (if_neg (Bool.eq_false_iff.mp hstays)).trans ((if_neg (Bool.eq_false_iff.mp htaken)).trans ((if_neg (Bool.eq_false_iff.mp hready)).trans ?_))
  rw [hchosen]

section
variable {s u : State} {rest : List Turn} {b g : Nat} {p : Path} (hissues : Issues s u rest b g p)
include hissues

theorem groupTurn_issues : State.groupTurn { s with agenda := rest } b g = u.issue b g p :=
  groupTurn_chosen (v := { s with agenda := rest }) hissues.present hissues.going hissues.thawed hissues.fresh hissues.place hissues.loaded
    hissues.track hissues.chosen

theorem step_issues : step s = u.issue b g p := by
  unfold step
  rw [hissues.head]
  have hlit : State.dark { s with agenda := rest } = false := hissues.awake
  refine (if_neg ?_).trans (groupTurn_issues hissues)
  rw [hlit]
  exact Bool.false_ne_true

/-- The path executes the instruction of the word it stands on. -/
theorem step_runs {h : W32} {n : Nat} {word : W64} {e : Instr} (hword : u.clauseWord b g p.mask p.tpc = .run (p.issue b g h n word .nop) e) :
    step s = settle (exec e { u with cur := .group (p.issue b g h n word e) }) := by
  rw [step_issues hissues, State.issue, hissues.begun]
  dsimp only
  rw [nextWord_outside hissues.outside hword]
  rfl

end

/-- Settles O1: the step of a group by what its path's clause word is. -/
theorem stepRunsGroupWord : Obligations.StepRunsGroupWord := by
  unfold Obligations.StepRunsGroupWord
  intro s u rest b g p h hissues hheader hlegal
  refine ⟨fun hfirst => ?_, fun n w x e hlater hcount hword hn hext hdecode haccepts hlast => ?_⟩
  · have hclause := clauseWord_header_unfolded (g := g) hlegal State.fetchWord rfl State.clauseWord rfl hheader hfirst
    exact step_runs hissues hclause
  · have hclause := clauseWord_word_unfolded (g := g) hlegal hlater hcount hn (fun hlong => (hext hlong).1) (epaelInstr_of_decode hdecode) haccepts hlast
      State.fetchWord rfl State.clauseWord rfl hheader hword (fun hlong => (hext hlong).2)
    exact step_runs hissues hclause

end Sys2Proof.Machine
end


section
/-! SUPPORT. A step of the other agents executes what they read (O2). -/

namespace Sys2Proof.Machine

/-- A step that the agenda names a turn for takes it, unless the device is dark and the turn not the safety core's. -/
theorem step_takes {s : State} {t : Turn} {rest : List Turn} (hagenda : s.agenda = t :: rest) (hawake : s.dark = false ∨ t.awake = true) :
    step s = State.takeTurn { s with agenda := rest } t := by
  unfold step
  rw [hagenda]
  refine if_neg ?_
  have hsame : State.dark { s with agenda := rest } = s.dark := rfl
  rw [hsame]
  obtain hlit | hturn := hawake
  · rw [hlit]; exact Bool.false_ne_true
  · rw [hturn, Bool.not_true, Bool.and_false]; exact Bool.false_ne_true

/-! ### The sequencer -/

/-- A word that stands in memory; the read stays a variable: the kernel would evaluate the walk in it. -/
theorem streamWord_unfolded (read : State → Nat → Nat → Nat → Nat → Except Stop Nat) (hR : read = State.msqRead)
    (T : State → Nat → Except Stop Instr) (hT : T = State.streamWord) {v : State} {b x : Nat} {e : Instr} (hjob : (v.block b).msq.job = none)
    (hfetched : (v.block b).msq.fetched = none) (haligned : (v.block b).msq.mpc.toNat % 8 = 0)
    (hread : read v b (v.block b).msq.mpc.toNat 8 0 = .ok x) (hdecode : decodeMatrix (BitVec.ofNat 64 x) = .ok e) : T v b = .ok e := by
  delta State.streamWord at hT
  rw [← hR] at hT
  subst hT
  simp only [hjob, hfetched, haligned, hread, hdecode, bne_self_eq_false, Bool.false_eq_true, if_false]

theorem msqTurn_runs {v : State} {b : Nat} {e : Instr} (hstate : (v.block b).msq.state = .running) (hplace : (v.block b).place = .resident)
    (hthawed : v.coreFrozen (v.block b).core = false) (hword : v.streamWord b = .ok e) : v.msqTurn b = v.execFor (.msq b) e := by
  have hstarts : ((v.block b).msq.state != .running || (v.block b).place != .resident || v.coreFrozen (v.block b).core) = false := by
    rw [hstate, hplace, hthawed]; rfl
  unfold State.msqTurn
  refine (if_neg (Bool.eq_false_iff.mp hstarts)).trans ?_
  rw [hword]

/-! ### The bank engines -/

theorem burrowWord_of {v : State} {key : Nat} {x : BeCtx} {w : W32} {e : Instr} (hengine : Table.find v.engines key = some x)
    (hword : (v.imageOf key x)[x.upc]? = some w) (hdecode : decodeBurrow w = .ok e) : v.burrowWord key = e := by
  have hread : v.engine key = x := by rw [State.engine, Table.get, hengine]; rfl
  unfold State.burrowWord
  simp only [hread, hword, hdecode]

theorem engineTurn_runs {v : State} {st be c : Nat} {x : BeCtx} (hengine : Table.find v.engines (beKey st be c) = some x)
    (hturn : v.beTurn (beEngine (beKey st be c)) = some c)
    (hthawed : v.frozenMasters.any (fun m => m.1 == 2 && m.2.1 == beEngine (beKey st be c)) = false)
    (hserved : v.foreignEngine (beEngine (beKey st be c)) (v.beContext x) = false) :
    v.engineTurn st be c =
      State.execFor { v with beLast := Table.put v.beLast (beEngine (beKey st be c)) c } (.engine st be c) (v.burrowWord (beKey st be c)) := by
  unfold State.engineTurn
  simp only [hengine, hturn, hthawed, hserved, bne_self_eq_false, Bool.or_self, Bool.false_eq_true, if_false]

/-! ### The queues -/

/-- The first of the words a queue reads, by itself. -/
theorem queueWords_one {v : State} {slot : Nat} {va : Nat → Nat} {k : Nat} {h : W32} {ws : List W32}
    (hread : v.queueWords slot va (k + 1) = .ok (h :: ws)) :
    v.queueWords slot va 1 = .ok [h] ∧ v.queueWords slot (fun j => va (j + 1)) k = .ok ws := by
  rw [State.queueWords] at hread
  cases hreach : v.queueReach slot (va 0) 4 Need.read with
  | gone u => rw [hreach] at hread; cases hread
  | ok sp a =>
    rw [hreach] at hread
    dsimp only at hread
    cases hrest : v.queueWords slot (fun j => va (j + 1)) k with
    | error u => rw [hrest] at hread; cases hread
    | ok us =>
      rw [hrest] at hread
      injection hread with hlist
      obtain ⟨hfirst, rfl⟩ := List.cons.inj hlist
      subst hfirst
      exact ⟨by simp only [State.queueWords, hreach], rfl⟩

/-- Whether a packet's type is known does not depend on its words. -/
theorem packetInstr_isNone (h : W32) (ws us : List W32) : (packetInstr h ws).isNone = (packetInstr h us).isNone := by
  unfold packetInstr
  split
  all_goals rfl

theorem packetInstr_of_decode {h : W32} {ws : List W32} {e : Instr} (hlength : ws.length = packetCount h) (hdecode : decodePacket (h :: ws) = .ok (e, [])) :
    packetInstr h ws = some e := by
  unfold decodePacket at hdecode
  simp only [← hlength, List.take_length, Nat.lt_irrefl, if_false] at hdecode
  cases hinstr : packetInstr h ws with
  | none => rw [hinstr] at hdecode; cases hdecode
  | some i =>
    rw [hinstr] at hdecode
    injection hdecode with hpair
    exact congrArg some (Prod.mk.inj hpair).1

section
variable {v : State} {slot : Nat} {h : W32} {ws : List W32} {e : Instr} (hframes : (v.queue slot).frames = [])
  (hwritten : packetCount h + 1 ≤ ((v.queue slot).tail - (v.queue slot).head) / 4) (hlength : ws.length = packetCount h)
  (hdecode : decodePacket (h :: ws) = .ok (e, []))
include hframes hwritten hlength hdecode

/-- The packet at the head of a ring; the reads stay a variable, as above. -/
theorem nextPacket_unfolded (read : State → Nat → (Nat → Nat) → Nat → Except State (List W32))
    (hR : read = State.queueWords) (T : State → Nat → Except State Instr) (hT : T = State.nextPacket)
    (hfirst : read v slot (fun j => (v.queue slot).base + ((v.queue slot).head + 4 * j) % 2 ^ (v.queue slot).n) 1 = .ok [h])
    (hrest : read v slot (fun j => (v.queue slot).base + ((v.queue slot).head + 4 * (j + 1)) % 2 ^ (v.queue slot).n) (packetCount h) = .ok ws) :
    T v slot = .ok e := by
  have hinstr := packetInstr_of_decode hlength hdecode
  have hknown : (packetInstr h []).isNone = false := by rw [packetInstr_isNone h [] ws, hinstr]; rfl
  have hleft : (((v.queue slot).tail - (v.queue slot).head) / 4 == 0) = false := beq_false_of_ne (by omega)
  delta State.nextPacket at hT
  rw [← hR] at hT
  subst hT
  simp only [hframes, hleft, hfirst, hrest, hknown, hinstr, List.headD_cons, Nat.not_lt.mpr hwritten, Bool.false_eq_true, if_false]

theorem nextPacket_of
    (hread : v.queueWords slot (fun j => (v.queue slot).base + ((v.queue slot).head + 4 * j) % 2 ^ (v.queue slot).n) (packetCount h + 1) = .ok (h :: ws)) :
    v.nextPacket slot = .ok e := by
  obtain ⟨hfirst, hrest⟩ := queueWords_one hread
  exact nextPacket_unfolded hframes hwritten hlength hdecode State.queueWords rfl State.nextPacket rfl hfirst hrest

end

section
variable {v : State} {slot : Nat} {e : Instr} (hstate : (v.queue slot).state = 1) (hfault : (v.queue slot).fault = none)
  (hheld : (v.queue slot).held = none) (hpacket : v.nextPacket slot = .ok e)
include hstate hfault hheld hpacket

theorem queueTurn_parses : v.queueTurn slot = v.execFor (.queue slot) e := by
  have hstarts : ((v.queue slot).state != 1 || (v.queue slot).fault.isSome) = false := by rw [hstate, hfault]; rfl
  unfold State.queueTurn
  refine (if_neg (Bool.eq_false_iff.mp hstarts)).trans ?_
  rw [hheld]
  dsimp only
  rw [hpacket]

theorem serveQueue_parses : v.serveQueue slot = v.execFor (.queue slot) e := by
  unfold State.serveQueue
  rw [hheld]
  exact queueTurn_parses hstate hfault hheld hpacket

theorem commandTurn_parses {cc : Nat} (hthawed : v.frozenMasters.any (fun m => m.1 == 4 && m.2.1 == cc) = false)
    (hevent : Table.find v.commanding cc = some (.queue slot)) (hmoves : v.queueMoves slot = true) :
    v.commandTurn cc = v.execFor (.queue slot) e := by
  unfold State.commandTurn
  refine (if_neg (Bool.eq_false_iff.mp hthawed)).trans ?_
  rw [hevent]
  exact (if_pos hmoves).trans (serveQueue_parses hstate hfault hheld hpacket)

end

/-- Settles O2: by the turn the agenda names. -/
theorem stepRunsOtherTurns : Obligations.StepRunsOtherTurns := by
  unfold Obligations.StepRunsOtherTurns
  refine ⟨fun s rest e hagenda hawake => step_takes hagenda hawake,
    ⟨fun s rest b x e hagenda hlit hstate hplace hthawed hjob hfetched haligned hread hdecode => ?_,
      fun s rest st be c x w e hagenda hlit hengine hturn hthawed hserved hword hdecode => ?_⟩,
    fun s rest slot h ws e hlit hserved hstate hfault hheld hframes hwritten hlength hread hdecode => ?_⟩
  · have hstream := streamWord_unfolded State.msqRead rfl State.streamWord rfl (v := { s with agenda := rest }) hjob hfetched haligned hread hdecode
    exact (step_takes hagenda (.inl hlit)).trans (msqTurn_runs (v := { s with agenda := rest }) hstate hplace hthawed hstream)
  · have hburrow := burrowWord_of (v := { s with agenda := rest }) hengine hword hdecode
    have hengineTurn := engineTurn_runs (v := { s with agenda := rest }) hengine hturn hthawed hserved
    rw [hburrow] at hengineTurn
    exact (step_takes hagenda (.inl hlit)).trans hengineTurn
  · have hpacket := nextPacket_of (v := { s with agenda := rest }) hframes hwritten hlength hdecode hread
    obtain hagenda | ⟨cc, hagenda, hthawed, hevent, hmoves⟩ := hserved
    · exact (step_takes hagenda (.inl hlit)).trans (queueTurn_parses (v := { s with agenda := rest }) hstate hfault hheld hpacket)
    · exact (step_takes hagenda (.inl hlit)).trans
        (commandTurn_parses (v := { s with agenda := rest }) hstate hfault hheld hpacket hthawed hevent hmoves)

end Sys2Proof.Machine
end
